-- ==== Sys2Proof/Word.lean ====
section
/-! DEFINITION. The word types of the Z4 and the shape of its sparse tables. -/

namespace Sys2Proof

abbrev Byte := BitVec 8
abbrev Word := BitVec 32
abbrev DWord := BitVec 64

/-- A set of the 32 threads of a warp (R9 `EXM`, R70 `%exm`). -/
abbrev Mask := BitVec 32

/-- A table by number that lists only the places which differ from what an unlisted place reads as.
Canonical form: keys strictly rising, no listed value equal to the unlisted one (Machine/Sparse.lean). -/
abbrev Sparse (α : Type) := List (Nat × α)

end Sys2Proof
end

