-- ==== Sys2Proof/Syntax.lean ====
section
/-! DEFINITION. The syntax of Sollan: operand kinds, operand records and the one inductive of all steps,
one constructor per row of spec/opcode_table.json (instructions first, then the steps of other agents). -/

namespace Sys2Proof

/-- R35: a register field names one of v0-v127. -/
abbrev RegNo := BitVec 7

/-- R47: the operand types, in the order of their TY codes. -/
inductive Ty where
  | i32 | n32 | i64 | n64 | f32 | f16 | bf16 | f64 | n43 | n52 | i16 | n16 | i8 | n8 | f16x2 | bf16x2
  deriving DecidableEq, Repr

/-- R46: rounding modes, in the order of their RM codes. -/
inductive Rm where
  | rn | rz | rd | ru
  deriving DecidableEq, Repr

/-- R48: compare conditions, in the order of their SUB codes. -/
inductive Cond where
  | eq | ne | lt | le | gt | ge | num | nan
  deriving DecidableEq, Repr

/-- R49, R237: scopes, in the order of their SC codes. -/
inductive Scope where
  | team | die | dev | sys
  deriving DecidableEq, Repr

/-- R49: orderings, in the order of their ORD codes. -/
inductive Ord where
  | rlx | acq | rel | ar
  deriving DecidableEq, Repr

/-- R49, R219: request types, in the order of their RT codes. -/
inductive Rt where
  | cb | wt | si | uc
  deriving DecidableEq, Repr

/-- R49: access widths, in the order of their W codes. -/
inductive Width where
  | b8 | b16 | b32 | b64 | b128
  deriving DecidableEq, Repr

/-- R340: barrier levels, in the order of their LVL codes. -/
inductive Level where
  | team | band | launch | job
  deriving DecidableEq, Repr

/-- R419: what a `tlbinv` drops. -/
inductive TlbKind where
  | all | asid | page
  deriving DecidableEq, Repr

/-- R292: collective kinds, in the order of their KIND codes. -/
inductive CollKind where
  | allReduce | allGather | reduceScatter | broadcast
  deriving DecidableEq, Repr

/-- R292: reduction operations, in the order of their OP codes. -/
inductive CollOp where
  | add | min | max
  deriving DecidableEq, Repr

/-- R33: what every instruction of 64, 96 or 128 bits has in common: region entry, switch marker and guard. -/
structure Pre where
  re : Bool := false
  sw : Bool := false
  g  : RegNo := 0
  gn : Bool := false
  deriving DecidableEq, Repr

/-- R40, R41: source B of the INT, FLT and WARP groups: a register (plain or uniform), an immediate,
or a constant-window reference. -/
inductive SrcB where
  | reg (r : RegNo) (u : Bool)
  | imm (x : Word)
  | const (window : BitVec 3) (offset : BitVec 17)
  deriving DecidableEq, Repr

/-- A number that the 64-bit form takes from a register and the 96-bit form from X. -/
inductive Num where
  | reg (r : RegNo)
  | imm (x : Word)
  deriving DecidableEq, Repr

/-- Operands of the INT, FLT and WARP groups (R46, R112, R125, R141). `sub` is the suboperation field,
read as a condition by compares (R48) and as a source type by conversions (R135). -/
structure Alu where
  p   : Pre := {}
  ty  : Ty := .i32
  sub : BitVec 4 := 0
  rm  : Rm := .rn
  sat : Bool := false
  pt  : Bool := false
  d   : RegNo := 0
  a   : RegNo := 0
  ua  : Bool := false
  b   : SrcB := .reg 0 false
  c   : RegNo := 0
  deriving DecidableEq, Repr

/-- Operands of the 64- and 96-bit MEM instructions (R49, R266). `x` is the displacement (or the timeout
of `mwait`) of the 96-bit form. -/
structure Mem where
  p    : Pre := {}
  w    : Width := .b8
  sx   : Bool := false
  rt   : Rt := .cb
  ord  : Ord := .rlx
  sc   : Scope := .team
  last : Bool := false
  d    : RegNo := 0
  a    : RegNo := 0
  ua   : Bool := false
  b    : RegNo := 0
  ub   : Bool := false
  c    : RegNo := 0
  x    : Option Word := none
  deriving DecidableEq, Repr

/-- R291: operands of `cpmm`. -/
structure Cpmm where
  p    : Pre := {}
  d    : RegNo := 0
  a    : RegNo := 0
  b    : RegNo := 0
  rt   : Rt := .cb
  sc   : Scope := .team
  last : Bool := false
  len  : Word := 0
  deriving DecidableEq, Repr

/-- R292: operands of `coll`. -/
structure Coll where
  p     : Pre := {}
  d     : RegNo := 0
  a     : RegNo := 0
  b     : RegNo := 0
  rt    : Rt := .cb
  sc    : Scope := .dev
  count : Word := 1
  root  : BitVec 13 := 0
  ty    : Ty := .i32
  op    : CollOp := .add
  kind  : CollKind := .allReduce
  group : BitVec 6 := 0
  deriving DecidableEq, Repr

/-- R158, R166, R168: operands of `cpin`, `cpout`, `gth` and `sct`; `d1` is the bias of the last two. -/
structure Copy where
  p    : Pre := {}
  d    : RegNo := 0
  a    : RegNo := 0
  b    : RegNo := 0
  edge : Bool := false
  rt   : Rt := .cb
  sc   : Scope := .team
  last : Bool := false
  d0   : Word := 0
  d1   : Word := 0
  deriving DecidableEq, Repr

/-- R352: operands of `ship`. -/
structure Ship where
  p     : Pre := {}
  d     : RegNo := 0
  a     : RegNo := 0
  ua    : Bool := false
  b     : RegNo := 0
  ub    : Bool := false
  c     : RegNo := 0
  token : Bool := false
  narg  : BitVec 4 := 0
  nres  : BitVec 3 := 0
  x     : Word := 0
  deriving DecidableEq, Repr

/-- Whose instruction or state a step is about: split `k` of warp `w` of team `t`, the handler image of
that warp (R403), or hardware thread `th` of latency core `lc` (R17). -/
inductive Who where
  | warp (t w k : Nat)
  | handler (t w : Nat)
  | lat (lc th : Nat)
  deriving DecidableEq, Repr

/-- R76: trap causes, and R75 `CAUSE` for the code. -/
inductive Cause where
  | illegal | length | crossing | privileged | coreKind | beyondCount | misaligned | translation | permission
  | atomicUo | dataError | engine | divergent | joinOverflow | nestedShip | overrun | invalidToken | tileState
  | vatSlot | speculation | float | divZero | breakpoint | watchpoint | singleStep | explicit
  deriving DecidableEq, Repr

/-- R53: why a fetched word is no instruction; the address of R55 follows from it. -/
inductive Reject where
  | crossing          -- the length runs past the fetch block
  | badFill           -- LEN = 11 with nonzero bits [31:2]
  | unlisted          -- OP not in the opcode map
  | undefinedForm     -- a length the entry does not define
  | reserved          -- reserved bit, odd pair, G = 0 with GN = 1, an operand value the entry refuses
  deriving DecidableEq, Repr

/-- R485: how an access fails after its split went on. -/
inductive Late where
  | dataError | lost | refused
  deriving DecidableEq, Repr

/-- How an engine operation goes on (R188, R189, R256, R471): to its end with the accesses that remain; by one access alone, of
which `n` says which; an access is lost or refused at `va`, as one of another device may be, or one of the fetch of a task's
accumulators; or that fetch meets a recoverable translation fault. -/
inductive Stop where
  | none
  | part (n : Nat)
  | lost (va : DWord)
  | fault (va : DWord) (cause level : Nat)
  deriving DecidableEq, Repr

/-- R295: what another member brings to a collective: its parameters agree or not, it is reachable, its element bytes. -/
structure CollPart where
  rank  : Nat
  alive : Bool
  agree : Bool
  bytes : List Byte
  deriving DecidableEq, Repr

/-- R454: a request that arrives from another device. -/
structure RemoteReq where
  src   : Nat
  tag   : Nat
  txn   : Nat
  pa    : Nat
  bytes : Nat
  write : Bool                -- TYPE 2
  mask  : BitVec 128 := 0     -- byte mask of the line, for a write
  data  : List Byte := []     -- the line's bytes, for a write
  atomic : Option (BitVec 4) := none
  isCas : Bool := false
  operand : DWord := 0
  compare : DWord := 0
  site  : DWord := 0
  seq   : Word := 0
  ord   : Ord := .rlx
  sc    : Scope := .sys
  rt    : Rt := .uc
  deriving DecidableEq, Repr

/-- R357: a shipped-section request. -/
structure ShipReq where
  entry : DWord
  dev   : Nat                 -- LOCK [52:40]
  pa    : Nat                 -- LOCK [39:0]
  token : Bool                -- MODE
  narg  : Nat
  ctx   : Nat
  asid  : Nat
  thread : Nat
  core  : Nat
  srcDev : Nat
  ret   : Word
  seq   : Word
  site  : DWord
  team  : Word
  lid   : Word
  args  : List Word
  jobTag : Nat                -- R436: the flits' TAG
  stage : Nat                 -- R348: the sender team's stage, for queue instructions
  launch : Nat                -- R348: the sender's launch
  key   : Nat                 -- the sender's team
  warp  : Nat
  deriving DecidableEq, Repr

/-- R366: a result record, with the sender it returns to. -/
structure ShipRes where
  status : Byte
  ret   : Word
  thread : Nat
  core  : Nat
  srcDev : Nat
  seq   : Word
  res   : List Word
  key   : Nat
  warp  : Nat
  home  : Nat                 -- R366: the latency core whose writes before `mark` come first
  mark  : Nat
  tag   : Nat := 0            -- R436: job tag of the request's flits
  deriving DecidableEq, Repr

/-- R461: the end-to-end and link fields of a flit. -/
structure Flit where
  payload : BitVec 256
  seq  : BitVec 12
  vc   : BitVec 4
  tag  : BitVec 16
  dst  : BitVec 13
  src  : BitVec 13
  pos  : BitVec 2
  type : BitVec 4
  av   : Bool
  nak  : Bool
  aseq : BitVec 12
  cvc  : BitVec 4
  ccnt : BitVec 6
  deriving DecidableEq, Repr

/-- R450: a host access through BAR2. -/
inductive HostAccess where
  | read (bytes : Nat)
  | write (data : List Byte)
  deriving DecidableEq, Repr

/-- R477, R478: how a start ends: every step done, or step 1-5 failed. -/
inductive StartOutcome where
  | good
  | failed (step : Nat)
  deriving DecidableEq, Repr

/-- Every step of the machine: the instructions of the opcode map R73 and the steps of its other agents
(spec/95_what_each_step_holds.md), one constructor per row of spec/opcode_table.json. A step without arguments
that is about a strand is about the strand in focus. -/
inductive Instr where
  /-- R113 `ADD` -/
  | add (o : Alu)
  /-- R115 `ADDC` -/
  | addc (o : Alu)
  /-- R113 `SUB` -/
  | sub (o : Alu)
  /-- R115 `SUBB` -/
  | subb (o : Alu)
  /-- R113 `MUL` -/
  | mul (o : Alu)
  /-- R114 `MULH` -/
  | mulh (o : Alu)
  /-- R114 `MULW` -/
  | mulw (o : Alu)
  /-- R113 `MAD` -/
  | mad (o : Alu)
  /-- R116 `DIV` -/
  | div (o : Alu)
  /-- R116 `REM` -/
  | rem (o : Alu)
  /-- R113 `NEG` -/
  | neg (o : Alu)
  /-- R113 `ABS` -/
  | abs (o : Alu)
  /-- R113 `MIN` -/
  | min (o : Alu)
  /-- R113 `MAX` -/
  | max (o : Alu)
  /-- R117 `AND` -/
  | and (o : Alu)
  /-- R117 `OR` -/
  | or (o : Alu)
  /-- R117 `XOR` -/
  | xor (o : Alu)
  /-- R117 `ANDN` -/
  | andn (o : Alu)
  /-- R117 `ORN` -/
  | orn (o : Alu)
  /-- R117 `NOT` -/
  | not (o : Alu)
  /-- R117 `SHL` -/
  | shl (o : Alu)
  /-- R117 `SHR` -/
  | shr (o : Alu)
  /-- R117 `SRA` -/
  | sra (o : Alu)
  /-- R117 `ROT` -/
  | rot (o : Alu)
  /-- R118 `CLZ` -/
  | clz (o : Alu)
  /-- R118 `CTZ` -/
  | ctz (o : Alu)
  /-- R118 `POPC` -/
  | popc (o : Alu)
  /-- R118 `BREV` -/
  | brev (o : Alu)
  /-- R118 `BFX` -/
  | bfx (o : Alu)
  /-- R118 `BFI` -/
  | bfi (o : Alu)
  /-- R119 `SEL` -/
  | sel (o : Alu)
  /-- R120 `CMP` -/
  | cmp (o : Alu)
  /-- R121 `LEA` -/
  | lea (o : Alu)
  /-- R113 `ADD64` -/
  | add64 (o : Alu)
  /-- R113 `SUB64` -/
  | sub64 (o : Alu)
  /-- R117 `SHL64` -/
  | shl64 (o : Alu)
  /-- R117 `SHR64` -/
  | shr64 (o : Alu)
  /-- R120 `CMP64` -/
  | cmp64 (o : Alu)
  /-- R122 `MOV` -/
  | mov (o : Alu)
  /-- R122 `MOVW` -/
  | movw (p : Pre) (d : RegNo) (imm : DWord)
  /-- R123 `LDC` -/
  | ldc (o : Alu)
  /-- R124 `SRD` -/
  | srd (p : Pre) (d : RegNo) (n : BitVec 12)
  /-- R124 `SWR` -/
  | swr (p : Pre) (a : RegNo) (ua : Bool) (n : BitVec 12)
  /-- R126 `FADD` -/
  | fadd (o : Alu)
  /-- R126 `FSUB` -/
  | fsub (o : Alu)
  /-- R126 `FMUL` -/
  | fmul (o : Alu)
  /-- R126 `FFMA` -/
  | ffma (o : Alu)
  /-- R127 `FMIN` -/
  | fmin (o : Alu)
  /-- R127 `FMAX` -/
  | fmax (o : Alu)
  /-- R128 `FABS` -/
  | fabs (o : Alu)
  /-- R128 `FNEG` -/
  | fneg (o : Alu)
  /-- R129 `FCMP` -/
  | fcmp (o : Alu)
  /-- R126 `FRCP` -/
  | frcp (o : Alu)
  /-- R130 `FRSQ` -/
  | frsq (o : Alu)
  /-- R126 `FSQRT` -/
  | fsqrt (o : Alu)
  /-- R126 `FDIV` -/
  | fdiv (o : Alu)
  /-- R130 `FEX2` -/
  | fex2 (o : Alu)
  /-- R130 `FLG2` -/
  | flg2 (o : Alu)
  /-- R130 `FSIN` -/
  | fsin (o : Alu)
  /-- R130 `FCOS` -/
  | fcos (o : Alu)
  /-- R130 `FTANH` -/
  | ftanh (o : Alu)
  /-- R131 `FCLASS` -/
  | fclass (o : Alu)
  /-- R132 `FRND` -/
  | frnd (o : Alu)
  /-- R133 `FSCALE` -/
  | fscale (o : Alu)
  /-- R134 `FDP2` -/
  | fdp2 (o : Alu)
  /-- R135 `CVT` -/
  | cvt (o : Alu)
  /-- R136 `CVTSR` -/
  | cvtsr (o : Alu)
  /-- R137 `QPK` -/
  | qpk (o : Alu)
  /-- R138 `QUPK` -/
  | qupk (o : Alu)
  /-- R142 `SHFL` -/
  | shfl (o : Alu)
  /-- R143 `VOTE` -/
  | vote (o : Alu)
  /-- R143 `BAL` -/
  | bal (o : Alu)
  /-- R144 `REDW` -/
  | redw (o : Alu)
  /-- R144 `SCANW` -/
  | scanw (o : Alu)
  /-- R145 `BCAST` -/
  | bcast (o : Alu)
  /-- R145 `MATCH` -/
  | matchw (o : Alu)
  /-- R336 `NOP` -/
  | nop (p : Pre)
  /-- R328 `BRA_UNIFORM` -/
  | braUniform (p : Pre) (x : Word)
  /-- R329 `BRA_DIVERGENT` -/
  | braDivergent (p : Pre) (x j : Word)
  /-- R328 `BRX` -/
  | brx (p : Pre) (a : RegNo) (ua : Bool)
  /-- R328 `CALL` -/
  | call (p : Pre) (x : Word)
  /-- R328 `CALX` -/
  | calx (p : Pre) (a : RegNo) (ua : Bool)
  /-- R330 `RET` -/
  | ret (p : Pre) (a : RegNo) (ua : Bool)
  /-- R316 `JOIN` -/
  | join (p : Pre)
  /-- R332 `EXIT` -/
  | exit (p : Pre)
  /-- R334 `TRAP` -/
  | trap (p : Pre) (code : Byte)
  /-- R335 `BRK` -/
  | brk (p : Pre) (tag : BitVec 7)
  /-- R337 `YIELD` -/
  | yieldw (p : Pre)
  /-- R338 `WAIT` -/
  | wait (p : Pre) (n : Num)
  /-- R339 `PROG` -/
  | prog (p : Pre) (n : Num)
  /-- R273 `LD` -/
  | ld (o : Mem)
  /-- R273 `ST` -/
  | st (o : Mem)
  /-- R274 `LDS` -/
  | lds (o : Mem)
  /-- R274 `STS` -/
  | sts (o : Mem)
  /-- R274 `LDR` -/
  | ldr (o : Mem)
  /-- R274 `STR` -/
  | str (o : Mem)
  /-- R276 `ATOM` -/
  | atom (o : Mem)
  /-- R276 `RED` -/
  | red (o : Mem)
  /-- R276 `CAS` -/
  | cas (o : Mem)
  /-- R278 `FENCE` -/
  | fence (o : Mem)
  /-- R280 `FLUSH` -/
  | flush (o : Mem)
  /-- R281 `INVAL` -/
  | inval (o : Mem)
  /-- R282 `DISCARD` -/
  | discard (o : Mem)
  /-- R283 `PREF` -/
  | pref (o : Mem)
  /-- R284 `ICINV` -/
  | icinv (o : Mem)
  /-- R285 `MON` -/
  | mon (o : Mem)
  /-- R286 `MWAIT` -/
  | mwait (o : Mem)
  /-- R288 `WCDRAIN` -/
  | wcdrain (o : Mem)
  /-- R290 `PDWAIT` -/
  | pdwait (o : Mem)
  /-- R289 `LNEXT` -/
  | lnext (o : Mem)
  /-- R291 `CPMM` -/
  | cpmm (o : Cpmm)
  /-- R293 `COLL` -/
  | coll (o : Coll)
  /-- R159 `TDSET` -/
  | tdset (p : Pre) (a b : RegNo)
  /-- R160 `TDGET` -/
  | tdget (p : Pre) (d b : RegNo)
  /-- R163 `TLSET` -/
  | tlset (p : Pre) (a : RegNo) (id : Num)
  /-- R164 `TLST` -/
  | tlst (p : Pre) (d b : RegNo)
  /-- R164 `TLWAIT` -/
  | tlwait (p : Pre) (d b : RegNo)
  /-- R165 `TLFREE` -/
  | tlfree (p : Pre) (b : RegNo)
  /-- R161 `VCLAIM` -/
  | vclaim (p : Pre) (d b : RegNo)
  /-- R162 `VREL` -/
  | vrel (p : Pre) (b : RegNo)
  /-- R166 `CPIN` -/
  | cpin (o : Copy)
  /-- R166 `CPOUT` -/
  | cpout (o : Copy)
  /-- R168 `GTH` -/
  | gth (o : Copy)
  /-- R168 `SCT` -/
  | sct (o : Copy)
  /-- R180 `OPFENCE` -/
  | opfence (p : Pre)
  /-- R173 `POST` -/
  | post (p : Pre) (d a : RegNo) (sc : Scope)
  /-- R184 `TKWAIT` -/
  | tkwait (p : Pre) (d a : RegNo) (n : BitVec 3)
  /-- R185 `TKTEST` -/
  | tktest (p : Pre) (d a : RegNo)
  /-- R186 `TKFREE` -/
  | tkfree (p : Pre) (a : RegNo)
  /-- R209 `FCSET` -/
  | fcset (p : Pre) (a : RegNo) (desc : Num)
  /-- R210 `FCPUB` -/
  | fcpub (p : Pre) (a b : RegNo)
  /-- R211 `FCSTAT` -/
  | fcstat (p : Pre) (d b : RegNo)
  /-- R342 `BARA` -/
  | bara (p : Pre) (d : RegNo) (id : Num) (lvl : Level) (rmask : Byte)
  /-- R343 `BARW` -/
  | barw (p : Pre) (d a : RegNo)
  /-- R343 `BARS` -/
  | bars (p : Pre) (d : RegNo) (id : Num) (lvl : Level) (rmask : Byte)
  /-- R347 `QPUSH` -/
  | qpush (p : Pre) (d a : RegNo) (q : BitVec 4) (spm nb : Bool)
  /-- R347 `QPOP` -/
  | qpop (p : Pre) (d a : RegNo) (q : BitVec 4) (spm nb : Bool)
  /-- R349 `RGIVE` -/
  | rgive (p : Pre) (n : Num)
  /-- R349 `RCLAIM` -/
  | rclaim (p : Pre) (d : RegNo) (n : Num) (nb : Bool)
  /-- R350 `SINT` -/
  | sint (p : Pre) (a : RegNo) (svc : Bool)
  /-- R354 `SHIP` -/
  | ship (o : Ship)
  /-- R421 `SRET` -/
  | sret (p : Pre) (a : RegNo)
  /-- R423 `TLBINV` -/
  | tlbinv (p : Pre) (k : TlbKind) (a : RegNo) (asid : Num)
  /-- R424 `REPLAY` -/
  | replay (p : Pre) (d a b : RegNo)
  /-- R426 `CTXKILL` -/
  | ctxkill (p : Pre) (a : RegNo)
  /-- R422 `XRD` -/
  | xrd (p : Pre) (d : RegNo) (c : BitVec 7) (st : Bool)
  /-- R422 `XWR` -/
  | xwr (p : Pre) (a : RegNo) (ua : Bool) (c : BitVec 7) (st : Bool)
  /-- R427 `LNCH` -/
  | lnch (p : Pre) (d a : RegNo)
  /-- R447 `GSAVE` -/
  | gsave (p : Pre) (d a : RegNo)
  /-- R447 `GREST` -/
  | grest (p : Pre) (d a : RegNo)
  /-- R428 `CNTRD` -/
  | cntrd (p : Pre) (d : RegNo) (n : Num) (ub : Bool)
  /-- R429 `TRIAL` -/
  | trial (p : Pre) (a : RegNo) (ctx : Option Num)
  /-- R430 `WFI` -/
  | wfi (p : Pre) (d b : RegNo)
  /-- R485 `LATE_ACCESS_FAILURE` -/
  | lateAccessFailure (k : Nat) (why : Late)
  /-- R417 `HELD_FAULT_WRITE` -/
  | heldFaultWrite (die : Nat)
  /-- R302 `LAUNCH_ACCEPT` -/
  | launchAccept (ctx : Nat)
  /-- R307 `TEAM_PLACEMENT` -/
  | teamPlacement (die ctx : Nat)
  /-- R309 `SCRATCHPAD_BLOCK_CONVERSION` -/
  | scratchpadBlockConversion (core blocks : Nat)
  /-- R306 `STEAL_MESSAGE` -/
  | stealMessage (thief : Nat)
  /-- R310 `STAGE_REVIEW` -/
  | stageReview (die : Nat)
  /-- R312 `CONTEXT_TURN` -/
  | contextTurn (die : Nat)
  /-- R323 `FREQUENCY_STEP` -/
  | frequencyStep (core : Nat) (up : Bool)
  /-- R167 `COPY_COMPLETE` -/
  | copyComplete (key : Nat) (stop : Stop)
  /-- R174 `TASK_ISSUE` -/
  | taskIssue (core : Nat)
  /-- R175 `TASK_COMPLETE` -/
  | taskComplete (key : Nat) (stop : Stop)
  /-- R291 `CPMM_COMPLETE` -/
  | cpmmComplete (key : Nat) (stop : Stop)
  /-- R295 `COLLECTIVE_COMPLETE` -/
  | collectiveComplete (key : Nat) (stop : Stop) (peers : List CollPart)
  /-- R195 `FORECAST_PREDICTION` -/
  | forecastPrediction (check : Nat) (stop : Stop)
  /-- R210 `FORECAST_CAPTURE` -/
  | forecastCapture (hist : Nat) (stop : Stop)
  /-- R198 `TCE_CHECK` -/
  | tceCheck (check : Nat)
  /-- R225 `HOME_WRITE_REQUEST` -/
  | homeWriteRequest (k : Nat)
  /-- R225 `INVALIDATION_ACK` -/
  | invalidationAck (k : Nat)
  /-- R225 `HOME_READ` -/
  | homeRead (k : Nat)
  /-- R226 `INVALIDATION` -/
  | invalidation (k : Nat) (cache : Nat)
  /-- R228 `SHARER_TIMEOUT` -/
  | sharerTimeout (k : Nat)
  /-- R234 `WCB_AGEING` -/
  | wcbAgeing (core : Nat)
  /-- R234 `WRITE_ACKNOWLEDGEMENT` -/
  | writeAcknowledgement (txn : Nat)
  /-- R454 `REMOTE_REQUEST` -/
  | remoteRequest (r : RemoteReq)
  /-- R358 `SHIP_REQUEST` -/
  | shipRequest (r : ShipReq)
  /-- R359 `SECTION_START` -/
  | sectionStart (lc : Nat)
  /-- R365 `SECTION_OVERRUN` -/
  | sectionOverrun (lc : Nat)
  /-- R368 `SHIP_RESULT` -/
  | shipResult (r : ShipRes)
  /-- R345 `JOB_BARRIER_ARRIVAL` -/
  | jobBarrierArrival (ctx id phase device : Nat)
  /-- R345 `JOB_BARRIER_RELEASE` -/
  | jobBarrierRelease (ctx id phase status : Nat)
  /-- R439 `STOP_MESSAGE` -/
  | stopMessage (tag serial conductor : Nat)
  /-- R439 `GANG_CLOSE` -/
  | gangClose (tag : Nat)
  /-- R439 `SWEEP_MARKER` -/
  | sweepMarker (port vc tag serial : Nat)
  /-- R439 `SWEPT` -/
  | swept (tag serial device : Nat)
  /-- R445 `GANG_SWITCH_TIMEOUT` -/
  | gangSwitchTimeout (tag : Nat)
  /-- R442 `LATE_FLIT` -/
  | lateFlit (port vc : Nat) (flit : Flit)
  /-- R443 `RESTORE_MESSAGE` -/
  | restoreMessage (tag serial conductor : Nat)
  /-- R443 `RESTORED` -/
  | restored (tag serial device : Nat)
  /-- R443 `RESTORE_TIMEOUT` -/
  | restoreTimeout (tag : Nat)
  /-- R443 `GO` -/
  | go (tag serial : Nat)
  /-- R443 `STAY` -/
  | stay (tag serial : Nat)
  /-- R443 `REINJECT_END` -/
  | reinjectEnd (tag : Nat)
  /-- R443 `RUNNING` -/
  | running (tag serial device : Nat)
  /-- R437 `JOB_ADMIT` -/
  | jobAdmit (entry : Nat)
  /-- R437 `JOB_FREE` -/
  | jobFree (entry : Nat)
  /-- R464 `FLIT_RECEIVE` -/
  | flitReceive (port : Nat) (bits : BitVec 384)
  /-- R464 `NAK` -/
  | nak (port seq : Nat)
  /-- R464 `LINK_REPLAY_TIMEOUT` -/
  | linkReplayTimeout (port : Nat)
  /-- R465 `CHANNEL_DIP` -/
  | channelDip (port channel : Nat)
  /-- R465 `CHANNEL_LOSS_DECISION` -/
  | channelLossDecision (port channel : Nat) (lost : Bool)
  /-- R467 `STRIPE` -/
  | stripe (port : Nat) (rxmap epoch seq : Nat)
  /-- R468 `CHANNEL_RESTORE` -/
  | channelRestore (port channel : Nat)
  /-- R468 `STRIPE_TIMEOUT` -/
  | stripeTimeout (port : Nat)
  /-- R456 `PORT_TRAIN` -/
  | portTrain (port : Nat) (ok : Bool) (peer peerPort : Nat)
  /-- R456 `KEY_REFRESH` -/
  | keyRefresh (port : Nat) (transmit : Bool)
  /-- R463 `ROUTE_UPDATE` -/
  | routeUpdate (device port : Nat) (live : Bool)
  /-- R470 `LOSS_NOTICE` -/
  | lossNotice (txn : Nat)
  /-- R470 `REQUEST_TIMEOUT` -/
  | requestTimeout (txn : Nat)
  /-- R472 `DEVICE_UNREACHABLE` -/
  | deviceUnreachable (device : Nat)
  /-- R472 `DEVICE_REACHABLE` -/
  | deviceReachable (device : Nat)
  /-- R473 `LASER_FAULT` -/
  | laserFault (source : Nat)
  /-- R481 `LASER_REMOVED` -/
  | laserRemoved (source : Nat)
  /-- R473 `LASER_RETURN` -/
  | laserReturn (source : Nat)
  /-- R474 `PORT_DISABLE` -/
  | portDisable (port : Nat)
  /-- R474 `PORT_ENABLE` -/
  | portEnable (port : Nat)
  /-- R391 `CONTEXT_CREATE` -/
  | contextCreate (ctx : Nat)
  /-- R391 `CONTEXT_TABLE_CLEAR` -/
  | contextTableClear (ctx : Nat)
  /-- R452 `LAUNCH_DOORBELL` -/
  | launchDoorbell (ctx : Nat)
  /-- R450 `HOST_BAR2_ACCESS` -/
  | hostBar2Access (address : Nat) (access : HostAccess)
  /-- R479 `REPLACE_FIRMWARE` -/
  | replaceFirmware (image : List Byte)
  /-- R477 `WARM_START` -/
  | warmStart (outcome : StartOutcome)
  /-- R477 `COLD_START` -/
  | coldStart (outcome : StartOutcome)
  /-- R478 `START_RETRY` -/
  | startRetry (outcome : StartOutcome)
  /-- R480 `CHANNEL_SPARE` -/
  | channelSpare (stack channel : Nat)
  /-- R480 `SPARE_COPY_END` -/
  | spareCopyEnd (stack : Nat)
  /-- R449 `REGISTER_WRITE` -/
  | registerWrite (offset bytes : Nat) (value : DWord)
  /-- R380 `PC_COMPARATOR_HIT` -/
  | pcComparatorHit (w : Who) (comparator : Nat)
  /-- R385 `DEBUG_SPLIT_DETACH` -/
  | debugSplitDetach (w : Who) (thread : Nat)
  /-- R385 `DEBUG_SPLIT_REATTACH` -/
  | debugSplitReattach (w : Who) (into : Nat)
  /-- R333 `ZOU_KILL` -/
  | zouKill (w : Who) (threads : Mask)
  /-- R386 `PC_SAMPLE` -/
  | pcSample (core : Nat)
  /-- R387 `TRIAL_END` -/
  | trialEnd (ctx : Nat)
  /-- R20 `DIE_TO_DIE_LINK_FAILURE` -/
  | dieToDieLinkFailure (a b : Nat)
  /-- R418 `HELD_SERVICE_EVENT_WRITE` -/
  | heldServiceEventWrite (die : Nat)
  /-- R468 `CHANNEL_SIGNAL_RETURN` -/
  | channelSignalReturn (port channel : Nat)
  /-- R32 `FILL_WORD` -/
  | fillWord
  /-- R321 `RESULT_RETURN` -/
  | resultReturn
  /-- R322 `SPLIT_WAKE` -/
  | splitWake
  /-- R287 `COARSE_MONITOR_FIRE` -/
  | coarseMonitorFire
  /-- R286 `MWAIT_TIMEOUT` -/
  | mwaitTimeout
  /-- R338 `WAIT_EXPIRY` -/
  | waitExpiry
  /-- R430 `WFI_TIMEOUT` -/
  | wfiTimeout
  /-- R453 `HOST_EVENT_WRITE` -/
  | hostEventWrite
  /-- R450 `FILAIR_RETRAIN` -/
  | filairRetrain
  /-- R449 `GANG_SAVE` -/
  | gangSave
  /-- R449 `GANG_RESTORE` -/
  | gangRestore
  /-- R458 `ATTEST` -/
  | attest
  /-- R481 `FENCE_DIE` -/
  | fenceDie
  /-- R384 `ZOU_STEP` -/
  | zouStep
  /-- R382 `ZOU_RESUME` -/
  | zouResume
  /-- R387 `DELAY_EXCHANGE` -/
  | delayExchange
  /-- R314 `INSTRUCTION_FETCH` -/
  | instructionFetch
  /-- R53 `NOT_AN_INSTRUCTION` -/
  | notAnInstruction
  /-- R308 `POWER_ON` -/
  | powerOn
  /-- R451 `FILAIR_DOWN` -/
  | filairDown
  /-- R451 `FILAIR_RETURN` -/
  | filairReturn
  deriving DecidableEq, Repr

end Sys2Proof
end

