-- ==== Sys2Proof/Machine/Formats.lean ====
section
/-! DEFINITION. Number formats: what codes mean and how an exact result becomes a code with its flags
(R78 to R97). -/

namespace Sys2Proof.Machine

/-- R106: flags as bits: 1 invalid, 2 divide by zero, 4 overflow, 8 underflow, 16 inexact. -/
abbrev Flags := BitVec 5

def fInvalid : Flags := 1
def fDivZero : Flags := 2
def fOverflow : Flags := 4
def fUnderflow : Flags := 8
def fInexact : Flags := 16

/-- An IEEE format by its exponent and fraction bits (R80, R81). -/
structure Ieee where
  ebits : Nat
  fbits : Nat
  deriving DecidableEq, Repr

def f32 : Ieee := { ebits := 8, fbits := 23 }
def f16 : Ieee := { ebits := 5, fbits := 10 }
def bf16 : Ieee := { ebits := 8, fbits := 7 }
def f64 : Ieee := { ebits := 11, fbits := 52 }

namespace Ieee

def bias (f : Ieee) : Nat := 2 ^ (f.ebits - 1) - 1
/-- The code of +∞. -/
def infCode (f : Ieee) : Nat := (2 ^ f.ebits - 1) * 2 ^ f.fbits
def signBit (f : Ieee) : Nat := 2 ^ (f.ebits + f.fbits)
/-- R81: the default NaN. -/
def nanCode (f : Ieee) : Nat := f.infCode + 2 ^ (f.fbits - 1)
/-- Exponent of the smallest normal. -/
def emin (f : Ieee) : Int := 1 - (f.bias : Int)

end Ieee

/-- The value of a code: (−1)^neg · m · 2^e where it is finite. -/
inductive Fp where
  | nan (signalling : Bool)
  | inf (neg : Bool)
  | fin (neg : Bool) (m : Nat) (e : Int)
  deriving DecidableEq, Repr

/-- R80, R82: the value of an IEEE code. -/
def Ieee.value (f : Ieee) (c : Nat) : Fp :=
  let neg := c / f.signBit % 2 = 1
  let e := c / 2 ^ f.fbits % 2 ^ f.ebits
  let m := c % 2 ^ f.fbits
  if e = 2 ^ f.ebits - 1 then
    if m = 0 then .inf neg else .nan (m < 2 ^ (f.fbits - 1))
  else if e = 0 then .fin neg m (f.emin - f.fbits)
  else .fin neg (2 ^ f.fbits + m) (f.emin - f.fbits + (e - 1 : Nat))

/-- A nonzero real: |x| = m · 2^e, or between that and (m + 1) · 2^e where `sticky`; `m` has more bits than any
format keeps wherever `sticky` is set. -/
structure Real_ where
  neg : Bool
  m   : Nat
  e   : Int
  sticky : Bool := false
  deriving DecidableEq, Repr

/-- An exact result before it is rounded (R83). -/
inductive Exact where
  | nan (fl : Flags)
  | inf (neg : Bool) (fl : Flags)
  | zero (neg : Bool)
  | num (x : Real_)
  deriving DecidableEq, Repr

/-- R84: does rounding at an integer go away from zero; `rem` compares the rest with half a unit. -/
def roundsAway (rm : Rm) (neg odd : Bool) (rest : Ordering) (exact : Bool) : Bool :=
  if exact then false
  else
    match rm with
    | .rn => (match rest with | .lt => false | .eq => odd | .gt => true)
    | .rz => false
    | .rd => neg
    | .ru => !neg

/-- R84: the magnitude in units of 2^lsb, rounded, and whether it is exact. -/
def Real_.roundAt (x : Real_) (rm : Rm) (lsb : Int) : Nat × Bool :=
  if x.e < lsb then
    let q := (lsb - x.e).toNat
    let kept := x.m / 2 ^ q
    let rest := x.m % 2 ^ q
    let exact := rest = 0 && !x.sticky
    let cmp : Ordering :=
      if rest < 2 ^ (q - 1) then .lt
      else if rest = 2 ^ (q - 1) then (if x.sticky then .gt else .eq)
      else .gt
    (kept + (if roundsAway rm x.neg (kept % 2 = 1) cmp exact then 1 else 0), exact)
  else
    let kept := x.m * 2 ^ (x.e - lsb).toNat
    (kept + (if roundsAway rm x.neg (kept % 2 = 1) .lt (!x.sticky) then 1 else 0), !x.sticky)

/-- Exponent of a nonzero real's leading bit. -/
def Real_.top (x : Real_) : Int := x.e + Nat.log2 x.m

/-- R85: the magnitude code of an overflowing result with `fbits` fraction bits, from the code of the largest
finite magnitude and that of infinity. -/
def overflowCode (rm : Rm) (neg : Bool) (largest inf : Nat) : Nat :=
  match rm, neg with
  | .rn, _ => inf
  | .rz, _ => largest
  | .rd, false => largest
  | .rd, true => inf
  | .ru, false => inf
  | .ru, true => largest

/-- R84 to R86: a nonzero real rounded to an IEEE format. -/
def Ieee.round (f : Ieee) (rm : Rm) (sat : Bool) (x : Real_) : Nat × Flags :=
  let top := x.top
  let lsb : Int := max top f.emin - f.fbits
  let (kept, exact) := x.roundAt rm lsb
  let mag := (max top f.emin - f.emin).toNat * 2 ^ f.fbits + kept
  let sign := if x.neg then f.signBit else 0
  if f.infCode ≤ mag then
    let m := if sat then f.infCode - 1 else overflowCode rm x.neg (f.infCode - 1) f.infCode
    (sign + m, fOverflow ||| fInexact)
  else
    -- R86: tiny by the rounding with an unbounded exponent range
    let unbounded := (x.roundAt rm (top - f.fbits)).1
    let tiny := top + 1 < f.emin || (top < f.emin && unbounded < 2 ^ (f.fbits + 1))
    (sign + mag, (if exact then 0 else fInexact) ||| (if tiny && !exact then fUnderflow else 0))

/-- R81 to R86: an exact result delivered in an IEEE format. -/
def Ieee.deliver (f : Ieee) (rm : Rm) (sat : Bool) : Exact → Nat × Flags
  | .nan fl => (f.nanCode, fl)
  | .inf neg fl => ((if neg then f.signBit else 0) + (if sat then f.infCode - 1 else f.infCode), fl)
  | .zero neg => (if neg then f.signBit else 0, 0)
  | .num x => f.round rm sat x

/-! ### Narrow formats (R89 to R93) -/

/-- R89: `n43` and `n52` by their fraction bits. -/
structure Narrow where
  fbits : Nat
  bias  : Nat
  deriving DecidableEq, Repr

def n43 : Narrow := { fbits := 3, bias := 7 }
def n52 : Narrow := { fbits := 2, bias := 15 }

/-- R90: code of the largest finite magnitude and the default NaN. -/
def Narrow.largest (f : Narrow) : Nat := if f.fbits = 3 then 0x7E else 0x7B
def Narrow.nanCode (f : Narrow) : Nat := if f.fbits = 3 then 0x7F else 0x7E

/-- R89: the value of a narrow code; its NaNs are quiet. -/
def Narrow.value (f : Narrow) (c : Nat) : Fp :=
  let c := c % 256
  let neg := 128 ≤ c
  let e := c % 128 / 2 ^ f.fbits
  let m := c % 2 ^ f.fbits
  if c = 0 then .fin false 0 0
  else if f.fbits = 3 && c % 128 = 0x7F then .nan false
  else if f.fbits = 2 && e = 31 then (if m = 0 then .inf neg else .nan false)
  else .fin neg (2 ^ f.fbits + m) ((e : Int) - f.bias - f.fbits)

/-- R90: the smallest magnitude of a sign, as m · 2^e. -/
def Narrow.least (f : Narrow) (neg : Bool) : Nat × Int :=
  if neg then (2 ^ f.fbits, -(f.bias : Int) - f.fbits) else (2 ^ f.fbits + 1, -(f.bias : Int) - f.fbits)

/-- Is |x| below m · 2^e. -/
def Real_.below (x : Real_) (m : Nat) (e : Int) : Bool :=
  let lo := min x.e e
  x.m * 2 ^ (x.e - lo).toNat < m * 2 ^ (e - lo).toNat

/-- R92: floor(|x| · 2^24 / (m · 2^e)). -/
def Real_.chance (x : Real_) (m : Nat) (e : Int) : Nat :=
  let lo := min x.e e
  x.m * 2 ^ (x.e - lo).toNat * 2 ^ 24 / (m * 2 ^ (e - lo).toNat)

/-- R92: how magnitudes below the smallest become codes: flushed, or by a random value. -/
inductive Under where
  | flush
  | chance (u : Nat)
  deriving DecidableEq, Repr

/-- R91, R92: an exact result converted to a narrow format. -/
def Narrow.deliver (f : Narrow) (rm : Rm) (sat : Bool) (under : Under) : Exact → Nat × Flags
  | .nan fl => (f.nanCode, fl)
  | .inf neg fl =>
    let sign := if neg then 128 else 0
    if f.fbits = 3 then (sign + 0x7E, fl ||| fInvalid)
    else (sign + (if sat then 0x7B else 0x7C), fl)
  | .zero _ => (0, 0)
  | .num x =>
    let sign := if x.neg then 128 else 0
    let (lm, le) := f.least x.neg
    if x.below lm le then
      let up := match under with | .flush => false | .chance u => u < x.chance lm le
      (if up then (if x.neg then 128 else 1) else 0, fUnderflow ||| fInexact)
    else
      let (kept, exact) := x.roundAt rm (x.top - f.fbits)
      let mag := ((x.top + f.bias).toNat) * 2 ^ f.fbits + kept - 2 ^ f.fbits
      if f.largest < mag then
        (sign + (if f.fbits = 3 || sat then f.largest else overflowCode rm x.neg f.largest 0x7C), fOverflow ||| fInexact)
      else (sign + mag, if exact then 0 else fInexact)

/-- R93: the random value of a key. -/
def randomOf (k : BitVec 64) : Nat :=
  let z := k + 0x9E3779B97F4A7C15#64
  let z := (z ^^^ (z >>> 30)) * 0xBF58476D1CE4E5B9#64
  let z := (z ^^^ (z >>> 27)) * 0x94D049BB133111EB#64
  let z := z ^^^ (z >>> 31)
  (z.extractLsb' 40 24).toNat

/-! ### Exact arithmetic -/

/-- A finite value as an integer in units of 2^e. -/
def scaled (neg : Bool) (m : Nat) (e unit : Int) : Int :=
  let x : Int := m * 2 ^ (e - unit).toNat
  if neg then -x else x

/-- A nonzero integer in units of 2^e, or a zero with the given sign. -/
def exactOf (x : Int) (e : Int) (zeroNeg : Bool) : Exact :=
  if x = 0 then .zero zeroNeg else .num { neg := x < 0, m := x.natAbs, e := e }

/-- R83: NaN operands. -/
def nanFlag : Fp → Flags
  | .nan true => fInvalid
  | _ => 0

def Fp.isNan : Fp → Bool
  | .nan _ => true
  | _ => false

def Fp.neg : Fp → Bool
  | .inf n => n
  | .fin n _ _ => n
  | .nan _ => false

def Fp.isZero : Fp → Bool
  | .fin _ 0 _ => true
  | _ => false

def Fp.negate : Fp → Fp
  | .inf n => .inf (!n)
  | .fin n m e => .fin (!n) m e
  | x => x

/-- The value itself as a result. -/
def Fp.exact : Fp → Exact
  | .nan s => .nan (if s then fInvalid else 0)
  | .inf n => .inf n 0
  | .fin n 0 _ => .zero n
  | .fin n m e => .num { neg := n, m := m, e := e }

/-- R80, R83: a + b; the sign of an exact zero from opposite operands depends on the rounding mode. -/
def addExact (rm : Rm) (a b : Fp) : Exact :=
  match a, b with
  | .fin na ma ea, .fin nb mb eb =>
    if ma = 0 && mb = 0 && na = nb then .zero na
    else
      let lo := min ea eb
      exactOf (scaled na ma ea lo + scaled nb mb eb lo) lo (rm = .rd)
  | .inf n, .inf k => if n = k then .inf n 0 else .nan fInvalid
  | .inf n, .fin _ _ _ => .inf n 0
  | .fin _ _ _, .inf n => .inf n 0
  | a, b => .nan (nanFlag a ||| nanFlag b)

/-- R80, R83: a × b. -/
def mulExact (a b : Fp) : Exact :=
  match a, b with
  | .fin na ma ea, .fin nb mb eb =>
    if ma = 0 || mb = 0 then .zero (na != nb) else .num { neg := na != nb, m := ma * mb, e := ea + eb }
  | .inf n, .inf k => .inf (n != k) 0
  | .inf n, .fin k m _ => if m = 0 then .nan fInvalid else .inf (n != k) 0
  | .fin k m _, .inf n => if m = 0 then .nan fInvalid else .inf (n != k) 0
  | a, b => .nan (nanFlag a ||| nanFlag b)

/-- An exact result that is a value again. -/
def Exact.value : Exact → Fp
  | .nan fl => .nan (fl ≠ 0)
  | .inf n _ => .inf n
  | .zero n => .fin n 0 0
  | .num x => .fin x.neg x.m x.e

/-- R80, R83: a × b + c, rounded once by its caller. DEDUCED (log 105): 0 × ∞ beside a quiet NaN raises invalid. -/
def fmaExact (rm : Rm) (a b c : Fp) : Exact :=
  match mulExact a b with
  | .nan fl => .nan (fl ||| nanFlag c)
  | p =>
    match addExact rm p.value c with
    | .nan fl => .nan fl
    | r => r

/-- Bits that every quotient and root carries beyond what any format keeps. -/
def spare : Nat := 70

/-- R80, R83: a ÷ b. -/
def divExact (a b : Fp) : Exact :=
  match a, b with
  | .fin na ma ea, .fin nb mb eb =>
    if mb = 0 then (if ma = 0 then .nan fInvalid else .inf (na != nb) fDivZero)
    else if ma = 0 then .zero (na != nb)
    else
      let k := spare + Nat.log2 mb + 1
      .num { neg := na != nb, m := ma * 2 ^ k / mb, e := ea - eb - k, sticky := ma * 2 ^ k % mb ≠ 0 }
  | .inf _, .inf _ => .nan fInvalid
  | .inf n, .fin k _ _ => .inf (n != k) 0
  | .fin k _ _, .inf n => .zero (n != k)
  | a, b => .nan (nanFlag a ||| nanFlag b)

/-- R80, R83: the square root. -/
def sqrtExact (a : Fp) : Exact :=
  match a with
  | .fin n m e =>
    if m = 0 then .zero n
    else if n then .nan fInvalid
    else
      -- an even exponent, and twice the spare bits under the root
      let odd := e % 2 ≠ 0
      let k := 2 * spare
      let m' := (if odd then 2 * m else m) * 2 ^ k
      let r := Nat.sqrt m'
      .num { neg := false, m := r, e := (if odd then e - 1 else e) / 2 - spare, sticky := r * r ≠ m' }
  | .inf false => .inf false 0
  | .inf true => .nan fInvalid
  | a => .nan (nanFlag a)

/-- The order of two values that are no NaN; zeros are equal. -/
def compareFp (a b : Fp) : Ordering :=
  match a, b with
  | .inf n, .inf k => if n = k then .eq else if n then .lt else .gt
  | .inf n, _ => if n then .lt else .gt
  | _, .inf n => if n then .gt else .lt
  | .fin na ma ea, .fin nb mb eb =>
    let lo := min ea eb
    compare (scaled na ma ea lo) (scaled nb mb eb lo)
  | _, _ => .eq

/-! ### Quad blocks (R94 to R96) -/

/-- R95: the value of a code under a KIND, in eighths: V · 2^3. -/
def quadEighths (kind code : Nat) : Int :=
  let row : List Int := match kind with
    | 0 => [0, 8, 16, 24, 32, 40, 48, 56, -64, -56, -48, -40, -32, -24, -16, -8]
    | 1 => [0, 6, 8, 12, 16, 24, 32, 48, -4, -6, -8, -12, -16, -24, -32, -48]
    | 2 => [0, 16, 32, 64, 128, 256, 512, 1024, -8, -16, -32, -64, -128, -256, -512, -1024]
    | _ => [0, 8, 16, 24, 32, 48, 64, 96, 0, -8, -16, -24, -32, -48, -64, -96]
  row.getD (code % 16) 0

/-- R94, R95: the value of a code in a block with a scale byte. -/
def quadValue (scale code : Nat) : Fp :=
  if scale % 64 = 63 then .nan false
  else
    let v := quadEighths (scale / 64 % 4) code
    if v = 0 then .fin false 0 0 else .fin (v < 0) v.natAbs ((scale % 64 : Nat) - 35 : Int)

/-- Compares |x| with k eighths of 2^e. -/
def Real_.cmpEighths (x : Real_) (k : Nat) (e : Int) : Ordering :=
  let lo := min x.e (e - 3)
  let a := x.m * 2 ^ (x.e - lo).toNat
  let b := k * 2 ^ (e - 3 - lo).toNat
  if a = b then (if x.sticky then .gt else .eq) else compare a b

/-- R96: the codes of one sign in ascending magnitude, zero first, each with its magnitude in eighths. -/
def quadLadder (kind : Nat) (neg : Bool) : List (Nat × Nat) :=
  let codes := if neg then (if kind = 0 then [15, 14, 13, 12, 11, 10, 9, 8] else if kind = 3 then [9, 10, 11, 12, 13, 14, 15] else [8, 9, 10, 11, 12, 13, 14, 15])
    else [1, 2, 3, 4, 5, 6, 7]
  (0, 0) :: codes.map fun c => (c, (quadEighths kind c).natAbs)

/-- R96: rounds |x|, at or above `lo`'s magnitude, between neighbouring codes. -/
def quadRound (rm : Rm) (x : Real_) (e : Int) : List (Nat × Nat) → Nat × Flags
  | [] => (0, 0)
  | [(c, v)] => (c, if x.cmpEighths v e = .eq then 0 else fOverflow ||| fInexact)
  | (c, v) :: (c', v') :: rest =>
    match x.cmpEighths v' e with
    | .lt =>
      if x.cmpEighths v e = .eq then (c, 0)
      else
        let away := match rm with
          | .rz => false
          | .rd => x.neg
          | .ru => !x.neg
          | .rn =>
            -- twice |x| against v + v'
            match ({ x with e := x.e + 1 } : Real_).cmpEighths (v + v') e with
            | .lt => false
            | .gt => true
            | .eq => c % 2 = 1
        (if away then c' else c, fInexact)
    | _ => quadRound rm x e ((c', v') :: rest)

/-- R92, R96: an element converted to a code of a quad block with scale 2^(sexp − 32); infinities become the largest. -/
def quadCode (kind sexp : Nat) (rm : Rm) (under : Under) (x : Exact) : Nat × Flags :=
  let e : Int := (sexp : Int) - 32
  match x with
  | .nan fl => (0, fl)
  | .inf neg _ => (((quadLadder kind neg).getLast?.map Prod.fst).getD 0, fInvalid)
  | .zero _ => (0, 0)
  | .num x =>
    match quadLadder kind x.neg with
    | _ :: (c, v) :: _ =>
      if x.cmpEighths v e = .lt then
        let up := match under with | .flush => false | .chance u => u < x.chance v (e - 3)
        (if up then c else 0, fUnderflow ||| fInexact)
      else quadRound rm x e ((quadLadder kind x.neg).tail)
    | _ => (0, 0)

end Sys2Proof.Machine
end

