-- ==== Sys2Proof/Machine/Functions.lean ====
section
/-! DEFINITION. The functions of R130, rounded once: intervals in fixed point around the exact value, narrowed
until they hold no boundary of a rounding. -/

namespace Sys2Proof.Machine

/-- Units of error that every fixed-point result below stays within. -/
def slack : Nat := 2 ^ 20

/-- Sum of terms t(k) = t(k−1) · y / 2^P / k, for e^y. -/
def expTerms (p y : Nat) : Nat → Nat → Nat → Nat → Nat
  | 0, _, _, acc => acc
  | n + 1, k, t, acc => if t = 0 then acc else expTerms p y n (k + 1) (t * y / 2 ^ p / k) (acc + t)

/-- e^(y / 2^P) · 2^P for 0 ≤ y / 2^P < 1. -/
def expFixed (p y : Nat) : Nat := expTerms p y p 1 (2 ^ p) 0

/-- Sum of z^(2k+1) / (2k+1), with alternating signs for the arctangent. -/
def oddTerms (p zz : Nat) (alternate : Bool) : Nat → Nat → Nat → Int → Int
  | 0, _, _, acc => acc
  | n + 1, k, t, acc =>
    if t = 0 then acc
    else
      let term : Int := (t / (2 * k + 1) : Nat)
      oddTerms p zz alternate n (k + 1) (t * zz / 2 ^ p) (if alternate && k % 2 = 1 then acc - term else acc + term)

/-- atanh(a / b) · 2^P and atan(a / b) · 2^P, for a / b at most 1/2. -/
def atanhFixed (p a b : Nat) : Int :=
  let z := a * 2 ^ p / b
  oddTerms p (z * z / 2 ^ p) false p 0 z 0
def atanFixed (p a b : Nat) : Int :=
  let z := a * 2 ^ p / b
  oddTerms p (z * z / 2 ^ p) true p 0 z 0

def ln2Fixed (p : Nat) : Nat := (2 * atanhFixed p 1 3).toNat
def piFixed (p : Nat) : Nat := (16 * atanFixed p 1 5 - 4 * atanFixed p 1 239).toNat

/-- A real known to lie in [lo, hi] · 2^−P. -/
structure Span where
  neg : Bool
  lo  : Nat
  hi  : Nat
  p   : Nat
  deriving DecidableEq, Repr

/-- Bits kept of a value that is never exact: more than any format of R130 keeps, with its rounding bit. -/
def kept : Nat := 30

/-- The real of an interval, where the interval settles every rounding. -/
def Span.settle (v : Span) : Option Real_ :=
  if v.lo = 0 then none
  else
    let q := Nat.log2 v.lo - kept
    if Nat.log2 v.lo < kept then none
    else if v.lo / 2 ^ q = v.hi / 2 ^ q then
      some { neg := v.neg, m := v.lo / 2 ^ q, e := (q : Int) - v.p, sticky := true }
    else none

/-- Doubles the precision until the interval settles every rounding. -/
def refine (f : Nat → Span) : Nat → Nat → Real_
  | 0, p => ((f p).settle).getD { neg := (f p).neg, m := (f p).lo + 1, e := -(p : Int), sticky := true }
  | n + 1, p =>
    match (f p).settle with
    | some x => x
    | none => refine f n (2 * p)

/-- An interval around a fixed-point result. -/
def around (neg : Bool) (p v : Nat) : Span := { neg := neg, lo := v - slack, hi := v + slack, p := p }

/-- The finite value m · 2^e in units of 2^−P, rounded down. -/
def toFixed (p m : Nat) (e : Int) : Nat := if 0 ≤ e + p then m * 2 ^ (e + p).toNat else m / 2 ^ (-(e + p)).toNat

def firstPrecision : Nat := 256
def rounds : Nat := 4

/-- 2^x. -/
def exp2Exact (a : Fp) : Exact :=
  match a with
  | .nan s => .nan (if s then fInvalid else 0)
  | .inf n => if n then .zero false else .inf false 0
  | .fin n m e =>
    if m = 0 then .num { neg := false, m := 1, e := 0 }
    else if 10 ≤ e + Nat.log2 m then
      .num { neg := false, m := 2 ^ 40, e := if n then -2000 else 2000, sticky := true }
    else
      -- whole and fraction of x, the fraction in [0, 1)
      let whole : Int := if 0 ≤ e then scaled n m e 0 else Int.fdiv (scaled n m e e) (2 ^ (-e).toNat)
      let frac : Nat := if 0 ≤ e then 0 else (Int.fmod (scaled n m e e) (2 ^ (-e).toNat)).toNat
      if frac = 0 then .num { neg := false, m := 1, e := whole }
      else
        let x := refine (fun p => around false p (expFixed p (toFixed p frac e * ln2Fixed p / 2 ^ p))) rounds firstPrecision
        .num { x with e := x.e + whole }

/-- log2 x for x > 0 that is no power of two: x = 2^k · u with u in [3/4, 3/2). -/
def log2Span (m : Nat) (p : Nat) (e : Int) : Span :=
  let top := Nat.log2 m
  let high := 3 * 2 ^ top ≤ 2 * m
  let k : Int := e + top + (if high then 1 else 0)
  let b := 2 ^ (top + if high then 1 else 0)
  -- ln u = 2 atanh((u − 1) / (u + 1))
  let below := m < b
  let l := 2 * atanhFixed p (if below then b - m else m - b) (m + b)
  let v : Int := k * 2 ^ p + (if below then -1 else 1) * (l * 2 ^ p / (ln2Fixed p : Int))
  around (v < 0) p v.natAbs

/-- log2 x. -/
def log2Exact (a : Fp) : Exact :=
  match a with
  | .nan s => .nan (if s then fInvalid else 0)
  | .inf n => if n then .nan fInvalid else .inf false 0
  | .fin n m e =>
    if m = 0 then .inf true fDivZero
    else if n then .nan fInvalid
    else if m = 2 ^ Nat.log2 m then
      exactOf (e + Nat.log2 m) 0 false
    else .num (refine (fun p => log2Span m p e) rounds firstPrecision)

/-- 1 / √x. -/
def rsqrtExact (a : Fp) : Exact :=
  match a with
  | .nan s => .nan (if s then fInvalid else 0)
  | .inf n => if n then .nan fInvalid else .zero false
  | .fin n m e =>
    if m = 0 then .inf n fDivZero
    else if n then .nan fInvalid
    else
      let odd := e % 2 ≠ 0
      let m' := if odd then 2 * m else m
      let e' := if odd then e - 1 else e
      let k := 2 * (spare + Nat.log2 m')
      let r := Nat.sqrt (2 ^ k / m')
      .num { neg := false, m := r, e := -e' / 2 - (k / 2 : Nat), sticky := r * r * m' ≠ 2 ^ k }

/-- A value just below the magnitude m · 2^e, closer to it than any format of R130 tells. -/
def justBelow (neg : Bool) (m : Nat) (e : Int) : Real_ := { neg := neg, m := m * 2 ^ 40 - 1, e := e - 40, sticky := true }

/-- Sine terms: sum of (−1)^k y^(2k+1) / (2k+1)!, or cosine terms with y^(2k) / (2k)!. -/
def trigTerms (p yy : Nat) : Nat → Nat → Nat → Bool → Int → Int
  | 0, _, _, _, acc => acc
  | n + 1, k, t, minus, acc =>
    if t = 0 then acc
    else trigTerms p yy n (k + 2) (t * yy / 2 ^ p / (k * (k + 1))) (!minus) (if minus then acc - t else acc + t)

def sinFixed (p y : Nat) : Int := trigTerms p (y * y / 2 ^ p) p 2 y false 0
def cosFixed (p y : Nat) : Int := trigTerms p (y * y / 2 ^ p) p 1 (2 ^ p) false 0

/-- sin or cos of a finite |x| at least 2^−20, with the quadrant taken out by a π of enough bits. -/
def trigSpan (cos neg : Bool) (m : Nat) (e : Int) (p : Nat) : Span :=
  let wide := p + 200
  let x := toFixed wide m e
  let half := piFixed wide / 2
  let q := x / half
  let r := (x - q * half) / 2 ^ 200
  -- quadrant: sin, cos, −sin, −cos, one further for cos
  let quad := (q + if cos then 1 else 0) % 4
  let v := if quad % 2 = 0 then sinFixed p r else cosFixed p r
  let sign := (quad ≥ 2) != (neg && !cos)
  around (sign != decide (v < 0)) p v.natAbs

/-- sin x. -/
def sinExact (a : Fp) : Exact :=
  match a with
  | .nan s => .nan (if s then fInvalid else 0)
  | .inf _ => .nan fInvalid
  | .fin n m e =>
    if m = 0 then .zero n
    else if e + Nat.log2 m < -20 then .num (justBelow n m e)
    else .num (refine (trigSpan false n m e) rounds firstPrecision)

/-- cos x. -/
def cosExact (a : Fp) : Exact :=
  match a with
  | .nan s => .nan (if s then fInvalid else 0)
  | .inf _ => .nan fInvalid
  | .fin n m e =>
    if m = 0 then .num { neg := false, m := 1, e := 0 }
    else if e + Nat.log2 m < -20 then .num (justBelow false 1 0)
    else .num (refine (trigSpan true n m e) rounds firstPrecision)

/-- tanh |x| = (E − 1) / (E + 1) with E = e^(2|x|), for |x| from 2^−20 to 32. -/
def tanhSpan (neg : Bool) (m : Nat) (e : Int) (p : Nat) : Span :=
  let wide := p + 128
  let y := toFixed wide m (e + 1)
  let l := ln2Fixed wide
  let k := y / l
  let big := expFixed wide (y - k * l) * 2 ^ k
  let v := (big - 2 ^ wide) * 2 ^ p / (big + 2 ^ wide)
  around neg p v

/-- tanh x. -/
def tanhExact (a : Fp) : Exact :=
  match a with
  | .nan s => .nan (if s then fInvalid else 0)
  | .inf n => .num { neg := n, m := 1, e := 0 }
  | .fin n m e =>
    if m = 0 then .zero n
    else if e + Nat.log2 m < -20 then .num (justBelow n m e)
    else if 5 ≤ e + Nat.log2 m then .num (justBelow n 1 0)
    else .num (refine (tanhSpan n m e) rounds firstPrecision)

end Sys2Proof.Machine
end

