-- ==== Sys2Proof/WellFormed.lean ====
section
/-! DEFINITION. Which instructions are legal: the opcode's own forms, types, fields and register rules
(R36, R38, R47 to R50, R112, R125, R141, R158, R208, R266, R268, R292, R326, R340, R352, R353, R419). -/

namespace Sys2Proof

/-- R109: the types whose operands are pairs. -/
def Ty.wide : Ty → Bool
  | .i64 | .n64 | .f64 => true
  | _ => false

/-- The types of the FLT group (R125 set F). -/
def Ty.isFloat : Ty → Bool
  | .f32 | .f16 | .bf16 | .f64 | .f16x2 | .bf16x2 => true
  | _ => false

/-- R79: packed types. -/
def Ty.packed : Ty → Bool
  | .f16x2 | .bf16x2 => true
  | _ => false

/-- R47: the TY code of a type and back. -/
def Ty.code : Ty → BitVec 4
  | .i32 => 0 | .n32 => 1 | .i64 => 2 | .n64 => 3 | .f32 => 4 | .f16 => 5 | .bf16 => 6 | .f64 => 7
  | .n43 => 8 | .n52 => 9 | .i16 => 10 | .n16 => 11 | .i8 => 12 | .n8 => 13 | .f16x2 => 14 | .bf16x2 => 15

def Ty.ofCode (c : BitVec 4) : Ty :=
  match c.toNat with
  | 0 => .i32 | 1 => .n32 | 2 => .i64 | 3 => .n64 | 4 => .f32 | 5 => .f16 | 6 => .bf16 | 7 => .f64
  | 8 => .n43 | 9 => .n52 | 10 => .i16 | 11 => .n16 | 12 => .i8 | 13 => .n8 | 14 => .f16x2 | _ => .bf16x2

/-- How an INT, FLT or WARP opcode uses field C. -/
inductive CUse where
  | none | reg | shift | low
  deriving DecidableEq, Repr

/-- One row of the encoding tables R112, R125 and R141. -/
structure AluRow where
  f64   : Bool := true          -- forms
  f96   : Bool := true
  types : List Ty
  subs  : List (BitVec 4) := [0]
  sat   : Bool := false
  rm    : Bool := false
  pt    : Bool := false
  useA  : Bool := true
  ua    : Bool := true
  useB  : Bool := true
  ub    : Bool := true
  c     : CUse := .none
  deriving Repr

/-- The type sets of R112 and R125. -/
def tysI : List Ty := [.i32, .n32, .i16, .n16, .i8, .n8]
def tysS : List Ty := [.i32, .i16, .i8]
def tysQ : List Ty := [.i64, .n64]
def tysF : List Ty := [.f32, .f16, .bf16, .f64, .f16x2, .bf16x2]
def tysFS : List Ty := [.f32, .f16, .bf16, .f64]
def tysFH : List Ty := [.f32, .f16, .bf16, .f16x2, .bf16x2]
def tysScalar : List Ty := [.i32, .n32, .i64, .n64, .f32, .f16, .bf16, .f64, .n43, .n52, .i16, .n16, .i8, .n8]
def subsTo (n : Nat) : List (BitVec 4) := (List.range n).map (BitVec.ofNat 4)

/-- R112, R125, R141: the row of each opcode. -/
def aluRow (op : BitVec 9) : Option AluRow :=
  let unary : AluRow := { types := [.i32], f96 := false, useB := false, ub := false }
  let funary : AluRow := { types := tysF, f96 := false, useB := false, ub := false }
  match op.toNat with
  | 0x000 | 0x002 | 0x004 => some { types := tysI, sat := true }
  | 0x001 | 0x003 => some { types := [.n32], c := .reg }
  | 0x005 | 0x006 | 0x008 | 0x009 | 0x01C => some { types := [.i32, .n32] }
  | 0x007 => some { types := tysI, sat := true, c := .reg }
  | 0x00A | 0x00B => some { unary with types := tysS, sat := true }
  | 0x00C | 0x00D => some { types := tysI }
  | 0x00E | 0x00F | 0x010 | 0x011 | 0x012 | 0x014 | 0x015 | 0x016 | 0x017 => some { types := [.i32] }
  | 0x013 | 0x018 | 0x019 | 0x01A | 0x01B => some unary
  | 0x01D => some { types := [.i32], c := .reg }
  | 0x01E => some { types := [.i32, .i64], subs := subsTo 2, c := .reg }
  | 0x01F => some { types := tysI, subs := subsTo 6, pt := true }
  | 0x020 => some { types := [.i32, .n32], c := .shift }
  | 0x021 | 0x022 => some { types := tysQ, sat := true }
  | 0x023 | 0x024 => some { types := tysQ }
  | 0x025 => some { types := tysQ, subs := subsTo 6, pt := true }
  | 0x026 => some { types := [.i32, .i64, .n64] }
  | 0x028 => some { types := [.i32, .i64], f64 := false }
  | 0x040 | 0x041 | 0x042 | 0x04C | 0x054 => some { types := tysF, rm := true, sat := true }
  | 0x043 => some { types := tysF, rm := true, sat := true, c := .reg }
  | 0x044 | 0x045 => some { types := tysF }
  | 0x046 | 0x047 => some funary
  | 0x048 => some { types := tysFS, subs := subsTo 8, pt := true }
  | 0x049 | 0x04B => some { funary with rm := true, sat := true }
  | 0x04A | 0x04D | 0x04E => some { funary with types := tysFH, rm := true, sat := true }
  | 0x04F | 0x050 | 0x051 => some { funary with types := tysFH, rm := true }
  | 0x052 => some { funary with types := tysFS }
  | 0x053 => some { funary with rm := true }
  | 0x055 => some { types := [.f16x2, .bf16x2], rm := true, sat := true, c := .reg }
  | 0x056 => some { types := .f16x2 :: .bf16x2 :: tysScalar, subs := subsTo 16, f96 := false, rm := true, sat := true, c := .low }
  | 0x057 => some { unary with types := [.n43, .n52], subs := [4, 5, 6, 7], rm := true, sat := true }
  | 0x058 => some { types := [.f32], f96 := false, rm := true, ua := false, ub := false, c := .reg }
  | 0x059 => some { types := [.f32], f96 := false, ua := false, ub := false }
  | 0x080 => some { types := [.i32, .i64], subs := subsTo 4 }
  | 0x081 => some { unary with subs := subsTo 3 }
  | 0x082 => some unary
  | 0x083 => some { unary with types := [.i32, .n32, .i64, .n64, .f32, .f64], subs := subsTo 6, rm := true, sat := true }
  | 0x084 => some { unary with types := [.i32, .n32, .i64, .n64, .f32, .f64], subs := [0, 1, 2, 3, 4, 5, 8, 9, 10, 11, 12, 13], rm := true, sat := true }
  | 0x085 => some { types := [.i32, .i64] }
  | 0x086 => some { unary with types := [.i32, .i64] }
  | _ => none

/-- R38: G = 0 with GN = 1 is reserved. -/
def Pre.ok (p : Pre) : Bool := !(p.g == 0 && p.gn)

/-- R326, R340, R446: instructions that take no guard. -/
def Pre.noGuard (p : Pre) : Bool := p.g == 0 && !p.gn

/-- R36: a pair field names an even register. -/
def even (r : RegNo) : Bool := r.toNat % 2 == 0

def multipleOf (n : Nat) (r : RegNo) : Bool := r.toNat % n == 0

/-- R112, R125, R135, R141: which fields of an INT, FLT or WARP instruction name pairs (D, A, B, C). -/
def aluPairs (op : BitVec 9) (o : Alu) : Bool × Bool × Bool × Bool :=
  let w := o.ty.wide
  match op.toNat with
  | 0x001 | 0x003 | 0x006 => (true, false, false, false)
  | 0x020 => (true, true, false, false)
  | 0x023 | 0x024 => (true, true, false, false)
  | 0x025 | 0x048 => (false, w, w, false)
  | 0x028 => (w, false, false, false)
  | 0x043 => (w, w, w, w)
  | 0x052 => (false, w, false, false)
  | 0x054 | 0x080 | 0x085 => (w, w, false, false)
  | 0x056 | 0x057 => (w, (Ty.ofCode o.sub).wide, false, false)
  | _ => (w, w, w, false)

/-- R135: the source and destination types that `cvt` allows, with its use of B and C. -/
def cvtOk (o : Alu) : Bool :=
  let s := Ty.ofCode o.sub
  if s.packed && o.ty.packed then s != o.ty && o.b == .reg 0 false && o.c == 0
  else if s.packed then o.ty == .f32 && o.b == .reg 0 false && o.c.toNat < 2
  else if o.ty.packed then s == .f32 && o.c == 0
  else o.b == .reg 0 false && o.c == 0

/-- R141: the operations that `redw` and `scanw` allow on a type. -/
def foldOk (o : Alu) : Bool :=
  let op := o.sub.toNat % 8
  let fl := o.ty.isFloat
  (!fl || op < 3) && (!o.sat || (!fl && op == 0)) && (o.rm == .rn || (fl && op == 0))

/-- R112 to R145: a legal INT, FLT or WARP instruction. -/
def Alu.ok (op : BitVec 9) (o : Alu) : Bool :=
  match aluRow op with
  | none => false
  | some r =>
    let (pd, pa, pb, pc) := aluPairs op o
    o.p.ok && r.types.contains o.ty && r.subs.contains o.sub && (r.rm || o.rm == .rn) &&
    (r.sat || !o.sat) && (r.pt || !o.pt) &&
    (match o.b with
     | .reg b u => r.f64 && (r.useB || (b == 0 && !u)) && (r.ub || !u) && (!pb || even b)
     | .imm _ => r.f96 && op != 0x028
     | .const _ _ => r.f96) &&
    (match r.c with
     | .none => o.c == 0
     | .reg => !pc || even o.c
     | .shift => o.c.toNat < 8
     | .low => true) &&
    (!pd || even o.d) && (!pa || even o.a) && (r.ua || !o.ua) &&
    -- mov: one source, A in the 64-bit form and X in the 96-bit form
    (op != 0x026 || match o.b with | .reg b u => b == 0 && !u | _ => o.a == 0 && !o.ua) &&
    (op != 0x056 || cvtOk o) &&
    ((op != 0x083 && op != 0x084) || foldOk o) &&
    -- qpk, qupk: register ranges (R137, R138)
    (op != 0x058 || (o.d != 0 && multipleOf 4 o.d && (o.c.toNat < o.d.toNat || o.d.toNat + 3 < o.c.toNat))) &&
    (op != 0x059 || multipleOf 4 o.a)

/-- R50: the operand width that an atomic operation allows. -/
def atomicOk (c : RegNo) (w : Width) : Bool :=
  c.toNat < 0xD && (w == .b32 || (w == .b64 && c.toNat < 9))

/-- R266, R268: a legal 64- or 96-bit MEM instruction. -/
def Mem.ok (op : BitVec 9) (o : Mem) : Bool :=
  let noA := o.a == 0 && !o.ua
  let noB := o.b == 0 && !o.ub
  let noD := o.d == 0
  let noC := o.c == 0
  let bare := o.w == .b8 && o.rt == .cb && !o.sx && !o.last
  let dataOk (r : RegNo) : Bool := match o.w with | .b64 => even r | .b128 => multipleOf 4 r | _ => true
  let sxOk := !o.sx || o.w == .b8 || o.w == .b16
  let shOk := o.c.toNat ≤ 4
  o.p.ok &&
  match op.toNat with
  | 0x0C0 => even o.a && dataOk o.d && sxOk && shOk && (o.ord == .rlx || o.ord == .acq)
  | 0x0C1 => even o.a && dataOk o.d && !o.sx && shOk && (o.ord == .rlx || o.ord == .rel)
  | 0x0C2 => dataOk o.d && sxOk && shOk && o.rt == .cb && o.sc == .team && !o.last && (o.ord == .rlx || o.ord == .acq)
  | 0x0C3 => dataOk o.d && !o.sx && shOk && o.rt == .cb && o.sc == .team && !o.last && (o.ord == .rlx || o.ord == .rel)
  | 0x0C4 => dataOk o.d && sxOk && noC && o.rt == .cb && o.sc == .die && !o.last && (o.ord == .rlx || o.ord == .acq)
  | 0x0C5 => dataOk o.d && !o.sx && noC && o.rt == .cb && o.sc == .die && !o.last && (o.ord == .rlx || o.ord == .rel)
  | 0x0C6 => even o.a && atomicOk o.c o.w && dataOk o.d && dataOk o.b && !o.sx && o.rt == .cb && !o.last
  | 0x0C7 => even o.a && atomicOk o.c o.w && noD && dataOk o.b && !o.sx && o.rt == .cb && !o.last && (o.ord == .rlx || o.ord == .rel)
  | 0x0C8 => even o.a && (o.w == .b32 || o.w == .b64) && dataOk o.d && dataOk o.b && dataOk o.c && !o.sx && o.rt == .cb && !o.last
  | 0x0C9 => noA && noB && noC && noD && bare && o.ord != .rlx && o.x.isNone
  | 0x0CA | 0x0CB => even o.a && noC && noD && bare && o.ord == .rlx
  | 0x0CC => even o.a && noC && noD && bare && o.ord == .rlx && o.sc == .team
  | 0x0CD => even o.a && noC && noD && o.w == .b8 && (o.rt == .cb || o.rt == .si) && !o.sx && !o.last && o.ord == .rlx && o.sc == .team
  | 0x0CE => noA && noB && noC && noD && bare && o.ord == .rlx && o.x.isNone
  | 0x0CF => even o.a && noB && noC && noD && bare && o.ord == .rlx && o.sc == .team
  | 0x0D0 => noA && (o.x.isNone || noB) && noC && bare && o.ord == .rlx && o.sc == .team
  | 0x0D1 | 0x0D2 | 0x0D3 => noA && noB && noC && noD && bare && o.ord == .rlx && o.sc == .team && o.x.isNone
  | _ => false

def Num.below (n : Nat) : Num → Bool
  | .reg _ => true
  | .imm x => x.toNat < n

/-- R158, R166, R168: a legal copy instruction; `indexed` for `gth` and `sct`, `drain` for `cpout` and `sct`. -/
def Copy.ok (indexed drain : Bool) (o : Copy) : Bool :=
  o.p.ok && (if indexed then even o.a else o.a == 0) && (!drain || !o.last)

/-- R292: the element types of a collective. -/
def Coll.ok (o : Coll) : Bool :=
  o.p.ok && even o.a && even o.b && (o.sc == .dev || o.sc == .sys) && o.count != 0 &&
  [Ty.i32, .n32, .f32, .f16, .bf16, .f64].contains o.ty &&
  (o.op == .add || o.kind == .allReduce || o.kind == .reduceScatter) &&
  (o.root == 0 || o.kind == .broadcast)

/-- R352, R353: a legal `ship`. -/
def Ship.ok (o : Ship) : Bool :=
  o.p.ok && even o.a && o.narg.toNat ≤ 8 && o.nres.toNat ≤ 4 && (!o.token || (o.c == 0 && o.nres == 0)) &&
  (o.narg != 0 || (o.b == 0 && !o.ub)) && (o.token || o.nres != 0 || o.d == 0)

/-- R69: the special-register numbers that exist, with whether `swr` may name them. -/
def specialOk (n : BitVec 12) (write : Bool) : Bool :=
  (n.toNat ≤ 0x013 && !write) || (0x100 ≤ n.toNat && n.toNat ≤ 0x10C) || (0x200 ≤ n.toNat && n.toNat ≤ 0x27F)

/-- R340: a legal barrier instruction; ID limits are the barrier's own (R341). -/
def barrierOk (p : Pre) (id : Num) (lvl : Level) (rmask : Byte) : Bool :=
  p.noGuard && id.below 64 && (rmask == 0 || lvl == .team)

/-- R341: the IDs of a level. -/
def Level.ids : Level → Nat
  | .team => 16 | .band => 4 | .launch => 4 | .job => 64

/-- The INT, FLT and WARP instructions with their opcodes (R73). -/
def Instr.aluView : Instr → Option (BitVec 9 × Alu)
  | .add o => some (0x000, o)
  | .addc o => some (0x001, o)
  | .sub o => some (0x002, o)
  | .subb o => some (0x003, o)
  | .mul o => some (0x004, o)
  | .mulh o => some (0x005, o)
  | .mulw o => some (0x006, o)
  | .mad o => some (0x007, o)
  | .div o => some (0x008, o)
  | .rem o => some (0x009, o)
  | .neg o => some (0x00A, o)
  | .abs o => some (0x00B, o)
  | .min o => some (0x00C, o)
  | .max o => some (0x00D, o)
  | .and o => some (0x00E, o)
  | .or o => some (0x00F, o)
  | .xor o => some (0x010, o)
  | .andn o => some (0x011, o)
  | .orn o => some (0x012, o)
  | .not o => some (0x013, o)
  | .shl o => some (0x014, o)
  | .shr o => some (0x015, o)
  | .sra o => some (0x016, o)
  | .rot o => some (0x017, o)
  | .clz o => some (0x018, o)
  | .ctz o => some (0x019, o)
  | .popc o => some (0x01A, o)
  | .brev o => some (0x01B, o)
  | .bfx o => some (0x01C, o)
  | .bfi o => some (0x01D, o)
  | .sel o => some (0x01E, o)
  | .cmp o => some (0x01F, o)
  | .lea o => some (0x020, o)
  | .add64 o => some (0x021, o)
  | .sub64 o => some (0x022, o)
  | .shl64 o => some (0x023, o)
  | .shr64 o => some (0x024, o)
  | .cmp64 o => some (0x025, o)
  | .mov o => some (0x026, o)
  | .ldc o => some (0x028, o)
  | .fadd o => some (0x040, o)
  | .fsub o => some (0x041, o)
  | .fmul o => some (0x042, o)
  | .ffma o => some (0x043, o)
  | .fmin o => some (0x044, o)
  | .fmax o => some (0x045, o)
  | .fabs o => some (0x046, o)
  | .fneg o => some (0x047, o)
  | .fcmp o => some (0x048, o)
  | .frcp o => some (0x049, o)
  | .frsq o => some (0x04A, o)
  | .fsqrt o => some (0x04B, o)
  | .fdiv o => some (0x04C, o)
  | .fex2 o => some (0x04D, o)
  | .flg2 o => some (0x04E, o)
  | .fsin o => some (0x04F, o)
  | .fcos o => some (0x050, o)
  | .ftanh o => some (0x051, o)
  | .fclass o => some (0x052, o)
  | .frnd o => some (0x053, o)
  | .fscale o => some (0x054, o)
  | .fdp2 o => some (0x055, o)
  | .cvt o => some (0x056, o)
  | .cvtsr o => some (0x057, o)
  | .qpk o => some (0x058, o)
  | .qupk o => some (0x059, o)
  | .shfl o => some (0x080, o)
  | .vote o => some (0x081, o)
  | .bal o => some (0x082, o)
  | .redw o => some (0x083, o)
  | .scanw o => some (0x084, o)
  | .bcast o => some (0x085, o)
  | .matchw o => some (0x086, o)
  | _ => none

/-- The instruction of an INT, FLT or WARP opcode. -/
def Instr.ofAlu (op : BitVec 9) (o : Alu) : Option Instr :=
  match op.toNat with
  | 0x000 => some (.add o)
  | 0x001 => some (.addc o)
  | 0x002 => some (.sub o)
  | 0x003 => some (.subb o)
  | 0x004 => some (.mul o)
  | 0x005 => some (.mulh o)
  | 0x006 => some (.mulw o)
  | 0x007 => some (.mad o)
  | 0x008 => some (.div o)
  | 0x009 => some (.rem o)
  | 0x00A => some (.neg o)
  | 0x00B => some (.abs o)
  | 0x00C => some (.min o)
  | 0x00D => some (.max o)
  | 0x00E => some (.and o)
  | 0x00F => some (.or o)
  | 0x010 => some (.xor o)
  | 0x011 => some (.andn o)
  | 0x012 => some (.orn o)
  | 0x013 => some (.not o)
  | 0x014 => some (.shl o)
  | 0x015 => some (.shr o)
  | 0x016 => some (.sra o)
  | 0x017 => some (.rot o)
  | 0x018 => some (.clz o)
  | 0x019 => some (.ctz o)
  | 0x01A => some (.popc o)
  | 0x01B => some (.brev o)
  | 0x01C => some (.bfx o)
  | 0x01D => some (.bfi o)
  | 0x01E => some (.sel o)
  | 0x01F => some (.cmp o)
  | 0x020 => some (.lea o)
  | 0x021 => some (.add64 o)
  | 0x022 => some (.sub64 o)
  | 0x023 => some (.shl64 o)
  | 0x024 => some (.shr64 o)
  | 0x025 => some (.cmp64 o)
  | 0x026 => some (.mov o)
  | 0x028 => some (.ldc o)
  | 0x040 => some (.fadd o)
  | 0x041 => some (.fsub o)
  | 0x042 => some (.fmul o)
  | 0x043 => some (.ffma o)
  | 0x044 => some (.fmin o)
  | 0x045 => some (.fmax o)
  | 0x046 => some (.fabs o)
  | 0x047 => some (.fneg o)
  | 0x048 => some (.fcmp o)
  | 0x049 => some (.frcp o)
  | 0x04A => some (.frsq o)
  | 0x04B => some (.fsqrt o)
  | 0x04C => some (.fdiv o)
  | 0x04D => some (.fex2 o)
  | 0x04E => some (.flg2 o)
  | 0x04F => some (.fsin o)
  | 0x050 => some (.fcos o)
  | 0x051 => some (.ftanh o)
  | 0x052 => some (.fclass o)
  | 0x053 => some (.frnd o)
  | 0x054 => some (.fscale o)
  | 0x055 => some (.fdp2 o)
  | 0x056 => some (.cvt o)
  | 0x057 => some (.cvtsr o)
  | 0x058 => some (.qpk o)
  | 0x059 => some (.qupk o)
  | 0x080 => some (.shfl o)
  | 0x081 => some (.vote o)
  | 0x082 => some (.bal o)
  | 0x083 => some (.redw o)
  | 0x084 => some (.scanw o)
  | 0x085 => some (.bcast o)
  | 0x086 => some (.matchw o)
  | _ => none

/-- The MEM instructions of 64 and 96 bits with their opcodes (R73). -/
def Instr.memView : Instr → Option (BitVec 9 × Mem)
  | .ld o => some (0x0C0, o)
  | .st o => some (0x0C1, o)
  | .lds o => some (0x0C2, o)
  | .sts o => some (0x0C3, o)
  | .ldr o => some (0x0C4, o)
  | .str o => some (0x0C5, o)
  | .atom o => some (0x0C6, o)
  | .red o => some (0x0C7, o)
  | .cas o => some (0x0C8, o)
  | .fence o => some (0x0C9, o)
  | .flush o => some (0x0CA, o)
  | .inval o => some (0x0CB, o)
  | .discard o => some (0x0CC, o)
  | .pref o => some (0x0CD, o)
  | .icinv o => some (0x0CE, o)
  | .mon o => some (0x0CF, o)
  | .mwait o => some (0x0D0, o)
  | .wcdrain o => some (0x0D1, o)
  | .pdwait o => some (0x0D2, o)
  | .lnext o => some (0x0D3, o)
  | _ => none

/-- The instruction of a MEM opcode of 64 and 96 bits. -/
def Instr.ofMem (op : BitVec 9) (o : Mem) : Option Instr :=
  match op.toNat with
  | 0x0C0 => some (.ld o)
  | 0x0C1 => some (.st o)
  | 0x0C2 => some (.lds o)
  | 0x0C3 => some (.sts o)
  | 0x0C4 => some (.ldr o)
  | 0x0C5 => some (.str o)
  | 0x0C6 => some (.atom o)
  | 0x0C7 => some (.red o)
  | 0x0C8 => some (.cas o)
  | 0x0C9 => some (.fence o)
  | 0x0CA => some (.flush o)
  | 0x0CB => some (.inval o)
  | 0x0CC => some (.discard o)
  | 0x0CD => some (.pref o)
  | 0x0CE => some (.icinv o)
  | 0x0CF => some (.mon o)
  | 0x0D0 => some (.mwait o)
  | 0x0D1 => some (.wcdrain o)
  | 0x0D2 => some (.pdwait o)
  | 0x0D3 => some (.lnext o)
  | _ => none

/-- R34, R36, R38, R47 to R50 and the entries' own rules, for the instructions outside the INT, FLT, WARP
and MEM tables. The event steps have no encoding and answer false. -/
def Instr.otherOk : Instr → Bool
  | .fillWord => true
  | .movw p d _ => p.ok && even d
  | .srd p _ n => p.ok && specialOk n false
  | .swr p _ _ n => p.ok && specialOk n true
  | .nop p | .exit p | .braUniform p _ | .braDivergent p _ _ | .call p _ | .trap p _ | .brk p _ => p.ok
  | .brx p a _ | .calx p a _ | .ret p a _ => p.ok && even a
  | .join p | .yieldw p => p.noGuard
  | .wait p _ => p.ok
  | .prog p n => p.ok && n.below 16
  | .cpmm o => o.p.ok && even o.a && even o.b
  | .coll o => o.ok
  | .tdset p a _ => p.ok && even a
  | .tdget p d _ => p.ok && d != 0 && multipleOf 4 d
  | .tlset p a id => p.ok && a != 0 && multipleOf 8 a && id.below 256
  | .tlst p _ _ | .tlwait p _ _ | .vclaim p _ _ => p.ok
  | .tlfree p _ | .vrel p _ | .opfence p => p.ok
  | .cpin o => o.ok false false
  | .cpout o => o.ok false true
  | .gth o => o.ok true false
  | .sct o => o.ok true true
  | .post p _ a _ => p.ok && even a
  | .tkwait p d _ n => p.ok && n.toNat ≤ 4 && (n == 0 || d != 0)
  | .tktest p _ _ => p.ok
  | .tkfree p _ => p.ok
  | .fcset p _ desc => p.ok && desc.below 256
  | .fcpub p _ _ => p.ok
  | .fcstat p d _ => p.ok && d != 0 && multipleOf 4 d
  | .bara p _ id lvl rmask | .bars p _ id lvl rmask => barrierOk p id lvl rmask
  | .barw p _ _ => p.noGuard
  | .qpush p _ a _ _ _ | .qpop p _ a _ _ _ => p.noGuard && even a
  | .rgive p n => p.noGuard && n.below 256
  | .rclaim p _ _ _ => p.noGuard
  | .sint p _ _ => p.noGuard
  | .ship o => o.ok
  | .sret p a => p.ok && even a
  | .tlbinv p k a asid =>
    p.ok && even a && (k == .page || a == 0) && asid.below 65536 && (k != .all || asid == .reg 0 || asid == .imm 0)
  | .replay p _ _ _ | .wfi p _ _ => p.ok
  | .ctxkill p _ => p.ok
  | .xrd p _ c state => p.ok && (!state || c == 0)
  | .xwr p _ _ c state => p.ok && (!state || c == 0)
  | .lnch p _ a => p.ok && even a
  | .gsave p _ _ | .grest p _ _ => p.noGuard
  | .cntrd p d n ub => p.ok && even d && n.below 128 && (match n with | .reg _ => true | .imm _ => !ub)
  | .trial p a ctx => p.ok && even a && (match ctx with | none => true | some n => n.below 64)
  | _ => false

/-- Is the instruction legal, whatever the state. -/
def Instr.wellFormed (i : Instr) : Bool :=
  match i.aluView with
  | some (op, o) => o.ok op
  | none =>
    match i.memView with
    | some (op, o) => o.ok op
    | none => i.otherOk

end Sys2Proof
end

