-- ==== Sys2Proof/Decode.lean ====
section
/-! DEFINITION. The instruction words: header fields (R33), lengths (R29), the encoder, and the decoder,
total on any bytes, which rejects by name in the order of R54. A bit that no field of the instruction
takes is reserved (R34): the decoder finds such bits by encoding what it has read and comparing. -/

namespace Sys2Proof

/-- R29, R33: the fields of an instruction word; `x` is the extension, zero in the 64-bit form and with
its upper half zero in the 96-bit form. -/
structure Raw where
  len : BitVec 2 := 0
  sw  : Bool := false
  re  : Bool := false
  op  : BitVec 9 := 0
  d   : RegNo := 0
  a   : RegNo := 0
  b   : RegNo := 0
  g   : RegNo := 0
  gn  : Bool := false
  ua  : Bool := false
  ub  : Bool := false
  c   : RegNo := 0
  f   : BitVec 13 := 0
  x   : BitVec 64 := 0
  deriving DecidableEq, Repr

/-- R33: the word of a set of fields, header in bits [63:0], extension above it. -/
def Raw.pack (r : Raw) : BitVec 128 :=
  r.x ++ r.f ++ r.c ++ BitVec.ofBool r.ub ++ BitVec.ofBool r.ua ++ BitVec.ofBool r.gn ++ r.g ++ r.b ++ r.a ++
    r.d ++ r.op ++ BitVec.ofBool r.re ++ BitVec.ofBool r.sw ++ r.len

/-- R33: the fields of a word; an extension beyond the length is not part of the instruction (R29). -/
def Raw.unpack (w : BitVec 128) : Raw :=
  let len := w.extractLsb' 0 2
  { len := len, sw := w.getLsbD 2, re := w.getLsbD 3, op := w.extractLsb' 4 9, d := w.extractLsb' 13 7,
    a := w.extractLsb' 20 7, b := w.extractLsb' 27 7, g := w.extractLsb' 34 7, gn := w.getLsbD 41,
    ua := w.getLsbD 42, ub := w.getLsbD 43, c := w.extractLsb' 44 7, f := w.extractLsb' 51 13,
    x := match len.toNat with
      | 0 => 0
      | 1 => (w.extractLsb' 64 32).setWidth 64
      | _ => w.extractLsb' 64 64 }

/-- R29: bytes of a length code. -/
def lenBytes (len : BitVec 2) : Nat :=
  match len.toNat with
  | 0 => 8 | 1 => 12 | 2 => 16 | _ => 4

/-- R73: the forms of each opcode as length codes; an unlisted opcode has none. -/
def forms (op : BitVec 9) : List (BitVec 2) :=
  match aluRow op with
  | some r => (if r.f64 then [0] else []) ++ (if r.f96 then [1] else [])
  | none =>
    match op.toNat with
    | 0x027 => [2]
    | 0x029 | 0x02A => [1]
    | 0x0A0 | 0x0A2 | 0x0A4 | 0x0A5 | 0x0A6 | 0x0A7 | 0x0A9 | 0x0AA => [0]
    | 0x0A1 => [1, 2]
    | 0x0A3 | 0x0A8 => [1]
    | 0x0AB | 0x0AC => [0, 1]
    | 0x0C0 | 0x0C1 | 0x0C2 | 0x0C3 | 0x0C4 | 0x0C5 | 0x0C6 | 0x0C7 | 0x0C8 => [0, 1]
    | 0x0C9 | 0x0CE | 0x0D1 | 0x0D2 | 0x0D3 => [0]
    | 0x0CA | 0x0CB | 0x0CC | 0x0CD | 0x0CF | 0x0D0 => [0, 1]
    | 0x0D4 | 0x0D5 => [2]
    | 0x100 | 0x101 | 0x103 | 0x104 | 0x105 | 0x106 | 0x107 | 0x10C | 0x10D | 0x10E | 0x10F | 0x110 | 0x112 | 0x113 => [0]
    | 0x102 | 0x111 => [0, 1]
    | 0x108 | 0x109 | 0x10A | 0x10B => [2]
    | 0x140 | 0x142 | 0x145 | 0x146 => [0, 1]
    | 0x141 | 0x143 | 0x144 | 0x147 => [0]
    | 0x148 => [1]
    | 0x160 | 0x162 | 0x163 | 0x164 | 0x165 | 0x166 | 0x167 | 0x168 | 0x16B => [0]
    | 0x161 | 0x169 | 0x16A => [0, 1]
    | _ => []

/-! ### Field codes -/

def Rm.code : Rm → BitVec 2
  | .rn => 0 | .rz => 1 | .rd => 2 | .ru => 3
def Rm.ofCode (c : BitVec 2) : Rm :=
  match c.toNat with | 0 => .rn | 1 => .rz | 2 => .rd | _ => .ru
def Cond.ofCode (c : BitVec 4) : Cond :=
  match c.toNat with | 0 => .eq | 1 => .ne | 2 => .lt | 3 => .le | 4 => .gt | 5 => .ge | 6 => .num | _ => .nan
def Scope.code : Scope → BitVec 3
  | .team => 0 | .die => 1 | .dev => 2 | .sys => 3
def Scope.ofCode (c : BitVec 3) : Scope :=
  match c.toNat with | 0 => .team | 1 => .die | 2 => .dev | _ => .sys
def Ord.code : Ord → BitVec 2
  | .rlx => 0 | .acq => 1 | .rel => 2 | .ar => 3
def Ord.ofCode (c : BitVec 2) : Ord :=
  match c.toNat with | 0 => .rlx | 1 => .acq | 2 => .rel | _ => .ar
def Rt.code : Rt → BitVec 2
  | .cb => 0 | .wt => 1 | .si => 2 | .uc => 3
def Rt.ofCode (c : BitVec 2) : Rt :=
  match c.toNat with | 0 => .cb | 1 => .wt | 2 => .si | _ => .uc
def Width.code : Width → BitVec 3
  | .b8 => 0 | .b16 => 1 | .b32 => 2 | .b64 => 3 | .b128 => 4
def Width.ofCode (c : BitVec 3) : Width :=
  match c.toNat with | 0 => .b8 | 1 => .b16 | 2 => .b32 | 3 => .b64 | _ => .b128
def Width.bytes : Width → Nat
  | .b8 => 1 | .b16 => 2 | .b32 => 4 | .b64 => 8 | .b128 => 16
/-- R273: the registers that a value of a width takes. -/
def Width.regs : Width → Nat
  | .b8 | .b16 | .b32 => 1 | .b64 => 2 | .b128 => 4
def Level.code : Level → BitVec 2
  | .team => 0 | .band => 1 | .launch => 2 | .job => 3
def Level.ofCode (c : BitVec 2) : Level :=
  match c.toNat with | 0 => .team | 1 => .band | 2 => .launch | _ => .job
def TlbKind.code : TlbKind → BitVec 2
  | .all => 0 | .asid => 1 | .page => 2
def TlbKind.ofCode (c : BitVec 2) : TlbKind :=
  match c.toNat with | 0 => .all | 1 => .asid | _ => .page
def CollKind.code : CollKind → BitVec 2
  | .allReduce => 0 | .allGather => 1 | .reduceScatter => 2 | .broadcast => 3
def CollKind.ofCode (c : BitVec 2) : CollKind :=
  match c.toNat with | 0 => .allReduce | 1 => .allGather | 2 => .reduceScatter | _ => .broadcast
def CollOp.code : CollOp → BitVec 3
  | .add => 0 | .min => 1 | .max => 2
def CollOp.ofCode (c : BitVec 3) : CollOp :=
  match c.toNat with | 0 => .add | 1 => .min | _ => .max

/-! ### Encoding -/

/-- R33: the fields every instruction shares. -/
def Pre.raw (p : Pre) (op : BitVec 9) (len : BitVec 2) : Raw :=
  { len := len, sw := p.sw, re := p.re, op := op, g := p.g, gn := p.gn }

/-- R46: the F field of the INT, FLT and WARP groups. -/
def Alu.func (o : Alu) (xk : Bool) : BitVec 13 :=
  BitVec.ofBool xk ++ BitVec.ofBool o.pt ++ BitVec.ofBool o.sat ++ o.rm.code ++ o.sub ++ o.ty.code

/-- R41, R46, R112: the word of an INT, FLT or WARP instruction. -/
def Alu.raw (op : BitVec 9) (o : Alu) : Raw :=
  match o.b with
  | .reg r u => { o.p.raw op 0 with d := o.d, a := o.a, ua := o.ua, b := r, ub := u, c := o.c, f := o.func false }
  | .imm x => { o.p.raw op 1 with d := o.d, a := o.a, ua := o.ua, c := o.c, f := o.func false, x := x.setWidth 64 }
  | .const w e =>
    { o.p.raw op 1 with
      d := o.d, a := o.a, ua := o.ua, c := o.c, f := o.func true, x := (e ++ w : BitVec 20).setWidth 64 }

/-- R49: the F field of the MEM group. -/
def memFunc (last : Bool) (sc : Scope) (ord : Ord) (rt : Rt) (sx : Bool) (w : Width) : BitVec 13 :=
  (0 : BitVec 1) ++ BitVec.ofBool last ++ sc.code ++ ord.code ++ rt.code ++ BitVec.ofBool sx ++ w.code

/-- R49, R266: the word of a 64- or 96-bit MEM instruction. -/
def Mem.raw (op : BitVec 9) (o : Mem) : Raw :=
  let f := memFunc o.last o.sc o.ord o.rt o.sx o.w
  let r : Raw := { o.p.raw op 0 with d := o.d, a := o.a, ua := o.ua, b := o.b, ub := o.ub, c := o.c, f := f }
  match o.x with
  | none => r
  | some x => { r with len := 1, x := x.setWidth 64 }

/-- The place of a number: B in the 64-bit form, X in the 96-bit form. -/
def Num.put (n : Num) (r : Raw) : Raw :=
  match n with
  | .reg b => { r with len := 0, b := b }
  | .imm x => { r with len := 1, x := x.setWidth 64 }

/-- R158: the F field of the copy instructions. -/
def Copy.raw (op : BitVec 9) (o : Copy) : Raw :=
  { o.p.raw op 2 with
    d := o.d, a := o.a, b := o.b,
    f := (0 : BitVec 1) ++ BitVec.ofBool o.last ++ o.sc.code ++ (0 : BitVec 2) ++ o.rt.code ++ BitVec.ofBool o.edge ++ (0 : BitVec 3),
    x := o.d1 ++ o.d0 }

/-- R73, R112, R158, R208, R266, R326, R340, R352, R419, R446: the fields of an instruction's word.
The event steps have none. -/
def Instr.rawOther : Instr → Option Raw
  | .movw p d v => some { p.raw 0x027 2 with d := d, x := v }
  | .srd p d n => some { p.raw 0x029 1 with d := d, x := n.setWidth 64 }
  | .swr p a ua n => some { p.raw 0x02A 1 with a := a, ua := ua, x := n.setWidth 64 }
  | .nop p => some (p.raw 0x0A0 0)
  | .braUniform p x => some { p.raw 0x0A1 1 with x := x.setWidth 64 }
  | .braDivergent p x j => some { p.raw 0x0A1 2 with x := j ++ x }
  | .brx p a ua => some { p.raw 0x0A2 0 with a := a, ua := ua }
  | .call p x => some { p.raw 0x0A3 1 with x := x.setWidth 64 }
  | .calx p a ua => some { p.raw 0x0A4 0 with a := a, ua := ua }
  | .ret p a ua => some { p.raw 0x0A5 0 with a := a, ua := ua }
  | .join p => some (p.raw 0x0A6 0)
  | .exit p => some (p.raw 0x0A7 0)
  | .trap p code => some { p.raw 0x0A8 1 with x := code.setWidth 64 }
  | .brk p tag => some { p.raw 0x0A9 0 with c := tag }
  | .yieldw p => some (p.raw 0x0AA 0)
  | .wait p n => some (n.put (p.raw 0x0AB 0))
  | .prog p n => some (n.put (p.raw 0x0AC 0))
  | .cpmm o =>
    some { o.p.raw 0x0D4 2 with d := o.d, a := o.a, b := o.b, f := memFunc o.last o.sc .rlx o.rt false .b8, x := o.len.setWidth 64 }
  | .coll o =>
    some { o.p.raw 0x0D5 2 with
      d := o.d, a := o.a, b := o.b, f := memFunc false o.sc .rlx o.rt false .b8,
      x := (0 : BitVec 4) ++ o.root ++ o.ty.code ++ o.op.code ++ o.kind.code ++ o.group ++ o.count }
  | .tdset p a b => some { p.raw 0x100 0 with a := a, b := b }
  | .tdget p d b => some { p.raw 0x101 0 with d := d, b := b }
  | .tlset p a n => some (n.put { p.raw 0x102 0 with a := a })
  | .tlst p d b => some { p.raw 0x103 0 with d := d, b := b }
  | .tlwait p d b => some { p.raw 0x104 0 with d := d, b := b }
  | .tlfree p b => some { p.raw 0x105 0 with b := b }
  | .vclaim p d b => some { p.raw 0x106 0 with d := d, b := b }
  | .vrel p b => some { p.raw 0x107 0 with b := b }
  | .cpin o => some (o.raw 0x108)
  | .cpout o => some (o.raw 0x109)
  | .gth o => some (o.raw 0x10A)
  | .sct o => some (o.raw 0x10B)
  | .opfence p => some (p.raw 0x10C 0)
  | .post p d a sc => some { p.raw 0x10D 0 with d := d, a := a, f := (0 : BitVec 2) ++ sc.code ++ (0 : BitVec 8) }
  | .tkwait p d a n => some { p.raw 0x10E 0 with d := d, a := a, c := n.setWidth 7 }
  | .tktest p d a => some { p.raw 0x10F 0 with d := d, a := a }
  | .tkfree p a => some { p.raw 0x110 0 with a := a }
  | .fcset p a n => some (n.put { p.raw 0x111 0 with a := a })
  | .fcpub p a b => some { p.raw 0x112 0 with a := a, b := b }
  | .fcstat p d b => some { p.raw 0x113 0 with d := d, b := b }
  | .bara p d id l m => some (id.put { p.raw 0x140 0 with d := d, f := (0 : BitVec 3) ++ m ++ l.code })
  | .barw p d a => some { p.raw 0x141 0 with d := d, a := a }
  | .bars p d id l m => some (id.put { p.raw 0x142 0 with d := d, f := (0 : BitVec 3) ++ m ++ l.code })
  | .qpush p d a q spm nb =>
    some { p.raw 0x143 0 with d := d, a := a, c := q.setWidth 7, f := (0 : BitVec 11) ++ BitVec.ofBool nb ++ BitVec.ofBool spm }
  | .qpop p d a q spm nb =>
    some { p.raw 0x144 0 with d := d, a := a, c := q.setWidth 7, f := (0 : BitVec 11) ++ BitVec.ofBool nb ++ BitVec.ofBool spm }
  | .rgive p n => some (n.put (p.raw 0x145 0))
  | .rclaim p d n nb => some (n.put { p.raw 0x146 0 with d := d, f := (0 : BitVec 11) ++ BitVec.ofBool nb ++ (0 : BitVec 1) })
  | .sint p a svc => some { p.raw 0x147 0 with a := a, f := (0 : BitVec 12) ++ BitVec.ofBool svc }
  | .ship o =>
    some { o.p.raw 0x148 1 with
      d := o.d, a := o.a, ua := o.ua, b := o.b, ub := o.ub, c := o.c,
      f := (0 : BitVec 5) ++ o.nres ++ o.narg ++ BitVec.ofBool o.token, x := o.x.setWidth 64 }
  | .sret p a => some { p.raw 0x160 0 with a := a }
  | .tlbinv p k a n => some (n.put { p.raw 0x161 0 with a := a, f := (0 : BitVec 11) ++ k.code })
  | .replay p d a b => some { p.raw 0x162 0 with d := d, a := a, b := b }
  | .ctxkill p a => some { p.raw 0x163 0 with a := a }
  | .xrd p d c state => some { p.raw 0x164 0 with d := d, c := c, f := (0 : BitVec 12) ++ BitVec.ofBool state }
  | .xwr p a ua c state => some { p.raw 0x165 0 with a := a, ua := ua, c := c, f := (0 : BitVec 12) ++ BitVec.ofBool state }
  | .lnch p d a => some { p.raw 0x166 0 with d := d, a := a }
  | .gsave p d a => some { p.raw 0x167 0 with d := d, a := a }
  | .grest p d a => some { p.raw 0x168 0 with d := d, a := a }
  | .cntrd p d n ub => some (n.put { p.raw 0x169 0 with d := d, ub := ub })
  | .trial p a none => some { p.raw 0x16A 0 with a := a }
  | .trial p a (some n) => some (n.put { p.raw 0x16A 0 with a := a, f := 1 })
  | .wfi p d b => some { p.raw 0x16B 0 with d := d, b := b }
  | _ => none

/-- The fields of an instruction's word, for every instruction but the fill word. -/
def Instr.raw (i : Instr) : Option Raw :=
  match i.aluView with
  | some (op, o) => some (o.raw op)
  | none =>
    match i.memView with
    | some (op, o) => some (o.raw op)
    | none => i.rawOther

/-- R29, R30: an instruction's word and its length in bytes; none for the event steps. -/
def encode (i : Instr) : Option (Nat × BitVec 128) :=
  match i with
  | .fillWord => some (4, 3)
  | i => i.raw.map fun r => (lenBytes r.len, r.pack)

/-! ### Decoding -/

/-- R33: guard and markers of a word. -/
def Raw.pre (r : Raw) : Pre := { re := r.re, sw := r.sw, g := r.g, gn := r.gn }

/-- R41: source B of a word of the INT, FLT and WARP groups. -/
def Raw.srcB (r : Raw) : SrcB :=
  if r.len == 0 then .reg r.b r.ub
  else if r.f.getLsbD 12 then .const (r.x.extractLsb' 0 3) (r.x.extractLsb' 3 17)
  else .imm (r.x.extractLsb' 0 32)

def Raw.alu (r : Raw) : Alu :=
  { p := r.pre, ty := Ty.ofCode (r.f.extractLsb' 0 4), sub := r.f.extractLsb' 4 4, rm := Rm.ofCode (r.f.extractLsb' 8 2),
    sat := r.f.getLsbD 10, pt := r.f.getLsbD 11, d := r.d, a := r.a, ua := r.ua, b := r.srcB, c := r.c }

def Raw.xWord (r : Raw) : Word := r.x.extractLsb' 0 32

def Raw.num (r : Raw) : Num := if r.len == 0 then .reg r.b else .imm r.xWord

def Raw.rt (r : Raw) : Rt := Rt.ofCode (r.f.extractLsb' 4 2)
def Raw.sc (r : Raw) : Scope := Scope.ofCode (r.f.extractLsb' 8 3)

def Raw.mem (r : Raw) : Mem :=
  { p := r.pre, w := Width.ofCode (r.f.extractLsb' 0 3), sx := r.f.getLsbD 3, rt := r.rt, ord := Ord.ofCode (r.f.extractLsb' 6 2),
    sc := r.sc, last := r.f.getLsbD 11, d := r.d, a := r.a, ua := r.ua, b := r.b, ub := r.ub, c := r.c,
    x := if r.len == 0 then none else some r.xWord }

def Raw.copy (r : Raw) : Copy :=
  { p := r.pre, d := r.d, a := r.a, b := r.b, edge := r.f.getLsbD 3, rt := r.rt, sc := r.sc, last := r.f.getLsbD 11,
    d0 := r.xWord, d1 := r.x.extractLsb' 32 32 }

/-- R73: the instruction that a word's opcode and fields name, outside the INT, FLT, WARP and MEM tables. -/
def Raw.other (r : Raw) : Option Instr :=
  let p := r.pre
  match r.op.toNat with
  | 0x027 => some (.movw p r.d r.x)
  | 0x029 => some (.srd p r.d (r.x.extractLsb' 0 12))
  | 0x02A => some (.swr p r.a r.ua (r.x.extractLsb' 0 12))
  | 0x0A0 => some (.nop p)
  | 0x0A1 => some (if r.len == 1 then .braUniform p r.xWord else .braDivergent p r.xWord (r.x.extractLsb' 32 32))
  | 0x0A2 => some (.brx p r.a r.ua)
  | 0x0A3 => some (.call p r.xWord)
  | 0x0A4 => some (.calx p r.a r.ua)
  | 0x0A5 => some (.ret p r.a r.ua)
  | 0x0A6 => some (.join p)
  | 0x0A7 => some (.exit p)
  | 0x0A8 => some (.trap p (r.x.extractLsb' 0 8))
  | 0x0A9 => some (.brk p r.c)
  | 0x0AA => some (.yieldw p)
  | 0x0AB => some (.wait p r.num)
  | 0x0AC => some (.prog p r.num)
  | 0x0D4 => some (.cpmm { p := p, d := r.d, a := r.a, b := r.b, rt := r.rt, sc := r.sc, last := r.f.getLsbD 11, len := r.xWord })
  | 0x0D5 =>
    some (.coll { p := p, d := r.d, a := r.a, b := r.b, rt := r.rt, sc := r.sc, count := r.xWord, root := r.x.extractLsb' 47 13,
                  ty := Ty.ofCode (r.x.extractLsb' 43 4), op := CollOp.ofCode (r.x.extractLsb' 40 3),
                  kind := CollKind.ofCode (r.x.extractLsb' 38 2), group := r.x.extractLsb' 32 6 })
  | 0x100 => some (.tdset p r.a r.b)
  | 0x101 => some (.tdget p r.d r.b)
  | 0x102 => some (.tlset p r.a r.num)
  | 0x103 => some (.tlst p r.d r.b)
  | 0x104 => some (.tlwait p r.d r.b)
  | 0x105 => some (.tlfree p r.b)
  | 0x106 => some (.vclaim p r.d r.b)
  | 0x107 => some (.vrel p r.b)
  | 0x108 => some (.cpin r.copy)
  | 0x109 => some (.cpout r.copy)
  | 0x10A => some (.gth r.copy)
  | 0x10B => some (.sct r.copy)
  | 0x10C => some (.opfence p)
  | 0x10D => some (.post p r.d r.a r.sc)
  | 0x10E => some (.tkwait p r.d r.a (r.c.extractLsb' 0 3))
  | 0x10F => some (.tktest p r.d r.a)
  | 0x110 => some (.tkfree p r.a)
  | 0x111 => some (.fcset p r.a r.num)
  | 0x112 => some (.fcpub p r.a r.b)
  | 0x113 => some (.fcstat p r.d r.b)
  | 0x140 => some (.bara p r.d r.num (Level.ofCode (r.f.extractLsb' 0 2)) (r.f.extractLsb' 2 8))
  | 0x141 => some (.barw p r.d r.a)
  | 0x142 => some (.bars p r.d r.num (Level.ofCode (r.f.extractLsb' 0 2)) (r.f.extractLsb' 2 8))
  | 0x143 => some (.qpush p r.d r.a (r.c.extractLsb' 0 4) (r.f.getLsbD 0) (r.f.getLsbD 1))
  | 0x144 => some (.qpop p r.d r.a (r.c.extractLsb' 0 4) (r.f.getLsbD 0) (r.f.getLsbD 1))
  | 0x145 => some (.rgive p r.num)
  | 0x146 => some (.rclaim p r.d r.num (r.f.getLsbD 1))
  | 0x147 => some (.sint p r.a (r.f.getLsbD 0))
  | 0x148 =>
    some (.ship { p := p, d := r.d, a := r.a, ua := r.ua, b := r.b, ub := r.ub, c := r.c, token := r.f.getLsbD 0,
                  narg := r.f.extractLsb' 1 4, nres := r.f.extractLsb' 5 3, x := r.xWord })
  | 0x160 => some (.sret p r.a)
  | 0x161 => some (.tlbinv p (TlbKind.ofCode (r.f.extractLsb' 0 2)) r.a r.num)
  | 0x162 => some (.replay p r.d r.a r.b)
  | 0x163 => some (.ctxkill p r.a)
  | 0x164 => some (.xrd p r.d r.c (r.f.getLsbD 0))
  | 0x165 => some (.xwr p r.a r.ua r.c (r.f.getLsbD 0))
  | 0x166 => some (.lnch p r.d r.a)
  | 0x167 => some (.gsave p r.d r.a)
  | 0x168 => some (.grest p r.d r.a)
  | 0x169 => some (.cntrd p r.d r.num r.ub)
  | 0x16A => some (.trial p r.a (if r.f.getLsbD 0 then some r.num else none))
  | 0x16B => some (.wfi p r.d r.b)
  | _ => none

/-- R73: the instruction that a word's opcode and fields name. -/
def Raw.instr (r : Raw) : Option Instr :=
  match Instr.ofAlu r.op r.alu with
  | some i => some i
  | none =>
    match Instr.ofMem r.op r.mem with
    | some i => some i
    | none => r.other

/-- What stands at an address: an instruction with its length, or the reason why there is none. -/
inductive Decoded where
  | instr (i : Instr) (bytes : Nat)
  | reject (why : Reject)
  deriving DecidableEq, Repr

/-- R53, R54 steps 2 to 6: decodes the word at block offset `offset`; `w` holds the bytes from there on,
the first at bits [7:0]. -/
def decodeWord (offset : Nat) (w : BitVec 128) : Decoded :=
  let r := Raw.unpack w
  if offset + lenBytes r.len > 32 then .reject .crossing
  else if r.len == 3 then
    if w.extractLsb' 0 32 == 3 then .instr .fillWord 4 else .reject .badFill
  else if (forms r.op).isEmpty then .reject .unlisted
  else if !(forms r.op).contains r.len then .reject .undefinedForm
  else
    match r.instr with
    | none => .reject .unlisted
    | some i => if i.wellFormed && i.raw == some r then .instr i (lenBytes r.len) else .reject .reserved

/-- R3: the number that bytes hold, the first byte least significant. -/
def leNat : List Byte → Nat
  | [] => 0
  | b :: bs => b.toNat + 256 * leNat bs

/-- R3: the bytes of a number, least significant first. -/
def leBytes : Nat → Nat → List Byte
  | 0, _ => []
  | n + 1, v => BitVec.ofNat 8 v :: leBytes n (v / 256)

/-- Decodes the bytes that stand at block offset `offset`. -/
def decodeBytes (offset : Nat) (bs : List Byte) : Decoded :=
  decodeWord offset (BitVec.ofNat 128 (leNat (bs.take 16)))

/-- The instruction that the decoder reads from a word numbered as spec/opcode_table.json numbers it:
`nbits` bits of `w`, and zeros above them up to the longest instruction. -/
def decodeTableWord (nbits w : Nat) : Option Instr :=
  match decodeBytes 0 (leBytes 16 (w % 2 ^ nbits)) with
  | .instr i _ => some i
  | .reject _ => none

end Sys2Proof
end

