-- ==== Sys2Proof/Machine/Sparse.lean ====
section
/-! DEFINITION. Tables that list only what differs from their unlisted value, in one canonical form. -/

namespace Sys2Proof.Machine

/-- The value listed at a place. -/
def look {α : Type} : Sparse α → Nat → Option α
  | [], _ => none
  | (k, v) :: t, n => if n = k then some v else look t n

/-- Lists a value at a place, keeping keys strictly rising. -/
def place {α : Type} : Sparse α → Nat → α → Sparse α
  | [], n, x => [(n, x)]
  | (k, v) :: t, n, x =>
    if n < k then (n, x) :: (k, v) :: t
    else if n = k then (n, x) :: t
    else (k, v) :: place t n x

/-- Removes what is listed at a place. -/
def unlist {α : Type} : Sparse α → Nat → Sparse α
  | [], _ => []
  | (k, v) :: t, n => if n = k then unlist t n else (k, v) :: unlist t n

/-- Writes a value where unlisted places read as `d`. -/
def write {α : Type} [DecidableEq α] (d : α) (t : Sparse α) (n : Nat) (x : α) : Sparse α :=
  if x = d then unlist t n else place t n x

/-- Reads where unlisted places read as `d`. -/
def readOr {α : Type} (d : α) (t : Sparse α) (n : Nat) : α := (look t n).getD d

/-- Changes a listed value. -/
def adjust {α : Type} (t : Sparse α) (n : Nat) (f : α → α) : Sparse α :=
  match look t n with
  | some x => place t n (f x)
  | none => t

/-- Changes every listed value. -/
def mapVals {α : Type} (t : Sparse α) (f : Nat → α → α) : Sparse α := t.map fun (k, v) => (k, f k v)

/-- Keeps the listed values that pass a test. -/
def keep {α : Type} (t : Sparse α) (p : Nat → α → Bool) : Sparse α := t.filter fun (k, v) => p k v

/-- Does some listed value pass a test. -/
def someVal {α : Type} (t : Sparse α) (p : Nat → α → Bool) : Bool := t.any fun (k, v) => p k v

/-- The keys above `n` strictly rise and no value is the unlisted one. -/
def risingFrom {α : Type} [DecidableEq α] (d : α) : Nat → Sparse α → Bool
  | _, [] => true
  | n, (k, v) :: t => decide (n ≤ k) && !decide (v = d) && risingFrom d (k + 1) t

/-- Canonical form: keys strictly rising, no value equal to the unlisted one. -/
def canonical {α : Type} [DecidableEq α] (d : α) (t : Sparse α) : Bool := risingFrom d 0 t

/-- R217, R477: the canonical form of memory, whose unlisted bytes read as zero. -/
abbrev Memory.wf (m : List Host.Cell) : Bool := canonical (0 : Byte) m

/-- The n-th element of a list replaced. -/
def setNth {α : Type} : List α → Nat → α → List α
  | [], _, _ => []
  | _ :: t, 0, x => x :: t
  | y :: t, n + 1, x => y :: setNth t n x

/-- The values of a list, where every one is there. -/
def allSome {α : Type} (xs : List (Option α)) : Option (List α) :=
  xs.foldr (fun x acc => match x, acc with | some a, some as => some (a :: as) | _, _ => none) (some [])

/-- The threads of a mask, lowest first (R38, R270, R276). -/
def Mask.threads (m : Mask) : List Nat := (List.range 32).filter m.getLsbD

/-- The lowest thread of a mask (R9 `Uniform`). -/
def Mask.lowest (m : Mask) : Nat := ((List.range 32).find? m.getLsbD).getD 0

/-- A mask with the threads that pass a test. -/
def Mask.ofTest (p : Nat → Bool) : Mask :=
  BitVec.ofFnLE fun t : Fin 32 => p t

/-- The number of threads of a mask. -/
def Mask.size (m : Mask) : Nat := (Mask.threads m).length

end Sys2Proof.Machine
end

