-- ==== Sys2Proof/Config.lean ====
section
/-! DEFINITION. What the manual leaves open: free values, as constants without a body.
Nothing in Lean can evaluate one, so a claim holds whatever it is (notes/assumptions/1.md). -/

namespace Sys2Proof.Config

/-- R8: the n-th unspecified 32-bit value the machine produces. -/
opaque freeWord : Nat → BitVec 32

/-- R44, R57, R180, R272, R414: the n-th choice among the values a rule allows. -/
opaque pick : Nat → Nat

/-- R438: credits for a job's flits that a port holds toward its peer on a virtual channel before it has been given any. -/
opaque linkCredits : (tag vc : Nat) → Nat

/-- R1, R325: clocks that pass on a core between two steps of the device. -/
opaque elapsed : (core : Nat) → Nat → Nat

/-- R449, R455: the boot policy of the global ports, fixed at boot. -/
opaque bootPolicy : BitVec 64

/-- R476: the package temperature and the temperature of the saved calibration. -/
opaque temperature : Nat → BitVec 32
opaque calTemperature : BitVec 32

/-- R457, R458: the digests of the images that run after a start, by component 0-6. -/
opaque bootDigest : Nat → BitVec 384
/-- R457: the history digest H after a start. -/
opaque bootHistory : BitVec 384
/-- R457: security version of the running image. -/
opaque securityVersion : BitVec 32
/-- R458: SHA-384 of both identity public keys. -/
opaque identityDigest : BitVec 384
/-- R457: does an image carry valid signatures and a security version at or above the fused minimum. -/
opaque imageAccepted : List (BitVec 8) → Bool
/-- R457: SHA-384. -/
opaque sha384 : List (BitVec 8) → BitVec 384
/-- R458: the Ed25519 and ML-DSA-65 signatures under the device's keys, as byte streams. -/
opaque ed25519 : List (BitVec 8) → Nat → BitVec 8
opaque mlDsa65 : List (BitVec 8) → Nat → BitVec 8
/-- R455: debug unlock of the signed boot configuration. -/
opaque debugUnlock : Bool

/-- R450, R451: what the host's memory holds where the device has written nothing. -/
opaque hostByte : (address time : Nat) → BitVec 8

end Sys2Proof.Config
end

