-- ==== Sys2Proof/Machine/MemoryParts.lean ====
section
/-! DEFINITION. What memory is made of beside its bytes: cached lines, accesses in flight, translations
(R218, R225, R234, R321, R414). -/

namespace Sys2Proof.Machine

/-- R237, R416: who makes an access. -/
inductive Agent where
  | wide (core : Nat)
  | lat (lc : Nat)
  | engine (die : Nat)
  | hub
  deriving DecidableEq, Repr

/-- R218: a cached line; byte i of `data` is valid where bit i of `valid` is set. -/
structure Line where
  valid : BitVec 128 := 0
  dirty : BitVec 128 := 0
  data  : BitVec 1024 := 0
  si    : Bool := false          -- R219: dropped by R223 or R235
  uo    : Bool := false          -- R229: on a UO page
  asid  : Nat := 0               -- R235
  ctx   : Nat := 0               -- R223: whose store first made a byte dirty
  deriving DecidableEq, Repr

/-- R234: a WCB entry; the oldest has the smallest `born`. -/
structure Wcb where
  mask : BitVec 128 := 0
  data : BitVec 1024 := 0
  ctxs : List Nat := []          -- whose stores it holds, the latest first
  born : Nat := 0
  age  : Nat := 0
  site : DWord := 0
  sc   : Scope := .sys           -- R233: of the latest store
  rt   : Rt := .cb
  makers : List Who := []        -- R261: whose stores it holds, by actor
  deriving DecidableEq, Repr

/-- R276: what an atomic does at the home; `op` is the code of R50, 13 for `cas`. -/
structure AtomicOp where
  op      : Nat
  bytes   : Nat
  pa      : Nat
  operand : DWord
  compare : DWord
  load    : Option Nat           -- the load that waits for the old value
  thread  : Nat
  pc      : DWord := 0           -- R454: the instruction and its address
  va      : DWord := 0
  deriving DecidableEq, Repr

/-- R381: the split whose release writes bytes back. -/
structure Releaser where
  who  : Who
  ctx  : Nat
  site : DWord
  sc   : Scope := .team
  deriving DecidableEq, Repr

/-- R225, R241: a write on its way to its home; requests of one agent are performed in the order of keys
where a rule orders them. -/
structure WriteOp where
  agent  : Agent
  who    : Option Who := none
  line   : Nat                   -- device × 2^33 + line number
  mask   : BitVec 128 := 0
  data   : BitVec 1024 := 0
  atomic : Option AtomicOp := none
  rel    : Bool := false         -- R242: after everything its agent sent before
  relSys : Bool := false         -- R242: after its agent's earlier writes to other devices, too
  ord    : Ord := .rlx           -- R233: as its instruction gives them
  sc     : Scope := .sys
  rt     : Rt := .uc             -- R388: the type it uses
  asid   : Nat := 0              -- R383: its context's ASID as it left
  discard : Bool := false        -- R227, R285: counts as a write
  ctx    : Nat := 0
  site   : DWord := 0
  seq    : Word := 0
  team   : Word := 0
  so     : Bool := false         -- R230
  wb     : Bool := false         -- R381 WB
  evict  : Bool := false         -- R381 EVICT
  awaits : List Nat := []        -- R225: caches whose acknowledgement is outstanding, once held
  silent : List Nat := []        -- R225: caches that have been invalidated and have not been acknowledged
  deriving DecidableEq, Repr

/-- R321: one access of a load, toward the home. -/
structure ReadUnit where
  load   : Nat
  agent  : Agent
  who    : Who
  thread : Nat
  off    : Nat                   -- its place in the value
  line   : Nat
  pos    : Nat                   -- byte in the line
  bytes  : Nat
  fill   : Option Bool := none   -- R219: the line goes into L1, `true` for `si`
  asid   : Nat := 0
  stale  : Bool := false         -- R226: the fill is not installed
  strong : Bool := false
  so     : Bool := false         -- R230
  uo     : Bool := false         -- R229
  ord    : Ord := .rlx           -- R233: as its instruction gives them
  sc     : Scope := .sys
  rt     : Rt := .uc             -- R220: the type it uses
  ctx    : Nat := 0
  site   : DWord := 0
  seq    : Word := 0
  team   : Word := 0
  txn    : Option Nat := none    -- R233: asked of another device
  deriving DecidableEq, Repr

/-- R321: a load or a value-returning atomic whose value has not come together. -/
structure LoadOp where
  who    : Who
  pc     : DWord                 -- R485: the failing instruction
  reg    : Nat
  w      : Width
  sx     : Bool := false
  mask   : Mask                  -- its threads
  bytes  : Sparse Byte := []     -- thread × 16 + place
  left   : Nat                   -- accesses that have not returned
  strong : Bool := false
  acq    : Option Scope := none  -- R242
  eaddr  : List (Nat × DWord) := []
  failed : Option (Nat × Nat) := none   -- R485: thread and cause
  deriving DecidableEq, Repr

/-- R381, R388: what a home slice has done that no request names: a tracked cache invalidated, or bytes of one merged. -/
structure HomeEvent where
  merge : Bool                   -- a write-back; else an invalidation
  line  : Nat
  mask  : BitVec 128
  cache : Nat                    -- RDC of die d as d, latency core n as 4 + n
  asid  : Nat := 65536           -- whose access it serves; 65536 where no context's
  ctx   : Nat := 64
  agent : Agent := .hub
  dev   : Option Nat := none     -- another device, where it comes from one
  site  : DWord := 0
  seq   : Word := 0
  sc    : Scope := .team
  rt    : Rt := .cb
  deriving DecidableEq, Repr

/-- R414: a cached translation. -/
structure TlbEntry where
  asid : Nat
  glob : Bool
  base : Nat                     -- virtual address of the page
  size : Nat
  leaf : DWord
  level : Nat
  deriving DecidableEq, Repr

/-- R414: a page-table entry that leads to another table, as a walk of an accessed page read it; the range that it maps. -/
structure TableEntry where
  asid  : Nat
  pa    : Nat
  entry : DWord
  base  : Nat
  size  : Nat
  deriving DecidableEq, Repr

/-- R461, R470: a request to another device that awaits its response. -/
structure RemoteOp where
  dev    : Nat
  agent  : Agent
  who    : Option Who := none
  ctx    : Nat := 0
  ctxs   : List Nat := []        -- R234: every context whose stores a packet carries
  type   : Nat                   -- R461
  wcb    : Bool := false         -- a write: R234
  so     : Bool := false         -- R230
  ord    : Ord := .rlx           -- R233
  sc     : Scope := .sys
  rt     : Rt := .uc
  line   : Nat := 0
  mask   : BitVec 128 := 0       -- R234: masked bytes
  data   : BitVec 1024 := 0
  atomic : Option AtomicOp := none
  read   : Option Nat := none    -- the access that waits for the data
  copy   : Option Nat := none    -- the operation that waits
  ship   : Option ShipReq := none  -- the shipped request
  va     : DWord := 0            -- R471: the line, where an operation loses it
  seq    : Word := 0
  born   : Nat := 0
  site   : DWord := 0
  sent   : Bool := false         -- R461: its packet has been handed to the router
  stale  : Bool := false         -- R235: an `si` line that an operation reads and that no cache takes any more
  deriving DecidableEq, Repr

end Sys2Proof.Machine
end

