-- ==== Sys2Proof/Machine/HubParts.lean ====
section
/-! DEFINITION. The hub die: management registers, job table, ports, lasers, starts (R436 to R483). -/

namespace Sys2Proof.Machine

/-- R449 COLLg. -/
structure Group where
  n     : Nat := 0
  rank  : Nat := 0
  valid : Bool := false
  base  : Nat := 0
  deriving DecidableEq, Repr

/-- R437 STATE. -/
inductive JobSt where
  | free | run | stopping | off | restoring
  deriving DecidableEq, Repr

/-- R437: a job table entry, with what its switch in progress has come to. -/
structure Job where
  tag      : Nat := 0
  st       : JobSt := .free
  cond     : Bool := false        -- R437 COND, as software reads and writes it
  conducts : Bool := false        -- R439: this device conducts a switch of the job that has not ended
  grp      : Nat := 0
  serial   : Nat := 0
  share    : Nat := 0
  save     : Nat := 0
  late     : Nat := 0
  latesz   : Nat := 0
  saved    : Nat := 0
  latecnt  : Nat := 0
  latedrop : Nat := 0
  failcnt  : Nat := 0
  firstfail : Nat := 0
  conductor : Nat := 0            -- R439: the conducting device
  closed   : Bool := false        -- R439 step 3
  swept    : Nat := 0             -- R439: records written by the sweep in progress
  marks    : List (Nat × Nat) := []  -- R439: input ports and virtual channels that have delivered their marker
  heard    : List Nat := []       -- conductor: members that have reported
  sweptHere : Bool := false       -- R439 step 6
  going    : Bool := false        -- R443 step 4: re-injection
  restored : Bool := false        -- R443 step 2: it has reported RESTORED
  issuer   : Option Who := none   -- R447: the split that waits
  mailbox  : Bool := false        -- R449: the host's command waits
  went     : Bool := false        -- conductor: it has sent go (R443)
  results  : List (Who × Word × Word) := []  -- R447: the two words of a switch that has ended, for the split that has issued it
  dropped  : List Flit := []      -- R442: late flits that found no place
  ranks    : List Nat := []       -- R445: the members in rank order, as the job went off here
  deriving DecidableEq, Repr

/-- R461: a packet as the router holds it while flits of it are still to come, by its class of virtual channels. -/
structure Partial where
  src   : Nat
  dst   : Nat
  tag   : Nat
  cls   : Nat
  flits : List Flit
  deriving DecidableEq, Repr

/-- R438, R440: a flit in a router buffer: its input port and the output port that its packet has chosen. -/
structure Held where
  flit : Flit
  from_ : Nat
  out  : Nat                      -- 65 for ejection, 0x7F for none
  deriving DecidableEq, Repr

/-- R464 to R469, R474: a port of the fabric. -/
structure Port where
  st       : Nat := 0             -- R474 PSTATE
  tx       : BitVec 16 := 0
  rx       : BitVec 16 := 0
  dark     : BitVec 16 := 0       -- R473: transmit channels that no laser source lights
  dipped   : BitVec 16 := 0       -- R465
  lost     : BitVec 16 := 0       -- R465: receive channels that are lost
  back     : BitVec 16 := 0       -- R468: lost channels with a signal again
  peer     : Option (Nat × Nat) := none
  replayed : Nat := 0
  crc      : Nat := 0
  epoch    : Nat := 0
  stripe   : Option Nat := none   -- R467: RXMAP of a STRIPE that has been sent and not answered
  disable  : Bool := false
  nextSeq  : Nat := 0             -- R464
  unacked  : List Flit := []      -- R464: the replay buffer
  expect   : Nat := 0             -- R464: the SEQ expected
  nak      : Option Nat := none   -- R464: the SEQ of a NAK on its way
  heldNak  : Option Nat := none   -- R465: a NAK that waits for the end of a dip
  told     : BitVec 16 := 0       -- R467, R468: RXMAP as the peer last gave it
  widens   : Bool := false        -- R468: the STRIPE sent last brings a channel back
  tries    : Nat := 0             -- R464: replays without progress
  retrains : Nat := 0             -- R464: retrains within a second
  follow   : Sparse Nat := []     -- R462: output port of the packet that passes on a virtual channel
  credits  : Sparse Nat := []     -- R438: by virtual channel + 16 × tag: places of a job that the peer has granted
  owed     : Sparse Nat := []     -- R438: places here that have come free and that no flit has yet told the peer of
  control  : Option Flit := none  -- R438, R461: the link-control flit sent last with credits
  txKey    : Bool := false        -- R456: key index of each direction
  rxKey    : Bool := false
  deriving DecidableEq, Repr

/-- R473, R474: a laser source. -/
structure Laser where
  fault   : Bool := false
  latched : Bool := false         -- FAULT, until 1 is written
  removed : Bool := false
  deriving DecidableEq, Repr

/-- R449 GRANTi. -/
structure Grant where
  tag   : Nat := 0
  r     : Bool := false
  w     : Bool := false
  valid : Bool := false
  base  : Nat := 0
  limit : Nat := 0
  deriving DecidableEq, Repr

/-- R382, R439, R443, R471: a message to another device; it is sent until it is acknowledged. -/
inductive Message where
  | stop (tag serial : Nat)
  | swept (tag serial : Nat)
  | restore (tag serial : Nat)
  | restored (tag serial : Nat)
  | go (tag serial : Nat)
  | stay (tag serial : Nat)
  | running (tag serial : Nat)
  | debugStop (tag : Nat)         -- R382
  deriving DecidableEq, Repr

/-- R293, R295: what a packet of another member brings to a collective (notes/assumptions/142.md). -/
structure CollIn where
  group  : Nat
  number : Nat
  rank   : Nat
  kinds  : Nat                    -- its KIND, OP, TY and ROOT as one number
  count  : Nat
  part   : Nat                    -- which 128 bytes of its send buffer
  failed : Bool
  bytes  : List Byte
  deriving DecidableEq, Repr

/-- R477, R478: MODE of BOOTSTAT. -/
inductive BootMode where
  | starting | running | minimal
  deriving DecidableEq, Repr

/-- R448 to R483: the hub die. -/
structure Hub where
  devnum   : Nat := 0
  created  : Bool := false            -- R449: a context has been created
  ctxbase  : Nat := 0
  evqbase  : Nat := 0
  evqcfg   : Nat := 0
  evqtail  : Nat := 0
  evqhead  : Nat := 0
  evLost   : Nat := 0                 -- R449 EVQLOST
  evWait   : List (List Byte) := []   -- R453: host events not yet written
  wins     : Sparse (Nat × Nat) := [] -- R449 WINw: host base and size
  mbcmd    : Nat := 0
  mbarg    : Nat := 0
  mbaddr   : Nat := 0
  mbres    : Word × Word := (0, 0)
  busy     : Bool := false            -- R449 MBSTAT
  overrun  : Bool := false
  nonce    : Nat := 0
  apert    : Nat := 0
  groups   : Sparse Group := []
  jobs     : Sparse Job := []
  staging  : Sparse Byte := []        -- R449 LQc by 128 × c + offset
  lqstatus : Sparse Nat := []         -- R452
  grants   : Sparse Grant := []
  filairDown : Bool := false          -- R451
  filairDrop : Bool := false          -- R451: a store has been dropped
  ports    : Sparse Port := []
  lasers   : Sparse Laser := []
  buffers  : List Held := []          -- R438: flits in the router, in the order in which they came
  waiting  : List Flit := []          -- R438: flits that agents have not injected yet
  replays  : Sparse (List Held) := [] -- R443: records that wait for re-injection, by job entry
  partials : List Partial := []       -- R222: packets of which the tail is still to come
  collIn   : List CollIn := []        -- R293: what has come for collectives that have not ended here
  outbox   : List (Nat × Message) := []  -- messages on their way, by device
  links    : List (Nat × Nat) := []   -- R463: device and port of the live links of other devices
  cut      : List (Nat × Nat) := []   -- R20: failed links between dies
  unreachable : List Nat := []        -- R472
  mode     : BootMode := .running
  cold     : Bool := true
  wfail    : Nat := 0
  why      : Nat := 0
  replreq  : Bool := false
  noSpare  : Bool := false            -- R480 DEVSTAT[5]
  corrected : Nat := 0
  uncorrected : Nat := 0
  cleanmap : Nat := 0
  spares   : Sparse Nat := []         -- R480: stack to the channel that runs on its spare
  sparing  : Sparse Nat := []         -- R480: stack to the channel that is being copied
  images   : Sparse (BitVec 384) := []  -- R457: digests of components replaced since the start
  history  : List (BitVec 384) := []  -- R457: digests accepted since the start
  report   : List Byte := []          -- R458: the last report on its way to MBADDR
  hostOut  : List (Nat × List Byte) := []  -- R451, R453, R458: what has left for the host's memory, in order: host address and bytes
  signals  : List Nat := []           -- R450, R453: MSI-X vectors that have been signalled
  hostData : List (List Byte) := []   -- R450: what loads of the host have returned, in order
  deriving DecidableEq, Repr

end Sys2Proof.Machine
end

