-- ==== Sys2Proof/Machine/Strand.lean ====
section
/-! DEFINITION. Splits, strands and warps: what the registers of a warp, of its handler image and of a
hardware thread of a latency core consist of (R35, R70, R72, R314, R397, R402). -/

namespace Sys2Proof.Machine

/-- R314, R397 `STATE`. -/
inductive SplitSt where
  | free | ready | fetch | interlock | parked | exited
  deriving DecidableEq, Repr

/-- R322: the condition that a parked split waits on. -/
inductive Wake where
  | score                                         -- R51: SCORE empty
  | scoreOf (m : Mask)                            -- R332: SCORE holds no result of these threads
  | joined                                        -- R316: the join completes
  | barrier (lvl : Level) (id : Nat) (ps : List Nat) (arrived : Bool)  -- R342, R343: phases that complete
  | queueRoom (q : Nat)                           -- R347
  | queueElement (q : Nat)                        -- R347
  | monitor                                       -- R286
  | clocks                                        -- R338: the timer alone
  | predecessor                                   -- R290
  | tile (id : Nat)                               -- R164
  | token (t : Word)                              -- R184
  | tileEntry                                     -- R153
  | tokenEntry                                    -- R183
  | drained (mark : Nat) (sys : Bool)             -- R278: earlier writes acknowledged, earlier loads returned
  | settled (mark : Nat)                          -- R423: every access of the device before `mark` performed
  | remoteWrites (mark : Nat)                     -- R288: earlier remote stores acknowledged
  | sendRoom                                      -- R355
  | shipResult (seq : Word)                       -- R354
  | registers (n : Nat)                           -- R349: `rclaim` of `n`
  | serviceRing                                   -- R430
  | served                                        -- R430: an event has come
  | capture (hist : Nat)                          -- R196, R209, R210
  | contextGone (c : Nat)                         -- R426
  | launchRoom (c : Nat)                          -- R427
  | operation (key : Nat)                         -- R296
  | gang (tag : Nat)                              -- R447
  | fault (die : Nat) (serial : Nat) (va : DWord)  -- R402, R417: until `replay`
  | faultPlace (die : Nat)                        -- R417: a waiter place frees
  | sints                                         -- R350
  | returned (m : Mask)                           -- R241, R485: earlier loads of these threads have returned
  | loadDone (key : Nat)                          -- R242: an acquiring load has returned
  | scoreRoom (n : Nat)                           -- R314: SCORE has `n` free entries
  | debug                                         -- R335, R382: until the ZOU resumes it
  | strong (m : Mask)                             -- R241, R242: strong loads and atomics of these threads have returned
  | acked (lo hi : Nat)                           -- R278: the writes sent between two keys are acknowledged
  | half (hi : Bool) (xs : List (Nat × Nat × Nat × Nat))  -- R222: the other half of a 16-byte access: thread, team, offset, data
  deriving DecidableEq, Repr

/-- R397 PARK, with the condition and the clocks that are left of a timeout. -/
structure Park where
  reason : Nat                 -- R386 codes
  cond   : Wake
  left   : Option Nat := none
  site   : DWord := 0          -- R386: the instruction that parked, where PC is past it
  deriving DecidableEq, Repr

/-- R314 `SCORE`: a destination register and the threads whose result is outstanding. -/
structure ScoreEntry where
  reg  : Nat
  mask : Mask
  deriving DecidableEq, Repr

/-- R314 `STACK`; `pending` holds the threads that have reached the join (R316). -/
structure StackEntry where
  pc      : DWord
  mask    : Mask
  joinAt  : DWord
  pending : Mask := 0
  deriving DecidableEq, Repr

/-- R314 `JREC`: one join record, shared by the splits of its division. -/
structure JoinRec where
  joinAt   : DWord
  depth    : Nat
  expected : Mask
  arrived  : Mask := 0
  sw       : Bool := false      -- R51: a `join` that arrived carries the switch marker
  deriving DecidableEq, Repr

/-- R285, R287: a split's monitor. -/
structure Monitor where
  line   : Nat
  coarse : Bool := false
  hit    : Bool := false
  deriving DecidableEq, Repr

/-- R31, R314 FETCH: the fetch block that a split has fetched. -/
structure FetchBlock where
  base  : DWord
  bytes : List Byte
  deriving DecidableEq, Repr

/-- R354, R366: a shipped request of which a split or a token has, or awaits, the result: STATUS and RES0 to RES3. -/
structure ShipWait where
  thread : Nat
  core   : Nat
  seq    : Word
  far    : Bool := false
  res    : Option (List Word) := none
  deriving DecidableEq, Repr

/-- R314, R397: a split. -/
structure Split where
  pc     : DWord := 0
  exm    : Mask := 0
  score  : List ScoreEntry := []
  stack  : List StackEntry := []
  jrec   : List Nat := []
  mon    : Option Monitor := none
  st     : SplitSt := .free
  park   : Option Park := none
  stop   : Bool := false
  wake   : Bool := false
  rgn    : DWord := 0           -- R52
  fresh  : Bool := false        -- R52: the next instruction is a region entry
  since  : Nat := 0             -- R320: when it last became READY
  paid   : Nat := 0             -- R387
  stepping : Bool := false      -- R384: released for one instruction
  stepped : Bool := false       -- R384: that instruction has issued
  passed : List Nat := []       -- R380: comparators that have fired at this instruction
  again  : Bool := false        -- R322: the instruction at PC issued before and waits to go on
  mark   : Option Nat := none   -- R278: number of the last write that a waiting instruction covers
  block  : Option FetchBlock := none
  consumes : List Word := []    -- R184: tokens consumed at the next region entry
  redo   : Bool := false        -- R191: its region starts again, after a trap or a fault
  ships  : List ShipWait := []  -- R354: requests of a `ship.w` that the split waits for
  acqAt  : Nat := 0             -- R181: its last acquire
  keptDesc : List Word := []    -- R147, R209, R210: the descriptor as a waiting `fcset` or `fcpub` has read it
  deriving DecidableEq, Repr

/-- R321: a result on its way to one register, by thread. -/
structure Inbound where
  reg  : Nat
  vals : List (Nat × Word)
  deriving DecidableEq, Repr

/-- R402, R406, R485: a trap that has been raised and not yet taken. -/
structure Trap where
  split  : Nat
  ecause : Word
  epc    : DWord
  eaddr  : DWord
  after  : Bool := false        -- R402: RP is the instruction after `epc`
  len    : Nat := 0
  late   : Bool := false        -- R485: taken at the split's next instruction boundary
  made   : Option (DWord × Word) := none  -- R27, R378: the name of the operation that has failed
  deriving DecidableEq, Repr

/-- The registers and splits of a warp, of a handler image or of a latency-core thread. -/
structure Strand where
  regs   : Sparse Word := []    -- register n of thread t at 32 × n + t (R35, R396)
  nreg   : Nat := 0             -- R70 `%nreg`
  sstat  : Word := 0            -- R106 `%sstat`
  live   : Mask := 0            -- R70 `%live`
  clkh   : Sparse Word := []    -- R70 `%clkh`, by thread
  older  : List (Nat × Word) := []  -- R180: values replaced since the last `opfence`, by 32 × n + t
  splits : List Split := []
  joins  : Sparse JoinRec := []
  inbound : List Inbound := []
  traps  : List Trap := []
  epc    : DWord := 0           -- R72
  ecause : Word := 0
  eaddr  : DWord := 0
  deriving DecidableEq, Repr

/-- R25, R402, R403: a warp with its handler image. -/
structure Warp where
  main    : Strand := {}
  role    : Nat := 0
  lane    : Nat := 0
  place   : Nat := 0
  handler : Option Strand := none
  trapSplit : Nat := 0          -- R403: the trapping split
  rp      : DWord := 0          -- R402
  lnext   : Bool := false       -- R289
  ended   : Bool := false       -- its last thread has left (R332)
  deriving DecidableEq, Repr

end Sys2Proof.Machine
end

