-- ==== Sys2Proof/Machine/TeamParts.lean ====
section
/-! DEFINITION. Teams with their tiles, tokens and barriers, launches, asynchronous operations, forecast
histories and contexts (R147 to R212, R299 to R313, R341, R391 to R395). -/

namespace Sys2Proof.Machine

/-- R156: the states of a bound tile. -/
inductive TileSt where
  | empty | filling | ready | draining | prov
  deriving DecidableEq, Repr

/-- R153 to R156, R201: a bound tile. -/
structure Tile where
  spec : List Word := []          -- words 0-7 of R154
  st   : TileSt := .empty
  pins : List Nat := []           -- accepted tasks that read it
  sets : List Nat := []           -- R201: its check set
  own  : Option Nat := none       -- R198: the check it carries
  sc   : Scope := .team           -- R164: scope of what made it READY
  op   : Option Nat := none       -- the copy or task that fills or drains it
  raced : List Nat := []          -- R157: scratchpad offsets that threads have written while it is FILLING
  fc   : Bool := false            -- R164
  due  : Option (Who × List Word) := none  -- R196: the split whose `tlset` has yet to apply the version rules, and the entry as that issued
  deriving DecidableEq, Repr

/-- R188, R197: a fault of an operation that has not been delivered. -/
structure Deferred where
  warp  : Option Nat := none      -- the issuing warp; any warp of the team where none
  op    : Nat                     -- the operation
  token : Option Nat := none      -- its token's index
  tile  : Option Nat := none      -- the tile it fills or drains
  va    : DWord
  site  : DWord := 0              -- R27, R378: the operation's name
  seq   : Word := 0
  deriving DecidableEq, Repr

/-- R183: a token-table entry. -/
structure Token where
  gen    : BitVec 22 := 1
  used   : Bool := false
  done   : Bool := false
  status : Word := 0
  words  : List Word := []
  sc     : Scope := .team
  warp   : Nat := 0               -- R188: the issuing warp
  op     : Option Nat := none     -- the operation that runs
  freed  : Bool := false          -- R186: consumed before its completion
  ship   : List ShipWait := []    -- R369: the result block of a `ship.t`
  deriving DecidableEq, Repr

/-- R181: the accumulators of a completed task, by warp and first register; its token as index and generation; and when a thread first
saw the token complete. -/
structure AccDone where
  warp  : Nat
  base  : Nat
  token : Option (Nat × BitVec 22) := none
  seen  : Option Nat := none
  deriving DecidableEq, Repr

/-- R183, R184: the generation after one that has been consumed; 0 is never in use. -/
def nextGen (g : BitVec 22) : BitVec 22 := if g + 1 = 0 then 1 else g + 1

/-- R341: a barrier; `counts` lists the arrival count of each thread by number, 0 where none is listed;
`cur` and `next` are RMASK of the current and of the next phase, once a thread has arrived in it. -/
structure Barrier where
  phase  : Nat := 0
  cur    : Option Byte := none
  next   : Option Byte := none
  counts : Sparse Nat := []
  devs   : List Nat := []         -- R345: member devices whose arrival in this phase has come here
  sent   : Bool := false          -- R345: this device's arrival message has left
  failed : List Nat := []         -- R343: phases that ended with status 1
  deriving DecidableEq, Repr

/-- R395: a part of a team's image: the split blocks, the register areas, a scratchpad block and a vat slot by number. -/
inductive ImagePart where
  | splits | registers
  | block (n : Nat)
  | slot (n : Nat)
  deriving DecidableEq, Repr

/-- R25, R304, R395: a team. -/
structure Team where
  ctx    : Nat := 0
  launch : Nat := 0
  idx    : Nat := 0
  band   : Nat := 0
  brank  : Nat := 0
  stage  : Nat := 0
  die    : Nat := 0               -- the distributor that holds it
  core   : Option Nat := none     -- where it is resident
  swapped : Nat := 0              -- R399: when it was swapped out
  warps  : List Warp := []
  spadBytes : Nat := 0
  spad   : Sparse Byte := []
  spadOlder : List (Nat × Nat × Nat × Byte) := []  -- R180: warp, thread, offset and byte replaced since an `opfence`
  slots  : Sparse Nat := []       -- R152: team slot number to physical slot, where it has one
  held   : Sparse Unit := []      -- R152: team slot numbers that the team holds
  vat    : Sparse Byte := []      -- 16384 × team slot number + offset
  vatFree : Sparse Nat := []      -- R161: first free value of a claimed slot's unwritten bytes
  tiles  : Sparse Tile := []
  tokens : Sparse Token := []
  bars   : Sparse Barrier := []
  accs   : List AccDone := []     -- R181
  pool   : Nat := 0               -- R349
  claims : List (Nat × Nat × Nat) := []  -- R349: warp, split and count of the parked `rclaim`s, in order
  deferred : List Deferred := []  -- R188
  exited : Bool := false          -- R215: kept for its band
  image  : Nat := 0               -- R395: bytes of its image
  imageAt : Nat := 0              -- R395: where it lies
  pads   : Sparse Nat := []       -- R308, R399: block number of its scratchpad to the core's block, where it has one
  lines  : Option Nat := none     -- R398: the core whose register cache still holds its lines while it is away
  unsaved : List ImagePart := []   -- R398, R399, R401: parts of its image that are to be written now
  deriving DecidableEq, Repr

/-- R300. -/
structure Stage where
  entry : DWord
  teams : Nat
  roles : List Nat
  deriving DecidableEq, Repr

/-- R301, R347: a queue with its elements, oldest first. -/
structure Queue where
  depth  : Nat := 0
  elem   : Nat := 0
  cons   : Byte := 0
  prod   : Byte := 0
  base   : DWord := 0
  items  : List (List Word) := []
  head   : Nat := 0               -- elements taken so far
  spoiled : Bool := false         -- R301: a thread has stored to its storage
  pushWait : List Who := []
  popWait  : List Who := []
  deriving DecidableEq, Repr

/-- R299 to R301: a launch record with its tables. -/
structure LaunchRec where
  addr   : DWord := 0
  tmx    : Nat := 1
  tmy    : Nat := 1
  tmz    : Nat := 1
  prio   : Nat := 0
  regs   : Nat := 8
  band   : Nat := 1
  spad   : Nat := 0
  noEarly : Bool := false
  noSteal : Bool := false
  cevt   : Bool := false
  lid    : Word := 0
  pred   : Word := 0
  stages : List Stage := []
  queues : Sparse Queue := []
  wins   : List DWord := []
  deriving DecidableEq, Repr

/-- R303: an accepted launch that has not completed. -/
structure Launch where
  ctx    : Nat := 0
  record : LaunchRec := {}
  pred   : Option Nat := none     -- R265: the predecessor it waits for
  early  : Bool := false          -- R265: made resident early
  placed : List Nat := []         -- bands placed, by number
  gone   : Nat := 0               -- teams that have exited
  stolen : Sparse Nat := []       -- R306: chunk to its new distributor + 1
  moved  : Sparse Nat := []       -- R310: cores that a review has moved, with the stage whose teams they take
  born   : Nat := 0               -- R44: when it began
  ended  : Option Nat := none     -- R264: when its last team and operation had ended; its release is under way
  bandBars : Sparse Barrier := [] -- 4 × band + ID
  bars   : Sparse Barrier := []
  deriving DecidableEq, Repr

/-- R427: a record in a context's launch queue. -/
structure Queued where
  addr  : DWord
  bytes : List Byte
  host  : Bool := false
  deriving DecidableEq, Repr

/-- R166, R168, R291: a copy handed to a copy engine. -/
inductive CopyKind where
  | cpin | cpout | gth | sct | cpmm
  deriving DecidableEq, Repr

structure CopyOp where
  kind  : CopyKind
  ctx   : Nat
  die   : Nat
  agent : Agent
  team  : Option Nat := none
  warp  : Nat := 0
  lat   : Option Who := none      -- R296: the latency-core thread that waits
  token : Option Nat := none      -- token index
  tile  : Nat := 0
  spec  : List Word := []
  desc  : List Word := []
  olderBytes : List (Nat × Byte) := []  -- R180
  list  : DWord := 0              -- R168: index list; R291: source
  dst   : DWord := 0
  len   : Nat := 0
  bias  : Int := 0
  edge  : Bool := false
  rt    : Rt := .cb
  sc    : Scope := .team
  last  : Bool := false
  site  : DWord := 0
  seq   : Word := 0
  lidx  : Word := 0
  who   : Who := .lat 0 1         -- R253: whose earlier accesses come first
  mark  : Nat := 0
  held  : Bool := false           -- R207: a `cpout` of a PROV tile
  written : Bool := false         -- its writes to other devices await their acknowledgements
  done  : List Nat := []          -- R256: writes already made, by number
  bad   : Nat := 0                -- R168
  fault : Option (Nat × Nat × Nat) := none  -- R189: die and serial it waits on, and the address
  deferred : Bool := false        -- R188: failed, not yet delivered
  status : Option Word := none    -- R296: its status, for a latency-core thread
  deriving DecidableEq, Repr

/-- R170, R174, R205: a tile task. -/
structure Task where
  ctx   : Nat
  team  : Nat
  core  : Nat
  warp  : Nat                     -- R188: the posting warp
  order : Nat                     -- post order
  record : List Word := []
  descs : List (List Word) := []  -- DA, DB, DO as captured
  token : Option Nat := none
  deps  : List Nat := []          -- operations it depends on
  sc    : Scope := .team
  who   : Who := .lat 0 1
  mark  : Nat := 0
  site  : DWord := 0
  seq   : Word := 0
  running : Bool := false
  engine : Nat := 0
  started : Bool := false         -- R205
  ended : Bool := false           -- its computation has ended (R202)
  sets  : List Nat := []          -- R201
  shadow : Sparse Word := []      -- R175: 64 registers × 32 threads
  older  : List (Nat × Word) := []  -- R180: register values that the task may still see
  olderBytes : List (Nat × Byte) := []  -- R180: scratchpad bytes that it may still see
  spoiled : List Nat := []        -- R181: registers written by a thread meanwhile
  fault : Option (Nat × Nat × Nat) := none
  deferred : Bool := false
  deriving DecidableEq, Repr

/-- R210: how a capture ended whose issuer has not gone on. -/
structure CaptureEnd where
  who   : Who
  good  : Bool
  cause : Nat
  va    : DWord
  site  : DWord
  seq   : Word
  deriving DecidableEq, Repr

/-- R193, R194, R210: the forecast history of a context and a history area. -/
structure Hist where
  ctx   : Nat
  base  : Nat
  vlast : Word := 0
  nhist : Nat := 0
  commits : Word := 0
  squashes : Word := 0
  cascSum : Word := 0
  cascMax : Word := 0
  plane0 : Sparse Byte := []
  plane1 : Sparse Byte := []
  capture : Option (Word × Nat) := none  -- version and descriptor being captured
  captor : Option Who := none
  mark  : Nat := 0
  done  : Option Bool := none     -- the capture has ended: true good
  ended : List CaptureEnd := []   -- R210: earlier ones whose issuers still wait
  failVa : DWord := 0
  failCause : Nat := 0
  fault : Option (Nat × Nat × Nat) := none
  site  : DWord := 0
  seq   : Word := 0
  desc  : List Word := []
  deriving DecidableEq, Repr

/-- R195, R198: the prediction and the check of one PROV tile. -/
structure Check where
  ctx   : Nat
  team  : Nat
  tile  : Nat
  hist  : Nat
  ver   : Word
  desc  : List Word               -- as it stood at `tlset` (R196)
  written : Bool := false         -- the prediction stands in the tile
  gone  : Bool := false           -- R199: cancelled
  site  : DWord := 0
  seq   : Word := 0
  ready : Option Nat := none      -- R198: when the capture of its version ended
  fault : Option (Nat × Nat × Nat) := none
  deriving DecidableEq, Repr

/-- R293 to R295: a collective accepted on this device. -/
structure CollOpn where
  ctx   : Nat
  team  : Option Nat := none
  warp  : Nat := 0
  lat   : Option Who := none
  token : Option Nat := none
  agent : Agent
  group : Nat
  n     : Nat                     -- R292: N and rank of the entry
  rank  : Nat
  number : Nat                    -- R293: its place among the group's
  send  : DWord
  recv  : DWord
  count : Nat
  root  : Nat
  ty    : Ty
  op    : CollOp
  kind  : CollKind
  rt    : Rt
  sc    : Scope
  who   : Who := .lat 0 1
  mark  : Nat := 0
  site  : DWord := 0
  seq   : Word := 0
  lidx  : Word := 0
  done  : List Nat := []          -- R256: writes already made, by number
  own   : Option (List Byte) := none  -- its send buffer, once it has been read and sent to the other members
  written : Option Word := none   -- the status with which it ends once its writes are acknowledged
  fault : Option (Nat × Nat × Nat) := none
  deferred : Bool := false
  status : Option Word := none
  deriving DecidableEq, Repr

/-- R387, R431: a causal experiment. -/
structure Experiment where
  lo  : DWord
  hi  : DWord
  s   : Nat
  dur : Nat
  die : Nat := 0                  -- the die whose clocks it runs for
  left : Nat                      -- clocks that remain
  total : Sparse Nat := []        -- D of each die
  fresh : Sparse Nat := []        -- increments that a die has not yet exchanged
  prog0 : Sparse DWord := []      -- progress counters at the start
  deriving DecidableEq, Repr

/-- R387: the result of an experiment: its spec, D, and the progress counters at its start and end. -/
structure TrialResult where
  lo  : DWord
  hi  : DWord
  s   : Nat
  dur : Nat
  total : Nat
  prog0 : Sparse DWord
  prog1 : Sparse DWord
  deriving DecidableEq, Repr

/-- R395: a band that a distributor could not place for want of room in the pool, and whether an image has been freed since. -/
structure PoolWait where
  launch : Nat
  band   : Nat
  freed  : Bool := false
  deriving DecidableEq, Repr

/-- R391 to R394: a context; the values that software may rewrite stand in memory (R393). -/
structure Ctx where
  valid  : Bool := false
  cblk   : Nat := 0
  dying  : Bool := false          -- R426
  priv   : Bool := false
  prio   : Nat := 0
  qperm  : Bool := false
  ten    : BitVec 5 := 0
  asid   : Nat := 0
  ptbase : Nat := 0
  stvec  : DWord := 0
  asidW  : Nat := 0               -- R394: as written, in use after `tlbinv.all`
  asidBy : Option Who := none     -- R72: the split that wrote ASID since the last `tlbinv.all`
  ptbaseW : Nat := 0
  stvecW : DWord := 0
  seed   : DWord := 0
  job    : Nat := 0
  sstk   : DWord := 0
  pool   : Nat := 0
  poolsz : Nat := 0
  evbase : Nat := 0
  evsize : Nat := 0
  evtail : Nat := 0
  evlost : Nat := 0
  smbase : Nat := 0
  smsize : Nat := 0
  smtail : Nat := 0
  smlost : Nat := 0
  descs  : Sparse (List Word) := []   -- R147
  cnt    : Sparse DWord := []         -- R389
  prog   : Sparse DWord := []         -- R339
  queue  : List Queued := []          -- R427
  sints  : Nat := 0                   -- R350
  trial  : Option Experiment := none  -- R387
  trials : List TrialResult := []     -- R387: results written
  jobBars : Sparse Barrier := []      -- R341
  poolWait : Sparse PoolWait := []    -- R395: by distributor
  live   : Sparse DWord := []         -- R389: counts that a die has not added to the image: 128 × die + counter
  shown  : Sparse (List Byte) := []   -- R392, R393: fields of the block, by offset, as the Z4 left them
  deriving DecidableEq, Repr

end Sys2Proof.Machine
end

