-- ==== Sys2Proof/Machine/State.lean ====
section
/-! DEFINITION. The state of one Z4 device, as plain data, and the state after reset. -/

namespace Sys2Proof.Machine

/-- R15, R70, R378: a wide core. -/
structure Core where
  clk    : DWord := 0
  mhz    : Nat := 2400            -- R13, R323
  blocks : Sparse Nat := []       -- R308: scratchpad block to its team + 1
  spare  : List Nat := []         -- R308: scratchpad blocks that no team holds
  l1     : Sparse Line := []
  wcb    : Sparse Wcb := []
  icache : Sparse (List Byte) := []  -- R57: fetch block by device × 2^35 + block number
  tlb    : List TlbEntry := []
  slots  : Sparse Nat := []       -- R152: physical slot to its team + 1
  sendq  : List ShipReq := []     -- R355
  seqs   : Sparse Word := []      -- R378: command counter of each context
  sampleAt : Nat := 0             -- R386: the split place visited next
  sampled : DWord := 0            -- R386: the core's clock at its last sample
  lanes  : Sparse (Who × DWord) := []  -- R386: the split that issued last on each lane, and its instruction
  deriving DecidableEq, Repr

/-- R416, R417: a fault entry that waits for its `replay`, or is held while the ring is full. -/
structure FaultEntry where
  serial : Nat
  asid   : Nat
  page   : Nat
  write  : Bool
  kind   : Nat
  cause  : Nat
  level  : Nat
  src    : Nat                    -- [43:36] and [35:32] of R416 as source core × 16 + source die
  site   : DWord
  seq    : Word
  team   : Word
  clk    : DWord
  slot   : Nat := 0               -- its place in the ring
  held   : Bool := false
  count  : Nat := 1
  ctx    : Nat := 0               -- the context of the first fault (R418)
  deriving DecidableEq, Repr

/-- R417: who waits for an entry. -/
inductive Waiter where
  | split (w : Who)
  | copy (key : Nat)
  | task (key : Nat)
  | hist (key : Nat)
  | check (key : Nat)
  | coll (key : Nat)
  deriving DecidableEq, Repr

/-- R418: a service event. -/
structure SvEvent where
  kind : Nat
  ctx  : Nat
  arg  : Word
  site : DWord := 0
  seq  : Word := 0
  team : Word := 0
  clk  : DWord := 0
  deriving DecidableEq, Repr

/-- R379, R380, R381: a comparator or a watch range. -/
structure Watch where
  lo   : DWord := 0
  hi   : DWord := 0
  ctl  : Word := 0
  deriving DecidableEq, Repr

/-- R335, R380 to R384: a debug report. -/
structure DebugReport where
  cause : Word                    -- 0x30, 0x31 or 0x32
  ctx   : Nat
  mode  : Nat
  flags : Nat := 0                -- 1 ASYNC, 2 WB, 4 EVICT, 8 GONE
  tag   : Nat := 0                -- `brk`
  site  : DWord := 0
  seq   : Word := 0
  team  : Word := 0
  addr  : DWord := 0              -- the physical line, of a watch range
  deriving DecidableEq, Repr

/-- R388: tracing that system software has enabled: an ASID and a physical range. -/
structure TraceRange where
  asid : Nat
  lo   : Nat
  hi   : Nat
  deriving DecidableEq, Repr

/-- R12: a compute die. -/
structure Die where
  clk     : DWord := 0            -- R408
  fqbase  : DWord := 0            -- R72, R394
  serial  : Nat := 0              -- R416
  entries : List FaultEntry := [] -- R417: open and held, in the order in which they were first raised
  waiters : List (Nat × Waiter) := []  -- by serial
  heldSv  : List SvEvent := []    -- R418
  tlb     : List TlbEntry := []   -- R414
  tables  : List TableEntry := [] -- R414: table entries that the walkers may have cached
  rdc     : Sparse Line := []     -- R218
  fenced  : Bool := false         -- R228, R481
  turn    : Nat := 0              -- R312: the next context in rotation order
  holders : List (Nat × Nat × Nat) := []  -- R312: context, core and end of its turn
  zctl    : Word := 0             -- R379
  reports : List DebugReport := []
  traced  : List TraceRange := []
  trace   : List (List Byte) := []  -- R388: records in the trace ring
  traceSize : Nat := 0
  traceLost : Nat := 0
  sampint : Word := 0x00010000
  ranges  : Sparse Watch := []    -- R379 WBASEw, WLIMw, WCTLw
  comps   : Sparse Watch := []    -- R379 PADDRc.n, PCTLc.n by 16 × c + n, `hi` unused
  deriving DecidableEq, Repr

/-- R68, R71: the strand of a hardware thread of a latency core before it has run. -/
def latStrand : Strand := { nreg := 128, live := 1, splits := [{ exm := 1 }] }

/-- R17, R358: a hardware thread of a latency core. -/
structure LatThread where
  main    : Strand := latStrand
  ctx     : Nat := 0
  serving : Option ShipReq := none  -- thread 0: the section in service
  spent   : Nat := 0              -- R365: time against the watchdog
  active  : Bool := false
  handler : Option Strand := none
  rp      : DWord := 0
  deriving DecidableEq, Repr

/-- R17: a latency core. -/
structure Lc where
  clk   : DWord := 0
  t0    : LatThread := {}
  t1    : LatThread := {}
  homeq : List ShipReq := []      -- R358
  doorq : List ShipReq := []      -- R355, R358: requests of other devices that wait for room; their senders' buffers hold them
  icache : Sparse (List Byte) := []  -- R57
  cache : Sparse Line := []       -- R218
  seqs  : Sparse Word := []
  deriving DecidableEq, Repr

/-- Whose turn it is: a strand issues its next instruction, an event of a strand takes place, an event, the input
that comes next, the router, or a service that system software starts. -/
inductive Turn where
  | issue (w : Who)
  | about (w : Who) (i : Instr)
  | event (i : Instr)
  | input
  | router
  | service                       -- system software starts a service
  | farStop                       -- R382: a debug stop of another device
  | hostRead                      -- R450: a load of the host from BAR0
  deriving DecidableEq, Repr

/-- The state of the device. -/
structure State where
  mem    : List Host.Cell := []   -- R217: HBM4, canonical, unlisted bytes zero
  poison : Sparse Bool := []      -- R236: bytes with an uncorrectable error
  stored : List (Nat × Nat × Word) := []  -- R44: (word address / 4, when it was replaced, value) of earlier values
  out    : Sparse WriteOp := []   -- R241: writes on their way to their home
  held   : Sparse WriteOp := []   -- R225: writes held at their home
  reads  : Sparse ReadUnit := []
  loads  : Sparse LoadOp := []
  remote : Sparse RemoteOp := []  -- by TXN
  txn    : Nat := 0
  homeLog : List HomeEvent := []  -- R381, R388: not yet checked and traced
  fetched : Sparse (Sparse Byte) := []  -- R256: bytes of other devices that an operation has read, by 2^40 × device + address
  ctxs   : Sparse Ctx := []
  launches : Sparse Launch := []
  teams  : Sparse Team := []
  cores  : Sparse Core := []
  dies   : Sparse Die := []
  lcs    : Sparse Lc := []
  copies : Sparse CopyOp := []
  tasks  : Sparse Task := []
  checks : Sparse Check := []
  hists  : Sparse Hist := []
  colls  : Sparse CollOpn := []
  collSeq : Sparse Nat := []
  results : List ShipRes := []    -- R366: results on their way to their senders
  hub    : Hub := {}
  inputs : List Instr := []
  hostReads : List (Nat × Nat) := []  -- R450: loads of the host from BAR0 that come in: offset and bytes
  farStops : List Nat := []       -- R382: debug stops of other devices that come in, by job tag
  services : List (Nat × Nat × DWord) := []  -- services that system software starts: latency core, context and entry
  turn   : Option Turn := none
  focus  : Who := .lat 0 1
  oracle : Nat := 0
  nextKey : Nat := 0
  deriving DecidableEq, Repr

/-- Why the model stops. No event of the manual stops the machine. -/
inductive Fault where
  /-- Raised by `step` and by an instruction's meaning where the strand that is to act does not exist;
  no run of the device comes there, since only existing strands are given a turn. Safe. -/
  | noStrand
  deriving DecidableEq, Repr

/-- Why the model gives no meaning. -/
inductive Refusal where
  /-- Raised by a refused arm of Machine/Dispatch.lean. Safe. -/
  | notModelled (mnemonic : String)
  deriving DecidableEq, Repr

/-- R6, R72, R308, R379, R391, R449, R477: the device after a cold start: memory scrubbed to zero, every table empty. -/
def State.reset : State := {}

end Sys2Proof.Machine
end

