-- ==== Sys2Proof/Machine/Home.lean ====
section
/-! DEFINITION. The home of a line: bytes of HBM4, what a write at the home does, and the reads that the
Z4's own agents make there (R217, R221, R225, R236, R285). -/

namespace Sys2Proof.Machine

/-- R217: the end of HBM4. -/
def hbmEnd : Nat := 0x9000000000

/-- R14: this device's number. -/
def State.dev (s : State) : Nat := s.hub.devnum

/-- Number of the line that holds a physical address of a device. -/
def lineNo (dev pa : Nat) : Nat := dev * 2 ^ 33 + pa / 128

def lineDev (l : Nat) : Nat := l / 2 ^ 33
def linePa (l : Nat) : Nat := l % 2 ^ 33 * 128

/-- R217: home die of a physical address. -/
def homeDie (pa : Nat) : Nat := pa / 4096 % 4

def byteAt (m : List Host.Cell) (a : Nat) : Byte := readOr 0 m a
def setByte (m : List Host.Cell) (a : Nat) (b : Byte) : List Host.Cell := write 0 m a b

/-- R3: bytes from an address on, lowest first. -/
def bytesAt (m : List Host.Cell) (a : Nat) : Nat → List Byte
  | 0 => []
  | n + 1 => byteAt m a :: bytesAt m (a + 1) n

def setBytes (m : List Host.Cell) (a : Nat) : List Byte → List Host.Cell
  | [] => m
  | b :: bs => setBytes (setByte m a b) (a + 1) bs

/-- R3: the word at an address. -/
def wordAt (m : List Host.Cell) (a : Nat) : Word := BitVec.ofNat 32 (leNat (bytesAt m a 4))
def dwordAt (m : List Host.Cell) (a : Nat) : DWord := BitVec.ofNat 64 (leNat (bytesAt m a 8))

/-- Byte i of a line's data. -/
def dataByte (d : BitVec 1024) (i : Nat) : Byte := d.extractLsb' (8 * i) 8

/-- A line's data with byte i replaced. -/
def setDataByte (d : BitVec 1024) (i : Nat) (b : Byte) : BitVec 1024 :=
  (d &&& ~~~ (0xFF#1024 <<< (8 * i))) ||| (b.setWidth 1024 <<< (8 * i))

def maskBit (i : Nat) : BitVec 128 := 1#128 <<< i

/-- Mask and data of bytes that start at a place of a line. -/
def lineBytes (pos : Nat) (bs : List Byte) : BitVec 128 × BitVec 1024 :=
  (BitVec.ofNat 128 ((2 ^ bs.length - 1) * 2 ^ pos), BitVec.ofNat 1024 (leNat bs * 2 ^ (8 * pos)))

/-- The places of a mask, lowest first. -/
def maskPlaces (m : BitVec 128) : List Nat := (List.range 128).filter m.getLsbD

/-- R221: memory with the masked bytes of a line replaced. -/
def mergeLine (m : List Host.Cell) (line : Nat) (mask : BitVec 128) (data : BitVec 1024) : List Host.Cell :=
  (maskPlaces mask).foldl (fun m i => setByte m (linePa line + i) (dataByte data i)) m

/-- R44: the words of a line that a merge replaces by another value. -/
def replacedWords (old new : List Host.Cell) (line key : Nat) : List (Nat × Nat × Word) :=
  (List.range 32).filterMap fun i =>
    let a := linePa line + 4 * i
    if wordAt old a = wordAt new a then none else some (a / 4, key, wordAt old a)

/-- R285: a write merged at the home is recorded against the monitors of its line. -/
def Split.record (line : Nat) (k : Split) : Split :=
  match k.mon with
  | some m => if m.line = line && !m.coarse then { k with mon := some { m with hit := true } } else k
  | none => k

def Strand.recordLine (line : Nat) (st : Strand) : Strand := { st with splits := st.splits.map (Split.record line) }

def Warp.recordLine (line : Nat) (w : Warp) : Warp :=
  { w with main := w.main.recordLine line, handler := w.handler.map (Strand.recordLine line) }

def LatThread.recordLine (line : Nat) (h : LatThread) : LatThread :=
  { h with main := h.main.recordLine line, handler := h.handler.map (Strand.recordLine line) }

def State.recordLine (s : State) (line : Nat) : State :=
  { s with
    teams := s.teams.map fun (k, t) => (k, { t with warps := t.warps.map (Warp.recordLine line) }),
    lcs := s.lcs.map fun (k, l) => (k, { l with t0 := l.t0.recordLine line, t1 := l.t1.recordLine line }) }

/-- R221, R236, R285: masked bytes of a line of this device merge into the home copy. -/
def State.merge (s : State) (line : Nat) (mask : BitVec 128) (data : BitVec 1024) : State :=
  let m := mergeLine s.mem line mask data
  let s := { s with
    mem := m,
    stored := s.stored ++ replacedWords s.mem m line s.nextKey,
    poison := (maskPlaces mask).foldl (fun p i => unlist p (linePa line + i)) s.poison,
    nextKey := s.nextKey + 1 }
  s.recordLine line

/-- R225: the dirty bytes that latency cores hold of a line merge at the home; they keep it clean. -/
def State.recall (s : State) (line : Nat) : State :=
  s.lcs.foldl (fun s (k, lc) =>
    match look lc.cache line with
    | none => s
    | some l =>
      if l.dirty = 0 then s
      else
        let s := s.merge line l.dirty l.data
        let asid := ((look s.ctxs l.ctx).map Ctx.asid).getD 65536
        let s := { s with homeLog := s.homeLog ++ [({ merge := true, line := line, mask := l.dirty, cache := 4 + k, ctx := l.ctx, asid := asid, agent := .lat k } : HomeEvent)] }
        { s with lcs := adjust s.lcs k fun lc => { lc with cache := place lc.cache line { l with dirty := 0 } } }) s

/-- The lines of this device that a range of bytes touches. -/
def State.linesOf (s : State) (pa n : Nat) : List Nat :=
  (List.range ((pa % 128 + n + 127) / 128)).map fun i => lineNo s.dev pa + i

/-- R225: bytes as the home serves them. -/
def State.homeRead (s : State) (pa n : Nat) : State × List Byte :=
  let s := (s.linesOf pa n).foldl State.recall s
  (s, bytesAt s.mem pa n)

/-- R218: the tracked caches that hold a line of this device: RDC of die d as d, latency core n as 4 + n. -/
def State.sharers (s : State) (line : Nat) : List Nat :=
  (s.dies.filterMap fun (d, x) => if (look x.rdc line).isSome then some d else none) ++
  (s.lcs.filterMap fun (n, l) => if (look l.cache line).isSome then some (4 + n) else none)

/-- R225: no tracked cache holds the line any more. -/
def State.dropSharers (s : State) (line : Nat) : State :=
  { s with
    homeLog := s.homeLog ++ (s.sharers line).map fun c => ({ merge := false, line := line, mask := BitVec.allOnes 128, cache := c } : HomeEvent),
    dies := s.dies.map fun (k, d) => (k, { d with rdc := unlist d.rdc line }),
    lcs := s.lcs.map fun (k, l) => (k, { l with cache := unlist l.cache line }) }

/-- R225: bytes of one line of this device are written at the home: recall, invalidate, merge. -/
def State.homeWriteLine (s : State) (pa : Nat) (bs : List Byte) : State :=
  let line := lineNo s.dev pa
  let (mask, data) := lineBytes (pa % 128) bs
  ((s.recall line).dropSharers line).merge line mask data

/-- The pieces of a run of bytes that each lie in one line. -/
def linePieces (pa : Nat) (bs : List Byte) : Nat → List (Nat × List Byte)
  | 0 => []
  | n + 1 =>
    let first := 128 - pa % 128
    if bs.length ≤ first then [(pa, bs)] else (pa, bs.take first) :: linePieces (pa + first) (bs.drop first) n

/-- R378, R388: what the home has done since its log was `n` long, for an access that has a name. -/
def State.nameHome (s : State) (n : Nat) (f : HomeEvent → HomeEvent) : State :=
  { s with homeLog := s.homeLog.take n ++ (s.homeLog.drop n).map fun h => if h.merge then h else f h }

/-- A write that the Z4 itself makes at the home, line by line. -/
def State.homeWrite (s : State) (pa : Nat) (bs : List Byte) : State :=
  if bs.isEmpty then s
  else (linePieces pa bs (bs.length / 128 + 2)).foldl (fun s p => s.homeWriteLine p.1 p.2) s

/-- R396, R399: whole lines of this device are written at the home: the listed bytes, by offset, and zero elsewhere. -/
def State.homeFill (s : State) (pa n : Nat) (bs : List (Nat × Byte)) : State :=
  let inside (a : Nat) : Bool := pa ≤ a && a < pa + n
  let held (l : Nat) : Bool := lineDev l = s.dev && inside (linePa l)
  let watched := (s.teams.flatMap fun (_, t) => t.warps.flatMap fun w =>
    (w.main.splits ++ ((w.handler.map Strand.splits).getD [])).filterMap fun k => k.mon.map Monitor.line) ++
    s.lcs.flatMap fun (_, l) => [l.t0, l.t1].flatMap fun h => (h.main.splits ++ ((h.handler.map Strand.splits).getD [])).filterMap fun k => k.mon.map Monitor.line
  let told := ((s.dies.flatMap fun (d, x) => (keep x.rdc fun l _ => held l).map fun p => (p.1, d)) ++
    (s.lcs.flatMap fun (n, x) => (keep x.cache fun l _ => held l).map fun p => (p.1, 4 + n))).map fun (l, c) =>
      ({ merge := false, line := l, mask := BitVec.allOnes 128, cache := c } : HomeEvent)
  let s := { s with
    homeLog := s.homeLog ++ told,
    mem := bs.foldl (fun m p => setByte m (pa + p.1) p.2) (keep s.mem fun a _ => !inside a),
    poison := keep s.poison fun a _ => !inside a,
    dies := mapVals s.dies fun _ d => { d with rdc := keep d.rdc fun l _ => !held l },
    lcs := mapVals s.lcs fun _ l => { l with cache := keep l.cache fun l _ => !held l },
    nextKey := s.nextKey + 1 }
  (watched.filter held).foldl State.recordLine s

/-- R3: a number as bytes in a record. -/
def le (n : Nat) (v : Nat) : List Byte := leBytes n v

end Sys2Proof.Machine
end

