-- ==== Sys2Proof/Machine/Access.lean ====
section
/-! DEFINITION. Strands, splits, contexts and agents: finding and replacing them, and what the running
strand may do (R17, R35, R74, R237, R403). -/

namespace Sys2Proof.Machine

abbrev Out := Host.Outcome State Fault Refusal

def State.core (s : State) (c : Nat) : Core := readOr {} s.cores c
def State.die (s : State) (d : Nat) : Die := readOr {} s.dies d
def State.lc (s : State) (l : Nat) : Lc := readOr {} s.lcs l
def State.ctx (s : State) (c : Nat) : Ctx := readOr {} s.ctxs c
def State.setCore (s : State) (c : Nat) (x : Core) : State := { s with cores := write {} s.cores c x }
def State.setDie (s : State) (d : Nat) (x : Die) : State := { s with dies := write {} s.dies d x }
def State.setLc (s : State) (l : Nat) (x : Lc) : State := { s with lcs := write {} s.lcs l x }
def State.setCtx (s : State) (c : Nat) (x : Ctx) : State := { s with ctxs := write {} s.ctxs c x }
def State.mapTeam (s : State) (t : Nat) (f : Team → Team) : State := { s with teams := adjust s.teams t f }

/-- A fresh key. -/
def State.bump (s : State) : State := { s with nextKey := s.nextKey + 1 }

def Team.mapWarp (t : Team) (w : Nat) (f : Warp → Warp) : Team :=
  match t.warps[w]? with
  | some x => { t with warps := setNth t.warps w (f x) }
  | none => t

def State.mapWarp (s : State) (t w : Nat) (f : Warp → Warp) : State := s.mapTeam t fun x => x.mapWarp w f

def Lc.thread (l : Lc) (th : Nat) : LatThread := if th = 0 then l.t0 else l.t1
def Lc.setThread (l : Lc) (th : Nat) (h : LatThread) : Lc := if th = 0 then { l with t0 := h } else { l with t1 := h }

/-- R393: a byte of a context block that software may rewrite: CCTL, SLICE, WCBAGE, WDOG, EVHEAD, SMHEAD and CNTEV. -/
def sharedByte (o : Nat) : Bool :=
  o < 4 || (0x20 ≤ o && o < 0x2C) || (0x58 ≤ o && o < 0x5C) || (0x70 ≤ o && o < 0x74) || (0x100 ≤ o && o < 0x180)

/-- R393: is a byte of this device's memory the Z4's own, in the block or the image pool of a context. -/
def State.ownsByte (s : State) (pa : Nat) : Bool :=
  s.ctxs.any fun (_, x) => x.valid &&
    ((x.cblk ≤ pa && pa < x.cblk + 4096 && !sharedByte (pa - x.cblk)) || (x.pool ≤ pa && pa < x.pool + x.poolsz))

/-- R393: is some byte of a range of this device's memory the Z4's own; what software's load of it returns is unspecified. -/
def State.ownedByZ4 (s : State) (pa n : Nat) : Bool := (List.range n).any fun i => s.ownsByte (pa + i)

/-- R8: takes free values: the counter moves past `n` of them. -/
def State.spend (s : State) (n : Nat) : State := { s with oracle := s.oracle + n }

/-- R8: bytes of which nothing is known. -/
def freeBytes (o n : Nat) : List Byte := (List.range n).map fun i => (Config.freeWord (o + i)).setWidth 8

/-- R393: what a load, an atomic or an engine of software's reads of this device's memory. -/
def State.softBytes (s : State) (pa n : Nat) (bs : List Byte) : State × List Byte :=
  if s.ownedByZ4 pa n then (s.spend n, freeBytes s.oracle n) else (s, bs)

/-- The strand of an actor, where it exists. -/
def State.strand? (s : State) : Who → Option Strand
  | .warp t w _ => (look s.teams t).bind fun x => x.warps[w]?.map Warp.main
  | .handler t w => (look s.teams t).bind fun x => x.warps[w]?.bind Warp.handler
  | .lat lc th =>
    let h := (s.lc lc).thread th
    if h.active then some (h.handler.getD h.main) else none

/-- The state with an actor's strand changed. -/
def State.mapStrand (s : State) (w : Who) (f : Strand → Strand) : State :=
  match w with
  | .warp t w _ => s.mapWarp t w fun x => { x with main := f x.main }
  | .handler t w => s.mapWarp t w fun x => { x with handler := x.handler.map f }
  | .lat lc th =>
    let l := s.lc lc
    let h := l.thread th
    let h := match h.handler with
      | some st => { h with handler := some (f st) }
      | none => { h with main := f h.main }
    s.setLc lc (l.setThread th h)

/-- The split number of an actor within its strand. -/
def splitNo : Who → Nat
  | .warp _ _ k => k
  | _ => 0

def Strand.split (st : Strand) (k : Nat) : Split := st.splits.getD k {}
def Strand.mapSplit (st : Strand) (k : Nat) (f : Split → Split) : Strand :=
  { st with splits := setNth st.splits k (f (st.split k)) }
def State.mapSplit (s : State) (w : Who) (f : Split → Split) : State :=
  s.mapStrand w fun st => st.mapSplit (splitNo w) f

/-- The context that an actor runs in (R71, R403). -/
def State.ctxOf (s : State) : Who → Nat
  | .warp t _ _ | .handler t _ => ((look s.teams t).map Team.ctx).getD 0
  | .lat lc th => ((s.lc lc).thread th).ctx

/-- Do two actors run in the same registers. -/
def sameStrand : Who → Who → Bool
  | .warp t w _, .warp t' w' _ => t = t' && w = w'
  | a, b => a = b

/-- R240, R261: do the accesses of two actors stand in one program order: a warp's threads go on in its handler image. -/
def samePath : Who → Who → Bool
  | .warp t w _, .handler t' w' | .handler t w, .warp t' w' _ => t = t' && w = w'
  | a, b => sameStrand a b

/-- R241: are two accesses, of which the threads' own are known, made by one path. -/
def sameMaker (a b : Option Who) : Bool :=
  match a, b with
  | some x, some y => samePath x y
  | _, _ => false

/-- Loads of some threads' registers that have not returned. -/
def State.awaits (s : State) (w : Who) (m : Mask) : Bool :=
  s.loads.any fun (_, l) => sameStrand l.who w && l.mask &&& m ≠ 0

/-- R241: loads of some threads, made before a trap entry or after it, that have not returned. -/
def State.awaitsPath (s : State) (w : Who) (m : Mask) : Bool :=
  s.loads.any fun (_, l) => samePath l.who w && l.mask &&& m ≠ 0

/-- R400, R401: is a split's team away; what it waits for then only marks it. -/
def State.away (s : State) : Who → Bool
  | .warp t _ _ | .handler t _ => !((look s.teams t).any fun x => x.core.isSome)
  | .lat _ _ => false

/-- R401: the split blocks of a team that is away are to be written to its image. -/
def State.imageDue (s : State) (w : Who) : State :=
  if s.away w then
    match w with
    | .warp t _ _ | .handler t _ => s.mapTeam t fun x => { x with unsaved := .splits :: x.unsaved }
    | .lat _ _ => s
  else s

/-- Is an actor a team's. -/
def inTeam (t : Nat) : Who → Bool
  | .warp k _ _ | .handler k _ => k = t
  | .lat _ _ => false

/-- R14: the core of an actor. -/
def State.agentOf (s : State) : Who → Agent
  | .warp t _ _ | .handler t _ => .wide (((look s.teams t).bind Team.core).getD 0)
  | .lat lc _ => .lat lc

/-- R14: the die of an agent. -/
def Agent.die : Agent → Nat
  | .wide c => c / 64
  | .lat l => l / 16
  | .engine d => d
  | .hub => 4

/-- R14: the number of an agent's core, as `%core` gives it. -/
def Agent.number : Agent → Nat
  | .wide c => c
  | .lat l => 256 + l
  | _ => 0

/-- R359, R378: does a shipped section act. -/
def bySection : Option Who → Bool
  | some (.lat _ 0) => true
  | _ => false

/-- R14, R416: an agent's number within its die, as a fault entry shows it. -/
def Agent.within : Agent → Nat
  | .wide c => c % 64
  | .lat l => 64 + l % 16
  | _ => 0

/-- R416: the source core and die of an agent's faults: core within the die × 16 + die. -/
def Agent.source (a : Agent) : Nat := a.within * 16 + a.die

/-- R35: a register of a thread. -/
def Strand.reg (st : Strand) (n t : Nat) : Word := if n = 0 then 0 else readOr 0 st.regs (32 * n + t)

/-- R36: a register pair of a thread. -/
def Strand.pair (st : Strand) (n t : Nat) : DWord := if n = 0 then 0 else st.reg (n + 1) t ++ st.reg n t

/-- R35, R180: writes a register of a thread; the value that it replaces may still be seen by an engine. -/
def Strand.setReg (st : Strand) (n t : Nat) (v : Word) : Strand :=
  if n = 0 then st
  else { st with regs := write 0 st.regs (32 * n + t) v, older := st.older ++ [(32 * n + t, st.reg n t)] }

/-- R36: writes a register pair of a thread. -/
def Strand.setPair (st : Strand) (n t : Nat) (v : DWord) : Strand :=
  if n = 0 then st
  else (st.setReg n t (v.extractLsb' 0 32)).setReg (n + 1) t (v.extractLsb' 32 32)

/-- Writes consecutive registers of a thread, none of them where `n` is 0. -/
def Strand.setRegs (st : Strand) (n t : Nat) : List Word → Strand
  | [] => st
  | v :: vs => if n = 0 then st else (st.setReg n t v).setRegs (n + 1) t vs

/-- What the running strand is and where it stands. -/
structure Env where
  who    : Who
  k      : Nat
  st     : Strand
  sp     : Split
  ctxNo  : Nat
  ctx    : Ctx
  agent  : Agent
  die    : Nat
  priv   : Bool                 -- R74
  handler : Bool                -- R403
  acc    : List Nat             -- R181: accumulator bases of the warp's outstanding tasks
  oracle : Nat
  deriving Repr

/-- R74: privileged contexts, and code on latency-core thread 1. -/
def State.privileged (s : State) : Who → Bool
  | .lat _ th => th = 1
  | w => (s.ctx (s.ctxOf w)).priv

/-- R181: accumulator bases of the accepted, uncompleted tasks on a warp. -/
def State.accBases (s : State) : Who → List Nat
  | .warp t w _ =>
    s.tasks.filterMap fun (_, k) =>
      if k.team = t && (k.record.getD 2 0).toNat % 32 = w && (k.record.getD 0 0).toNat % 16 < 3
      then some ((k.record.getD 2 0).toNat / 256 % 128) else none
  | _ => []

/-- R181: the accumulators of a warp's completed tasks that are open to a split: its last acquire is not later than a thread's first
sight of the completed token. DEDUCED (log 18): a task without a token, or with one that was freed before, is never seen to complete. -/
def State.accUnseen (s : State) (acqAt : Nat) : Who → List Nat
  | .warp t w _ =>
    ((look s.teams t).map fun x => x.accs.filterMap fun a =>
      if a.warp = w && !a.seen.any fun n => n < acqAt then some a.base else none).getD []
  | _ => []

def isHandler (s : State) : Who → Bool
  | .handler _ _ => true
  | .warp _ _ _ => false
  | .lat lc th => ((s.lc lc).thread th).handler.isSome

/-- The running strand, where it exists. -/
def State.env (s : State) : Option Env :=
  (s.strand? s.focus).map fun st =>
    { who := s.focus, k := splitNo s.focus, st := st, sp := st.split (splitNo s.focus),
      ctxNo := s.ctxOf s.focus, ctx := s.ctx (s.ctxOf s.focus), agent := s.agentOf s.focus,
      die := (s.agentOf s.focus).die, priv := s.privileged s.focus, handler := isHandler s s.focus,
      acc := s.accBases s.focus ++ s.accUnseen (st.split (splitNo s.focus)).acqAt s.focus, oracle := s.oracle }

/-- R17: does the strand run on a latency core. -/
def Env.lat (e : Env) : Bool := match e.who with | .lat _ _ => true | _ => false

/-- R37, R68: the register count of the strand. -/
def Env.nreg (e : Env) : Nat := if e.lat then 128 else e.st.nreg

/-- R359: does the strand run a shipped section. -/
def Env.serving (e : Env) : Bool := match e.who with | .lat _ 0 => true | _ => false

/-- The team and warp of the strand. -/
def Env.team (e : Env) : Nat := match e.who with | .warp t _ _ | .handler t _ => t | _ => 0
def Env.warp (e : Env) : Nat := match e.who with | .warp _ w _ | .handler _ w => w | _ => 0

/-- R181: a register that an outstanding task holds reads as an unspecified value. -/
def Env.accHeld (e : Env) (n : Nat) : Bool := e.acc.any fun ab => ab ≤ n && n ≤ ab + 63

/-- R35, R181: the value of a register that an instruction reads. -/
def Env.reg (e : Env) (n t : Nat) : Word :=
  if e.accHeld n then Config.freeWord (e.oracle + 32 * n + t) else e.st.reg n t

def Env.pair (e : Env) (n t : Nat) : DWord := if n = 0 then 0 else e.reg (n + 1) t ++ e.reg n t

/-- R38: the threads that act. -/
def Env.exm (e : Env) (p : Pre) : Mask :=
  if p.g = 0 && !p.gn then e.sp.exm
  else
    let g := e.reg p.g.toNat (Mask.lowest e.sp.exm)
    if p.gn then e.sp.exm &&& ~~~ g else e.sp.exm &&& g

/-- R40: a source register of a thread, read once from the lowest acting thread where it is uniform. -/
def Env.src (e : Env) (m : Mask) (r : RegNo) (u : Bool) (t : Nat) : Word :=
  e.reg r.toNat (if u then Mask.lowest m else t)

def Env.srcPair (e : Env) (m : Mask) (r : RegNo) (u : Bool) (t : Nat) : DWord :=
  e.pair r.toNat (if u then Mask.lowest m else t)

/-- R9 `Uniform`: a source of an instruction that acts once. -/
def Env.one (e : Env) (m : Mask) (r : RegNo) : Word := e.reg r.toNat (Mask.lowest m)
def Env.onePair (e : Env) (m : Mask) (r : RegNo) : DWord := e.pair r.toNat (Mask.lowest m)
def Env.num (e : Env) (m : Mask) : Num → Word
  | .reg r => e.one m r
  | .imm x => x

/-- R17, R71: `%core`. -/
def Env.coreNo (e : Env) : Nat := match e.agent with | .wide c => c | .lat l => 256 + l | _ => 0

/-- Bytes of an instruction (R29). -/
def instrSize (i : Instr) : Nat :=
  match i with
  | .fillWord => 4
  | i => (i.raw.map fun r => lenBytes r.len).getD 0

/-- Header part of an instruction. -/
def instrPre (i : Instr) : Pre := (i.raw.map Raw.pre).getD {}

end Sys2Proof.Machine
end

