-- ==== Sys2Proof/Machine/Cache.lean ====
section
/-! DEFINITION. Wide-core L1 upkeep, the write-combining buffer and writes on their way home
(R219, R223, R234, R235, R241). -/

namespace Sys2Proof.Machine

/-- R241: a write leaves an agent for its home; it is known by the key it takes. -/
def State.send (s : State) (op : WriteOp) : State :=
  { s with out := place s.out s.nextKey { op with asid := (s.ctx op.ctx).asid }, nextKey := s.nextKey + 1 }

/-- R461, R470: a request leaves for another device; it is known by its TXN, and by the key under which its agent sent it. -/
def State.sendRemote (s : State) (op : RemoteOp) (born : Nat := s.nextKey) : State :=
  { s with remote := place s.remote s.txn { op with born := born }, txn := (s.txn + 1) % 2 ^ 32, nextKey := s.nextKey + 1,
           inputs := if s.hub.unreachable.contains op.dev then s.inputs ++ [.lossNotice s.txn] else s.inputs }

/-- R223, R381: the dirty bytes of one L1 line leave for the home; the line stays, clean. -/
def State.writeBack (s : State) (c line : Nat) (by_ : Option Releaser := none) : State :=
  match look (s.core c).l1 line with
  | none => s
  | some l =>
    if l.dirty = 0 then s
    else
      let own : Bool := match by_ with | some r => r.ctx = l.ctx | none => false
      let s := s.send { agent := .wide c, line := line, mask := l.dirty, data := l.data, ctx := l.ctx,
                        who := if own then by_.map Releaser.who else none,
                        site := if own then (by_.map Releaser.site).getD 0 else 0, sc := (by_.map Releaser.sc).getD .team, rt := .cb,
                        wb := by_.isSome, evict := !own }
      s.setCore c { s.core c with l1 := place (s.core c).l1 line { l with dirty := 0 } }

/-- R231: whether a release or an acquire takes lines of UO pages along is open. -/
def State.takesUo (s : State) : Bool := Config.pick s.oracle % 2 = 0

/-- R223: every dirty byte of a core leaves for its home; UO pages are ordered by `flush` alone. -/
def State.writeBackAll (s : State) (c : Nat) (by_ : Option Releaser := none) : State :=
  (((keep (s.core c).l1 fun _ l => !l.uo || s.takesUo)).map Prod.fst).foldl (fun s line => s.writeBack c line by_) s

/-- R284: every dirty byte of a core leaves for its home, on whatever page it lies. -/
def State.writeBackEvery (s : State) (c : Nat) (by_ : Option Releaser := none) : State :=
  ((s.core c).l1.map Prod.fst).foldl (fun s line => s.writeBack c line by_) s

/-- R226: fills of dropped lines that are in flight to a core are not installed. -/
def State.staleFills (s : State) (c : Nat) (p : Nat → Bool → Nat → Bool) : State :=
  { s with reads := s.reads.map fun (k, r) =>
      match r.fill with
      | some si => if r.agent = .wide c && p r.line si r.asid then (k, { r with stale := true }) else (k, r)
      | none => (k, r) }

/-- R218, R223: a core drops the L1 lines that a test on line, `si` and ASID picks; dirty bytes leave for their home. -/
def State.dropLines (s : State) (c : Nat) (p : Nat → Bool → Nat → Bool) : State :=
  let gone (k : Nat) (l : Line) : Bool := p k l.si l.asid && (!l.uo || s.takesUo)
  let v := ((keep (s.core c).l1 gone).map Prod.fst).foldl (fun v line => v.writeBack c line) s
  let v := v.setCore c { v.core c with l1 := keep (v.core c).l1 fun k l => !gone k l }
  (v.staleFills c p).spend 1

/-- R234: the contexts whose stores a packet carries. -/
def RemoteOp.storers (r : RemoteOp) : List Nat := if r.ctxs.isEmpty then [r.ctx] else r.ctxs

/-- R234: one WCB entry leaves as a packet, of ORD rlx; DESIGN CHOICE (log 116): with SC and RT of its latest store. -/
def State.sendWcb (s : State) (c line : Nat) : State :=
  match look (s.core c).wcb line with
  | none => s
  | some w =>
    let s := s.setCore c { s.core c with wcb := unlist (s.core c).wcb line }
    s.sendRemote { dev := lineDev line, agent := .wide c, ctx := w.ctxs.headD 0, ctxs := w.ctxs, type := 2, wcb := true, sc := w.sc, rt := w.rt,
                   line := line, mask := w.mask, data := w.data, site := w.site }

/-- R234: every WCB entry of a core that a test picks leaves. -/
def State.sendWcbs (s : State) (c : Nat) (p : Nat → Wcb → Bool) : State :=
  (((s.core c).wcb.filter fun (k, w) => p k w).map Prod.fst).foldl (fun s line => s.sendWcb c line) s

/-- R223: what a release of a scope does in the agent's core. -/
def State.release (s : State) (a : Agent) (sc : Scope) (by_ : Option Releaser := none) : State :=
  let by_ := by_.map fun (r : Releaser) => { r with sc := sc }
  match a, sc with
  | .wide _, .team => s
  | .wide c, .sys => (s.writeBackAll c by_).sendWcbs c fun _ _ => true
  | .wide c, _ => s.writeBackAll c by_
  | _, _ => s

/-- R235: `si` lines of other devices on their way into a die's RDC that are dropped before they come; by line and ASID. -/
def State.staleFar (s : State) (d : Nat) (p : Nat → Nat → Bool) : State :=
  { s with
    reads := mapVals s.reads fun _ u =>
      if u.fill = some true && lineDev u.line ≠ s.dev && u.agent.die = d && p u.line u.asid then { u with stale := true } else u,
    remote := mapVals s.remote fun _ r =>
      if r.copy.isSome && r.rt = .si && r.agent.die = d && p r.line (s.ctx r.ctx).asid then { r with stale := true } else r }

/-- R181, R223, R235: what an acquire of a scope drops in the agent's core and, at system scope, in its die's RDC; the split that makes
it knows what was seen before. -/
def State.acquire (s : State) (a : Agent) (asid : Nat) (sc : Scope) (by_ : Option Releaser := none) : State :=
  let here (line : Nat) : Bool := lineDev line = s.dev
  let dropRdc (s : State) : State :=
    let d := s.die a.die
    (s.setDie a.die { d with rdc := d.rdc.filter fun (k, l) => here k || !(l.si && l.asid = asid) }).staleFar a.die fun _ i => i = asid
  let s := match by_ with
    | some r => s.mapSplit r.who fun k => { k with acqAt := s.nextKey }
    | none => s
  let by_ := by_.map fun (r : Releaser) => { r with sc := sc }
  match a, sc with
  | .wide c, .team => s.dropLines c fun k si _ => si && here k
  | .wide c, .sys =>
    dropRdc ((s.writeBackAll c by_).dropLines c fun k si i => !si || here k || i = asid)
  | .wide c, _ => (s.writeBackAll c by_).dropLines c fun k si _ => !si || here k
  | _, .sys => dropRdc s
  | _, _ => s

/-- R230, R241, R242, R278: every write that the agent sent before `mark` is acknowledged, at system scope those to other
devices too, and of these the actor's own to SO pages at every scope; every earlier load of the actor's threads has returned its
value. -/
def State.drained (s : State) (a : Agent) (who : Who) (mark : Nat) (sys : Bool) : Bool :=
  s.out.all (fun (k, o) => mark ≤ k || o.agent ≠ a) &&
  s.held.all (fun (k, o) => mark ≤ k || o.agent ≠ a) &&
  s.loads.all (fun (k, l) => mark ≤ k || !samePath l.who who) &&
  s.remote.all fun (_, r) => mark ≤ r.born || r.agent ≠ a || !((sys && (r.wcb || r.type = 3)) || (r.so && sameMaker r.who (some who)))

/-- Is a request of the same agent, sent before key k, still on its way, among those that pass a test. -/
def State.sentBefore (s : State) (k : Nat) (p : WriteOp → Bool) : Bool :=
  s.out.any (fun (i, o) => i < k && p o) || s.held.any fun (i, o) => i < k && p o

/-- Is an atomic one of thread t's. -/
def byThread (t : Nat) (a : Option AtomicOp) : Bool := match a with | some a => a.thread = t | none => false

/-- R241: is an atomic of a thread under way, sent before key k. -/
def State.atomicAhead (s : State) (w : Option Who) (t k : Nat) : Bool :=
  s.sentBefore k (fun o => byThread t o.atomic && sameMaker o.who w) ||
  s.remote.any fun (_, r) => r.born < k && byThread t r.atomic && sameMaker r.who w

/-- R241: is a strong load of a thread under way that comes before load `load`, or an atomic sent before key k. -/
def State.strongAhead (s : State) (w : Who) (t load k : Nat) : Bool :=
  s.loads.any (fun (i, l) => i < load && l.strong && l.left ≠ 0 && l.mask.getLsbD t && samePath l.who w) || s.atomicAhead (some w) t k

/-- R241, R242: has one of some threads of the running strand a strong load or an atomic under way. -/
def State.strongOf (s : State) (e : Env) (m : Mask) : Bool :=
  (Mask.threads m).any fun t => s.strongAhead e.who t s.nextKey s.nextKey

/-- R278: are the writes of an agent that it sent between two keys acknowledged. -/
def State.acknowledged (s : State) (a : Agent) (lo hi : Nat) : Bool :=
  s.out.all (fun (k, o) => k < lo || hi ≤ k || o.agent ≠ a) && s.held.all fun (k, o) => k < lo || hi ≤ k || o.agent ≠ a

/-- R241, R246: has the agent a write or an atomic to a line of another device under way, sent before key k. -/
def State.packetAhead (s : State) (a : Agent) (line k : Nat) : Bool :=
  s.remote.any fun (_, r) => r.born < k && (r.type = 2 || r.type = 3) && r.copy.isNone && r.agent = a && r.line = line

/-- R230: has a strand accesses to SO pages under way, sent before key k. -/
def State.soAhead (s : State) (w : Option Who) (k : Nat) : Bool :=
  s.sentBefore k (fun o => o.so && sameMaker o.who w) || s.reads.any (fun (i, v) => i < k && v.so && sameMaker (some v.who) w) ||
  s.remote.any fun (_, r) => r.born < k && r.so && r.read.isNone && sameMaker r.who w

/-- R234, R241: has the agent writes of a line under way to its home, or bytes of it in the WCB. -/
def State.ownWrites (s : State) (a : Agent) (line : Nat) : Bool :=
  s.out.any (fun (_, o) => o.agent = a && o.line = line) || s.held.any (fun (_, o) => o.agent = a && o.line = line) ||
  s.packetAhead a line s.nextKey || (match a with | .wide c => (look (s.core c).wcb line).isSome | _ => false)

/-- R223, R234, R385: an agent's dirty bytes of a line leave, and its WCB entry of the line. -/
def State.flushLine (s : State) (a : Agent) (line : Nat) : State :=
  match a with
  | .wide c => (s.writeBack c line).sendWcb c line
  | _ => s

/-- The line of an agent's own caches that holds a line, L1 on a wide core and its caches on a latency core. -/
def State.cached (s : State) (a : Agent) (line : Nat) : Option Line :=
  match a with
  | .wide c => look (s.core c).l1 line
  | .lat l => look (s.lc l).cache line
  | _ => none

def State.setCached (s : State) (a : Agent) (line : Nat) (l : Line) : State :=
  match a with
  | .wide c => s.setCore c { s.core c with l1 := place (s.core c).l1 line l }
  | .lat n => s.setLc n { s.lc n with cache := place (s.lc n).cache line l }
  | _ => s

def State.dropCached (s : State) (a : Agent) (line : Nat) : State :=
  match a with
  | .wide c => s.setCore c { s.core c with l1 := unlist (s.core c).l1 line }
  | .lat n => s.setLc n { s.lc n with cache := unlist (s.lc n).cache line }
  | _ => s

/-- R246: what an L1 holds clean of a line may be older than what a load of the core returns from the home; it goes. -/
def State.dropClean (s : State) (a : Agent) (line : Nat) : State :=
  match a with
  | .wide c =>
    match look (s.core c).l1 line with
    | none => s
    | some l => if l.dirty = 0 then s.dropCached a line else s.setCached a line { l with valid := l.dirty }
  | _ => s

/-- R235, R246: no `si` line of another device that a die holds, or that is on its way there, answers for this line. -/
def State.dropFarLine (s : State) (d line : Nat) : State :=
  if lineDev line = s.dev then s
  else
    (s.setDie d { s.die d with rdc := unlist (s.die d).rdc line }).staleFar d fun l _ => l = line

end Sys2Proof.Machine
end

