-- ==== Sys2Proof/Machine/Reports.lean ====
section
/-! DEFINITION. Event records, host events, service events and the die fault queue (R408, R415 to R418, R453). -/

namespace Sys2Proof.Machine

/-- R2: a number with fields placed from given bits on. -/
def fields : List (Nat × Nat) → Nat
  | [] => 0
  | (sh, v) :: t => v * 2 ^ sh + fields t

/-- R453: entries of the host event queue that are in use. -/
def State.evqUsed (s : State) : Nat := (s.hub.evqtail + 2 ^ 32 - s.hub.evqhead) % 2 ^ 32

/-- R453: may the next waiting event be written. -/
def State.evqOpen (s : State) : Bool := s.hub.evqcfg / 2 ^ 16 % 2 = 1 && s.evqUsed < s.hub.evqcfg % 65536 && !s.hub.filairDown

/-- R453: an event for the host waits inside the device until HOST_EVENT_WRITE writes it; while the queue takes none, at most 256 of them
do. -/
def State.hostEvent (s : State) (word0 cls : Nat) (mid body : List Byte) : State :=
  let e := le 4 word0 ++ le 4 cls ++ (mid ++ List.replicate 56 0).take 56 ++ (body ++ List.replicate 64 0).take 64
  if s.hub.evWait.length < 256 || s.evqOpen then { s with hub := { s.hub with evWait := s.hub.evWait ++ [e] } }
  else { s with hub := { s.hub with evLost := s.hub.evLost + 1 } }

/-- R450, R451, R453, R458: bytes leave through Filair for the host's memory. -/
def State.toHost (s : State) (addr : Nat) (bs : List Byte) : State := { s with hub := { s.hub with hostOut := s.hub.hostOut ++ [(addr, bs)] } }

/-- R453 word +0x00 of an event about a context, and of a device-level event. -/
def State.hostWord (s : State) (ctx : Option Nat) : Nat :=
  match ctx with
  | some c => fields [(0, s.dev % 8192), (13, c % 64)]
  | none => fields [(0, s.dev % 8192), (19, 1)]

/-- R378, R408: the two-level name of what a report is about, with team and launch. -/
structure Name where
  site : DWord := 0
  seq  : Word := 0
  team : Word := 0
  lid  : Word := 0
  async : Bool := false          -- R378 ASYNC
  deriving DecidableEq, Repr

/-- R408: an event record is written to the context's ring, or dropped where it is full, and copied to the host. -/
def State.eventRecord (s : State) (c die kind flags : Nat) (ecause : Word) (epc eaddr : DWord) (n : Name)
    (detail : Nat := 0) : State :=
  let x := s.ctx c
  let bytes := le 4 (kind + flags * 2 ^ 16) ++ le 4 ecause.toNat ++ le 8 epc.toNat ++ le 8 eaddr.toNat ++
    le 8 n.site.toNat ++ le 4 n.seq.toNat ++ le 4 n.team.toNat ++ le 8 (s.die die).clk.toNat ++ le 4 n.lid.toNat ++ le 12 detail
  let (s, hd) := s.homeRead (x.cblk + 0x58) 4
  let head := leNat hd
  let s :=
    if (x.evtail + 2 ^ 32 - head) % 2 ^ 32 = x.evsize then s.setCtx c { x with evlost := (x.evlost + 1) % 2 ^ 32 }
    else (s.homeWrite (x.evbase + 64 * (x.evtail % x.evsize)) bytes).setCtx c { x with evtail := (x.evtail + 1) % 2 ^ 32 }
  s.hostEvent (s.hostWord (some c)) 1 [] bytes

def powerOfTwoIn (lo hi n : Nat) : Bool := lo ≤ n && n ≤ hi && n = 2 ^ Nat.log2 n

/-- A word of a die's fault-queue header (R415), as the home holds it. -/
def State.fqWord (s : State) (d off : Nat) : State × Nat :=
  let (s, b) := s.homeRead ((s.die d).fqbase.toNat + off) 4
  (s, leNat b)

def State.fqDword (s : State) (d off : Nat) : State × Nat :=
  let (s, b) := s.homeRead ((s.die d).fqbase.toNat + off) 8
  (s, leNat b)

/-- R415: can the die queue a fault. -/
def State.fqUsable (s : State) (d : Nat) : Bool :=
  (s.die d).fqbase ≠ 0 && powerOfTwoIn 64 65536 (s.fqWord d 0).2

/-- R418: the bytes of a service event. -/
def SvEvent.bytes (e : SvEvent) : List Byte :=
  le 4 (e.kind + e.ctx * 256) ++ le 4 e.arg.toNat ++ le 8 e.site.toNat ++ le 4 e.seq.toNat ++ le 4 e.team.toNat ++ le 8 e.clk.toNat

/-- R418: writes a service event where its ring has room; answers whether it was written. -/
def State.writeService (s : State) (d : Nat) (e : SvEvent) : State × Bool :=
  let b := (s.die d).fqbase.toNat
  let (s, base) := s.fqDword d 0x10
  let (s, size) := s.fqWord d 0x18
  let (s, tail) := s.fqWord d 0x1C
  let (s, head) := s.fqWord d 0x20
  if (tail + 2 ^ 32 - head) % 2 ^ 32 = size then (s, false)
  else ((s.homeWrite (base + 32 * (tail % size)) e.bytes).homeWrite (b + 0x1C) (le 4 (tail + 1)), true)

/-- R418: adds 1 to SVFULL. -/
def State.countService (s : State) (d : Nat) : State :=
  let (s, n) := s.fqWord d 0x24
  s.homeWrite ((s.die d).fqbase.toNat + 0x24) (le 4 (n + 1))

/-- R418: the ring takes service events. -/
def State.svUsable (s : State) (d : Nat) : Bool := (s.fqDword d 0x10).2 ≠ 0 && powerOfTwoIn 64 65536 (s.fqWord d 0x18).2

/-- R418: a service event is written, held while the ring is full, or dropped where there is no ring. -/
def State.serviceEvent (s : State) (d : Nat) (e : SvEvent) : State :=
  if (s.die d).fqbase = 0 then s
  else
    let e := { e with clk := (s.die d).clk }
    if !s.svUsable d then s.countService d
    else if (s.die d).heldSv.isEmpty then
      let (s', ok) := s.writeService d e
      if ok then s'
      else (s.setDie d { s.die d with heldSv := [e] }).countService d
    else (s.setDie d { s.die d with heldSv := (s.die d).heldSv ++ [e] }).countService d

/-- R416: the bytes of a fault entry. -/
def FaultEntry.bytes (f : FaultEntry) : List Byte :=
  le 8 (f.page * 4096) ++
  le 8 (fields [(0, f.asid), (16, f.kind), (24, f.cause), (32, f.src % 16), (36, f.src / 16), (44, f.level)]) ++
  le 4 f.count ++ le 4 f.serial ++ le 8 f.site.toNat ++ le 4 f.seq.toNat ++ le 4 f.team.toNat ++ le 8 f.clk.toNat ++ List.replicate 16 0

/-- R417: writes an entry at FQTAIL with its service event; false where the ring is full. -/
def State.writeFault (s : State) (d : Nat) (f : FaultEntry) : State × Option FaultEntry :=
  let b := (s.die d).fqbase.toNat
  let (s, size) := s.fqWord d 0
  let (s, tail) := s.fqWord d 4
  let (s, head) := s.fqWord d 8
  if (tail + 2 ^ 32 - head) % 2 ^ 32 = size then (s, none)
  else
    let f := { f with slot := tail % size, held := false }
    let s := s.homeWrite (b + 64 + 64 * (tail % size)) f.bytes
    let s := s.homeWrite (b + 4) (le 4 (tail + 1))
    (s.serviceEvent d { kind := 1, ctx := f.ctx, arg := BitVec.ofNat 32 f.serial, site := f.site, seq := f.seq, team := f.team }, some f)

/-- R417: adds 1 to FQFULL. -/
def State.countFull (s : State) (d : Nat) : State :=
  let (s, n) := s.fqWord d 0xC
  s.homeWrite ((s.die d).fqbase.toNat + 0xC) (le 4 (n + 1))

/-- R417: a recoverable fault joins an open or a held entry of its page and class, or takes a new one; answers
the entry's serial, or none where all 4,096 waiter places are in use. -/
def State.queueFault (s : State) (d : Nat) (f : FaultEntry) (w : Waiter) : State × Option Nat :=
  let die := s.die d
  if 4096 ≤ die.waiters.length then (s, none)
  else
    match die.entries.find? fun e => e.asid = f.asid && e.page = f.page && e.write = f.write with
    | some e =>
      let e' := { e with count := e.count + 1 }
      let s := s.setDie d { die with entries := die.entries.map fun x => if x.serial = e.serial then e' else x,
                                     waiters := die.waiters ++ [(e.serial, w)] }
      if e.held then (s.countFull d, some e.serial)
      else (s.homeWrite (die.fqbase.toNat + 64 + 64 * e.slot + 0x10) (le 4 e'.count), some e.serial)
    | none =>
      let f := { f with serial := die.serial, clk := die.clk, count := 1 }
      let s := s.setDie d { die with serial := (die.serial + 1) % 2 ^ 32, waiters := die.waiters ++ [(f.serial, w)] }
      if die.entries.any FaultEntry.held then
        let s := s.setDie d { s.die d with entries := (s.die d).entries ++ [{ f with held := true }] }
        (s.countFull d, some f.serial)
      else
        match s.writeFault d f with
        | (s, some f) => (s.setDie d { s.die d with entries := (s.die d).entries ++ [f] }, some f.serial)
        | (s, none) =>
          let s := s.setDie d { s.die d with entries := (s.die d).entries ++ [{ f with held := true }] }
          (s.countFull d, some f.serial)

/-- R426, R365: a waiter leaves; its entry's count falls. -/
def State.dropWaiter (s : State) (d : Nat) (p : Waiter → Bool) : State :=
  let gone := (s.die d).waiters.filter fun (_, w) => p w
  gone.foldl (fun s (ser, _) =>
    let die := s.die d
    let s := s.setDie d { die with
      waiters := die.waiters.eraseP fun (n, w) => n = ser && p w,
      entries := die.entries.map fun e => if e.serial = ser then { e with count := e.count - 1 } else e }
    match die.entries.find? fun e => e.serial = ser && !e.held with
    | some e => s.homeWrite (die.fqbase.toNat + 64 + 64 * e.slot + 0x10) (le 4 (e.count - 1))
    | none => s) s

end Sys2Proof.Machine
end

