-- ==== Sys2Proof/Machine/Watch.lean ====
section
/-! DEFINITION. Observation: counters, debug reports and stops, watch ranges and the coherence trace
(R335, R378 to R383, R388, R389). -/

namespace Sys2Proof.Machine

/-! ### Counters -/

/-- R389, R392: the counters of a context that have an event code, as the home holds the codes. -/
def State.countersOf (s : State) (c code : Nat) : List Nat :=
  ((s.homeRead ((s.ctx c).cblk + 0x100) 128).2.zipIdx.filter fun p => p.1.toNat = code).map Prod.snd

/-- R389: `n` events of a code are counted in every counter of the context that has this code, in the unit of a die; `Ctx.cnt` holds
what a read returns, the image's value with every die's live count. -/
def State.count (s : State) (d c code n : Nat) : State :=
  let x := s.ctx c
  if !x.valid || n = 0 then s
  else
    match s.countersOf c code with
    | [] => s
    | ks => s.setCtx c { x with
        cnt := ks.foldl (fun t k => write 0 t k (readOr 0 t k + BitVec.ofNat 64 n)) x.cnt,
        live := ks.foldl (fun t k => write 0 t (128 * d + k) (readOr 0 t (128 * d + k) + BitVec.ofNat 64 n)) x.live }

/-- R378: the core takes its command counter's next value for a context. -/
def State.command (s : State) (a : Agent) (c : Nat) : State × Word :=
  match a with
  | .wide k =>
    let n := readOr 0 (s.core k).seqs c
    (s.setCore k { s.core k with seqs := write 0 (s.core k).seqs c (n + 1) }, n)
  | .lat l =>
    let n := readOr 0 (s.lc l).seqs c
    (s.setLc l { s.lc l with seqs := write 0 (s.lc l).seqs c (n + 1) }, n)
  | _ => (s, 0)

/-! ### Jobs and groups (R292, R437) -/

def State.job (s : State) (j : Nat) : Job := readOr {} s.hub.jobs j
def State.setJob (s : State) (j : Nat) (x : Job) : State := { s with hub := { s.hub with jobs := write {} s.hub.jobs j x } }

/-- R437: the entry that holds a tag. -/
def State.jobOf (s : State) (tag : Nat) : Option (Nat × Job) :=
  if tag = 0 then none else s.hub.jobs.find? fun (_, j) => j.tag = tag && j.st ≠ .free

/-- R292: the device of a rank of a group, and all members in rank order. -/
def State.member (s : State) (g : Group) (r : Nat) : Nat := leNat (s.homeRead (g.base + 2 * r) 2).2 % 8192
def State.members (s : State) (g : Group) : List Nat := (List.range g.n).map (s.member g)

/-- R292: a group entry that is set and lists this device. -/
def State.groupHere (s : State) (n : Nat) : Option Group :=
  match look s.hub.groups n with
  | some g => if g.valid && (s.members g).contains s.dev then some g else none
  | none => none

/-- R345, R471: a message to a device is on its way. -/
def State.message (s : State) (d : Nat) (m : Message) : State :=
  if s.hub.outbox.contains (d, m) then s else { s with hub := { s.hub with outbox := s.hub.outbox ++ [(d, m)] } }

/-! ### Stops -/

def Strand.stopAll (st : Strand) : Strand := { st with splits := st.splits.map fun k => { k with stop := true } }

def Warp.stopAll (w : Warp) : Warp := { w with main := w.main.stopAll, handler := w.handler.map Strand.stopAll }

def LatThread.stopAll (h : LatThread) : LatThread := { h with main := h.main.stopAll, handler := h.handler.map Strand.stopAll }

def Lc.stopContext (l : Lc) (c : Nat) : Lc :=
  let go (h : LatThread) : LatThread := if h.active && h.ctx = c && h.serving.isNone then h.stopAll else h
  { l with t0 := go l.t0, t1 := go l.t1 }

/-- R382: a context's work on this device stops; shipped sections run on. -/
def State.stopContext (s : State) (c : Nat) : State :=
  { s with teams := mapVals s.teams fun _ t => if t.ctx = c then { t with warps := t.warps.map Warp.stopAll } else t,
           lcs := mapVals s.lcs fun _ l => l.stopContext c }

/-- R382: the other devices of a context's job. -/
def State.jobDevices (s : State) (c : Nat) : List Nat :=
  match (s.jobOf (s.ctx c).job).bind fun j => s.groupHere j.2.grp with
  | some g => (s.members g).filter (· ≠ s.dev)
  | none => []

/-- R382: a hit stops the warp, the team or the context's work on every device of its job. -/
def State.stopWork (s : State) (w : Who) (mode : Nat) : State :=
  match mode, w with
  | 3, _ => s
  | 2, _ =>
    let c := s.ctxOf w
    let s := (s.jobDevices c).foldl (fun s d => s.message d (.debugStop (s.ctx c).job)) (s.stopContext c)
    match w with
    | .lat lc th => s.setLc lc ((s.lc lc).setThread th ((s.lc lc).thread th).stopAll)
    | _ => s
  | 1, .warp t _ _ | 1, .handler t _ => s.mapTeam t fun x => { x with warps := x.warps.map Warp.stopAll }
  | _, .warp t n _ | _, .handler t n => s.mapWarp t n Warp.stopAll
  | _, .lat lc th => s.setLc lc ((s.lc lc).setThread th ((s.lc lc).thread th).stopAll)

/-- R335, R380, R381: the debug service of a die takes a report, and writes a service event of kind 3. -/
def State.debugReport (s : State) (d : Nat) (r : DebugReport) : State :=
  let x := s.die d
  let s := s.setDie d { x with reports := x.reports ++ [r] }
  s.serviceEvent d { kind := 3, ctx := r.ctx, arg := BitVec.ofNat 32 x.reports.length, site := r.site, seq := r.seq, team := r.team }

/-- R382, R389: a debug stop that another device of a job sends. -/
def State.farStop (s : State) (tag : Nat) : State :=
  ((s.ctxs.filter fun (_, x) => x.valid && x.job ≠ 0 && x.job = tag).map Prod.fst).foldl (fun s c => (s.stopContext c).count 0 c 0x0E 1) s

/-- R389 0x0E: a debug stop. -/
def State.debugStop (s : State) (w : Who) (mode : Nat) : State :=
  if mode = 3 then s else (s.stopWork w mode).count (s.agentOf w).die (s.ctxOf w) 0x0E 1

/-- R192, R383: does the actor of an access still exist; a team whose last warp has exited has none. -/
def State.present (s : State) (w : Who) : Bool :=
  (s.strand? w).isSome &&
  match w with
  | .warp t _ _ | .handler t _ => (look s.teams t).any fun x => x.warps.any fun y => y.main.live ≠ 0
  | .lat _ _ => true

/-! ### Watch ranges -/

/-- R381: an access as the home slice checks it. -/
structure Seen where
  line  : Nat
  ctx   : Nat
  asid  : Nat                     -- R383: the context's, as the access was made
  write : Bool := false
  read  : Bool := false
  who   : Option Who := none      -- whom a hit stops
  flags : Nat := 0
  site  : DWord := 0
  seq   : Word := 0
  team  : Word := 0
  deriving DecidableEq, Repr

/-- R379, R381: does a watch range fire on an access. -/
def Watch.fires (w : Watch) (asid : Nat) (a : Seen) : Bool :=
  let at_ := linePa a.line / 128
  w.ctl.getLsbD 31 && ((a.read && w.ctl.getLsbD 30) || (a.write && w.ctl.getLsbD 29)) &&
  w.lo.toNat / 128 ≤ at_ && at_ < w.hi.toNat / 128 && (w.ctl.getLsbD 16 || w.ctl.toNat % 65536 = asid)

def Watch.mode (w : Watch) : Nat := (w.ctl.extractLsb' 27 2).toNat

/-- R383: has the actor of an access ended; of a section, does its thread serve another one. -/
def State.gone (s : State) (a : Seen) : Bool :=
  match a.who with
  | some (.lat lc 0) =>
    match (s.lc lc).t0.serving with
    | some r => r.site ≠ a.site || r.seq ≠ a.seq
    | none => true
  | some k => !s.present k
  | none => false

/-- R381 to R383: the watch ranges of the die that homes a line see an access. -/
def State.watch (s : State) (a : Seen) : State :=
  let d := homeDie (linePa a.line)
  let x := s.die d
  if !x.zctl.getLsbD 0 || lineDev a.line ≠ s.dev then s
  else
    (x.ranges.map Prod.snd).foldl (fun s w =>
      if !w.fires a.asid a then s
      else
        let gone := s.gone a
        let s := s.debugReport d { cause := 0x31, ctx := a.ctx, mode := w.mode, flags := a.flags + (if gone then 8 else 0),
                                   site := a.site, seq := a.seq, team := a.team, addr := BitVec.ofNat 64 (linePa a.line) }
        match a.who with
        | some k => if gone then s else s.debugStop k w.mode
        | none => s) s

/-- R381, R454: an access that is no context's: only ranges with ANYASID see it. -/
def noContext : Nat := 64
def noAsid : Nat := 65536

/-! ### Coherence trace -/

/-- R388: a home slice writes a trace record where tracing covers the ASID and the line. -/
def State.traceRecord (s : State) (line : Nat) (mask : BitVec 128) (site : DWord) (seq : Word) (asid srcDie sc rt flags kind srcDev srcCore : Nat) : State :=
  let d := homeDie (linePa line)
  let x := s.die d
  if !x.traced.any fun r => r.asid = asid && r.lo ≤ linePa line && linePa line < r.hi then s
  else if x.traceSize ≤ x.trace.length then s.setDie d { x with traceLost := x.traceLost + 1 }
  else
    let bytes := le 8 x.clk.toNat ++ le 8 (fields [(7, linePa line / 128), (40, lineDev line)]) ++ le 16 mask.toNat ++
      le 8 site.toNat ++ le 4 seq.toNat ++
      le 4 (fields [(0, kind), (4, flags), (8, rt), (10, sc), (12, srcDie), (16, asid)]) ++
      le 4 (fields [(8, srcCore), (19, srcDev)]) ++ le 12 0
    s.setDie d { x with trace := x.trace ++ [bytes] }

/-- R381, R388: what a home slice has done on its own: bytes of a latency core that it has merged, as an eviction, and caches that it has
invalidated. -/
def State.homeSees (s : State) (h : HomeEvent) : State :=
  let s := if h.merge then s.watch { line := h.line, ctx := h.ctx, asid := h.asid, write := true, flags := 4 } else s
  s.traceRecord h.line h.mask h.site h.seq h.asid h.agent.die h.sc.code.toNat h.rt.code.toNat
    ((if h.merge then 2 else 0) + if h.dev.isSome then 8 else 0) (if h.merge then 2 else 1) (h.dev.getD s.dev) h.agent.number

/-- R381, R388: the home slices check and trace what they have done. -/
def State.observe (s : State) : State := { s.homeLog.foldl State.homeSees s with homeLog := [] }

end Sys2Proof.Machine
end

