-- ==== Sys2Proof/Machine/Registers.lean ====
section
/-! DEFINITION. The register ranges of the physical map: management registers, job table, port and service registers,
ZOU blocks, Filair windows (R379, R437, R448 to R454, R474, R476, R483). -/

namespace Sys2Proof.Machine

/-! ### The physical map (R448) -/

inductive Region where
  | memory
  | registers (off : Nat)
  | zou (die off : Nat)
  | window (w off : Nat)
  | nothing
  deriving DecidableEq, Repr

/-- R448: what lies at a physical address of this device. -/
def regionOf (pa : Nat) : Region :=
  if pa < hbmEnd then .memory
  else if 0xC000000000 ≤ pa && pa < 0xC001000000 then .registers (pa - 0xC000000000)
  else if 0xC001000000 ≤ pa && pa < 0xC001400000 then .zou ((pa - 0xC001000000) / 0x100000) ((pa - 0xC001000000) % 0x100000)
  else if 0xE000000000 ≤ pa && pa < 0x10000000000 then .window ((pa - 0xE000000000) / 0x400000000) ((pa - 0xE000000000) % 0x400000000)
  else .nothing

/-- R449, R451: size of a Filair window; zero closes it. DESIGN CHOICE (log 144): a size above 16 GiB counts as 16 GiB. -/
def State.windowSize (s : State) (w : Nat) : Nat := min (((look s.hub.wins w).map Prod.snd).getD 0) 0x400000000

/-! ### Halves of 64-bit registers -/

def lo32 (n : Nat) : Nat := n % 2 ^ 32
def hi32 (n : Nat) : Nat := n / 2 ^ 32 % 2 ^ 32
def withLo (n v : Nat) : Nat := n / 2 ^ 32 * 2 ^ 32 + v
def withHi (n v : Nat) : Nat := n % 2 ^ 32 + v * 2 ^ 32
/-- One half of a 64-bit register. -/
def half (n : Nat) (hi : Bool) : Nat := if hi then hi32 n else lo32 n
def withHalf (n v : Nat) (hi : Bool) : Nat := if hi then withHi n v else withLo n v

def bit (b : Bool) (k : Nat) : Nat := if b then 2 ^ k else 0

/-! ### Launch queues (R427, R452) -/

/-- R299: LID of a launch record. -/
def recordLid (bs : List Byte) : Word := BitVec.ofNat 32 (leNat ((bs.drop 0x20).take 4))

/-- R427, R452: is a launch with this LID queued, accepted or running in a context. -/
def State.lidKnown (s : State) (c : Nat) (lid : Word) : Bool :=
  (s.ctx c).queue.any (fun q => recordLid q.bytes = lid) || s.launches.any fun (_, l) => l.ctx = c && l.record.lid = lid

/-- R427, R452: a record for a context's launch queue: 0 queued, 1 no context, 2 known, 3 full. -/
def State.queueLaunch (s : State) (c : Nat) (addr : DWord) (bs : List Byte) (host : Bool) : State × Nat :=
  if !(s.ctx c).valid || (s.ctx c).dying then (s, 1)
  else if s.lidKnown c (recordLid bs) then (s, 2)
  else if 64 ≤ (s.ctx c).queue.length then (s, 3)
  else (s.setCtx c { s.ctx c with queue := (s.ctx c).queue ++ [{ addr := addr, bytes := bs, host := host }] }, 0)

/-- R452: the doorbell of a context. -/
def State.ringDoorbell (s : State) (c : Nat) : State :=
  let bs := (List.range 128).map fun i => readOr 0 s.hub.staging (128 * c + i)
  let (s, v) := s.queueLaunch c 0 bs true
  { s with hub := { s.hub with lqstatus := write 0 s.hub.lqstatus c v } }

/-! ### Jobs (R437) -/

def jobCode : JobSt → Nat
  | .free => 0 | .run => 1 | .stopping => 2 | .off => 3 | .restoring => 4

/-- R437: admission. -/
def State.admitJob (s : State) (j : Nat) : State :=
  let x := s.job j
  if x.st = .free || x.st = .off then s.setJob j { x with st := .run } else s

/-- R441: a flit as a save or late record holds it. -/
def flitOf (bs : List Byte) : Flit :=
  let n := leNat (bs.take 48)
  let f (lo w : Nat) : Nat := n / 2 ^ lo % 2 ^ w
  { payload := BitVec.ofNat 256 (f 128 256), seq := BitVec.ofNat 12 (f 84 12), vc := BitVec.ofNat 4 (f 80 4), tag := BitVec.ofNat 16 (f 64 16),
    dst := BitVec.ofNat 13 (f 51 13), src := BitVec.ofNat 13 (f 38 13), pos := BitVec.ofNat 2 (f 36 2), type := BitVec.ofNat 4 (f 32 4),
    av := f 31 1 = 1, nak := f 30 1 = 1, aseq := BitVec.ofNat 12 (f 18 12), cvc := BitVec.ofNat 4 (f 14 4), ccnt := BitVec.ofNat 6 (f 8 6) }

/-! ### Flits on their way (R436, R461, R462) -/

/-- A flit with its end-to-end fields. -/
def newFlit (payload ty pos src dst tag : Nat) (vc : Nat) : Flit :=
  { payload := BitVec.ofNat 256 payload, seq := 0, vc := BitVec.ofNat 4 vc, tag := BitVec.ofNat 16 tag, dst := BitVec.ofNat 13 dst,
    src := BitVec.ofNat 13 src, pos := BitVec.ofNat 2 pos, type := BitVec.ofNat 4 ty, av := false, nak := false, aseq := 0, cvc := 0, ccnt := 0 }

/-- R462: the class of a type. -/
def vcClass (ty : Nat) : Nat :=
  if ty = 0 || ty = 11 || ty = 12 then 0 else if ty ≤ 3 || ty = 7 then 1 else if ty = 9 || ty = 10 then 3 else 2

/-- R461: a packet: its head and its body flits. -/
def packet (ty src dst tag head : Nat) (body : List Nat) : List Flit :=
  let n := body.length
  newFlit head ty (if n = 0 then 3 else 0) src dst tag (vcClass ty) ::
    body.zipIdx.map fun (b, i) => newFlit b ty (if i + 1 = n then 2 else 1) src dst tag (vcClass ty)

/-- Bytes as payloads of 32. -/
def payloads (bs : List Byte) (n : Nat) : List Nat := (List.range n).map fun i => leNat ((bs.drop (32 * i)).take 32)

/-- Hands flits to the router. -/
def State.inject (s : State) (fs : List Flit) : State := { s with hub := { s.hub with waiting := s.hub.waiting ++ fs } }

/-- R461: TXN in the head of a packet. -/
def txnOf (f : Flit) : Nat := (f.payload.toNat / 2 ^ 64) % 2 ^ 32

/-- What a packet of TYPE 9, 10 or 11 is, in bits that a request holds zero: 1 a barrier arrival, 2 a release, 3 a member's part of
a collective, 4 its failure, 5 a sweep marker. DESIGN CHOICE (log 142): no rule lays these payloads out. -/
def sortOf (f : Flit) : Nat := f.payload.toNat / 2 ^ 53 % 2 ^ 11

/-- R345, R436: a `.job` barrier message, with the tag of its context. DESIGN CHOICE (log 142): its layout, and that the context has one
number on every member. -/
def State.jobMessage (s : State) (d sort c id phase status : Nat) : State :=
  s.inject [newFlit (fields [(0, c), (6, id), (12, phase % 2 ^ 24), (36, status), (53, sort), (64, d)]) 10 3 s.dev d (s.ctx c).job (vcClass 10)]

/-- R293: a packet of a collective, as its head and its body give it. -/
def collOf (f : Flit) (body : List Byte) : CollIn :=
  let h := f.payload.toNat
  { group := h % 64, rank := h / 2 ^ 6 % 2 ^ 13, number := txnOf f, kinds := h / 2 ^ 96 % 2 ^ 32, count := h / 2 ^ 128 % 2 ^ 32,
    part := h / 2 ^ 160 % 2 ^ 48, failed := sortOf f = 4, bytes := body }

/-- R293: it waits until its collective ends here; one of a collective that has ended is dropped. -/
def State.takeColl (s : State) (c : CollIn) : State :=
  if s.colls.any (fun (_, x) => x.group = c.group && x.number = c.number) || readOr 0 s.collSeq c.group ≤ c.number then
    { s with hub := { s.hub with collIn := s.hub.collIn ++ [c] } }
  else s

/-- R470, R471: the source of a packet learns that it is lost: a request fails, a barrier message leaves again, a collective has a
member that has failed. -/
def State.noteLoss (s : State) (f : Flit) : State :=
  match sortOf f with
  | 0 => { s with inputs := s.inputs ++ [.lossNotice (txnOf f)] }
  | 1 | 2 =>
    let d := txnOf f % 8192
    if s.hub.unreachable.contains d then s
    else s.inject [newFlit f.payload.toNat 10 3 s.dev d (s.ctx (f.payload.toNat % 64)).job (vcClass 10)]
  | 3 => s.takeColl { collOf f [] with failed := true }
  | _ => s

/-! ### Saved flits (R437, R441) -/

/-- R441: the flits of the save area and of the late area of an entry. -/
def State.savedFlits (s : State) (x : Job) : List Flit :=
  (List.range (if x.st = .stopping then x.swept else x.saved)).map fun i => flitOf (s.homeRead (x.save + 64 * i) 48).2

def State.lateFlits (s : State) (x : Job) : List Flit :=
  (List.range x.latecnt).map fun i => flitOf (s.homeRead (x.late + 64 * i) 48).2

/-- R437, R442, R470: the source of a packet that has lost a flit learns of it, by a loss notice with the packet's head. Whoever waits
for a lost response counts it lost after its time (REQUEST_TIMEOUT); the home that has sent it waits for nothing. -/
def State.losePacket (s : State) (f : Flit) : State :=
  if (f.pos ≠ 0 && f.pos ≠ 3) || !([1, 2, 3, 7, 9, 10].contains f.type.toNat) then s
  else if f.src.toNat = s.dev then s.noteLoss f
  else s.inject [newFlit f.payload.toNat 12 3 s.dev f.src.toNat 0 (vcClass 12)]

/-- R437, R442: packets that reach their agent and that have begun are discarded whole. -/
def State.dropPartials (s : State) (p : Partial → Bool) : State :=
  ((s.hub.partials.filter p).flatMap Partial.flits).foldl State.losePacket
    { s with hub := { s.hub with partials := s.hub.partials.filter fun x => !p x } }

/-- R437, R445: an entry becomes free: what it has saved is discarded, every packet that loses a flit whole. -/
def State.discardJob (s : State) (j : Nat) : State :=
  let x := s.job j
  let s := s.dropPartials fun p => p.tag = x.tag
  let s := (s.savedFlits x ++ s.lateFlits x ++ x.dropped).foldl State.losePacket { s with hub := { s.hub with replays := unlist s.hub.replays j } }
  s.setJob j { x with st := .free, saved := 0, latecnt := 0, dropped := [] }

/-- R437: an entry that is OFF is freed. -/
def State.freeJob (s : State) (j : Nat) : State := if (s.job j).st = .off then s.discardJob j else s

/-- R437: a word of a job table entry. -/
def Job.word (x : Job) (off : Nat) : Nat :=
  match off with
  | 0x00 => fields [(0, x.tag), (16, jobCode x.st), (19, if x.cond then 1 else 0)]
  | 0x04 => x.grp
  | 0x08 => x.serial
  | 0x0C => x.share
  | 0x10 => lo32 x.save
  | 0x14 => hi32 x.save
  | 0x18 => lo32 x.late
  | 0x1C => hi32 x.late
  | 0x20 => x.latesz
  | 0x24 => x.saved
  | 0x28 => x.latecnt
  | 0x2C => x.latedrop
  | 0x30 => x.failcnt
  | 0x34 => x.firstfail
  | _ => 0

/-- R437: a write to a job table entry. -/
def State.writeJob (s : State) (j off v : Nat) : State :=
  let x := s.job j
  let open_ : Bool := x.st = .free || x.st = .off
  match off with
  | 0x00 =>
    let s := if open_ then s.setJob j { x with tag := v % 65536, cond := v / 2 ^ 19 % 2 = 1 } else s
    if v / 65536 % 8 ≠ 0 then s.admitJob j else s.freeJob j
  | 0x04 => if open_ then s.setJob j { x with grp := v % 64 } else s
  | 0x0C => if open_ then s.setJob j { x with share := v } else s
  | 0x10 | 0x14 => if open_ then s.setJob j { x with save := withHalf x.save v (off = 0x14) / 4096 * 4096 } else s
  | 0x18 | 0x1C => if open_ then s.setJob j { x with late := withHalf x.late v (off = 0x1C) / 4096 * 4096 } else s
  | 0x20 => if open_ then s.setJob j { x with latesz := v } else s
  | _ => s

/-! ### Ports, lasers and service (R474, R476) -/

def State.port (s : State) (p : Nat) : Port := readOr {} s.hub.ports p
def State.setPort (s : State) (p : Nat) (x : Port) : State := { s with hub := { s.hub with ports := write {} s.hub.ports p x } }
def State.laser (s : State) (n : Nat) : Laser := readOr {} s.hub.lasers n
def State.setLaser (s : State) (n : Nat) (x : Laser) : State := { s with hub := { s.hub with lasers := write {} s.hub.lasers n x } }

/-- R460: is a number a port with registers. -/
def isPort (p : Nat) : Bool := p < 31 || (32 ≤ p && p < 64)

/-- R466: channels in use of a map with some live channels. -/
def inUse (map : BitVec 16) : Nat :=
  let live := ((List.range 16).filter map.getLsbD).length
  (([16, 12, 8, 6, 4, 3, 2, 1] : List Nat).find? fun n => n ≤ live).getD 0

def Port.word (x : Port) (off : Nat) : Nat :=
  match off with
  | 0x00 => fields [(0, x.tx.toNat), (16, x.rx.toNat)]
  | 0x04 => fields [(0, x.st), (8, inUse x.tx), (16, inUse x.rx)]
  | 0x08 => match x.peer with | some (d, p) => fields [(0, d), (13, p), (31, 1)] | none => 0
  | 0x0C => x.replayed
  | 0x10 => x.crc
  | 0x14 => x.epoch
  | 0x18 => if x.disable then 1 else 0
  | _ => 0

def Laser.word (x : Laser) : Nat :=
  fields [(0, if x.fault || x.removed then 0 else 1), (1, if x.latched then 1 else 0), (2, if x.removed then 1 else 0)]

/-- R476: the fenced dies as bits. -/
def State.fencedBits (s : State) : Nat := ((List.range 4).map fun d => bit (s.die d).fenced d).sum

/-- R476 DEVSTAT without REPLREQ. -/
def State.degraded (s : State) : Nat :=
  s.fencedBits * 2 + bit s.hub.noSpare 5 + bit (s.hub.lasers.any fun (_, l) => l.fault || l.removed) 6

/-- R482: REPLREQ is set while the device is degraded. -/
def State.noteDegraded (s : State) : State := if s.degraded = 0 then s else { s with hub := { s.hub with replreq := true } }

/-- R455: the policy of a global port: 1 encrypted, 2 clear, which needs debug unlock, else 0. -/
def portCode (g : Nat) : Nat :=
  let c := Config.bootPolicy.toNat / 4 ^ g % 4
  if c = 1 || (c = 2 && Config.debugUnlock) then c else 0

/-- R449, R455: PORTPOL. -/
def portPol : Nat := fields ((List.range 32).map fun g => (2 * g, portCode g))

def modeCode : BootMode → Nat
  | .starting => 0 | .running => 1 | .minimal => 2

/-- R482: errors are counted as they come; how many have come since ERRCNT was last read is free. -/
def State.countErrors (s : State) : State :=
  let h := s.hub
  { s.spend 2 with hub := { h with corrected := (h.corrected + Config.pick s.oracle) % 2 ^ 32,
                                   uncorrected := (h.uncorrected + Config.pick (s.oracle + 1)) % 2 ^ 32 } }

/-- R476: the service registers; temperatures are free. -/
def State.serviceWord (s : State) (off : Nat) : State × Nat :=
  let h := s.hub
  if 0x100 ≤ off && off < 0x148 then (s, h.cleanmap / 2 ^ (8 * (off - 0x100)) % 2 ^ 32)
  else if 0x200 ≤ off && off < 0x230 then (s, readOr 0x3F h.spares ((off - 0x200) / 4))
  else
    match off with
    | 0x00 => (s, fields [(0, modeCode h.mode), (2, if h.cold then 1 else 0), (3, h.wfail), (8, h.why)])
    | 0x04 => (s, bit h.replreq 0 + s.degraded)
    | 0x08 => (s, 0x70000)
    | 0x0C => (s.spend 1, (Config.temperature s.oracle).toNat)
    | 0x10 => (s, Config.calTemperature.toNat)
    | 0x18 => (s.countErrors, s.countErrors.hub.corrected)
    | 0x1C => (s.countErrors, s.countErrors.hub.uncorrected)
    | _ => (s, 0)

/-! ### Management registers (R449) -/

/-- R449: the registers below 0x1000. -/
def State.mainWord (s : State) (off : Nat) : Nat :=
  let h := s.hub
  if 0x100 ≤ off && off < 0x180 then
    let w := readOr (0, 0) h.wins ((off - 0x100) / 16)
    half (if off % 16 < 8 then w.1 else min w.2 0x400000000) (off % 8 = 4)
  else if 0x320 ≤ off && off < 0x340 then h.nonce / 2 ^ (8 * (off - 0x320)) % 2 ^ 32
  else
    match off with
    | 0x000 => h.devnum
    | 0x008 => lo32 h.ctxbase
    | 0x00C => hi32 h.ctxbase
    | 0x010 => lo32 h.evqbase
    | 0x014 => hi32 h.evqbase
    | 0x018 => h.evqcfg
    | 0x01C => h.evqtail
    | 0x020 => h.evqhead
    | 0x024 => h.evLost
    | 0x200 => lo32 portPol
    | 0x204 => hi32 portPol
    | 0x300 => h.mbcmd
    | 0x304 => h.mbarg
    | 0x308 => lo32 h.mbaddr
    | 0x30C => hi32 h.mbaddr
    | 0x310 => h.mbres.1.toNat
    | 0x314 => h.mbres.2.toNat
    | 0x318 => bit h.busy 0 + bit h.overrun 1
    | 0x404 => h.apert * 16
    | _ => 0

/-- R449 COLLg. -/
def Group.word (g : Group) (off : Nat) : Nat :=
  match off with
  | 0x0 => fields [(0, g.n), (16, g.rank), (31, if g.valid then 1 else 0)]
  | 0x8 => lo32 g.base
  | 0xC => hi32 g.base
  | _ => 0

/-- R449 GRANTi. -/
def Grant.word (g : Grant) (off : Nat) : Nat :=
  match off with
  | 0x00 => fields [(0, g.tag), (16, if g.r then 1 else 0), (17, if g.w then 1 else 0), (31, if g.valid then 1 else 0)]
  | 0x08 => lo32 g.base
  | 0x0C => hi32 g.base
  | 0x10 => lo32 g.limit
  | 0x14 => hi32 g.limit
  | _ => 0

/-- R449, R474, R476: a word of the management registers; capability records are free (R483). -/
def State.regWord (s : State) (off : Nat) : State × Nat :=
  let h := s.hub
  if off < 0x10000 then (s, s.mainWord off)
  else if off < 0x10400 then (s, (readOr {} h.groups ((off - 0x10000) / 16)).word (off % 16))
  else if 0x20000 ≤ off && off < 0x21000 then (s, (s.job ((off - 0x20000) / 64)).word (off % 64))
  else if 0x30000 ≤ off && off < 0x34000 then
    let c := (off - 0x30000) / 256
    let k := off % 256
    (s, if k < 0x80 then leNat ((List.range 4).map fun i => readOr 0 h.staging (128 * c + k + i)) else if k = 0x84 then readOr 0 h.lqstatus c else 0)
  else if 0x40000 ≤ off && off < 0x42000 then (s, (readOr {} h.grants ((off - 0x40000) / 32)).word (off % 32))
  else if 0x50000 ≤ off && off < 0x50800 then (s, if isPort ((off - 0x50000) / 32) then (s.port ((off - 0x50000) / 32)).word (off % 32) else 0)
  else if 0x50C00 ≤ off && off < 0x50C80 then (s, if off % 8 = 0 then (s.laser ((off - 0x50C00) / 8)).word else 0)
  else if 0x60000 ≤ off && off < 0x60300 then s.serviceWord (off - 0x60000)
  else if 0x70000 ≤ off && off < 0x71000 then (s.spend 1, (Config.freeWord s.oracle).toNat)
  else (s, 0)

/-- R449, R478: MBCMD starts a command, unless one runs; in minimal mode only 3, 6 and 7 do anything. DESIGN CHOICE (log 126): in
another mode a value that names no command is held and starts none. -/
def State.startCommand (s : State) (v : Nat) : State :=
  if s.hub.busy then { s with hub := { s.hub with overrun := true } }
  else if s.hub.mode = .minimal && v ≠ 3 && v ≠ 6 && v ≠ 7 then { s with hub := { s.hub with mbcmd := v, mbres := (1, s.hub.mbres.2) } }
  else { s with hub := { s.hub with mbcmd := v, busy := decide (1 ≤ v && v ≤ 7) } }

/-- R449: a write to the registers below 0x1000. DESIGN CHOICE (log 144): an APERT above 8 counts as 8. -/
def State.writeMain (s : State) (off v : Nat) : State :=
  let h := s.hub
  let put (h : Hub) : State := { s with hub := h }
  if 0x100 ≤ off && off < 0x180 then
    let n := (off - 0x100) / 16
    let w := readOr (0, 0) h.wins n
    let w := if off % 16 < 8 then (withHalf w.1 v (off % 8 = 4) / 4096 * 4096, w.2)
      else (w.1, withHalf w.2 v (off % 8 = 4) / 4096 * 4096)
    put { h with wins := write (0, 0) h.wins n w }
  else if 0x320 ≤ off && off < 0x340 then
    let k := 8 * (off - 0x320)
    put { h with nonce := h.nonce % 2 ^ k + v * 2 ^ k + h.nonce / 2 ^ (k + 32) * 2 ^ (k + 32) }
  else
    match off with
    | 0x000 => if h.created then s else put { h with devnum := v % 8192 }
    | 0x008 => put { h with ctxbase := withLo h.ctxbase v / 1024 * 1024 % 2 ^ 40 }
    | 0x00C => put { h with ctxbase := withHi h.ctxbase v % 2 ^ 40 }
    | 0x010 => put { h with evqbase := withLo h.evqbase v / 128 * 128 }
    | 0x014 => put { h with evqbase := withHi h.evqbase v }
    | 0x018 => put { h with evqcfg := v % 2 ^ 24 }
    | 0x020 => put { h with evqhead := v }
    | 0x300 => s.startCommand v
    | 0x304 => put { h with mbarg := v }
    | 0x308 => put { h with mbaddr := withLo h.mbaddr v / 4096 * 4096 }
    | 0x30C => put { h with mbaddr := withHi h.mbaddr v }
    | 0x318 => if v / 2 % 2 = 1 then put { h with overrun := false } else s
    | 0x404 => put { h with apert := min (v / 16 % 16) 8 }
    | _ => s

/-- R449 -/
def State.writeGroup (s : State) (n off v : Nat) : State :=
  let g := readOr {} s.hub.groups n
  let g := match off with
    | 0x0 => { g with n := v % 2 ^ 14, rank := v / 2 ^ 16 % 2 ^ 13, valid := v / 2 ^ 31 = 1 }
    | 0x8 => { g with base := withLo g.base v }
    | 0xC => { g with base := withHi g.base v }
    | _ => g
  { s with hub := { s.hub with groups := write {} s.hub.groups n g } }

def State.writeGrant (s : State) (n off v : Nat) : State :=
  let g := readOr {} s.hub.grants n
  let g := match off with
    | 0x00 => { g with tag := v % 65536, r := v / 2 ^ 16 % 2 = 1, w := v / 2 ^ 17 % 2 = 1, valid := v / 2 ^ 31 = 1 }
    | 0x08 | 0x0C => { g with base := withHalf g.base v (off = 0x0C) / 4096 * 4096 }
    | 0x10 | 0x14 => { g with limit := withHalf g.limit v (off = 0x14) / 4096 * 4096 }
    | _ => g
  { s with hub := { s.hub with grants := write {} s.hub.grants n g } }

/-- R449, R474, R476: a word is written to the management registers. DESIGN CHOICE (log 104): a nonzero word written to ERRCNT
changes nothing. -/
def State.writeRegWord (s : State) (off v : Nat) : State :=
  let h := s.hub
  if off < 0x10000 then s.writeMain off v
  else if off < 0x10400 then s.writeGroup ((off - 0x10000) / 16) (off % 16) v
  else if 0x20000 ≤ off && off < 0x21000 then s.writeJob ((off - 0x20000) / 64) (off % 64) v
  else if 0x30000 ≤ off && off < 0x34000 then
    let c := (off - 0x30000) / 256
    let k := off % 256
    if k < 0x80 then
      { s with hub := { h with staging := (le 4 v).zipIdx.foldl (fun t p => write 0 t (128 * c + k + p.2) p.1) h.staging } }
    else if k = 0x80 then s.ringDoorbell c
    else s
  else if 0x40000 ≤ off && off < 0x42000 then s.writeGrant ((off - 0x40000) / 32) (off % 32) v
  else if 0x50000 ≤ off && off < 0x50800 then
    if off % 32 = 0x18 && isPort ((off - 0x50000) / 32) then
      s.setPort ((off - 0x50000) / 32) { s.port ((off - 0x50000) / 32) with disable := v % 2 = 1 }
    else s
  else if 0x50C00 ≤ off && off < 0x50C80 then
    if off % 8 = 0 && v / 2 % 2 = 1 then s.setLaser ((off - 0x50C00) / 8) { s.laser ((off - 0x50C00) / 8) with latched := false } else s
  else if off = 0x60018 || off = 0x6001C then
    if v = 0 then { s with hub := { h with corrected := 0, uncorrected := 0 } } else s
  else if 0x60100 ≤ off && off < 0x60148 then
    let k := 8 * (off - 0x60100)
    { s with hub := { h with cleanmap := h.cleanmap % 2 ^ k + v * 2 ^ k + h.cleanmap / 2 ^ (k + 32) * 2 ^ (k + 32) } }
  else s

/-! ### ZOU blocks (R379) -/

/-- R379 ZSTAT: service events of kind 3 that the die's ring still holds. -/
def State.reportsWaiting (s : State) (d : Nat) : Nat :=
  if (s.die d).fqbase = 0 then 0
  else
    let size := (s.fqWord d 0x18).2
    let tail := (s.fqWord d 0x1C).2
    let head := (s.fqWord d 0x20).2
    let n := if size = 0 then 0 else min ((tail + 2 ^ 32 - head) % 2 ^ 32) size
    min 0xFFFF ((List.range n).filter fun k => leNat (s.homeRead ((s.fqDword d 0x10).2 + 32 * ((head + k) % size)) 1).2 = 3).length

/-- R379: a word of a die's ZOU block. -/
def State.zouWord (s : State) (d off : Nat) : Nat :=
  let x := s.die d
  if off = 0 then x.zctl.toNat % 2
  else if off = 8 then s.reportsWaiting d
  else if off = 0x10 then x.sampint.toNat
  else if 0x100 ≤ off && off < 0x200 then
    let w := readOr {} x.ranges ((off - 0x100) / 0x20)
    match (off - 0x100) % 0x20 with
    | 0x00 => lo32 w.lo.toNat
    | 0x04 => hi32 w.lo.toNat
    | 0x08 => lo32 w.hi.toNat
    | 0x0C => hi32 w.hi.toNat
    | 0x10 => w.ctl.toNat
    | _ => 0
  else if 0x1000 ≤ off && off < 0x5000 then
    let w := readOr {} x.comps ((off - 0x1000) / 0x10)
    match off % 0x10 with
    | 0x0 => lo32 w.lo.toNat
    | 0x4 => hi32 w.lo.toNat
    | 0x8 => w.ctl.toNat
    | _ => 0
  else 0

/-- R379: bits that a physical line address and an instruction address keep. -/
def lineBits (n : Nat) : DWord := BitVec.ofNat 64 n &&& 0xFFFFFFFF80#64
def pcBits (n : Nat) : DWord := BitVec.ofNat 64 n &&& 0x01FFFFFFFFFFFFFC#64

/-- R379: a word is written to a die's ZOU block. -/
def State.writeZou (s : State) (d off v : Nat) : State :=
  let x := s.die d
  if off = 0 then s.setDie d { x with zctl := BitVec.ofNat 32 (v % 2) }
  else if off = 0x10 then s.setDie d { x with sampint := BitVec.ofNat 32 v }
  else if 0x100 ≤ off && off < 0x200 then
    let n := (off - 0x100) / 0x20
    let w := readOr {} x.ranges n
    let w := match (off - 0x100) % 0x20 with
      | 0x00 => { w with lo := lineBits (withLo w.lo.toNat v) }
      | 0x04 => { w with lo := lineBits (withHi w.lo.toNat v) }
      | 0x08 => { w with hi := lineBits (withLo w.hi.toNat v) }
      | 0x0C => { w with hi := lineBits (withHi w.hi.toNat v) }
      | 0x10 => { w with ctl := BitVec.ofNat 32 v &&& 0xF801FFFF#32 }
      | _ => w
    s.setDie d { x with ranges := write {} x.ranges n w }
  else if 0x1000 ≤ off && off < 0x5000 then
    let n := (off - 0x1000) / 0x10
    let w := readOr {} x.comps n
    let w := match off % 0x10 with
      | 0x0 => { w with lo := pcBits (withLo w.lo.toNat v) }
      | 0x4 => { w with lo := pcBits (withHi w.lo.toNat v) }
      | 0x8 => { w with ctl := BitVec.ofNat 32 v &&& 0x9800FFFF#32 }
      | _ => w
    s.setDie d { x with comps := write {} x.comps n w }
  else s

/-! ### Accesses beyond HBM4 -/

/-- R448, R451: the bytes that a read beyond HBM4 returns; what the host's memory holds is free. -/
def State.deviceRead (s : State) (pa n : Nat) : State × List Byte :=
  match regionOf pa with
  | .registers off =>
    (List.range (n / 4)).foldl (fun (acc : State × List Byte) k =>
      let (s, v) := acc.1.regWord (off + 4 * k)
      (s, acc.2 ++ le 4 v)) (s, [])
  | .zou d off => (s, (List.range (n / 4)).flatMap fun k => le 4 (s.zouWord d (off + 4 * k)))
  | .window w off =>
    (s.spend 1, (List.range n).map fun k => Config.hostByte (((look s.hub.wins w).map Prod.fst).getD 0 + off + k) s.oracle)
  | _ => (s, List.replicate n 0)

/-- R448, R451: bytes written beyond HBM4; a store to the host leaves the device, or is dropped while Filair is down. DEDUCED (log 148): of
8 bytes, which are one write, the high word takes effect first, since a low word may start what both describe (R437). -/
def State.deviceWrite (s : State) (pa : Nat) (bs : List Byte) : State :=
  match regionOf pa with
  | .registers off =>
    if off = 0x60018 && leNat bs ≠ 0 then s
    else (List.range (bs.length / 4)).reverse.foldl (fun s k => s.writeRegWord (off + 4 * k) (leNat ((bs.drop (4 * k)).take 4))) s
  | .zou d off =>
    (List.range (bs.length / 4)).foldl (fun s k => s.writeZou d (off + 4 * k) (leNat ((bs.drop (4 * k)).take 4))) s
  | .window w off =>
    if s.hub.filairDown then { s with hub := { s.hub with filairDrop := true } }
    else s.toHost (((look s.hub.wins w).map Prod.fst).getD 0 + off) bs
  | _ => s

end Sys2Proof.Machine
end

