-- ==== Sys2Proof/Machine/Teams.lean ====
section
/-! DEFINITION. Threads that leave: joins, barriers, teams and launches that end with them
(R192, R264, R311, R316, R317, R332, R333, R341, R342, R345). -/

namespace Sys2Proof.Machine

/-- R31: base of the fetch block of an address. -/
def blockBase (pc : DWord) : DWord := pc &&& ~~~ 31#64

/-- R314: a split that goes on at an address: READY where it has the fetch block, FETCH otherwise. -/
def Split.go (k : Split) (pc : DWord) (now : Nat) : Split :=
  let here : Bool := match k.block with | some b => b.base = blockBase pc | none => false
  { k with pc := pc, st := if here then .ready else .fetch, park := none, since := now, wake := false }

/-- R317: a split without threads runs its stacked arms, or exits. -/
def Split.popEmpty (now : Nat) : Nat → Split → Split
  | 0, k => k
  | n + 1, k =>
    if k.exm ≠ 0 then k
    else
      match k.stack with
      | [] => { k with st := .exited, park := none }
      | e :: rest =>
        if e.mask ≠ 0 then
          Split.go { k with exm := e.mask, stack := { e with mask := 0 } :: rest } e.pc now
        else
          Split.popEmpty now n (Split.go { k with exm := e.pending, stack := rest } (e.joinAt + 8) now)

/-- R317: takes threads out of every mask of a split. -/
def Split.without (k : Split) (m : Mask) (now : Nat) : Split :=
  if k.st = .free || k.st = .exited then k
  else
    let k := { k with
      exm := k.exm &&& ~~~ m,
      score := (k.score.map fun e => { e with mask := e.mask &&& ~~~ m }).filter fun e => e.mask ≠ 0,
      stack := k.stack.map fun e => { e with mask := e.mask &&& ~~~ m, pending := e.pending &&& ~~~ m } }
    Split.popEmpty now 17 k

/-- R316: the splits that have arrived under a record. -/
def Strand.members (st : Strand) (key : Nat) : List Nat :=
  (List.range st.splits.length).filter fun i =>
    let k := st.split i
    k.jrec.head? = some key && k.st ≠ .exited && k.st ≠ .free

/-- Outstanding results of several splits together (R316). -/
def joinScores (ss : List Split) : List ScoreEntry :=
  (ss.flatMap Split.score).foldl (fun acc e =>
    match acc.find? fun x => x.reg = e.reg with
    | some _ => acc.map fun x => if x.reg = e.reg then { x with mask := x.mask ||| e.mask } else x
    | none => acc ++ [e]) []

/-- R316: merges the splits of a record whose expected live threads have all arrived. -/
def Strand.closeJoin (st : Strand) (key : Nat) (now : Nat) : Strand :=
  match look st.joins key with
  | none => st
  | some r =>
    if r.arrived ≠ r.expected &&& st.live then st
    else
      match st.members key with
      | [] => { st with joins := unlist st.joins key }
      | low :: rest =>
        let ks := (low :: rest).map st.split
        let k := st.split low
        let merged := ({ k with exm := r.arrived, mon := none, score := joinScores ks, jrec := k.jrec.tail,
                                 stepping := ks.any Split.stepping, stepped := ks.any Split.stepped,
                                 consumes := (ks.flatMap Split.consumes).eraseDups, acqAt := (ks.map Split.acqAt).foldl min k.acqAt }).go (r.joinAt + 8) now
        let merged := if r.sw && !merged.score.isEmpty then
            { merged with st := .parked, park := some { reason := 1, cond := .score, site := r.joinAt } } else merged
        let st := { st with joins := unlist st.joins key, splits := setNth st.splits low merged }
        rest.foldl (fun st i => { st with splits := setNth st.splits i {} }) st

/-- R317: every join that the remaining threads complete closes. -/
def Strand.closeJoins (st : Strand) (now : Nat) : Strand :=
  (st.joins.map Prod.fst).foldl (fun st k => st.closeJoin k now) st

/-- R317: exit or kill takes threads out of every mask of a strand. -/
def Strand.remove (st : Strand) (m : Mask) (now : Nat) : Strand :=
  let st := { st with
    live := st.live &&& ~~~ m,
    joins := mapVals st.joins fun _ r => { r with expected := r.expected &&& ~~~ m, arrived := r.arrived &&& ~~~ m },
    splits := st.splits.map fun k => Split.without k m now,
    inbound := st.inbound.map (fun (i : Inbound) => { i with vals := i.vals.filter (fun v => !m.getLsbD v.1) }) }
  st.closeJoins now

/-! ### Barriers -/

/-- R304: the threads of a team that live, by number in the team, with their warp's role. -/
def Team.threads (t : Team) : List (Nat × Nat) :=
  (t.warps.zipIdx).flatMap fun (w, i) => (Mask.threads w.main.live).map fun th => (32 * i + th, w.role)

/-- R342: is a thread of a role a participant under RMASK. -/
def inRoles (m : Byte) (role : Nat) : Bool := m = 0 || m.getLsbD role

/-- R342: a phase in which a thread has arrived completes when every participant has arrived in it. -/
def Barrier.advance (b : Barrier) (threads : List (Nat × Nat)) (missing : Bool) : Barrier :=
  match b.cur with
  | none => b
  | some m =>
    if !missing && threads.all fun (t, r) => !inRoles m r || b.phase < readOr 0 b.counts t
    then { b with phase := b.phase + 1, cur := b.next, next := none }
    else b

/-- R342: completes every phase that stands complete; at most two can. -/
def Barrier.settle (b : Barrier) (threads : List (Nat × Nat)) (missing : Bool := false) : Barrier :=
  (b.advance threads missing).advance threads missing

/-- R341: teams of a launch that exist, by key. -/
def State.teamsOf (s : State) (l : Nat) : List (Nat × Team) := s.teams.filter fun (_, t) => t.launch = l

/-- R304, R305: bands of a launch. -/
def LaunchRec.teams (r : LaunchRec) : Nat := r.tmx * r.tmy * r.tmz
def LaunchRec.bands (r : LaunchRec) : Nat := (r.teams + r.band - 1) / r.band

/-- R303, R341: teams of the launch remain to be created. -/
def Launch.unplaced (l : Launch) : Bool := l.placed.length < l.record.bands

/-- R341: threads of several teams, numbered by linear team index. -/
def numbered (ts : List (Nat × Team)) : List (Nat × Nat) :=
  ts.flatMap fun (_, t) => t.threads.map fun (n, r) => (1024 * t.idx + n, r)

/-- R345: a job barrier whose participants here have arrived in its phase; numbers count launch keys first. -/
def State.jobThreads (s : State) (c : Nat) : List (Nat × Nat) :=
  (s.teams.filter fun (_, t) => t.ctx = c).flatMap fun (k, t) => t.threads.map fun (n, r) => (1024 * k + n, r)

def State.jobMissing (s : State) (c : Nat) : Bool :=
  s.launches.any fun (_, l) => l.ctx = c && l.unplaced

/-- R345: the local part of a job barrier's phase is complete. -/
def State.jobArrived (s : State) (c : Nat) (b : Barrier) : Bool :=
  b.cur.isSome && !s.jobMissing c && (s.jobThreads c).all fun (t, _) => b.phase < readOr 0 b.counts t

/-- R345: the lowest-ranked member in the Creade group of a device. -/
def leaderOf (ms : List Nat) (d : Nat) : Nat := (ms.find? fun m => m / 32 = d / 32).getD d

/-- R345: those to whom a device passes a release on: its own Creade group, and from rank 0 the leaders of the others. -/
def releaseTo (ms : List Nat) (me : Nat) : List Nat :=
  ms.filter fun m => m ≠ me &&
    ((m / 32 = me / 32 && leaderOf ms me = me) || (ms.head? = some me && leaderOf ms m = m))

/-- R343, R345: a job barrier's phase completes here, and the release goes down one level. -/
def State.completeJob (s : State) (c id status : Nat) (ms : List Nat) : State :=
  let x := s.ctx c
  let b := readOr {} x.jobBars id
  let done : Barrier := { b with phase := b.phase + 1, cur := b.next, next := none, devs := [], sent := false,
                                 failed := if status = 0 then b.failed else b.phase :: b.failed }
  let s := s.setCtx c { x with jobBars := place x.jobBars id done }
  (releaseTo ms s.dev).foldl (fun s m => s.jobMessage m 2 c id b.phase status) s

/-- R345: does the arrival of a member stand at this device, by its own message or by that of its leader. -/
def covered (ms devs : List Nat) (me m : Nat) : Bool :=
  devs.contains m || (m / 32 ≠ me / 32 && devs.contains (leaderOf ms m))

/-- R343, R345, R472: one job barrier goes on: the device's own arrival counts, goes up a level, or completes the phase at rank 0;
where a member has been declared unreachable, the hub die completes it with status 1. -/
def State.stepJob (s : State) (c id : Nat) : State :=
  match look (s.ctx c).jobBars id, look s.hub.groups id with
  | some b, some g =>
    let ms := s.members g
    let x := s.ctx c
    let b := if s.jobArrived c b && !b.devs.contains s.dev then { b with devs := b.devs ++ [s.dev] } else b
    let s := s.setCtx c { x with jobBars := place x.jobBars id b }
    if b.devs.contains s.dev && ms.any s.hub.unreachable.contains then s.completeJob c id 1 ms
    else if ms.head? = some s.dev then
      if ms.all fun m => covered ms b.devs s.dev m then s.completeJob c id 0 ms else s
    else
      let top := leaderOf ms s.dev
      let ready := if top = s.dev then (ms.filter fun m => m / 32 = s.dev / 32).all b.devs.contains else b.devs.contains s.dev
      if ready && !b.sent then
        (s.setCtx c { x with jobBars := place x.jobBars id { b with sent := true } }).jobMessage
          (if top = s.dev then ms.headD 0 else top) 1 c id b.phase 0
      else s
  | _, _ => s

/-- R345: every job barrier of a context goes on; a phase that completes may find the next one complete. -/
def State.settleJob (s : State) (c : Nat) : State :=
  ((s.ctx c).jobBars.map Prod.fst).foldl (fun s id => (s.stepJob c id).stepJob c id) s

/-- R342: completion is checked for every barrier that a team takes part in. -/
def State.settleBarriers (s : State) (t : Nat) : State :=
  match look s.teams t with
  | none => s
  | some x =>
    let s := s.mapTeam t fun x => { x with bars := mapVals x.bars fun _ b => b.settle x.threads }
    let peers := s.teamsOf x.launch
    let band := numbered (peers.filter fun (_, y) => y.band = x.band)
    let all := numbered peers
    let s := { s with launches := adjust s.launches x.launch fun l =>
      { l with
        bandBars := mapVals l.bandBars fun k b => if k / 4 = x.band then b.settle band else b,
        bars := mapVals l.bars fun _ b => b.settle all l.unplaced } }
    s.settleJob x.ctx

/-! ### Teams and launches that end -/

/-- R192: copies and tasks of a team that have not ended. -/
def State.opsOf (s : State) (t : Nat) : Bool :=
  s.copies.any (fun (_, c) => c.team = some t && !c.deferred) || s.tasks.any (fun (_, k) => k.team = t && !k.deferred) ||
  s.colls.any (fun (_, c) => c.team = some t && !c.deferred)

/-- R395: an image has left the pool of a context, and the teams that wait for room may be tried again. -/
def State.freeImage (s : State) (c : Nat) : State :=
  let x := s.ctx c
  s.setCtx c { x with poolWait := mapVals x.poolWait fun _ w => { w with freed := true } }

/-- R152, R308: a team's slots and scratchpad blocks on every core return to the free pool. -/
def State.freeSpace (s : State) (t : Nat) (blocks : Bool) : State :=
  { s with cores := mapVals s.cores fun _ c => { c with
        slots := keep c.slots fun _ o => o ≠ t + 1,
        spare := if blocks then c.spare ++ (keep c.blocks fun _ o => o = t + 1).map Prod.fst else c.spare,
        blocks := if blocks then keep c.blocks fun _ o => o ≠ t + 1 else c.blocks } }

/-- R264: are the writes that left before a key merged at their homes. -/
def State.mergedBefore (s : State) (mark : Nat) : Bool := s.out.all (fun (k, _) => mark ≤ k) && s.held.all fun (k, _) => mark ≤ k

/-- R264: the release with which a launch completes: what the cores still hold dirty, of threads that a kill has ended, leaves. -/
def State.releaseLaunch (s : State) (l : Nat) : State :=
  let s := (s.cores.map Prod.fst).foldl (fun s c => s.writeBackAll c) s
  { s with launches := adjust s.launches l fun x => { x with ended := some s.nextKey } }

/-- R303 CEVT, R264, R265: a launch completes when every team has exited, every operation of them has ended, and the release that
follows has. -/
def State.endLaunch (s : State) (l : Nat) : State :=
  match look s.launches l with
  | none => s
  | some x =>
    if x.unplaced || x.gone < x.record.teams || (s.teamsOf l).any (fun (k, _) => s.opsOf k) then s
    else
      let s := if x.ended.isSome then s else s.releaseLaunch l
      if !s.mergedBefore (x.ended.getD s.nextKey) then s else
      let s := if x.record.cevt then
          s.hostEvent (s.hostWord (some x.ctx)) 3 [] (le 4 x.record.lid.toNat)
        else s
      { s with
        launches := mapVals (unlist s.launches l) fun _ y => if y.pred = some l then { y with pred := none } else y,
        teams := keep s.teams fun _ t => t.launch ≠ l }

/-- R264: launches whose release has come about complete. -/
def State.endLaunches (s : State) : State :=
  ((keep s.launches fun _ x => x.ended.isSome).map Prod.fst).foldl State.endLaunch s

/-- R192: a team without a live thread ends once its operations have, and no fault of theirs is left to settle: tiles unbound, token entries and vat slots
freed, its image given back; its scratchpad stays until its whole band has exited (R215). DESIGN CHOICE (log 112): a task whose input can
never become READY keeps its team. -/
def State.endTeam (s : State) (t : Nat) : State :=
  match look s.teams t with
  | none => s
  | some x =>
    if x.exited || x.warps.any (fun w => w.main.live ≠ 0) || !x.deferred.isEmpty || s.opsOf t then s
    else
      let s := { s with
        copies := keep s.copies fun _ c => c.team ≠ some t,
        tasks := keep s.tasks fun _ k => k.team ≠ t,
        colls := keep s.colls fun _ c => c.team ≠ some t,
        checks := mapVals s.checks fun _ c => if c.team = t then { c with gone := true } else c }
      let s := s.mapTeam t fun x => { x with
        exited := true, core := none, tiles := [], slots := [], vat := [], vatFree := [],
        tokens := mapVals x.tokens fun _ k => { gen := if k.used then nextGen k.gen else k.gen } }
      let s := (s.freeSpace t false).freeImage x.ctx
      let s := { s with launches := adjust s.launches x.launch fun l => { l with gone := l.gone + 1 } }
      let band := (s.teamsOf x.launch).filter fun (_, y) => y.band = x.band
      let s := if band.all fun (_, y) => y.exited then
          band.foldl (fun s (k, _) => s.freeSpace k true) s
        else s
      s.endLaunch x.launch

/-- R387: a split that leaves PARKED is not charged for the time that it waited. -/
def Strand.unparked (new old : Strand) (total : Nat) : Strand :=
  { new with splits := new.splits.zipIdx.map fun (k, i) =>
      if (old.split i).st = .parked && (k.st = .ready || k.st = .fetch) then { k with paid := max k.paid total } else k }

/-- R387: the delay total of a team's context on the die where it runs. -/
def State.delayOf (s : State) (x : Team) : Nat :=
  match (s.ctx x.ctx).trial, x.core with
  | some t, some c => readOr 0 t.total (c / 64)
  | _, _ => 0

/-- R332, R333: threads of a warp leave for good: every mask, every barrier, the register pool, the team. -/
def State.removeThreads (s : State) (t w : Nat) (m : Mask) : State :=
  let now := s.nextKey
  let s := s.mapTeam t fun x =>
    match x.warps[w]? with
    | none => x
    | some wp =>
      let main := (wp.main.remove m now).unparked wp.main (s.delayOf x)
      let last := main.live = 0 && !wp.ended
      { x.mapWarp w (fun wp => { wp with main := main, ended := wp.ended || last }) with
        pool := if last then x.pool + main.nreg else x.pool }
  let s := { s with loads := keep s.loads fun _ l =>
      match l.who with
      | .warp t' w' _ => !(t' = t && w' = w && l.mask &&& ~~~ m = 0)
      | _ => true }
  (s.settleBarriers t).endTeam t

/-- R333, R405: every thread of a team is killed, its handler images with them. -/
def State.killTeam (s : State) (t : Nat) : State :=
  match look s.teams t with
  | none => s
  | some x =>
    let s := s.mapTeam t fun x => { x with warps := x.warps.map fun w => { w with handler := none } }
    (List.range x.warps.length).foldl (fun s w => s.removeThreads t w 0xFFFFFFFF) s

end Sys2Proof.Machine
end

