-- ==== Sys2Proof/Machine/Operands.lean ====
section
/-! DEFINITION. What an instruction names before it takes effect: registers (R37), privilege (R69, R73, R403)
and core kind (R17), and operand forms (R40 to R43). -/

namespace Sys2Proof.Machine

/-- R75, R76: the code of a cause. -/
def causeCode : Cause → Nat
  | .illegal => 0x01 | .length => 0x02 | .crossing => 0x03 | .privileged => 0x04 | .coreKind => 0x05
  | .beyondCount => 0x06 | .misaligned => 0x08 | .translation => 0x09 | .permission => 0x0A | .atomicUo => 0x0B
  | .dataError => 0x0C | .engine => 0x0D | .divergent => 0x10 | .joinOverflow => 0x12 | .nestedShip => 0x13
  | .overrun => 0x14 | .invalidToken => 0x15 | .tileState => 0x16 | .vatSlot => 0x17 | .speculation => 0x18
  | .float => 0x20 | .divZero => 0x21 | .breakpoint => 0x30 | .watchpoint => 0x31 | .singleStep => 0x32 | .explicit => 0x40

/-- One past the last of `n` registers from `r` on; `v0` and the pair 0 always pass (R37). -/
def upTo (r : RegNo) (n : Nat) : Nat := if r = 0 then 0 else r.toNat + n

/-- Registers of a field that names a pair or a single register. -/
def span (pair : Bool) (r : RegNo) : Nat := upTo r (if pair then 2 else 1)

/-- R37, R112, R125, R137, R138, R141: one past the highest register of an INT, FLT or WARP instruction. -/
def aluTop (op : BitVec 9) (o : Alu) : Nat :=
  let (pd, pa, pb, pc) := aluPairs op o
  let b := match o.b with | .reg r _ => span pb r | _ => 0
  let c := match aluRow op with
    | some r => (match r.c with | .reg => span pc o.c | _ => 0)
    | none => 0
  let d := if op = 0x058 then upTo o.d 4 else span pd o.d
  let a := if op = 0x059 then upTo o.a 4 else span pa o.a
  max (max d a) (max b c)

/-- R37, R266: one past the highest register of a 64- or 96-bit MEM instruction. -/
def memTop (op : BitVec 9) (o : Mem) : Nat :=
  let data (r : RegNo) := upTo r o.w.regs
  let b := if o.x.isSome && op = 0x0D0 then 0 else upTo o.b 1
  match op.toNat with
  | 0x0C0 | 0x0C1 => max (data o.d) (max (span true o.a) (upTo o.b 1))
  | 0x0C2 | 0x0C3 | 0x0C4 | 0x0C5 => max (data o.d) (max (upTo o.a 1) (upTo o.b 1))
  | 0x0C6 | 0x0C7 => max (data o.d) (max (span true o.a) (data o.b))
  | 0x0C8 => max (max (data o.d) (data o.c)) (max (span true o.a) (data o.b))
  | 0x0CA | 0x0CB | 0x0CC | 0x0CD | 0x0CF => max (span true o.a) (upTo o.b 1)
  | 0x0D0 => max (upTo o.d 1) b
  | _ => 0

def numTop : Num → Nat
  | .reg r => upTo r 1
  | .imm _ => 0

/-- R37: one past the highest register that the other instructions name. -/
def otherTop : Instr → Nat
  | .movw _ d _ => span true d
  | .srd _ d _ => upTo d 1
  | .swr _ a _ _ | .wait _ (.reg a) | .prog _ (.reg a) | .tlfree _ a | .vrel _ a | .tkfree _ a | .sint _ a _ | .ctxkill _ a => upTo a 1
  | .brx _ a _ | .ret _ a _ | .sret _ a => span true a
  | .call _ _ => 128
  | .calx _ a _ => max 128 (span true a)
  | .cpmm o => max (upTo o.d 1) (max (span true o.a) (span true o.b))
  | .coll o => max (upTo o.d 1) (max (span true o.a) (span true o.b))
  | .tdset _ a b => max (span true a) (upTo b 1)
  | .tdget _ d b => max (upTo d 16) (upTo b 1)
  | .tlset _ a n => max (upTo a 8) (numTop n)
  | .tlst _ d b | .tlwait _ d b | .vclaim _ d b | .wfi _ d b => max (upTo d 1) (upTo b 1)
  | .cpin o | .cpout o => max (upTo o.d 1) (upTo o.b 1)
  | .gth o | .sct o => max (upTo o.d 1) (max (span true o.a) (upTo o.b 1))
  | .post _ d a _ => max (upTo d 1) (span true a)
  | .tkwait _ d a n => max (upTo d (n.toNat + 1)) (upTo a 1)
  | .tktest _ d a => max (upTo d 1) (upTo a 1)
  | .fcset _ a n => max (upTo a 1) (numTop n)
  | .fcpub _ a b => max (upTo a 1) (upTo b 1)
  | .fcstat _ d b => max (upTo d 4) (upTo b 1)
  | .bara _ d n _ _ | .bars _ d n _ _ => max (upTo d 1) (numTop n)
  | .barw _ d a => max (upTo d 1) (upTo a 1)
  | .qpush _ d a _ spm _ | .qpop _ d a _ spm _ => max (upTo d 1) (span (!spm) a)
  | .rgive _ n => numTop n
  | .rclaim _ _ n _ => numTop n
  | .ship o => max (max (upTo o.d (max 1 o.nres.toNat)) (upTo o.c 1)) (max (span true o.a) (if o.narg = 0 then 0 else upTo o.b o.narg.toNat))
  | .tlbinv _ k a n => max (if k = .page then span true a else 0) (numTop n)
  | .replay _ d a b => max (upTo d 1) (max (upTo a 1) (upTo b 1))
  | .xrd _ d _ _ => upTo d 1
  | .xwr _ a _ _ _ => upTo a 1
  | .lnch _ d a => max (upTo d 1) (span true a)
  | .gsave _ d a | .grest _ d a => max (span true d) (upTo a 1)
  | .cntrd _ d n _ => max (span true d) (numTop n)
  | .trial _ a n => max (span true a) (match n with | some n => numTop n | none => 0)
  | _ => 0

/-- R37: one past the highest register that an instruction names, the guard register included. -/
def regTop (i : Instr) : Nat :=
  max (upTo (instrPre i).g 1)
    (match i.aluView with
     | some (op, o) => aluTop op o
     | none =>
       match i.memView with
       | some (op, o) => memTop op o
       | none => otherTop i)

/-- R17, R73: opcodes that run on wide cores alone. -/
def wideOnly : Instr → Bool
  | .tdset .. | .tdget .. | .tlset .. | .tlst .. | .tlwait .. | .tlfree .. | .vclaim .. | .vrel .. | .cpin .. | .cpout ..
  | .gth .. | .sct .. | .opfence .. | .post .. | .tkwait .. | .tktest .. | .tkfree .. | .fcset .. | .fcpub .. | .fcstat ..
  | .bara .. | .barw .. | .bars .. | .rgive .. | .rclaim .. | .ship .. => true
  | _ => false

/-- R73: opcodes that are legal in a handler image alone. -/
def handlerOnly : Instr → Bool
  | .sret .. | .xrd .. | .xwr .. => true
  | _ => false

/-- R69, R73: opcodes and special registers that need a privileged context. -/
def privOnly : Instr → Bool
  | .tlbinv .. | .replay .. | .ctxkill .. | .lnch .. | .gsave .. | .grest .. | .wfi .. => true
  | .trial _ _ (some _) => true
  | .srd _ _ n | .swr _ _ _ n => 0x100 ≤ n.toNat && n.toNat ≤ 0x10C
  | _ => false

/-- R403: what counts as privileged in a handler image of an unprivileged context. -/
def handlerMay : Instr → Bool
  | .srd _ _ n | .swr _ _ _ n => 0x100 ≤ n.toNat && n.toNat ≤ 0x104
  | _ => false

/-- R54 steps 6 to 9: the cause that an instruction raises before its operands are looked at. -/
def gate (i : Instr) (e : Env) : Option Cause :=
  if handlerOnly i && !e.handler then some (if e.priv then .illegal else .privileged)
  else if privOnly i && !e.priv && !(e.handler && handlerMay i) then some .privileged
  else if e.lat && wideOnly i then
    some (match i with
      | .ship _ => if e.serving then .nestedShip else .coreKind
      | _ => .coreKind)
  else if e.nreg < regTop i then some .beyondCount
  else none

/-- R52: instructions that end their region. -/
def endsRegion : Instr → Bool
  | .atom .. | .red .. | .cas .. | .ship .. | .post .. | .cpin .. | .cpout .. | .cpmm .. | .coll .. | .gth .. | .sct ..
  | .qpush .. | .qpop .. | .sint .. => true
  | _ => false

/-- R242: instructions that access memory, scratchpad or an engine, and wait for an acquiring load before them. -/
def accesses (i : Instr) : Bool :=
  i.memView.isSome ||
  match i with
  | .ldc .. | .exit .. | .cpmm .. | .coll .. | .tdset .. | .tlst .. | .tlwait .. | .cpin .. | .cpout .. | .gth .. | .sct ..
  | .opfence .. | .post .. | .tkwait .. | .tktest .. | .fcset .. | .fcpub .. | .fcstat .. | .bara .. | .barw .. | .bars ..
  | .qpush .. | .qpop .. | .ship .. | .tlbinv .. | .lnch .. | .trial .. | .sint .. => true
  | _ => false

/-- R241: stores and atomics, a `qpop`'s element among them, which wait for earlier loads of their threads. -/
def stores : Instr → Bool
  | .st .. | .sts .. | .str .. | .atom .. | .red .. | .cas .. | .discard .. | .qpop .. => true
  | _ => false

/-- R314, R321: SCORE entries that an instruction adds. -/
def scoreNeed : Instr → Nat
  | .ld o | .lds o | .ldr o | .atom o | .cas o => if o.d = 0 then 0 else o.w.regs
  | .shfl o | .ldc o => if o.d = 0 then 0 else if o.ty.wide then 2 else 1
  | .srd _ d n => if d ≠ 0 && (n = 0x010 || n = 0x011 || 0x200 ≤ n.toNat) then 1 else 0
  | .cntrd _ d _ _ => if d = 0 then 0 else 2
  | .replay _ d _ _ => if d = 0 then 0 else 1
  | _ => 0

/-- R42: a 32-bit immediate as the operand of a type that is 64 bits wide; the widening of `f64` is the caller's. -/
def widen (ty : Ty) (x : Word) : DWord :=
  match ty with
  | .n64 => x.setWidth 64
  | _ => x.signExtend 64

end Sys2Proof.Machine
end

