-- ==== Sys2Proof/Machine/Ops.lean ====
section
/-! DEFINITION. The shared operations of the running strand: how an instruction is entered and left, how a
split parks, how registers are written, how a trap is taken and how a handler returns
(R10, R51, R52, R316, R322, R361, R402 to R406, R421). -/

namespace Sys2Proof.Machine

/-! ### Taking an exception -/

/-- R408: the two-level name and team of what a strand reports about an instruction of its own. -/
def State.nameOf (s : State) (w : Who) (site : DWord) : Name :=
  match w with
  | .warp t _ _ | .handler t _ =>
    match look s.teams t with
    | some x => { site := site, team := BitVec.ofNat 32 x.idx, lid := ((look s.launches x.launch).map fun l => l.record.lid).getD 0 }
    | none => { site := site }
  | .lat lc th =>
    match ((s.lc lc).thread th).serving with
    | some r => { site := r.site, seq := r.seq, team := r.team, lid := r.lid, async := true }
    | none => { site := site }

/-- R359: the loads of a hardware thread that have not returned are dropped with its registers. -/
def State.dropLoadsOf (s : State) (w : Who) : State :=
  { s with loads := keep s.loads fun _ l => l.who ≠ w, reads := keep s.reads fun _ u => u.who ≠ w }

/-- R361, R366: a section ends; its result leaves for the sender, and statuses 1 and 2 write an event record. -/
def State.endSection (s : State) (lc status : Nat) (ecause : Word) (epc eaddr : DWord) : State :=
  let h := (s.lc lc).t0
  match h.serving with
  | none => s
  | some r =>
    let res := if status = 0 then (List.range 4).map fun i => h.main.reg (4 + i) 0 else [0, 0, 0, 0]
    let s := (s.dropWaiter (lc / 16) fun w => w = .split (.lat lc 0)).dropLoadsOf (.lat lc 0)
    let s := s.setLc lc { s.lc lc with t0 := { h with serving := none, active := false, spent := 0, handler := none } }
    let s := { s with results := s.results ++
      [{ status := BitVec.ofNat 8 status, ret := r.ret, thread := r.thread, core := r.core, srcDev := r.srcDev, seq := r.seq,
         res := res, key := r.key, warp := r.warp, home := lc, mark := s.nextKey, tag := r.jobTag }] }
    if status = 0 then s
    else s.eventRecord h.ctx (lc / 16) 2 0 ecause epc eaddr { site := r.site, seq := r.seq, team := r.team, lid := r.lid }

/-- R403: the handler image that a warp switches to. DESIGN CHOICE (log 106): it has a `%clkh` latch of its own, zero on entry. -/
def handlerStrand (stvec : DWord) (k : Nat) (sp : Split) (t : Trap) (now : Nat) : Strand :=
  let set (st : Strand) (th : Nat) : Strand :=
    ((((st.setReg 4 th t.ecause).setReg 5 th (BitVec.ofNat 32 k)).setPair 6 th t.epc).setPair 8 th t.eaddr).setPair 10 th sp.rgn
  let st : Strand := { nreg := 128, live := sp.exm,
                       splits := [Split.go { exm := sp.exm, fresh := true, rgn := stvec, acqAt := sp.acqAt } stvec now] }
  { (Mask.threads sp.exm).foldl set st with older := [] }

/-- R402: the return point of a trap. -/
def trapReturn (sp : Split) (t : Trap) : DWord := if t.after then t.epc + BitVec.ofNat 64 t.len else sp.rgn

/-- R402, R403: a strand with a trap recorded in its trap registers. -/
def Strand.recordTrap (st : Strand) (t : Trap) : Strand := { st with epc := t.epc, ecause := t.ecause, eaddr := t.eaddr }

/-- R380, R384, R402: a split has trapped: its instruction is over. -/
def Split.trapped (k : Split) : Split := { k with again := false, mark := none, passed := [] }

/-- R405: a fatal trap kills the team, or stops a latency-core thread, and writes an event record of kind 1; where an operation
has failed, under its name (R378). -/
def State.fatalTrap (s : State) (w : Who) (t : Trap) : State :=
  let n := s.nameOf w t.epc
  let n := match t.made with | some (site, seq) => { n with site := site, seq := seq } | none => n
  let c := s.ctxOf w
  let die := (s.agentOf w).die
  let inHandler := isHandler s w
  let s := match w with
    | .warp k _ _ | .handler k _ => s.killTeam k
    | .lat lc th => s.setLc lc ((s.lc lc).setThread th { (s.lc lc).thread th with active := false, handler := none })
  s.eventRecord c die 1 (if inHandler then 1 else 0) t.ecause t.epc t.eaddr n

/-- R402 to R406, R77: takes a trap. In a handler image, without a handler and for `translation` it is fatal; in a
shipped section it ends the section; while the warp's handler runs it waits; otherwise the trap registers are
written and the handler image starts at STVEC. -/
def State.takeTrap (s : State) (w : Who) (t : Trap) : State :=
  let s := s.bump
  let stvec := (s.ctx (s.ctxOf w)).stvecW
  match w with
  | .handler _ _ => s.fatalTrap w t
  | .lat lc 0 => s.endSection lc 1 t.ecause t.epc t.eaddr
  | .lat lc th =>
    let h := (s.lc lc).thread th
    let sp := h.main.split 0
    if h.handler.isSome || stvec = 0 || t.ecause.toNat % 256 = 0x09 then
      (s.mapStrand w fun st => st.recordTrap t).fatalTrap w t
    else
      s.setLc lc ((s.lc lc).setThread th
        { h with main := (h.main.recordTrap t).mapSplit 0 Split.trapped, rp := trapReturn sp t, handler := some (handlerStrand stvec 0 sp t s.nextKey) })
  | .warp k n j =>
    match (look s.teams k).bind fun x => x.warps[n]? with
    | none => s
    | some wp =>
      let sp := wp.main.split j
      if wp.handler.isSome then s.mapStrand w fun st => { st with traps := st.traps ++ [t] }
      else if stvec = 0 || t.ecause.toNat % 256 = 0x09 then (s.mapStrand w fun st => st.recordTrap t).fatalTrap w t
      else s.mapWarp k n fun wp =>
        { wp with main := (wp.main.recordTrap t).mapSplit j Split.trapped, trapSplit := j, rp := trapReturn sp t,
                  handler := some (handlerStrand stvec j sp t s.nextKey) }

/-- R75: `%ecause` of a cause with its CODE and FLG fields. -/
def ecauseOf (c : Cause) (code flags : Nat) : Word := BitVec.ofNat 32 (fields [(0, causeCode c), (8, code), (16, flags)])

/-- R10, R402: the running instruction raises a trap. -/
def Env.raise (e : Env) (c : Cause) (eaddr : DWord) (s : State) (flags : Nat := 0) (made : Option (DWord × Word) := none) : State :=
  s.takeTrap e.who { split := e.k, ecause := ecauseOf c 0 flags, epc := e.sp.pc, eaddr := eaddr, made := made }

/-- R8, R394: a trap of a cause for which no rule gives `%eaddr`: the register receives a free value. -/
def Env.raiseOpen (e : Env) (c : Cause) (s : State) (flags : Nat := 0) : State :=
  e.raise c (Config.freeWord s.oracle ++ Config.freeWord (s.oracle + 1)) { s with oracle := s.oracle + 2 } flags

/-- R402, R334: a trap whose return point is the instruction after it. -/
def Env.raiseAfter (e : Env) (c : Cause) (code len : Nat) (s : State) : State :=
  s.takeTrap e.who { split := e.k, ecause := ecauseOf c code 0, epc := e.sp.pc, eaddr := e.sp.pc, after := true, len := len }

/-! ### Entering and leaving an instruction -/

/-- R184, R186: a token's entry becomes free where it is among those consumed; one whose operation still runs is freed once
that has ended. -/
def Token.consumed (k : Token) (i : Nat) (vs : List Word) : Token :=
  if !vs.any (fun v => v.toNat = k.gen.toNat * 1024 + i) then k else if k.done then { gen := nextGen k.gen } else { k with freed := true }

/-- R184, R186, R191: the tokens that a split has consumed become free, but for those that another split, divided from it, may
still read again. -/
def State.freeTokens (s : State) (w : Who) (vs : List Word) : State :=
  let vs := match s.strand? w with
    | some st => vs.filter fun v => !st.splits.any fun k => k.st ≠ .free && k.st ≠ .exited && k.consumes.contains v
    | none => vs
  match w with
  | .warp t _ _ | .handler t _ => s.mapTeam t fun x => { x with tokens := mapVals x.tokens fun i k => k.consumed i vs }
  | .lat _ _ => s

/-- R52, R184: at a region entry `%rgn` takes the address, and consumed tokens become free; where a region starts again
after a trap or a fault, what it has consumed stays readable (R191). -/
def State.enterRegion (s : State) (w : Who) (re : Bool) : State :=
  match s.strand? w with
  | none => s
  | some st =>
    let sp := st.split (splitNo w)
    if re || sp.fresh then
      if sp.redo then s.mapSplit w fun k => { k with rgn := k.pc, fresh := false }
      else (s.mapSplit w fun k => { k with rgn := k.pc, fresh := false, consumes := [] }).freeTokens w sp.consumes
    else s

/-- R387: a split that leaves PARKED or STOPPED is not charged for the time that it waited. -/
def State.charged (s : State) (w : Who) (k : Split) : Split :=
  match (s.ctx (s.ctxOf w)).trial with
  | some t => { k with paid := max k.paid (readOr 0 t.total (s.agentOf w).die) }
  | none => k

/-- R387: waiting time is not charged. -/
def Env.charge (e : Env) (k : Split) : Split :=
  match e.ctx.trial with
  | some t => { k with paid := max k.paid (readOr 0 t.total e.die) }
  | none => k

/-- R384: the instruction that a step has issued is complete. -/
def Split.stepOver (k : Split) : Bool := k.stepping && k.stepped && !k.again && (k.st = .ready || k.st = .fetch)

/-- R384: a split's step ends; it may stop. -/
def Split.stepDone (k : Split) (stop : Bool) : Split := { k with stop := k.stop || stop, stepping := false, stepped := false }

/-- R51: does the split hold outstanding results. -/
def Split.busy (k : Split) : Bool := !k.score.isEmpty

/-- R51, R52: the split goes on at an address after its instruction; it parks where SW is set and results are
outstanding. `ends` says whether the instruction ended its region. -/
def Split.leave (k : Split) (pc : DWord) (sw ends : Bool) (now : Nat) : Split :=
  let site := k.pc
  let k := Split.go { k with fresh := ends, again := false, mark := none, passed := [], redo := false } pc now
  if sw && k.busy then { k with st := .parked, park := some { reason := 1, cond := .score, site := site } } else k

/-- The running split goes on at an address; `ends` says whether the instruction ended its region. -/
def Env.leaveTo (e : Env) (i : Instr) (pc : DWord) (ends : Bool) (s : State) : State :=
  s.bump.mapSplit e.who fun k => k.leave pc (instrPre i).sw ends s.nextKey

/-- The running split goes on at an address. -/
def Env.goTo (e : Env) (i : Instr) (pc : DWord) (s : State) : State := e.leaveTo i pc (endsRegion i) s

/-- R30: the address after the running instruction. -/
def Env.next (e : Env) (i : Instr) : DWord := e.sp.pc + BitVec.ofNat 64 (instrSize i)

/-- The running split goes on with the next instruction. -/
def Env.retire (e : Env) (i : Instr) (s : State) : State := e.goTo i (e.next i) s

/-- R322: the running split parks on a condition at its instruction, which issues again once the condition holds. -/
def Env.hold (e : Env) (reason : Nat) (c : Wake) (s : State) (left : Option Nat := none) : State :=
  s.bump.mapSplit e.who fun k =>
    { k with st := .parked, again := true, mark := none, park := some { reason := reason, cond := c, left := left } }

/-- The operation that the running split waits for. -/
def Env.waitingOp (e : Env) : Option Nat :=
  if e.sp.again then
    match e.sp.park with
    | some k => (match k.cond with | .operation key => some key | _ => none)
    | none => none
  else none

/-- R314: the running split waits at its instruction as INTERLOCK. -/
def Env.interlock (e : Env) (c : Wake) (s : State) : State :=
  s.bump.mapSplit e.who fun k => { k with st := .interlock, again := true, park := some { reason := 0, cond := c } }

/-- R222: what is left of a 16-byte scratchpad access of which half has been made. -/
def Env.halfDone (e : Env) : Option (Bool × List (Nat × Nat × Nat × Nat)) :=
  if e.sp.again then
    match e.sp.park.map Park.cond with
    | some (.half hi xs) => some (hi, xs)
    | _ => none
  else none

/-- R278: has the running fence made its drops. -/
def Env.dropped (e : Env) : Bool := e.sp.again && match e.sp.park.map Park.cond with | some (.acked _ _) => true | _ => false

/-- R242, R261: an acquiring load or atomic of some threads of the strand's program that has not returned, before a trap entry or
a join or after it. -/
def State.acquiring (s : State) (w : Who) (m : Mask) : Option Nat :=
  (s.loads.find? fun (_, l) => l.acq.isSome && samePath l.who w && l.mask &&& m ≠ 0).map Prod.fst

/-- R241, R242, R314, R485: what an instruction waits for before it issues. -/
def Env.stall (e : Env) (i : Instr) (s : State) : Option Wake :=
  if e.halfDone.isSome then none
  else if ((instrPre i).re || e.sp.fresh || endsRegion i) && s.awaits e.who e.sp.exm then some (.returned e.sp.exm)
  else if stores i && s.awaitsPath e.who (e.exm (instrPre i)) then some (.returned (e.exm (instrPre i)))
  else if 32 < e.sp.score.length + scoreNeed i then some (.scoreRoom (scoreNeed i))
  else if accesses i then (s.acquiring e.who e.sp.exm).map .loadDone
  else none

/-- R10, R39, R54, R55: enters an instruction: what it waits for, the checks before its operands, region entry (DEDUCED, log 114: a
cause of these checks leaves the region as it was), its own effect. The effect is given the environment and moves the split on itself. -/
def act (i : Instr) (s : State) (body : Env → State → State) : Out :=
  match s.env with
  | none => .fault .noStrand
  | some e =>
    match e.stall i s with
    | some c => .next (e.interlock c s)
    | none =>
      match gate i e with
      | some c => .next (e.raise c e.sp.pc s)
      | none =>
        let s := s.enterRegion s.focus (instrPre i).re
        let e := s.env.getD e
        let r := body e s
        .next { r with oracle := r.oracle + (if e.acc.isEmpty then 0 else 8192) }

/-- R241, R242, R278: the running split starts something and goes on once every earlier write of its agent is
acknowledged and every earlier load of its threads has returned. -/
def Env.drain (e : Env) (sys : Bool) (start body : State → State) (s : State) : State :=
  match e.sp.mark with
  | some mark =>
    if s.drained e.agent e.who mark sys then body s else e.interlock (.drained mark sys) s
  | none =>
    let s := start s
    if s.drained e.agent e.who s.nextKey sys then body s
    else e.interlock (.drained s.nextKey sys) (s.mapSplit e.who fun k => { k with mark := some s.nextKey })

/-! ### Writing registers -/

/-- R181: register n of a thread of a warp is written while a task holds it. -/
def State.spoilTask (s : State) (team warp n t : Nat) : State :=
  { s with tasks := mapVals s.tasks fun _ k =>
      let ab := (k.record.getD 2 0).toNat / 256 % 128
      if (k.record.getD 0 0).toNat % 16 < 3 && k.team = team && (k.record.getD 2 0).toNat % 32 = warp && ab ≤ n && n ≤ ab + 63
      then { k with spoiled := (32 * n + t) :: k.spoiled } else k }

/-- R181: registers that the running instruction writes while a task holds them. -/
def State.spoil (s : State) (e : Env) (n t : Nat) : State := if e.accHeld n then s.spoilTask e.team e.warp n t else s

/-- R35: the running instruction writes a register of one thread. -/
def Env.set (e : Env) (n t : Nat) (v : Word) (s : State) : State :=
  (s.spoil e n t).mapStrand e.who fun st => st.setReg n t v

def Env.setPair (e : Env) (n t : Nat) (v : DWord) (s : State) : State :=
  if n = 0 then s else e.set (n + 1) t (v.extractLsb' 32 32) (e.set n t (v.extractLsb' 0 32) s)

/-- R35: consecutive registers of one thread; a word for `v0` is discarded. -/
def Env.setList (e : Env) (n t : Nat) (vs : List Word) (s : State) : State :=
  match vs with
  | [] => s
  | v :: vs => Env.setList e (n + 1) t vs (e.set n t v s)

/-- Writes a register in every acting thread. -/
def Env.setAll (e : Env) (m : Mask) (d : RegNo) (f : Nat → Word) (s : State) : State :=
  (Mask.threads m).foldl (fun s t => e.set d.toNat t (f t) s) s

def Env.setPairs (e : Env) (m : Mask) (d : RegNo) (f : Nat → DWord) (s : State) : State :=
  (Mask.threads m).foldl (fun s t => e.setPair d.toNat t (f t) s) s

/-- R321: a variable-latency result is on its way to a register. -/
def Env.later (e : Env) (m : Mask) (d : RegNo) (f : Nat → Word) (s : State) : State :=
  if d = 0 || m = 0 then s
  else s.mapStrand e.who fun st =>
    { st.mapSplit e.k fun k => { k with score := k.score ++ [{ reg := d.toNat, mask := m }] } with
      inbound := st.inbound ++ [{ reg := d.toNat, vals := (Mask.threads m).map fun t => (t, f t) }] }

/-! ### Returning from an exception -/

/-- R406: a warp whose handler has ended takes the earliest waiting trap; otherwise its splits resume. -/
def State.resumeWarp (s : State) (t w : Nat) : State :=
  let s := s.mapWarp t w fun wp => { wp with handler := none }
  match (look s.teams t).bind fun x => x.warps[w]?.bind fun wp => wp.main.traps.head? with
  | none => s
  | some tr =>
    let s := s.mapWarp t w fun wp => { wp with main := { wp.main with traps := wp.main.traps.tail } }
    s.takeTrap (.warp t w tr.split) tr

/-- R421: where the trapped split goes on. -/
def Split.resume (k : Split) (tgt : DWord) (entry : Bool) (now : Nat) : Split :=
  if k.exm = 0 then k
  else Split.go { k with fresh := entry || decide (tgt = k.rgn), again := false, mark := none, passed := [], redo := decide (tgt = k.rgn) } tgt now

/-- R421: `sret` at a checked target. -/
def State.returnTo (s : State) (w : Who) (tgt : DWord) (named : Bool) : State :=
  match w with
  | .handler t n =>
    match (look s.teams t).bind fun x => x.warps[n]? with
    | none => s
    | some wp =>
      let s := s.bump.mapWarp t n fun x => { x with main := x.main.mapSplit wp.trapSplit fun k => k.resume tgt named s.nextKey }
      s.resumeWarp t n
  | .lat lc th =>
    let h := (s.lc lc).thread th
    s.bump.setLc lc ((s.lc lc).setThread th { h with handler := none, main := h.main.mapSplit 0 fun k => k.resume tgt named s.nextKey })
  | _ => s

/-- R402: the return point of the trapped strand. -/
def State.returnPoint (s : State) : Who → DWord
  | .handler t n => ((look s.teams t).bind fun x => x.warps[n]?.map Warp.rp).getD 0
  | .lat lc th => ((s.lc lc).thread th).rp
  | _ => 0

end Sys2Proof.Machine
end

