-- ==== Sys2Proof/Machine/Mmu.lean ====
section
/-! DEFINITION. Translation and its checks: the walk (R409 to R413), the TLBs (R414), the order of checks of an
instruction's accesses (R232, R270, R412), and a split that parks on a recoverable fault (R415 to R417). -/

namespace Sys2Proof.Machine

/-- R416 KIND. -/
inductive Kind where
  | read | write | exec | atomic | engineRead | engineWrite | lock
  deriving DecidableEq, Repr

def Kind.code : Kind → Nat
  | .read | .lock => 1 | .write => 2 | .exec => 3 | .atomic => 4 | .engineRead => 5 | .engineWrite => 6

/-- R417: the class of a kind. -/
def Kind.writes : Kind → Bool
  | .write | .atomic | .engineWrite => true
  | _ => false

/-- R410: fields of a page-table entry. -/
def pteDev (e : DWord) : Nat := (e.extractLsb' 44 13).toNat
def ptePa (e : DWord) : Nat := (e.extractLsb' 16 28).toNat * 4096
def pteSpan (e : DWord) : Nat := (e.extractLsb' 12 4).toNat
def pteNc (e : DWord) : Bool := e.getLsbD 11
def pteGlobal (e : DWord) : Bool := e.getLsbD 10
def pteDirty (e : DWord) : Bool := e.getLsbD 9
def pteAccessed (e : DWord) : Bool := e.getLsbD 8
def pteOrd (e : DWord) : Nat := (e.extractLsb' 6 2).toNat
def pteUser (e : DWord) : Bool := e.getLsbD 5
def pteX (e : DWord) : Bool := e.getLsbD 4
def pteW (e : DWord) : Bool := e.getLsbD 3
def pteR (e : DWord) : Bool := e.getLsbD 2
def pteLeaf (e : DWord) : Bool := e.getLsbD 1
def pteValid (e : DWord) : Bool := e.getLsbD 0

/-- R411: bytes of the page of a leaf. -/
def pageSize (level span : Nat) : Nat :=
  match level with
  | 1 => if span = 4 then 0x10000 else 0x1000
  | 2 => 0x200000
  | _ => if span = 3 then 0x200000000 else 0x40000000

/-- R410: a valid entry that breaks the layout. -/
def malformed (dev level : Nat) (e : DWord) : Bool :=
  e.extractLsb' 57 7 ≠ 0 ||
  if pteLeaf e then
    level ≥ 4 || !(pteSpan e = 0 || (level = 1 && pteSpan e = 4) || (level = 3 && pteSpan e = 3)) ||
    ptePa e % pageSize level (pteSpan e) ≠ 0
  else level = 1 || pteDev e ≠ dev || e.extractLsb' 2 14 ≠ 0

/-- How a walk ends (R409, R410, R415). -/
inductive Walk where
  | leaf (e : DWord) (level entryPa : Nat)
  | fault (cause level : Nat)
  | fatal
  | dataError
  deriving DecidableEq, Repr

/-- R236: is one of the bytes of a range an uncorrectable error. -/
def State.poisoned (s : State) (pa n : Nat) : Bool := (List.range n).any fun i => (look s.poison (pa + i)).isSome

/-- R481: does a fenced die home an address of HBM4. -/
def State.fencedAt (s : State) (pa : Nat) : Bool := pa < hbmEnd && (s.die (homeDie pa)).fenced

/-- R411: the aligned group of entries that may hold one large page of a level. -/
def groupOf (level entryPa : Nat) : List Nat :=
  let n := if level = 1 then 16 else if level = 3 then 8 else 1
  let base := entryPa - entryPa % (8 * n)
  (List.range n).map fun i => base + 8 * i

/-- R411: an entry that makes its group a large page. -/
def spans (dev level : Nat) (e : DWord) : Bool := pteValid e && pteLeaf e && !malformed dev level e && pteSpan e ≠ 0

def State.entryAt (s : State) (pa : Nat) : DWord := BitVec.ofNat 64 (leNat (s.homeRead pa 8).2)

/-- R411: the place from which a walk takes an entry: where the entries of a large page differ, that of any of them. -/
def State.entryFor (s : State) (level pa : Nat) : Nat :=
  let group := groupOf level pa
  if group.any (fun a => spans s.dev level (s.entryAt a)) && !group.all (fun a => s.entryAt a = s.entryAt pa)
  then group.getD (Config.pick s.oracle % group.length) pa else pa

/-- R409 to R411, R414: the walk from a table of a level down; `old` gives the table entries that it takes from a walker's cache. -/
def State.walkBy (s : State) (old : Nat → Nat → Option DWord) (va : Nat) : Nat → Nat → Walk
  | 0, _ => .fatal
  | level + 1, table =>
    if hbmEnd ≤ table then .fatal
    else
      let pa := s.entryFor (level + 1) (table + 8 * (va / 2 ^ (12 + 9 * level) % 512))
      let kept := old (level + 1) pa
      if kept.isNone && (s.poisoned pa 8 || s.fencedAt pa) then .dataError
      else
        let e := kept.getD (s.entryAt pa)
        if !pteValid e then .fault 1 (level + 1)
        else if malformed s.dev (level + 1) e then .fault 3 (level + 1)
        else if pteLeaf e then (if pteOrd e = 3 then .fault 4 (level + 1) else .leaf e (level + 1) pa)
        else State.walkBy s old va level (ptePa e)

/-- R409 to R411: the walk through the tables as they stand. -/
def State.walk (s : State) (va level table : Nat) : Walk := s.walkBy (fun _ _ => none) va level table

/-- R414: the table entries that a walk for an ASID passes. -/
def State.tablePath (s : State) (old : Nat → Nat → Option DWord) (asid va : Nat) : Nat → Nat → List TableEntry
  | 0, _ => []
  | level + 1, table =>
    let pa := s.entryFor (level + 1) (table + 8 * (va / 2 ^ (12 + 9 * level) % 512))
    let e := (old (level + 1) pa).getD (s.entryAt pa)
    let size := 2 ^ (12 + 9 * level)
    if hbmEnd ≤ table || !pteValid e || pteLeaf e then []
    else { asid := asid, pa := pa, entry := e, base := va - va % size, size := size } :: State.tablePath s old asid va level (ptePa e)

/-- A translated address: device and physical address, with the leaf's NC bit and ordering kind; `mark` is the leaf that a
walk has read, by its address and as a TLB would hold it, until the access takes place, and `path` the tables above it. -/
structure Place where
  dev  : Nat
  pa   : Nat
  nc   : Bool := false
  ord  : Nat := 0
  leaf : DWord := 0
  mark : Option (Nat × TlbEntry) := none
  path : List TableEntry := []
  deriving DecidableEq, Repr

/-- What a translation gives. -/
inductive Trans where
  | ok (p : Place)
  | fault (cause level : Nat)       -- recoverable: into the fault queue
  | fatal                           -- `translation` (0x09)
  | denied                          -- `permission` (0x0A)
  | dataError                       -- `uncorrectable data error` (0x0C)
  deriving DecidableEq, Repr

/-- Who translates: the address space and privilege of an access (R394, R412). -/
structure Space where
  agent  : Agent
  asid   : Nat
  ptbase : Nat
  priv   : Bool
  qperm  : Bool
  deriving DecidableEq, Repr

def leafPlace (va level : Nat) (e : DWord) : Place :=
  { dev := pteDev e, pa := ptePa e + va % pageSize level (pteSpan e), nc := pteNc e, ord := pteOrd e, leaf := e }

/-- R412: what a leaf grants an access of a kind. -/
def granted (sp : Space) (k : Kind) (e : DWord) : Trans → Trans
  | .ok p =>
    if !sp.priv && !pteUser e then .denied
    else
      match k with
      | .read | .engineRead | .lock => if pteR e then .ok p else .denied
      | .exec => if pteX e then .ok p else .denied
      | .atomic => if pteR e && pteW e then .ok p else if sp.qperm && pteR e then .fault 2 0 else .denied
      | .write | .engineWrite => if pteW e then .ok p else if sp.qperm && pteR e then .fault 2 0 else .denied
  | t => t

/-- R414: entries of a TLB that translate an address. -/
def matching (t : List TlbEntry) (asid va : Nat) (write : Bool) : List TlbEntry :=
  t.filter fun e => (e.glob || e.asid = asid) && e.base ≤ va && va < e.base + e.size && (!write || pteDirty e.leaf)

/-- R413: sets A, and D for a write, at the home of the leaf. -/
def State.setAccess (s : State) (entryPa : Nat) (e : DWord) (write : Bool) : State × DWord :=
  let e' := e ||| 0x100#64 ||| (if write then 0x200#64 else 0#64)
  if e' = e then (s, e) else (s.homeWrite entryPa (le 8 e'.toNat), e')

/-- R414: a TLB of some size keeps a translation; in a full one it replaces an entry, and the choice is free. -/
def insertTlb (size choice : Nat) (t : List TlbEntry) (x : TlbEntry) : List TlbEntry :=
  if t.contains x then t else if t.length < size then x :: t else x :: t.eraseIdx (Config.pick choice % t.length)

/-- R12, R15, R414: the TLB of the die, and that of a wide core, keep a translation. -/
def State.cacheLeaf (s : State) (a : Agent) (x : TlbEntry) : State :=
  let d := s.die a.die
  let s := (s.setDie a.die { d with tlb := insertTlb 8192 s.oracle d.tlb x }).spend 2
  match a with
  | .wide c => s.setCore c { s.core c with tlb := insertTlb 128 (s.oracle + 1) (s.core c).tlb x }
  | _ => s

/-- R414: the walkers of a die may keep the table entries that they have read. -/
def State.cacheTables (s : State) (d : Nat) (ts : List TableEntry) : State :=
  if ts.isEmpty then s
  else s.setDie d { s.die d with tables := ts ++ (s.die d).tables.filter fun t => !ts.any fun u => u.asid = t.asid && u.pa = t.pa }

/-- R413: an access takes place through a leaf that a walk has read: A, and D for a write, are set, and the TLBs keep it. -/
def State.touch (s : State) (a : Agent) (write : Bool) (p : Place) : State :=
  match p.mark with
  | none => s
  | some (pa, x) =>
    let (s, e) := s.setAccess pa x.leaf write
    (s.cacheTables a.die p.path).cacheLeaf a { x with leaf := e }

/-- R414: the table entries that a die's walkers hold of an ASID, other than the tables have them. -/
def State.oldTables (s : State) (d asid : Nat) : List TableEntry :=
  (s.die d).tables.filter fun t => t.asid = asid && s.entryAt t.pa ≠ t.entry

/-- R414: whether a walk uses an old table entry is open, level by level. -/
def oldEntry (ts : List TableEntry) (n level pa : Nat) : Option DWord :=
  (ts.find? fun t => t.pa = pa).bind fun t => if n / 2 ^ level % 2 = 0 then none else some t.entry

/-- R414: the cached translations that an agent may use. -/
def State.cachedLeaves (s : State) (sp : Space) (va : Nat) (write : Bool) : List TlbEntry :=
  (match sp.agent with | .wide c => matching (s.core c).tlb sp.asid va write | _ => []) ++
  matching (s.die sp.agent.die).tlb sp.asid va write

/-- Does a cached translation agree with the entry that a walk reads, apart from A and D. -/
def Walk.agrees (w : Walk) (x : TlbEntry) : Bool :=
  match w with
  | .leaf e level _ => level = x.level && (e ||| 0x300#64) = (x.leaf ||| 0x300#64)
  | _ => false

/-- R448, R451, R481: what an access of a kind finds at a translated place. Every device has the same map; what only its home knows of a place of
another device is looked at there (R454). -/
def State.physical (s : State) (k : Kind) : Trans → Trans
  | .ok p =>
    let here : Bool := p.dev = s.dev
    match regionOf p.pa with
    | .memory => if here && s.fencedAt p.pa && k ≠ .lock then .dataError else .ok p
    | .registers _ | .zou _ _ => if pteUser p.leaf || k = .atomic || k = .exec then .denied else .ok p
    | .window w off =>
      if k = .atomic || (here && s.windowSize w ≤ off) then .denied
      else if here && s.hub.filairDown && !k.writes && k ≠ .lock then .dataError
      else .ok p
    | .nothing => .denied
  | t => t

/-- R409 to R414: translates an address for a kind of access that has not taken place. Where a cached translation differs
from the tables, either may be used. -/
def State.mapped (s : State) (sp : Space) (k : Kind) (va : Nat) : State × Trans :=
  let stale := s.oldTables sp.agent.die sp.asid
  let old := oldEntry stale (Config.pick s.oracle)
  let w := s.walkBy old va 5 sp.ptbase
  let s := if stale.isEmpty then s else s.spend 1
  let cached := s.cachedLeaves sp va k.writes
  let fresh (s : State) : State × Trans :=
    match w with
    | .leaf e level pa =>
      match granted sp k e (.ok (leafPlace va level e)) with
      | .ok p =>
        let size := pageSize level (pteSpan e)
        (s, .ok { p with path := s.tablePath old sp.asid va 5 sp.ptbase, mark := some (pa, { asid := sp.asid, glob := pteGlobal e, base := va - va % size, size := size, leaf := e, level := level }) })
      | .fault 2 _ => (s, .fault 2 level)
      | t => (s, t)
    | .fault c l => (s, .fault c l)
    | .fatal => (s, .fatal)
    | .dataError => (s, .dataError)
  let held (x : TlbEntry) : Trans :=
    match granted sp k x.leaf (.ok (leafPlace va x.level x.leaf)) with
    | .fault 2 _ => .fault 2 x.level
    | t => t
  match cached with
  | [] => fresh s
  | x :: xs =>
    if (x :: xs).all w.agrees then (s, held x)
    else
      let n := Config.pick s.oracle % (xs.length + 2)
      let s := s.spend 1
      match (x :: xs)[n]? with
      | some y => (s, held y)
      | none => fresh s

/-- R409 to R414, R448: translates an address for a kind of access that has not taken place, and looks at what lies there. -/
def State.resolve (s : State) (sp : Space) (k : Kind) (va : Nat) : State × Trans :=
  let (s, t) := s.mapped sp k va
  (s, s.physical k t)

/-- R413: translates an address for an access that takes place where nothing forbids it. -/
def State.translate (s : State) (sp : Space) (k : Kind) (va : Nat) : State × Trans :=
  match s.resolve sp k va with
  | (s, .ok p) => (s.touch sp.agent k.writes p, .ok { p with mark := none, path := [] })
  | r => r

/-- R415: a recoverable fault is fatal where the die's queue cannot take it. -/
def State.settleFault (s : State) (d : Nat) : Trans → Trans
  | .fault c l => if s.fqUsable d then .fault c l else .fatal
  | t => t

/-- R394: the address space of a context's agent; while a written value waits for `tlbinv.all`, either may be used. -/
def State.space (s : State) (c : Nat) (a : Agent) (priv : Bool) : State × Space :=
  let x := s.ctx c
  let old : Space := { agent := a, asid := x.asid, ptbase := x.ptbase, priv := priv, qperm := x.qperm }
  if x.asid = x.asidW && x.ptbase = x.ptbaseW then (s, old)
  else if Config.pick s.oracle % 2 = 0 then (s.spend 1, old)
  else (s.spend 1, { old with asid := x.asidW, ptbase := x.ptbaseW })

/-- R403, R72: the address space of the running strand; an ASID that its own split has written is in effect for it. -/
def Env.space (e : Env) (s : State) : State × Space :=
  let (u, sp) := s.space e.ctxNo e.agent e.priv
  if (s.ctx e.ctxNo).asidBy = some e.who then (u, { sp with asid := (s.ctx e.ctxNo).asidW }) else (u, sp)

/-- R232: an access in pieces that each lie in one 4 KiB page. -/
def piecesFrom : Nat → Nat → Nat → List (Nat × Nat)
  | 0, _, _ => []
  | k + 1, va, n =>
    let first := 4096 - va % 4096
    if n = 0 then [] else if n ≤ first then [(va, n)] else (va, first) :: piecesFrom k (va + first) (n - first)

def pieces (va n : Nat) : List (Nat × Nat) := piecesFrom (n / 4096 + 2) va n

/-- An access of a thread that is to be checked. -/
structure Want where
  thread : Nat
  va     : Nat
  bytes  : Nat
  deriving DecidableEq, Repr

/-- A checked piece of an access: place in the access, bytes and where they lie. -/
structure Piece where
  thread : Nat
  off    : Nat
  va     : Nat
  bytes  : Nat
  at_    : Place
  whole  : Nat := 0              -- bytes of the access that it is a piece of
  deriving DecidableEq, Repr

/-- What the checks of an instruction's accesses give. -/
inductive Checked where
  | ok (ps : List Piece)
  | trap (c : Cause) (a : DWord)
  | queue (va cause level asid : Nat)
  deriving DecidableEq, Repr

/-- Translates every piece, in thread order. -/
def State.translateAll (s : State) (sp : Space) (k : Kind) : List Want → State × List (Want × Nat × Nat × Nat × Trans)
  | [] => (s, [])
  | w :: ws =>
    let (s, here) := (pieces w.va w.bytes).foldl (fun (acc : State × List (Want × Nat × Nat × Nat × Trans)) (a, n) =>
      let (s, t) := acc.1.resolve sp k a
      (s, acc.2 ++ [(w, a - w.va, a, n, s.settleFault sp.agent.die t)])) (s, [])
    let (s, rest) := State.translateAll s sp k ws
    (s, here ++ rest)

/-- R270 steps 3 to 5: the first failing check decides, over the lowest failing thread. -/
def decide270 (k : Kind) (ts : List (Want × Nat × Nat × Nat × Trans)) : Checked :=
  match ts.find? fun x => match x.2.2.2.2 with | .fault 2 _ | .denied | .ok _ => false | _ => true with
  | some (w, _, a, _, .fault c l) => let _ := w; .queue a c l 0
  | some (w, _, _, _, .dataError) => .trap .dataError (BitVec.ofNat 64 w.va)
  | some (w, _, _, _, _) => .trap .translation (BitVec.ofNat 64 w.va)
  | none =>
    match ts.find? fun x => match x.2.2.2.2 with | .ok _ => false | _ => true with
    | some (_, _, a, _, .fault c l) => .queue a c l 0
    | some (w, _, _, _, _) => .trap .permission (BitVec.ofNat 64 w.va)
    | none =>
      let ps := ts.filterMap fun (w, off, a, n, t) =>
        match t with
        | .ok p => some { thread := w.thread, off := off, va := a, bytes := n, at_ := p, whole := w.bytes : Piece }
        | _ => none
      match ps.find? fun p => k = .atomic && p.at_.ord = 2 with
      | some p => .trap .atomicUo (BitVec.ofNat 64 p.va)
      | none => .ok ps

/-- R72, R394, R416: a fault carries the ASID under which its access was translated. -/
def Checked.under (c : Checked) (asid : Nat) : Checked :=
  match c with
  | .queue va cause level _ => .queue va cause level asid
  | c => c

/-- R448: a piece that lies in the registers of a device and is no aligned access of 4 or 8 bytes. -/
def Piece.askew (p : Piece) : Bool :=
  match regionOf p.at_.pa with
  | .registers _ | .zou _ _ => !((p.whole = 4 || p.whole = 8) && p.bytes = p.whole && p.at_.pa % p.whole = 0)
  | _ => false

/-- R10, R413: accesses that pass their checks take place; those of an instruction that traps do not. -/
def State.touchAll (s : State) (a : Agent) (k : Kind) : Checked → State × Checked
  | .ok ps =>
    (if k ≠ .lock && ps.any Piece.askew then s else ps.foldl (fun s p => s.touch a k.writes p.at_) s,
     .ok (ps.map fun p => { p with at_ := { p.at_ with mark := none, path := [] } }))
  | c => (s, c)

/-- R269, R270: the checks of an instruction's global accesses, address bits first; the accesses themselves are still to take place. -/
def State.tryAll (s : State) (sp : Space) (k : Kind) (ws : List Want) : State × Checked :=
  match ws.find? fun w => 2 ^ 57 ≤ w.va with
  | some w => (s, .trap .permission (BitVec.ofNat 64 w.va))
  | none =>
    let (s, ts) := s.translateAll sp k ws
    (s, (decide270 k ts).under sp.asid)

/-- R269, R270: the checks of an instruction's global accesses, which then take place. -/
def State.checkAll (s : State) (sp : Space) (k : Kind) (ws : List Want) : State × Checked :=
  let (s, c) := s.tryAll sp k ws
  s.touchAll sp.agent k c

/-- R123: the checks of accesses of which the lowest-numbered failing thread decides; where the instruction may `go` on, those
that all pass take place. -/
def State.checkThreads (s : State) (sp : Space) (k : Kind) (go : Bool) (ws : List Want) : State × Checked :=
  let (s, ts) := s.translateAll sp k (ws.filter fun w => w.va < 2 ^ 57)
  let one (t : Nat) : Checked :=
    match ws.find? fun w => w.thread = t && 2 ^ 57 ≤ w.va with
    | some w => .trap .permission (BitVec.ofNat 64 w.va)
    | none => (decide270 k (ts.filter fun x => x.1.thread = t)).under sp.asid
  match (ws.map fun w => one w.thread).find? fun c => match c with | .ok _ => false | _ => true with
  | some c => (s, c)
  | none => if go then s.touchAll sp.agent k (decide270 k ts) else (s, decide270 k ts)

/-- R416: a fault of the running instruction, as the fault unit takes it. -/
def Env.faultEntry (e : Env) (s : State) (k : Kind) (va cause level asid : Nat) : FaultEntry :=
  let n := s.nameOf e.who e.sp.pc
  { serial := 0, asid := asid, page := va / 4096, write := k.writes, kind := k.code, cause := cause, level := level,
    src := e.agent.source, site := n.site, seq := n.seq, team := n.team, clk := 0, ctx := e.ctxNo }

/-- R402, R417: the running split parks on a queued fault, with reason 12, or with reason 10 for a waiter place. -/
def Env.pageFault (e : Env) (k : Kind) (va cause level asid : Nat) (s : State) : State :=
  match (s.count e.die e.ctxNo 0x0B 1).queueFault e.die (e.faultEntry s k va cause level asid) (.split e.who) with
  | (s, some n) => e.hold 12 (.fault e.die n (BitVec.ofNat 64 va)) s
  | (s, none) => e.hold 10 (.faultPlace e.die) s

/-- R270: goes on with the checked pieces, or traps, or parks on the fault; a lock address needs no alignment (R354). -/
def Env.checked (e : Env) (k : Kind) (r : State × Checked) (body : List Piece → State → State) : State :=
  match r.2 with
  | .ok ps =>
    match if k = .lock then none else ps.find? Piece.askew with
    | some p => e.raise .misaligned (BitVec.ofNat 64 p.va) r.1
    | none => body ps r.1
  | .trap c a => e.raise c a r.1
  | .queue va c l a => e.pageFault k va c l a r.1

/-! ### Constant windows -/

/-- R44: the values that a constant read of a word may return: what it holds, and what it held since the launch began. -/
def State.constChoices (s : State) (born pa : Nat) : List Word :=
  BitVec.ofNat 32 (leNat (s.homeRead pa 4).2) ::
    s.stored.filterMap fun (a, key, v) => if a = pa / 4 && born ≤ key then some v else none

/-- R44, R393: the word at a place, through the constant cache. DESIGN CHOICE (log 13): a word of another device, of a register or of a
host window is free. -/
def State.constWord (s : State) (born : Nat) (p : Place) : State × Word :=
  if p.dev ≠ s.dev || hbmEnd ≤ p.pa || s.ownedByZ4 p.pa 4 then (s.spend 1, Config.freeWord s.oracle)
  else
    match s.constChoices born p.pa with
    | [v] => (s, v)
    | vs => (s.spend 1, vs.getD (Config.pick s.oracle % vs.length) 0)

/-- R236: does a piece of this device's memory hold an uncorrectable error. -/
def State.poisonedAt (s : State) (p : Piece) : Bool := p.at_.dev = s.dev && s.poisoned p.at_.pa p.bytes

/-- R43: the launch of the running strand, with its windows. -/
def State.launchOf (s : State) (e : Env) : Option Launch := (look s.teams e.team).bind fun t => look s.launches t.launch

/-- R43: a window's base; zero where it is absent, as it is where no launch is served. -/
def State.window (s : State) (e : Env) (w : Nat) : DWord :=
  if e.lat then 0 else ((s.launchOf e).bind fun l => l.record.wins[w]?).getD 0

/-- Words of a constant window. -/
def State.constWords (s : State) (born : Nat) : List Piece → State × List Word
  | [] => (s, [])
  | p :: ps =>
    let (s, v) := s.constWord born p.at_
    let (s, vs) := State.constWords s born ps
    (s, v :: vs)

/-- R41 to R43: source B of an instruction that acts in the threads of `m`, as a function of the thread; a constant
reference is read once, with its checks. DESIGN CHOICE (log 135): of an odd offset of a pair and an absent window, the window comes first.
The bodies take low words and whole 64-bit operands. -/
def Env.withB (e : Env) (m : Mask) (b : SrcB) (wide : Bool) (ext : Word → DWord) (s : State)
    (body : (Nat → DWord) → State → State) : State :=
  match b with
  | .reg r u => body (fun t => if wide then e.srcPair m r u t else (e.src m r u t).setWidth 64) s
  | .imm x => body (fun _ => if wide then ext x else x.setWidth 64) s
  | .const w off =>
    if m = 0 then body (fun _ => 0) s
    else
      let base := s.window e w.toNat
      let addr := base + BitVec.ofNat 64 (4 * off.toNat)
      if base = 0 then e.raise .permission (BitVec.ofNat 64 (4 * off.toNat)) s
      else if wide && off.toNat % 2 = 1 then e.raise .misaligned addr s
      else
        let (s, sp) := e.space s
        let want : List Want := (if wide then [0, 4] else [0]).map fun d => { thread := Mask.lowest m, va := (addr.toNat + d) % 2 ^ 64, bytes := 4 }
        e.checked .read (s.checkAll sp .read want) fun ps s =>
          if ps.any fun p => s.poisonedAt p then e.raise .dataError addr s else
          let (s, vs) := s.constWords (((s.launchOf e).map Launch.born).getD 0) ps
          body (fun _ => vs.getD 1 0 ++ vs.getD 0 0) s

end Sys2Proof.Machine
end

