-- ==== Sys2Proof/Machine/Int.lean ====
section
/-! DEFINITION. The INT group (R109 to R124). -/

namespace Sys2Proof.Machine

/-! ### Values in registers (R109) -/

/-- Bits of an integer type. -/
def Ty.bits : Ty → Nat
  | .i64 | .n64 | .f64 => 64
  | .i16 | .n16 | .f16 | .bf16 => 16
  | .i8 | .n8 | .n43 | .n52 => 8
  | _ => 32

def Ty.signed : Ty → Bool
  | .i32 | .i64 | .i16 | .i8 => true
  | _ => false

/-- The integer that a register or pair holds under a type. -/
def readInt (ty : Ty) (v : DWord) : Int :=
  let u := v.toNat % 2 ^ Ty.bits ty
  if Ty.signed ty && 2 ^ (Ty.bits ty - 1) ≤ u then (u : Int) - 2 ^ Ty.bits ty else u

/-- The least and the greatest value of an integer type. -/
def minInt (ty : Ty) : Int := if Ty.signed ty then -2 ^ (Ty.bits ty - 1) else 0
def maxInt (ty : Ty) : Int := if Ty.signed ty then 2 ^ (Ty.bits ty - 1) - 1 else 2 ^ Ty.bits ty - 1

/-- An integer as a register or pair holds it: narrowed to its type, then extended by the type's sign. -/
def placeInt (ty : Ty) (x : Int) : DWord :=
  let u := (x % 2 ^ Ty.bits ty).toNat
  BitVec.ofInt 64 (readInt ty (BitVec.ofNat 64 u))

/-- R113: clamped where SAT is set. -/
def clampInt (ty : Ty) (x : Int) : Int := max (minInt ty) (min (maxInt ty) x)

def lowWord (v : DWord) : Word := v.extractLsb' 0 32

/-! ### How an instruction of the group runs -/

/-- The low word, or the whole pair, of source A in a thread. -/
def Env.srcA (e : Env) (m : Mask) (o : Alu) (wide : Bool) (t : Nat) : DWord :=
  if wide then e.srcPair m o.a o.ua t else (e.src m o.a o.ua t).setWidth 64

/-- R42: an immediate as a 64-bit operand; an FP32 value becomes the FP64 value that it is. -/
def widenOp (ty : Ty) (x : Word) : DWord :=
  if ty = .f64 then BitVec.ofNat 64 (f64.deliver .rn false (f32.value x.toNat).exact).1 else widen ty x

/-- Enters an INT, FLT or WARP instruction with source B read. -/
def runAlu (i : Instr) (o : Alu) (wideB : Bool) (s : State)
    (body : Env → Mask → (Nat → DWord) → State → State) : Out :=
  act i s fun e s => e.withB (e.exm o.p) o.b wideB (widenOp o.ty) s fun b s => body e (e.exm o.p) b s

/-- Writes one result per acting thread, a register or a pair, and goes on. -/
def Env.finish (e : Env) (i : Instr) (m : Mask) (d : RegNo) (wide : Bool) (f : Nat → DWord) (s : State) : State :=
  e.retire i (if wide then e.setPairs m d f s else e.setAll m d (fun t => lowWord (f t)) s)

/-- R113: an arithmetic instruction on exact integers. -/
def arith (i : Instr) (o : Alu) (f : Int → Int → Int → Int) (s : State) : Out :=
  runAlu i o o.ty.wide s fun e m b s =>
    e.finish i m o.d o.ty.wide (fun t =>
      let x := f (readInt o.ty (e.srcA m o o.ty.wide t)) (readInt o.ty (b t)) (readInt o.ty ((e.reg o.c.toNat t).setWidth 64))
      placeInt o.ty (if o.sat then clampInt o.ty x else x)) s

/-- An instruction that computes one word from the words A, B and C of each thread. -/
def wordOp (i : Instr) (o : Alu) (f : Word → Word → Word → Word) (s : State) : Out :=
  runAlu i o false s fun e m b s =>
    e.finish i m o.d false (fun t => (f (e.src m o.a o.ua t) (lowWord (b t)) (e.reg o.c.toNat t)).setWidth 64) s

/-- R113 -/
def execAdd (o : Alu) (s : State) : Out := arith (.add o) o (fun a b _ => a + b) s
def execSub (o : Alu) (s : State) : Out := arith (.sub o) o (fun a b _ => a - b) s
def execMul (o : Alu) (s : State) : Out := arith (.mul o) o (fun a b _ => a * b) s
def execMad (o : Alu) (s : State) : Out := arith (.mad o) o (fun a b c => a * b + c) s
def execNeg (o : Alu) (s : State) : Out := arith (.neg o) o (fun a _ _ => -a) s
def execAbs (o : Alu) (s : State) : Out := arith (.abs o) o (fun a _ _ => if a < 0 then -a else a) s
def execMin (o : Alu) (s : State) : Out := arith (.min o) o (fun a b _ => if a ≤ b then a else b) s
def execMax (o : Alu) (s : State) : Out := arith (.max o) o (fun a b _ => if a ≥ b then a else b) s
def execAdd64 (o : Alu) (s : State) : Out := arith (.add64 o) o (fun a b _ => a + b) s
def execSub64 (o : Alu) (s : State) : Out := arith (.sub64 o) o (fun a b _ => a - b) s

/-- R114: the exact product of two words under a type. -/
def product (ty : Ty) (a b : Word) : DWord := BitVec.ofInt 64 (readInt ty (a.setWidth 64) * readInt ty (b.setWidth 64))

/-- R114 -/
def execMulh (o : Alu) (s : State) : Out :=
  wordOp (.mulh o) o (fun a b _ => (product o.ty a b).extractLsb' 32 32) s

/-- R114 -/
def execMulw (o : Alu) (s : State) : Out :=
  runAlu (.mulw o) o false s fun e m b s =>
    e.finish (.mulw o) m o.d true (fun t => product o.ty (e.src m o.a o.ua t) (lowWord (b t))) s

/-- R115: the sum with its carry out above it. -/
def addCarry (a b c : Word) : DWord :=
  let x := a.toNat + b.toNat + c.toNat % 2
  BitVec.ofNat 32 (x / 2 ^ 32) ++ BitVec.ofNat 32 x

/-- R115: the difference with its borrow out above it. -/
def subBorrow (a b c : Word) : DWord :=
  let x : Int := (a.toNat : Int) - b.toNat - (c.toNat % 2 : Nat)
  (if x < 0 then 1#32 else 0#32) ++ BitVec.ofInt 32 x

/-- R115 -/
def execAddc (o : Alu) (s : State) : Out :=
  runAlu (.addc o) o false s fun e m b s =>
    e.finish (.addc o) m o.d true (fun t => addCarry (e.src m o.a o.ua t) (lowWord (b t)) (e.reg o.c.toNat t)) s

/-- R115 -/
def execSubb (o : Alu) (s : State) : Out :=
  runAlu (.subb o) o false s fun e m b s =>
    e.finish (.subb o) m o.d true (fun t => subBorrow (e.src m o.a o.ua t) (lowWord (b t)) (e.reg o.c.toNat t)) s

/-- R116: a division or remainder; a zero divisor in any acting thread traps. -/
def divide (i : Instr) (o : Alu) (f : Int → Int → Int) (s : State) : Out :=
  runAlu i o false s fun e m b s =>
    if (Mask.threads m).any fun t => lowWord (b t) = 0 then e.raiseOpen .divZero s
    else
      e.finish i m o.d false (fun t =>
        placeInt o.ty (f (readInt o.ty ((e.src m o.a o.ua t).setWidth 64)) (readInt o.ty (b t)))) s

/-- R116 -/
def execDiv (o : Alu) (s : State) : Out := divide (.div o) o Int.tdiv s
def execRem (o : Alu) (s : State) : Out := divide (.rem o) o Int.tmod s

/-- R117 -/
def execAnd (o : Alu) (s : State) : Out := wordOp (.and o) o (fun a b _ => a &&& b) s
def execOr (o : Alu) (s : State) : Out := wordOp (.or o) o (fun a b _ => a ||| b) s
def execXor (o : Alu) (s : State) : Out := wordOp (.xor o) o (fun a b _ => a ^^^ b) s
def execAndn (o : Alu) (s : State) : Out := wordOp (.andn o) o (fun a b _ => a &&& ~~~ b) s
def execOrn (o : Alu) (s : State) : Out := wordOp (.orn o) o (fun a b _ => a ||| ~~~ b) s
def execNot (o : Alu) (s : State) : Out := wordOp (.not o) o (fun a _ _ => ~~~ a) s

/-- R117: the shifts, with an unsigned amount of any size. -/
def shiftLeft (a b : Word) : Word := if b.toNat < 32 then a <<< b.toNat else 0
def shiftRight (a b : Word) : Word := if b.toNat < 32 then a >>> b.toNat else 0
def shiftArith (a b : Word) : Word := a.sshiftRight (min b.toNat 32)
def rotate (a b : Word) : Word := a.rotateLeft (b.toNat % 32)

/-- R117 -/
def execShl (o : Alu) (s : State) : Out := wordOp (.shl o) o (fun a b _ => shiftLeft a b) s
def execShr (o : Alu) (s : State) : Out := wordOp (.shr o) o (fun a b _ => shiftRight a b) s
def execSra (o : Alu) (s : State) : Out := wordOp (.sra o) o (fun a b _ => shiftArith a b) s
def execRot (o : Alu) (s : State) : Out := wordOp (.rot o) o (fun a b _ => rotate a b) s

/-- R117: the 64-bit shifts. -/
def shiftLeft64 (a : DWord) (n : Nat) : DWord := if n < 64 then a <<< n else 0
def shiftRight64 (ty : Ty) (a : DWord) (n : Nat) : DWord :=
  if ty = .i64 then a.sshiftRight (min n 64) else if n < 64 then a >>> n else 0

/-- R117 -/
def execShl64 (o : Alu) (s : State) : Out :=
  runAlu (.shl64 o) o false s fun e m b s =>
    e.finish (.shl64 o) m o.d true (fun t => shiftLeft64 (e.srcA m o true t) (lowWord (b t)).toNat) s

/-- R117 -/
def execShr64 (o : Alu) (s : State) : Out :=
  runAlu (.shr64 o) o false s fun e m b s =>
    e.finish (.shr64 o) m o.d true (fun t => shiftRight64 o.ty (e.srcA m o true t) (lowWord (b t)).toNat) s

/-! ### R118: bits and fields -/

def leadingZeros (a : Word) : Nat := if a = 0 then 32 else 31 - Nat.log2 a.toNat
def reverseBits (a : Word) : Word := BitVec.ofFnLE fun i : Fin 32 => a.getLsbD (31 - i)
def trailingZeros (a : Word) : Nat := leadingZeros (reverseBits a)
def popCount (a : Word) : Nat := (Mask.threads a).length

/-- R118: position and length of a field. -/
def fieldOf (b : Word) : Nat × Nat :=
  let pos := min (b.toNat % 256) 32
  (pos, min (b.toNat / 256 % 256) (32 - pos))

def extractField (ty : Ty) (a b : Word) : Word :=
  let (pos, len) := fieldOf b
  let x := a.toNat / 2 ^ pos % 2 ^ len
  if ty = .i32 && 0 < len && 2 ^ (len - 1) ≤ x then BitVec.ofInt 32 ((x : Int) - 2 ^ len) else BitVec.ofNat 32 x

def insertField (a b c : Word) : Word :=
  let (pos, len) := fieldOf b
  let mask : Word := BitVec.ofNat 32 ((2 ^ len - 1) * 2 ^ pos)
  (a &&& ~~~ mask) ||| (BitVec.ofNat 32 (c.toNat * 2 ^ pos) &&& mask)

/-- R118 -/
def execClz (o : Alu) (s : State) : Out := wordOp (.clz o) o (fun a _ _ => BitVec.ofNat 32 (leadingZeros a)) s
def execCtz (o : Alu) (s : State) : Out := wordOp (.ctz o) o (fun a _ _ => BitVec.ofNat 32 (trailingZeros a)) s
def execPopc (o : Alu) (s : State) : Out := wordOp (.popc o) o (fun a _ _ => BitVec.ofNat 32 (popCount a)) s
def execBrev (o : Alu) (s : State) : Out := wordOp (.brev o) o (fun a _ _ => reverseBits a) s
def execBfx (o : Alu) (s : State) : Out := wordOp (.bfx o) o (fun a b _ => extractField o.ty a b) s
def execBfi (o : Alu) (s : State) : Out := wordOp (.bfi o) o (fun a b c => insertField a b c) s

/-- R119 -/
def execSel (o : Alu) (s : State) : Out :=
  runAlu (.sel o) o o.ty.wide s fun e m b s =>
    e.finish (.sel o) m o.d o.ty.wide (fun t =>
      let c := e.reg o.c.toNat t
      if (if o.sub = 0 then c.getLsbD t else c ≠ 0) then e.srcA m o o.ty.wide t else b t) s

/-- R48: an integer condition. -/
def intCond (c : Cond) (a b : Int) : Bool :=
  match c with
  | .eq => a = b | .ne => a ≠ b | .lt => a < b | .le => a ≤ b | .gt => a > b | .ge => a ≥ b
  | .num => true | .nan => false

/-- R120, R129: writes the mask of the threads that pass, or its bit of each thread. -/
def Env.putCompare (e : Env) (i : Instr) (o : Alu) (m : Mask) (p : Nat → Bool) (s : State) : State :=
  let r := m &&& Mask.ofTest p
  e.finish i m o.d false (fun t => if o.pt then (if r.getLsbD t then 1 else 0) else r.setWidth 64) s

/-- R120: a compare of integers. -/
def compareInts (i : Instr) (o : Alu) (s : State) : Out :=
  runAlu i o o.ty.wide s fun e m b s =>
    e.putCompare i o m (fun t => intCond (Cond.ofCode o.sub) (readInt o.ty (e.srcA m o o.ty.wide t)) (readInt o.ty (b t))) s

/-- R120 -/
def execCmp (o : Alu) (s : State) : Out := compareInts (.cmp o) o s
def execCmp64 (o : Alu) (s : State) : Out := compareInts (.cmp64 o) o s

/-- R121: the scaled, extended offset. -/
def leaOffset (ty : Ty) (b : Word) (sh : Nat) : DWord :=
  (if ty = .i32 then b.signExtend 64 else b.setWidth 64) <<< sh

/-- R121 -/
def execLea (o : Alu) (s : State) : Out :=
  runAlu (.lea o) o false s fun e m b s =>
    e.finish (.lea o) m o.d true (fun t => e.srcPair m o.a o.ua t + leaOffset o.ty (lowWord (b t)) (o.c.toNat % 8)) s

/-- R122: A in the 64-bit form, X in the 96-bit form. -/
def execMov (o : Alu) (s : State) : Out :=
  runAlu (.mov o) o o.ty.wide s fun e m b s =>
    e.finish (.mov o) m o.d o.ty.wide (fun t =>
      match o.b with
      | .reg _ _ => e.srcA m o o.ty.wide t
      | _ => b t) s

/-- R122 -/
def execMovw (p : Pre) (d : RegNo) (imm : DWord) (s : State) : Out :=
  act (.movw p d imm) s fun e s => e.retire (.movw p d imm) (e.setPairs (e.exm p) d (fun _ => imm) s)

/-! ### R123: constant windows with an index -/

/-- R123: the check of one thread's reference; the address where it passes. -/
def constRef (base : DWord) (wide : Bool) (k : Nat) : Option Cause × DWord :=
  let addr := base + BitVec.ofNat 64 (4 * k)
  if 2 ^ 17 ≤ k then (some .permission, addr)
  else if base = 0 then (some .permission, addr)
  else if wide && k % 2 = 1 then (some .misaligned, addr)
  else (none, addr)

/-- R123, R272: the words that each acting thread receives are on their way. -/
def Env.ldcValues (e : Env) (m : Mask) (o : Alu) (ps : List Piece) (s : State) : State :=
  let n := if o.ty.wide then 2 else 1
  let (s, vs) := s.constWords (((s.launchOf e).map Launch.born).getD 0) ps
  let ts := Mask.threads m
  let val (j t : Nat) : Word := vs.getD (n * (ts.idxOf t) + j) 0
  let s := e.later m o.d (val 0) s
  if n = 2 && o.d ≠ 0 then e.later m (o.d + 1) (val 1) s else s

/-- R123 -/
def execLdc (o : Alu) (s : State) : Out :=
  act (.ldc o) s fun e s =>
    let m := e.exm o.p
    match o.b with
    | .const w off =>
      let base := s.window e w.toNat
      let ref (t : Nat) := constRef base o.ty.wide (off.toNat + (e.src m o.a o.ua t).toNat)
      let bad := (Mask.threads m).find? fun t => (ref t).1.isSome
      let (s, sp) := e.space s
      let want : List Want := ((Mask.threads m).filter fun t => t < bad.getD 32).flatMap fun t =>
        (if o.ty.wide then [0, 4] else [0]).map fun d => { thread := t, va := ((ref t).2.toNat + d) % 2 ^ 64, bytes := 4 }
      e.checked .read (s.checkThreads sp .read bad.isNone want) fun ps s' =>
        match bad with
        | some t => e.raise ((ref t).1.getD .permission) (ref t).2 s
        | none =>
          match ps.find? fun p => s'.poisonedAt p with
          | some p => e.raise .dataError (ref p.thread).2 s'
          | none => e.retire (.ldc o) (e.ldcValues m o ps s')
    | _ => e.retire (.ldc o) s

/-! ### R124: special registers -/

/-- A context's counter (R389). -/
def Ctx.counter (x : Ctx) (n : Nat) : DWord := readOr 0 x.cnt n

/-- R394: one word of a 64-bit register replaced. -/
def withLow (v : DWord) (w : Word) : DWord := v.extractLsb' 32 32 ++ w
def withHigh (v : DWord) (w : Word) : DWord := w ++ v.extractLsb' 0 32

/-- R69 to R72, R389, R394: the value that a thread reads in a special register. -/
def State.special (s : State) (e : Env) (n t : Nat) : Word :=
  let num (x : Nat) : Word := BitVec.ofNat 32 x
  let team := look s.teams e.team
  let tm (f : Team → Nat) : Word := if e.lat then 0 else num ((team.map f).getD 0)
  let rec_ := (team.bind fun x => look s.launches x.launch).map Launch.record
  let dim (f : LaunchRec → Nat → Nat) : Word :=
    if e.lat then 0 else num (((rec_.map fun r => f r ((team.map Team.idx).getD 0))).getD 0)
  let clk : DWord := match e.agent with | .wide c => (s.core c).clk | .lat l => (s.lc l).clk | _ => 0
  let host := match e.who with
    | .handler k w => ((look s.teams k).bind fun x => x.warps[w]?.map Warp.main).getD {}
    | .lat lc th => ((s.lc lc).thread th).main
    | _ => e.st
  match n with
  | 0x000 => if e.lat then 0 else num t
  | 0x001 => if e.lat then 0 else num e.warp
  | 0x002 => dim fun r i => i % r.tmx
  | 0x003 => dim fun r i => i / r.tmx % r.tmy
  | 0x004 => dim fun r i => i / (r.tmx * r.tmy)
  | 0x005 => tm Team.band
  | 0x006 => tm Team.brank
  | 0x007 => tm Team.stage
  | 0x008 => if e.lat then 0 else num (((team.bind fun x => x.warps[e.warp]?).map Warp.role).getD 0)
  | 0x009 => num e.coreNo
  | 0x00A => num e.die
  | 0x00B => num (s.dev % 8192)
  | 0x00C => if e.lat then 1 else e.sp.exm
  | 0x00D => if e.lat then 1 else host.live
  | 0x00E => lowWord e.sp.rgn
  | 0x00F => num e.nreg
  | 0x010 => lowWord clk
  | 0x011 => readOr 0 e.st.clkh t
  | 0x012 => num e.ctxNo
  | 0x013 => if e.lat then 0 else num ((rec_.map LaunchRec.teams).getD 0)
  | 0x100 => lowWord host.epc
  | 0x101 => host.epc.extractLsb' 32 32
  | 0x102 => host.ecause
  | 0x103 => lowWord host.eaddr
  | 0x104 => host.eaddr.extractLsb' 32 32
  | 0x105 => num (e.ctx.asidW % 65536)
  | 0x106 => num e.ctx.ptbaseW
  | 0x107 => num (e.ctx.ptbaseW / 2 ^ 32)
  | 0x108 => lowWord (s.die e.die).fqbase
  | 0x109 => (s.die e.die).fqbase.extractLsb' 32 32
  | 0x10A => lowWord e.ctx.stvecW
  | 0x10B => e.ctx.stvecW.extractLsb' 32 32
  | 0x10C => e.st.sstat
  | n =>
    let c := e.ctx.counter ((n - 0x200) % 128)
    lowWord c

/-- R70: a read of `%clk` latches the high word for each reading thread. -/
def State.latchClk (s : State) (e : Env) (m : Mask) : State :=
  let clk : DWord := match e.agent with | .wide c => (s.core c).clk | .lat l => (s.lc l).clk | _ => 0
  s.mapStrand e.who fun st =>
    { st with clkh := (Mask.threads m).foldl (fun h t => write 0 h t (clk.extractLsb' 32 32)) st.clkh }

/-- R70: the special registers whose reading is variable-latency. -/
def variableSpecial (n : Nat) : Bool := n = 0x010 || n = 0x011 || 0x200 ≤ n

/-- R124 -/
def execSrd (p : Pre) (d : RegNo) (n : BitVec 12) (s : State) : Out :=
  act (.srd p d n) s fun e s =>
    let m := e.exm p
    let val := s.special e n.toNat
    let s := if n = 0x010 then s.latchClk e m else s
    e.retire (.srd p d n) (if variableSpecial n.toNat then e.later m d val s else e.setAll m d val s)

/-- The strand whose trap registers an instruction names: a handler image's are the trapped warp's (R403). -/
def trapOwner : Who → Who
  | .handler t w => .warp t w 0
  | w => w

/-- R124, R389, R394: the effect of writing a special register. -/
def State.setSpecial (s : State) (e : Env) (n : Nat) (v : Word) : State :=
  let own (f : Strand → Strand) : State :=
    match e.who with
    | .lat lc th =>
      let h := (s.lc lc).thread th
      s.setLc lc ((s.lc lc).setThread th { h with main := f h.main })
    | w => s.mapStrand (trapOwner w) f
  let ctx (f : Ctx → Ctx) : State := s.setCtx e.ctxNo (f (s.ctx e.ctxNo))
  let fq (f : DWord → DWord) : State :=
    let d := s.die e.die
    s.setDie e.die { d with fqbase := f d.fqbase &&& 0xFFFFFFFFC0#64 }
  match n with
  | 0x100 => own fun st => { st with epc := withLow st.epc v }
  | 0x101 => own fun st => { st with epc := withHigh st.epc v }
  | 0x102 => own fun st => { st with ecause := v &&& 0x1FFFFF }
  | 0x103 => own fun st => { st with eaddr := withLow st.eaddr v }
  | 0x104 => own fun st => { st with eaddr := withHigh st.eaddr v }
  | 0x105 => ctx fun x => { x with asidW := v.toNat % 65536, asidBy := some e.who }
  | 0x106 => ctx fun x => { x with ptbaseW := x.ptbaseW / 2 ^ 32 * 2 ^ 32 + v.toNat / 4096 * 4096 }
  | 0x107 => ctx fun x => { x with ptbaseW := v.toNat % 256 * 2 ^ 32 + x.ptbaseW % 2 ^ 32 }
  | 0x108 => fq fun b => withLow b v
  | 0x109 => fq fun b => withHigh b v
  | 0x10A => ctx fun x => { x with stvecW := withLow x.stvecW v }
  | 0x10B => ctx fun x => { x with stvecW := withHigh x.stvecW v }
  | 0x10C => s.mapStrand e.who fun st => { st with sstat := v &&& 0x1F1F }
  | n => ctx fun x => { x with cnt := write 0 x.cnt ((n - 0x200) % 128) (v.setWidth 64) }

/-- R124 -/
def execSwr (p : Pre) (a : RegNo) (ua : Bool) (n : BitVec 12) (s : State) : Out :=
  act (.swr p a ua n) s fun e s =>
    let m := e.exm p
    e.retire (.swr p a ua n) (if m = 0 then s else s.setSpecial e n.toNat (e.one m a))

end Sys2Proof.Machine
end

