-- ==== Sys2Proof/Machine/Flags.lean ====
section
/-! DEFINITION. Floating-point flags and their traps (R106 to R108), and the elements of a register (R79, R109). -/

namespace Sys2Proof.Machine

/-- The IEEE format of a type's elements. -/
def Ty.ieee : Ty → Ieee
  | .f16 | .f16x2 => f16
  | .bf16 | .bf16x2 => bf16
  | .f64 => f64
  | _ => f32

/-- R79: the element codes of an operand. -/
def elements (ty : Ty) (v : DWord) : List Nat :=
  match ty with
  | .f16x2 | .bf16x2 => [v.toNat % 2 ^ 16, v.toNat / 2 ^ 16 % 2 ^ 16]
  | .f16 | .bf16 => [v.toNat % 2 ^ 16]
  | .f64 => [v.toNat]
  | .n43 | .n52 => [v.toNat % 256]
  | _ => [v.toNat % 2 ^ 32]

/-- R79, R109: the register or pair that holds element codes. -/
def assemble (cs : List Nat) : DWord :=
  match cs with
  | [a] => BitVec.ofNat 64 a
  | [a, b] => BitVec.ofNat 64 (a + b * 2 ^ 16)
  | _ => 0

/-- R106: the trap enables of `%sstat`, in the order of the flags. -/
def enables (sstat : Word) : Flags := sstat.extractLsb' 8 5

/-- R107: flags ORed into FLG. -/
def addFlags (sstat : Word) (f : Flags) : Word := sstat ||| f.setWidth 32

/-- OR of the flags of several elements or threads. -/
def orFlags (fs : List Flags) : Flags := fs.foldl (· ||| ·) 0

/-- R107, R108, R126: an enabled flag traps and writes nothing; otherwise the effect takes place and the flags are kept. -/
def Env.withFlags (e : Env) (f : Flags) (s : State) (body : State → State) : State :=
  let en := f &&& enables e.st.sstat
  if en ≠ 0 then e.raiseOpen .float s en.toNat
  else body (s.mapStrand e.who fun st => { st with sstat := addFlags st.sstat f })

/-- R126: one result with its flags per acting thread. -/
def Env.finishFloat (e : Env) (i : Instr) (m : Mask) (d : RegNo) (wide : Bool) (f : Nat → DWord × Flags) (s : State) : State :=
  e.withFlags (orFlags ((Mask.threads m).map fun t => (f t).2)) s fun s => e.finish i m d wide (fun t => (f t).1) s

/-- Element by element: codes and flags put together. -/
def perElement (xs : List (Nat × Flags)) : DWord × Flags := (assemble (xs.map Prod.fst), orFlags (xs.map Prod.snd))

end Sys2Proof.Machine
end

