-- ==== Sys2Proof/Machine/Float.lean ====
section
/-! DEFINITION. The FLT group (R125 to R139). -/

namespace Sys2Proof.Machine

/-- R40: source C of a thread, a register or a pair. -/
def Env.srcC (e : Env) (o : Alu) (t : Nat) : DWord :=
  if o.ty.wide then e.pair o.c.toNat t else (e.reg o.c.toNat t).setWidth 64

/-- R79: an operation on the element codes of up to three operands, each element for itself. -/
def eachElement (ty : Ty) (a b c : DWord) (f : Nat → Nat → Nat → Nat × Flags) : DWord × Flags :=
  let xs := elements ty a
  perElement ((List.range xs.length).map fun k => f (xs.getD k 0) ((elements ty b).getD k 0) ((elements ty c).getD k 0))

/-- Runs an instruction of the group element by element. -/
def floatCodes (i : Instr) (o : Alu) (f : Nat → Nat → Nat → Nat × Flags) (s : State) : Out :=
  runAlu i o o.ty.wide s fun e m b s =>
    e.finishFloat i m o.d o.ty.wide (fun t => eachElement o.ty (e.srcA m o o.ty.wide t) (b t) (e.srcC o t) f) s

/-- R126: the exact result of each element rounded once. -/
def floatOp (i : Instr) (o : Alu) (f : Fp → Fp → Fp → Exact) (s : State) : Out :=
  let fmt := Ty.ieee o.ty
  floatCodes i o (fun a b c => fmt.deliver o.rm o.sat (f (fmt.value a) (fmt.value b) (fmt.value c))) s

/-- The value one. -/
def Fp.one : Fp := .fin false 1 0

/-- R126 -/
def execFadd (o : Alu) (s : State) : Out := floatOp (.fadd o) o (fun a b _ => addExact o.rm a b) s
def execFsub (o : Alu) (s : State) : Out := floatOp (.fsub o) o (fun a b _ => addExact o.rm a b.negate) s
def execFmul (o : Alu) (s : State) : Out := floatOp (.fmul o) o (fun a b _ => mulExact a b) s
def execFfma (o : Alu) (s : State) : Out := floatOp (.ffma o) o (fun a b c => fmaExact o.rm a b c) s
def execFrcp (o : Alu) (s : State) : Out := floatOp (.frcp o) o (fun a _ _ => divExact .one a) s
def execFsqrt (o : Alu) (s : State) : Out := floatOp (.fsqrt o) o (fun a _ _ => sqrtExact a) s
def execFdiv (o : Alu) (s : State) : Out := floatOp (.fdiv o) o (fun a b _ => divExact a b) s

/-- R127: does the first of two values that are no NaN come before the second; −0 comes before +0. -/
def Fp.before (a b : Fp) : Bool :=
  match compareFp a b with
  | .lt => true
  | .gt => false
  | .eq => a.neg || !b.neg

/-- R127: one of two codes, and invalid for a signalling NaN. -/
def pickCode (f : Ieee) (least : Bool) (a b : Nat) : Nat × Flags :=
  let x := f.value a
  let y := f.value b
  let fl := nanFlag x ||| nanFlag y
  if x.isNan && y.isNan then (f.nanCode, fl)
  else if x.isNan then (b, fl)
  else if y.isNan then (a, fl)
  else (if (x.before y) = least then a else b, fl)

/-- R127 -/
def execFmin (o : Alu) (s : State) : Out := floatCodes (.fmin o) o (fun a b _ => pickCode (Ty.ieee o.ty) true a b) s
def execFmax (o : Alu) (s : State) : Out := floatCodes (.fmax o) o (fun a b _ => pickCode (Ty.ieee o.ty) false a b) s

/-- R128 -/
def execFabs (o : Alu) (s : State) : Out := floatCodes (.fabs o) o (fun a _ _ => (a % (Ty.ieee o.ty).signBit, 0)) s
def execFneg (o : Alu) (s : State) : Out := floatCodes (.fneg o) o (fun a _ _ => (a ^^^ (Ty.ieee o.ty).signBit, 0)) s

/-- R48: a floating-point condition. -/
def floatCond (c : Cond) (a b : Fp) : Bool :=
  if a.isNan || b.isNan then c = .ne || c = .nan
  else
    match c with
    | .eq => compareFp a b = .eq
    | .ne => compareFp a b ≠ .eq
    | .lt => compareFp a b = .lt
    | .le => compareFp a b ≠ .gt
    | .gt => compareFp a b = .gt
    | .ge => compareFp a b ≠ .lt
    | .num => true
    | .nan => false

/-- R129: invalid where an ordering meets a NaN, or any condition a signalling one. -/
def compareFlags (c : Cond) (a b : Fp) : Flags :=
  let orders : Bool := c = .lt || c = .le || c = .gt || c = .ge
  if orders && (a.isNan || b.isNan) then fInvalid else nanFlag a ||| nanFlag b

/-- R129 -/
def execFcmp (o : Alu) (s : State) : Out :=
  runAlu (.fcmp o) o o.ty.wide s fun e m b s =>
    let c := Cond.ofCode o.sub
    let val (v : DWord) : Fp := (Ty.ieee o.ty).value ((elements o.ty v).getD 0 0)
    let x (t : Nat) := val (e.srcA m o o.ty.wide t)
    e.withFlags (orFlags ((Mask.threads m).map fun t => compareFlags c (x t) (val (b t)))) s fun s =>
      e.putCompare (.fcmp o) o m (fun t => floatCond c (x t) (val (b t))) s

/-- R130 -/
def execFrsq (o : Alu) (s : State) : Out := floatOp (.frsq o) o (fun a _ _ => rsqrtExact a) s
def execFex2 (o : Alu) (s : State) : Out := floatOp (.fex2 o) o (fun a _ _ => exp2Exact a) s
def execFlg2 (o : Alu) (s : State) : Out := floatOp (.flg2 o) o (fun a _ _ => log2Exact a) s
def execFsin (o : Alu) (s : State) : Out := floatOp (.fsin o) o (fun a _ _ => sinExact a) s
def execFcos (o : Alu) (s : State) : Out := floatOp (.fcos o) o (fun a _ _ => cosExact a) s
def execFtanh (o : Alu) (s : State) : Out := floatOp (.ftanh o) o (fun a _ _ => tanhExact a) s

/-- R131: the one bit of a value's class. -/
def classOf (f : Ieee) (v : Fp) : Nat :=
  match v with
  | .nan true => 0
  | .nan false => 1
  | .inf true => 2
  | .inf false => 9
  | .fin neg m _ =>
    if m = 0 then (if neg then 5 else 6)
    else if m < 2 ^ f.fbits then (if neg then 4 else 7)
    else if neg then 3 else 8

/-- R131 -/
def execFclass (o : Alu) (s : State) : Out :=
  runAlu (.fclass o) o false s fun e m _ s =>
    let fmt := Ty.ieee o.ty
    e.finish (.fclass o) m o.d false (fun t =>
      BitVec.ofNat 64 (2 ^ classOf fmt (fmt.value ((elements o.ty (e.srcA m o o.ty.wide t)).getD 0 0)))) s

/-- R132: an integral value of the operand's own format. -/
def integral (rm : Rm) (v : Fp) : Exact :=
  match v.exact with
  | .num x =>
    let k := (x.roundAt rm 0).1
    if k = 0 then .zero x.neg else .num { neg := x.neg, m := k, e := 0 }
  | r => r

/-- R132 -/
def execFrnd (o : Alu) (s : State) : Out :=
  let fmt := Ty.ieee o.ty
  floatCodes (.frnd o) o (fun a _ _ => fmt.deliver .rn false (integral o.rm (fmt.value a))) s

/-- R133: a × 2^k; beyond ±8192 every format gives the same result. -/
def scaleExact (v : Fp) (k : Int) : Exact :=
  match v.exact with
  | .num x => .num { x with e := x.e + max (-8192) (min 8192 k) }
  | r => r

/-- R133, R85: a scaled code; zeros and infinities pass through, but for SAT. -/
def scaleCode (f : Ieee) (rm : Rm) (sat : Bool) (a : Nat) (k : Int) : Nat × Flags := f.deliver rm sat (scaleExact (f.value a) k)

/-- R133 -/
def execFscale (o : Alu) (s : State) : Out :=
  runAlu (.fscale o) o false s fun e m b s =>
    e.finishFloat (.fscale o) m o.d o.ty.wide (fun t =>
      eachElement o.ty (e.srcA m o o.ty.wide t) 0 0 fun a _ _ => scaleCode (Ty.ieee o.ty) o.rm o.sat a (lowWord (b t)).toInt) s

/-- R134, R144: the exact sum of values, rounded once by its caller. An exact zero is −0 where every addend is −0
or under `.rd`. DEDUCED (log 105): infinities of opposite signs beside a quiet NaN raise nothing. -/
def sumExact (rm : Rm) (xs : List Fp) : Exact :=
  if xs.any Fp.isNan then .nan (orFlags (xs.map nanFlag))
  else
    let infs := xs.filterMap fun x => match x with | .inf n => some n | _ => none
    if infs.contains true && infs.contains false then .nan fInvalid
    else
      match infs with
      | n :: _ => .inf n 0
      | [] =>
        let unit := xs.foldl (fun u x => match x with | .fin _ _ e => min u e | _ => u) 0
        let total := xs.foldl (fun t x => match x with | .fin n m e => t + scaled n m e unit | _ => t) (0 : Int)
        exactOf total unit (rm = .rd || (!xs.isEmpty && xs.all Fp.neg))

/-- R134: a product as an addend, with the flags that it raised; 0 × ∞ is invalid beside a quiet NaN too (log 105). -/
def productAddend (a b : Fp) : Fp := (mulExact a b).value

/-- R134 -/
def execFdp2 (o : Alu) (s : State) : Out :=
  runAlu (.fdp2 o) o false s fun e m b s =>
    e.finishFloat (.fdp2 o) m o.d false (fun t =>
      let val (v : DWord) (k : Nat) : Fp := (Ty.ieee o.ty).value ((elements o.ty v).getD k 0)
      let a := e.srcA m o false t
      perElement [f32.deliver o.rm o.sat (sumExact o.rm
        [productAddend (val a 0) (val (b t) 0), productAddend (val a 1) (val (b t) 1), f32.value (e.reg o.c.toNat t).toNat])]) s

/-! ### R135 to R138: conversions and quad blocks -/

/-- A floating-point source or destination of a conversion, the narrow formats included. -/
def Ty.fractional (ty : Ty) : Bool := ty.isFloat || ty = .n43 || ty = .n52

/-- The narrow format of a type. -/
def Ty.narrow : Ty → Option Narrow
  | .n43 => some n43
  | .n52 => some n52
  | _ => none

/-- The value of an element code under a floating-point type. -/
def Ty.value (ty : Ty) (c : Nat) : Fp :=
  match Ty.narrow ty with
  | some f => f.value c
  | none => (Ty.ieee ty).value c

/-- An integer as an exact result; the integer zero is +0. -/
def exactInt (x : Int) : Exact := exactOf x 0 false

/-- R135: an exact result delivered in a floating-point type. -/
def Ty.deliver (ty : Ty) (rm : Rm) (sat : Bool) (under : Under) (x : Exact) : Nat × Flags :=
  match Ty.narrow ty with
  | some f => f.deliver rm sat under x
  | none => (Ty.ieee ty).deliver rm sat x

/-- R88: a floating-point value as an integer. -/
def toInteger (ty : Ty) (rm : Rm) (x : Exact) : Int × Flags :=
  match x with
  | .nan _ => (0, fInvalid)
  | .inf neg _ => (if neg then minInt ty else maxInt ty, fInvalid)
  | .zero _ => (0, 0)
  | .num x =>
    let (k, exact) := x.roundAt rm 0
    let v : Int := if x.neg then -(k : Int) else k
    if maxInt ty < v then (maxInt ty, fInvalid)
    else if v < minInt ty then (minInt ty, fInvalid)
    else (v, if exact then 0 else fInexact)

/-- R135: a scalar conversion. -/
def convert (src dst : Ty) (rm : Rm) (sat : Bool) (under : Under) (v : DWord) : DWord × Flags :=
  if Ty.fractional src then
    let x := (Ty.value src ((elements src v).getD 0 0)).exact
    if Ty.fractional dst then perElement [Ty.deliver dst rm sat under x]
    else
      let (k, fl) := toInteger dst rm x
      (placeInt dst k, fl)
  else
    let k := readInt src v
    if Ty.fractional dst then perElement [Ty.deliver dst rm sat under (exactInt k)]
    else (placeInt dst (if sat then clampInt dst k else k), 0)

/-- R135: a conversion between IEEE types, element by element. -/
def convertEach (src dst : Ty) (rm : Rm) (sat : Bool) (cs : List Nat) : DWord × Flags :=
  perElement (cs.map fun c => (Ty.ieee dst).deliver rm sat ((Ty.ieee src).value c).exact)

/-- R135: any conversion that `cvt` knows, of A and, where two elements are packed, of B. -/
def convertAny (src dst : Ty) (rm : Rm) (sat : Bool) (pick : Nat) (a b : DWord) : DWord × Flags :=
  match Ty.packed src, Ty.packed dst with
  | true, true => convertEach src dst rm sat (elements src a)
  | false, true => convertEach src dst rm sat [(elements src a).getD 0 0, (elements src b).getD 0 0]
  | true, false => convertEach src dst rm sat [(elements src a).getD pick 0]
  | false, false => convert src dst rm sat .flush a

/-- R135 -/
def execCvt (o : Alu) (s : State) : Out :=
  runAlu (.cvt o) o false s fun e m b s =>
    let src := Ty.ofCode o.sub
    e.finishFloat (.cvt o) m o.d o.ty.wide (fun t =>
      convertAny src o.ty o.rm o.sat (o.c.toNat % 2) (e.srcA m o src.wide t) (b t)) s

/-- R93: the key of a conversion in a thread. -/
def Env.roundingKey (e : Env) (teamIdx t : Nat) : BitVec 64 :=
  let place := if e.lat then 0 else ((teamIdx * 32 + e.warp) * 32 + t) % 2 ^ 32
  e.ctx.seed ^^^ (e.sp.pc <<< 32) ^^^ BitVec.ofNat 64 place

/-- R136 -/
def execCvtsr (o : Alu) (s : State) : Out :=
  runAlu (.cvtsr o) o false s fun e m _ s =>
    let src := Ty.ofCode o.sub
    let idx := ((look s.teams e.team).map Team.idx).getD 0
    e.finishFloat (.cvtsr o) m o.d false (fun t =>
      convert src o.ty o.rm o.sat (.chance (randomOf (e.roundingKey idx t))) (e.srcA m o src.wide t)) s

/-- R94, R137: eight codes in one word. -/
def nibbles (code : Nat → Nat) (k : Nat) : Word :=
  BitVec.ofNat 32 ((List.range 8).foldl (fun x j => x + code (8 * k + j) * 16 ^ j) 0)

/-- R137: what `qpk` forms: the codes, the scale byte and the flags. -/
def packQuad (sb : Nat) (rm : Rm) (m : Mask) (x : Nat → Fp) : (Nat → Nat) × Nat × Flags :=
  let kind := sb / 64 % 4
  let sexp := sb % 64
  let made (t : Nat) : Nat × Flags := quadCode kind sexp rm .flush (x t).exact
  let fl : Flags := if sexp = 63 then 0 else orFlags ((Mask.threads m).map fun t => (made t).2)
  if sexp = 63 || (Mask.threads m).any (fun t => (x t).isNan) then (fun _ => 0, kind * 64 + 63, fl)
  else (fun t => if m.getLsbD t then (made t).1 else 0, sb % 256, fl)

/-- R137 -/
def execQpk (o : Alu) (s : State) : Out :=
  runAlu (.qpk o) o false s fun e m b s =>
    let (code, sb, fl) := packQuad (lowWord (b (Mask.lowest m))).toNat o.rm m fun t => f32.value (e.reg o.a.toNat t).toNat
    e.withFlags fl s fun s =>
      e.retire (.qpk o) ((Mask.threads m).foldl (fun s t =>
        e.set o.c.toNat t (BitVec.ofNat 32 sb) (e.setList o.d.toNat t ((List.range 4).map (nibbles code)) s)) s)

/-- R138: the value of code t of a block whose words start at A. -/
def Env.quadElement (e : Env) (o : Alu) (m : Mask) (sb t : Nat) : DWord :=
  let word := e.reg (o.a.toNat + t / 8) (Mask.lowest m)
  BitVec.ofNat 64 (f32.deliver .rn false (quadValue sb (word.toNat / 16 ^ (t % 8) % 16)).exact).1

/-- R138 -/
def execQupk (o : Alu) (s : State) : Out :=
  runAlu (.qupk o) o false s fun e m b s =>
    e.finish (.qupk o) m o.d false (e.quadElement o m ((lowWord (b (Mask.lowest m))).toNat % 256)) s

end Sys2Proof.Machine
end

