-- ==== Sys2Proof/Machine/Blocks.lean ====
section
/-! DEFINITION. Elements of tensors and tiles: the values of the formats of R149, MX formats (R97 to R100), the blocks
that `tcvt` writes (R177), and the sums of matrix work (R101 to R105). -/

namespace Sys2Proof.Machine

/-! ### Values of elements -/

/-- R97: layout of an MX element format. -/
def mxLayout (f : Nat) : Ieee :=
  match f with
  | 8 => { ebits := 4, fbits := 3 }
  | 9 => { ebits := 5, fbits := 2 }
  | 10 => { ebits := 2, fbits := 3 }
  | 11 => { ebits := 3, fbits := 2 }
  | _ => { ebits := 2, fbits := 1 }

/-- A code of a format without infinities and NaNs. -/
def Ieee.plain (f : Ieee) (c : Nat) : Fp :=
  let neg := c / f.signBit % 2 = 1
  let e := c / 2 ^ f.fbits % 2 ^ f.ebits
  let m := c % 2 ^ f.fbits
  if e = 0 then .fin neg m (f.emin - f.fbits) else .fin neg (2 ^ f.fbits + m) (f.emin - f.fbits + (e - 1 : Nat))

/-- R97: the value of an MX element without its scale. -/
def mxElement (f c : Nat) : Fp :=
  if f = 13 then (if 128 ≤ c then .fin true (256 - c) (-6) else .fin false c (-6))
  else if f = 8 && c % 128 = 127 then .nan false
  else if f = 9 then (mxLayout 9).value c
  else (mxLayout f).plain c

/-- A value times a power of two. -/
def Fp.times2 (v : Fp) (k : Int) : Fp :=
  match v with
  | .fin n m e => .fin n m (e + k)
  | v => v

/-- R94 to R97, R101: the value of an element code of a format, its scale included. -/
def elementValue (f scale c : Nat) : Fp :=
  match f with
  | 0 => f32.value c
  | 1 => f16.value c
  | 2 => bf16.value c
  | 3 => n43.value c
  | 4 => n52.value c
  | 7 => quadValue scale c
  | 16 => f64.value c
  | f => if scale = 255 then .nan false else (mxElement f c).times2 ((scale : Int) - 127)

/-- R149: formats of integers, as types. -/
def fmtInt (f : Nat) : Option Ty :=
  match f with
  | 5 => some .i8
  | 6 => some .n8
  | 15 => some .i32
  | _ => none

/-! ### Writing MX and quad blocks -/

/-- R100: exponent of the largest normal magnitude of an element format. -/
def mxTop (f : Nat) : Int :=
  match f with
  | 8 => 8 | 9 => 15 | 10 => 2 | 11 => 4 | 12 => 2 | _ => 0

/-- R97: code of the largest element magnitude. -/
def mxLargest (f : Nat) : Nat :=
  match f with
  | 8 => 0x7E | 9 => 0x7B | 10 => 0x1F | 11 => 0x1F | 12 => 0x7 | _ => 127

/-- Code of a magnitude with a sign. -/
def mxSigned (f : Nat) (neg : Bool) (mag : Nat) : Nat :=
  if f = 13 then (if neg && mag ≠ 0 then 256 - mag else mag) else (if neg then (mxLayout f).signBit else 0) + mag

/-- R97: the unit of an element format's subnormals. -/
def mxUnit (f : Nat) : Int := if f = 13 then -6 else (mxLayout f).emin - (mxLayout f).fbits

/-- R84, R100: the magnitude code of a nonzero real that is no smaller than the smallest magnitude. -/
def mxRound (f : Nat) (rm : Rm) (x : Real_) : Nat × Bool :=
  if f = 13 then x.roundAt rm (-6)
  else
    let l := mxLayout f
    let lsb : Int := max x.top l.emin - l.fbits
    let (kept, exact) := x.roundAt rm lsb
    ((max x.top l.emin - l.emin).toNat * 2 ^ l.fbits + kept, exact)

/-- R92, R100: an element divided by its scale, as a code. -/
def mxCode (f : Nat) (rm : Rm) (under : Under) (x : Exact) : Nat :=
  match x with
  | .nan _ => 0
  | .inf neg _ => mxSigned f neg (mxLargest f)
  | .zero neg => mxSigned f neg 0
  | .num x =>
    if x.below 1 (mxUnit f) then
      match under with
      | .flush => 0
      | .chance u => if u < x.chance 1 (mxUnit f) then mxSigned f x.neg 1 else 0
    else mxSigned f x.neg (min (mxRound f rm x).1 (mxLargest f))

/-- An exact result times a power of two. -/
def Exact.times2 (x : Exact) (k : Int) : Exact :=
  match x with
  | .num r => .num { r with e := r.e + k }
  | x => x

/-- R100, R177: floor(log2 a) of the largest finite magnitude of a block. -/
def blockTop (xs : List Exact) : Option Int :=
  xs.foldl (fun (t : Option Int) x =>
    match x with
    | .num r => some (match t with | some k => max k r.top | none => r.top)
    | _ => t) none

def Exact.isNan : Exact → Bool
  | .nan _ => true
  | _ => false

def Exact.isInf : Exact → Bool
  | .inf _ _ => true
  | _ => false

/-- R100: codes and scale byte of an MX block. DESIGN CHOICE (log 145): the codes of a block that holds a NaN are 0. -/
def mxBlock (f : Nat) (rm : Rm) (xs : List (Exact × Under)) : List Nat × Nat :=
  let vs := xs.map Prod.fst
  if vs.any Exact.isNan then (xs.map fun _ => 0, 0xFF)
  else
    let scale : Int := match blockTop vs with
      | some t => min (max (t - mxTop f) (-127)) 127
      | none => if vs.any Exact.isInf then 127 else -127
    (xs.map fun x => mxCode f rm x.2 (x.1.times2 (-scale)), (scale + 127).toNat)

/-- R177: exponent of the largest value of a KIND. -/
def quadTop (kind : Nat) : Int :=
  match kind with
  | 0 => 2 | 1 => 2 | 2 => 7 | _ => 3

/-- R96, R177: codes and scale byte of a quad block. -/
def quadBlock (kind : Nat) (rm : Rm) (xs : List (Exact × Under)) : List Nat × Nat :=
  let vs := xs.map Prod.fst
  if vs.any Exact.isNan then (xs.map fun _ => 0, kind * 64 + 63)
  else
    match blockTop vs with
    | some t =>
      let sexp := (min (max (t - quadTop kind + 32) 0) 62).toNat
      (xs.map fun x => (quadCode kind sexp rm x.2 x.1).1, kind * 64 + sexp)
    | none =>
      if vs.any Exact.isInf then (xs.map fun x => (quadCode kind 62 rm x.2 x.1).1, kind * 64 + 62)
      else (xs.map fun _ => 0, kind * 64)

/-! ### Conversions of one element (R177) -/

/-- An element before its conversion: a real value or an integer. -/
inductive Elem where
  | real (x : Exact)
  | int (k : Int)
  deriving DecidableEq, Repr

def Elem.exact : Elem → Exact
  | .real x => x
  | .int k => exactInt k

/-- R177: an element of a format that is not scaled, as a code. -/
def plainCode (f : Nat) (rm : Rm) (sat : Bool) (under : Under) (x : Elem) : Nat :=
  match fmtInt f with
  | some ty =>
    let k : Int := match x with
      | .real v => (toInteger ty rm v).1
      | .int k => if sat then clampInt ty k else k
    (k % 2 ^ fmtWidth f).toNat
  | none =>
    match f with
    | 0 => (f32.deliver rm sat x.exact).1
    | 1 => (f16.deliver rm sat x.exact).1
    | 2 => (bf16.deliver rm sat x.exact).1
    | 3 => (n43.deliver rm sat under x.exact).1
    | 4 => (n52.deliver rm sat under x.exact).1
    | _ => (f64.deliver rm sat x.exact).1
where
  fmtWidth (f : Nat) : Nat := if f = 15 then 32 else 8

/-! ### Matrix sums (R103 to R105) -/

/-- R104: the exact sum of the products of a chunk. -/
def chunkSum (ps : List Fp) : Exact := sumExact .rn ps

/-- R102, R103: a chunk sum is added to an accumulator. -/
def addChunk (sat : Bool) (c : Nat) (ps : List Fp) : Nat :=
  (f32.deliver .rn sat (addExact .rn (f32.value c) (chunkSum ps).value)).1

/-- Cuts a list into pieces of n. -/
def chunksOf {α : Type} (n : Nat) : Nat → List α → List (List α)
  | 0, _ => []
  | k + 1, xs => if xs.isEmpty then [] else xs.take n :: chunksOf n k (xs.drop n)

/-- R103: one FP32 accumulator element. -/
def accumulate (sat : Bool) (c : Nat) (as bs : List Fp) : Nat :=
  (chunksOf 32 16 (as.zip bs)).foldl (fun c ps => addChunk sat c (ps.map fun (a, b) => (mulExact a b).value)) c

/-- R105: one INT32 accumulator element. -/
def accumulateInts (c : Word) (as bs : List Int) : Word :=
  c + BitVec.ofInt 32 ((as.zip bs).foldl (fun x (a, b) => x + a * b) 0)

/-- R105, R176: the ones of a XOR b or of a AND b. -/
def accumulateBits (c : Word) (both : Bool) (as bs : List Bool) : Word :=
  c + BitVec.ofNat 32 (((as.zip bs).filter fun (a, b) => if both then a && b else a != b).length)

end Sys2Proof.Machine
end

