-- ==== Sys2Proof/Machine/Engine.lean ====
section
/-! DEFINITION. Asynchronous operations: tokens (R183 to R186), recoverable faults (R189) and the memory accesses of engines
(R220, R253 to R256). -/

namespace Sys2Proof.Machine

/-! ### Tokens -/

/-- R183: the entry of a current token of a team. -/
def Team.current (x : Team) (v : Word) : Option (Nat × Token) :=
  match look x.tokens (v.toNat % 1024) with
  | some k => if k.used && k.gen.toNat = v.toNat / 1024 then some (v.toNat % 1024, k) else none
  | none => none

/-- R183: allocated entries of the token table of a core. -/
def State.tokensOn (s : State) (core : Nat) : Nat :=
  (s.teams.map fun (_, t) => if t.core = some core then (keep t.tokens fun _ k => k.used).length else 0).sum

/-- R183: an index of the team's token space that no entry uses; which one is not given. -/
def Team.freeIndex (x : Team) (start : Nat) : Option Nat :=
  ((List.range 1024).map fun i => (start + i) % 1024).find? fun i => !(readOr {} x.tokens i).used

/-- R183: a new token, with its index. -/
def State.newToken (s : State) (t w : Nat) (sc : Scope) (op : Nat) : State × Option (Nat × Word) :=
  match look s.teams t with
  | none => (s, none)
  | some x =>
    if 1024 ≤ s.tokensOn (x.core.getD 0) then (s, none)
    else
      match x.freeIndex (Config.pick s.oracle) with
      | none => (s, none)
      | some i =>
        let k := readOr {} x.tokens i
        let s := s.mapTeam t fun x => { x with
          tokens := place x.tokens i { gen := k.gen, used := true, sc := sc, warp := w, op := some op } }
        (s.spend 1, some (i, BitVec.ofNat 32 (k.gen.toNat * 1024 + i)))

/-- R183, R186: an operation has ended; its entry is complete, or free where it has been consumed. -/
def Token.complete (k : Token) (status : Word) (words : List Word) : Token :=
  if k.freed then { gen := nextGen k.gen } else { k with done := true, status := status, words := words, op := none }

def State.completeToken (s : State) (t : Nat) (i : Option Nat) (status : Word) (words : List Word) : State :=
  match i with
  | none => s
  | some i => s.mapTeam t fun x => { x with tokens := adjust x.tokens i fun k => k.complete status words }

/-- R181: a task on accumulators has completed; nobody has seen it yet. What an earlier task on the same registers left is past. -/
def State.leaveAccs (s : State) (t w base : Nat) (token : Option (Nat × BitVec 22)) : State :=
  s.mapTeam t fun x => { x with
    accs := (x.accs.filter fun a => !(a.warp = w && a.base = base)) ++ [{ warp := w, base := base, token := token }] }

/-- R181: a thread sees the completed token of index i. -/
def State.seeToken (s : State) (t i : Nat) (k : Token) : State :=
  s.bump.mapTeam t fun x => { x with
    accs := x.accs.map fun a => if a.seen.isNone && a.token = some (i, k.gen) then { a with seen := some s.nextKey } else a }

/-! ### Deferred faults -/

/-- R188: the first undelivered fault that an instruction of a warp has to deliver. -/
def Team.due (x : Team) (w : Nat) (p : Deferred → Bool) : Option Deferred :=
  x.deferred.find? fun d => (d.warp = none || d.warp = some w) && p d

/-! ### Accesses of engines -/

/-- R394: the address space of an engine that acts for a context. -/
def State.engineSpace (s : State) (c die : Nat) : State × Space := s.space c (.engine die) (s.ctx c).priv

/-- R188, R189: the checks of an engine's accesses, uncorrectable errors among them. -/
def State.reach (s : State) (sp : Space) (k : Kind) (ws : List Want) : State × Checked :=
  match s.checkAll sp k ws with
  | (s, .ok ps) =>
    match ps.find? Piece.askew with
    | some p => (s, .trap .misaligned (BitVec.ofNat 64 p.va))
    | none =>
    match (if k = .engineRead then ps.find? fun p => s.poisonedAt p else none) with
    | some p => (s, .trap .dataError (BitVec.ofNat 64 p.va))
    | none => (s, .ok ps)
  | r => r

/-- Who is behind an operation's accesses, and how they act (R256). -/
structure Origin where
  key  : Nat
  ctx  : Nat
  die  : Nat
  who  : Option Who := none
  site : DWord := 0
  seq  : Word := 0
  team : Word := 0
  rt   : Rt := .uc
  sc   : Scope := .dev
  farSc : Option Scope := none  -- R258: the scope of accesses to other devices
  deriving DecidableEq, Repr

def Origin.seen (o : Origin) (asid line : Nat) (write : Bool) : Seen :=
  { line := line, ctx := o.ctx, asid := asid, write := write, read := !write, who := o.who, flags := 1, site := o.site, seq := o.seq, team := o.team }

/-- R388: an invalidation that an operation causes, under its name. -/
def Origin.named (o : Origin) (asid : Nat) (h : HomeEvent) : HomeEvent :=
  { h with ctx := o.ctx, asid := asid, agent := .engine o.die, site := o.site, seq := o.seq, sc := o.sc, rt := o.rt }

/-- R381, R389: an operation's access at the home of a line: a home request, which the watch ranges see. -/
def State.engineSees (s : State) (o : Origin) (line : Nat) (write : Bool) : State :=
  (s.count (homeDie (linePa line)) o.ctx 0x06 1).watch (o.seen (s.ctx o.ctx).asid line write)

/-- Bytes `off` to `off + n` of a piece, as a piece. -/
def Piece.sub (p : Piece) (off n : Nat) : Piece :=
  { p with off := p.off + off, va := p.va + off, bytes := n, at_ := { p.at_ with pa := p.at_.pa + off } }

/-- The line that the first byte of a piece lies in. -/
def Piece.line (p : Piece) : Nat := lineNo p.at_.dev p.at_.pa

/-- A piece cut at the multiples of `unit`. -/
def Piece.cut (p : Piece) (unit : Nat) : List Piece :=
  ((List.range p.bytes).filter fun i => i = 0 || (p.at_.pa + i) % unit = 0).map fun i => p.sub i (min (unit - (p.at_.pa + i) % unit) (p.bytes - i))

/-- R169, R222, R291: the single-copy atomic parts of a piece: what lies whole between multiples of `unit`, and every other byte
alone; for lines, the part of each. An access of a register is one (R448). -/
def Piece.cells (p : Piece) (unit : Nat) : List Piece :=
  if hbmEnd ≤ p.at_.pa && p.at_.pa < 0xE000000000 then [p] else
  (p.cut unit).flatMap fun q => if q.bytes = unit || unit = 128 then [q] else (List.range q.bytes).map fun i => q.sub i 1

/-- Have two pieces no byte in common. -/
def Piece.apart (p q : Piece) : Bool :=
  p.at_.dev ≠ q.at_.dev || p.at_.pa + p.bytes ≤ q.at_.pa || q.at_.pa + q.bytes ≤ p.at_.pa

/-- Lines of a device that a piece touches. -/
def Piece.lines (p : Piece) : List Nat := (p.cells 128).map Piece.line

/-- Key of a byte of a device. -/
def farKey (dev pa : Nat) : Nat := dev * 2 ^ 40 + pa

/-- R256: a byte of a piece that an operation has read. -/
def State.heldByte (s : State) (key : Nat) (p : Piece) (i : Nat) : Option Byte := look (readOr [] s.fetched key) (farKey p.at_.dev (p.at_.pa + i))

/-- The bytes of a piece that an operation has read, where it has read them all. -/
def State.heldBytes (s : State) (key : Nat) (p : Piece) : Option (List Byte) := allSome ((List.range p.bytes).map (s.heldByte key p))

/-- R225, R393: the bytes of a piece of this device as they stand. -/
def State.localBytes (s : State) (p : Piece) : List Byte :=
  if p.at_.pa < hbmEnd then (s.softBytes p.at_.pa p.bytes (s.homeRead p.at_.pa p.bytes).2).2 else (s.deviceRead p.at_.pa p.bytes).2

/-- R225, R256: the bytes of a piece, where they are at hand: those that have been read, and those of this device. -/
def State.pieceBytes (s : State) (key : Nat) (p : Piece) : Option (List Byte) :=
  if p.at_.dev = s.dev then some ((s.localBytes p).zipIdx.map fun (b, i) => (s.heldByte key p i).getD b)
  else s.heldBytes key p

/-- Does an operation wait for other devices. -/
def State.awaiting (s : State) (key : Nat) : Bool := s.remote.any fun (_, r) => r.copy = some key

/-- R256: an operation has read bytes. -/
def State.keepBytes (s : State) (key dev pa : Nat) (bs : List Byte) : State :=
  { s with fetched := place s.fetched key (bs.zipIdx.foldl (fun t (b, i) => place t (farKey dev (pa + i)) b) (readOr [] s.fetched key)) }

/-- R235: the `si` line of another device that a die's RDC holds for an ASID. -/
def State.farLine (s : State) (d line asid : Nat) : Option Line :=
  if d < 4 then (look (s.die d).rdc line).filter fun l => l.asid = asid else none

/-- R220: the request type of an operation's read of another device. -/
def Origin.farType (o : Origin) (p : Place) : Rt := if o.rt = .si && !p.nc && p.ord ≠ 1 then .si else .uc

/-- R220, R256, R291: the request type of an operation's write to another device. -/
def Origin.writeType (o : Origin) (p : Place) : Rt := if p.nc || p.ord = 1 then .uc else o.rt

/-- R220, R233, R256: an operation reads what lies in one line: here at the home; of another device an `si` line from the die's
RDC, else by a request. -/
def State.fetchCell (s : State) (o : Origin) (q : Piece) : State :=
  let line := q.line
  if q.at_.dev = s.dev then
    let bs := s.localBytes q
    (if q.at_.pa < hbmEnd then ((s.recall line).engineSees o line false).spend q.bytes else s).keepBytes o.key q.at_.dev q.at_.pa bs
  else
    let ty := o.farType q.at_
    match if ty = .si then s.farLine o.die line (s.ctx o.ctx).asid else none with
    | some l => s.keepBytes o.key q.at_.dev (linePa line) ((List.range 128).map (dataByte l.data))
    | none =>
      if s.remote.any fun (_, r) => r.copy = some o.key && r.type = 1 && r.line = line then s
      else s.sendRemote { dev := q.at_.dev, agent := .engine o.die, ctx := o.ctx, type := 1, line := line,
                          mask := if ty = .si then BitVec.allOnes 128 else BitVec.ofNat 128 ((2 ^ q.bytes - 1) * 2 ^ (q.at_.pa % 128)),
                          ord := .rlx, sc := o.farSc.getD o.sc, rt := ty, copy := some o.key, site := o.site, seq := o.seq, va := BitVec.ofNat 64 q.va }

/-- R256: an operation makes one of the reads that remain, by its number. -/
def State.fetchPart (s : State) (o : Origin) (unit : Nat) (ps : List Piece) (n : Nat) : State :=
  let left := (ps.flatMap fun p => p.cells unit).filter fun q => (s.heldBytes o.key q).isNone
  match left[n % left.length]? with
  | some q => s.fetchCell o q
  | none => s

/-- R256: the bytes of every piece in order; none while other devices have been asked. -/
def State.gather (s : State) (o : Origin) (ps : List Piece) : State × Option (List (Piece × List Byte)) :=
  let left (s : State) : List Piece := (ps.flatMap fun p => p.cells 128).filter fun q => (s.heldBytes o.key q).isNone
  let s := (left s).foldl (fun s q => if q.at_.dev = s.dev then s else s.fetchCell o q) s
  let got := ps.map fun p => (p, s.pieceBytes o.key p)
  if got.all fun g => g.2.isSome then
    let s := (left s).foldl (fun s q => if q.at_.pa < hbmEnd then (s.recall q.line).engineSees o q.line false else s) s
    (s.spend (1 + (ps.map Piece.bytes).sum), some (got.map fun g => (g.1, g.2.getD [])))
  else (s, none)

/-- R256: what an operation reads: all that remains, or one part alone. -/
def State.gatherBy (s : State) (o : Origin) (unit : Nat) (stop : Stop) (ps : List Piece) : State × Option (List (Piece × List Byte)) :=
  match stop with
  | .part n =>
    match allSome (ps.map fun p => (s.heldBytes o.key p).map fun bs => (p, bs)) with
    | some got => (s, some got)
    | none => (s.fetchPart o unit ps n, none)
  | _ => s.gather o ps

/-- The bytes of one wanted access, its pieces put together. -/
def wantBytes (got : List (Piece × List Byte)) (n : Nat) : List Byte :=
  (got.filter fun g => g.1.thread = n).flatMap Prod.snd

/-- R225, R256: an engine writes the bytes of a piece, at the home or toward another device. -/
def State.putPiece (s : State) (o : Origin) (p : Piece) (bs : List Byte) : State :=
  if p.at_.dev = s.dev && hbmEnd ≤ p.at_.pa then s.deviceWrite p.at_.pa bs
  else if p.at_.dev = s.dev then
    p.lines.foldl (fun s l => s.engineSees o l true) ((s.homeWrite p.at_.pa bs).nameHome s.homeLog.length (o.named (s.ctx o.ctx).asid))
  else
    (p.cells 128).foldl (fun s q =>
      let (mask, data) := lineBytes (q.at_.pa % 128) ((bs.drop (q.off - p.off)).take q.bytes)
      s.sendRemote { dev := p.at_.dev, agent := .engine o.die, ctx := o.ctx, type := 2, line := q.line,
                     mask := mask, data := data, ord := .rlx, sc := o.farSc.getD o.sc, rt := o.writeType p.at_, copy := some o.key, site := o.site, seq := o.seq,
                     va := BitVec.ofNat 64 q.va }) s

/-- The bytes that a piece of the wanted accesses takes. -/
def Piece.dataOf (p : Piece) (bytes : Nat → List Byte) : List Byte := ((bytes p.thread).drop p.off).take p.bytes

/-- R256: an operation writes its pieces but for the parts that it has written. -/
def State.putPieces (s : State) (o : Origin) (unit : Nat) (done : List Nat) (ps : List Piece) (bytes : Nat → List Byte) : State :=
  if done.isEmpty then ps.foldl (fun s p => s.putPiece o p (p.dataOf bytes)) s
  else ((ps.flatMap fun p => p.cells unit).zipIdx.filter fun q => !done.contains q.2).foldl (fun s q => s.putPiece o q.1 (q.1.dataOf bytes)) s

/-- R168, R169, R256: the part that an operation may write next, by its number: parts at one place go in order. -/
def nextPart (unit : Nat) (done : List Nat) (ps : List Piece) (n : Nat) : Option (Piece × Nat) :=
  let all := (ps.flatMap fun p => p.cells unit).zipIdx.filter fun q => !done.contains q.2
  let first := all.filter fun q => all.all fun r => q.2 ≤ r.2 || r.1.apart q.1
  first[n % first.length]?

/-- R189: a recoverable fault of an operation; the waiter places of the die may be in use, and then it tries again. -/
def State.engineFault (s : State) (d : Nat) (w : Waiter) (c : Nat) (k : Kind) (va cause level asid src : Nat)
    (site : DWord) (seq team : Word) : State × Option (Nat × Nat × Nat) :=
  let f : FaultEntry :=
    { serial := 0, asid := asid, page := va / 4096, write := k.writes, kind := k.code, cause := cause,
      level := level, src := src, site := site, seq := seq, team := team, clk := 0, ctx := c }
  match (s.count d c 0x0B 1).queueFault d f w with
  | (s, some n) => (s, some (d, n, va))
  | (s, none) => (s, none)

end Sys2Proof.Machine
end

