-- ==== Sys2Proof/Machine/Loads.lean ====
section
/-! DEFINITION. Loads on their way: hits, accesses toward the home, values that come together, and the ordering
work of acquire and release (R219, R220, R223, R226, R233, R241, R242, R272, R273, R321). -/

namespace Sys2Proof.Machine

/-! ### Addresses -/

/-- R49: the number in which the running instruction's access acts, an address or an offset. -/
def Env.dispOf (o : Mem) : DWord := match o.x with | some x => x.signExtend 64 | none => 0

/-- R269: the effective address of a thread; `indexed` for `ld` and `st`. -/
def Env.address (e : Env) (o : Mem) (indexed : Bool) (m : Mask) (t : Nat) : DWord :=
  let idx : DWord := if indexed then (e.src m o.b o.ub t).signExtend 64 <<< (o.c.toNat % 8) else 0
  e.srcPair m o.a o.ua t + idx + Env.dispOf o

/-- R269: the scratchpad offset of `lds` and `sts`. -/
def Env.offset (e : Env) (o : Mem) (m : Mask) (t : Nat) : Word :=
  e.src m o.a o.ua t + (e.src m o.b o.ub t <<< (o.c.toNat % 8)) + (o.x.getD 0)

/-- R269: the scratchpad offset of `ldr` and `str`. -/
def Env.bandOffset (e : Env) (o : Mem) (m : Mask) (t : Nat) : Word := e.src m o.a o.ua t + o.x.getD 0

/-- R270: the accesses of the acting threads. -/
def Env.wants (e : Env) (o : Mem) (indexed : Bool) (m : Mask) (n : Nat) : List Want :=
  (Mask.threads m).map fun t => { thread := t, va := (e.address o indexed m t).toNat, bytes := n }

/-! ### Strength (R238) and paths (R220) -/

/-- R238: strong by the instruction alone. -/
def Mem.strong (o : Mem) : Bool := o.ord ≠ .rlx || o.rt = .uc

/-- R238: strong, by the instruction or by the page. -/
def strongHere (o : Mem) (p : Place) : Bool := p.ord = 1 || Mem.strong o

/-- R238: strong at die scope or wider, or on an SO page: performed at the point of coherence. -/
def strongAt (o : Mem) (p : Place) : Bool := p.ord = 1 || (Mem.strong o && o.sc ≠ .team)

/-- R220: the request type that a load uses. -/
def loadType (dev : Nat) (o : Mem) (p : Place) : Rt :=
  if p.nc || p.ord = 1 then .uc
  else if p.dev ≠ dev && (o.rt = .cb || o.rt = .wt) then .uc
  else if strongAt o p then .uc
  else o.rt

/-- R220: the request type that a store to a page of this device uses. -/
def storeType (o : Mem) (p : Place) : Rt :=
  if p.nc || p.ord = 1 then .uc
  else if strongAt o p then .uc
  else o.rt

/-! ### Values that come together -/

/-- Bytes of a load land. -/
def LoadOp.land (l : LoadOp) (thread off : Nat) (bs : List Byte) : LoadOp :=
  { l with bytes := bs.zipIdx.foldl (fun t p => place t (16 * thread + off + p.2) p.1) l.bytes }

/-- R273: the word that register number j of a load's destination receives in a thread. -/
def LoadOp.word (l : LoadOp) (j thread : Nat) : Word :=
  let n := min 4 (l.w.bytes - 4 * j)
  let v := leNat ((List.range n).map fun i => readOr 0 l.bytes (16 * thread + 4 * j + i))
  match l.w, l.sx with
  | .b8, true => (BitVec.ofNat 8 v).signExtend 32
  | .b16, true => (BitVec.ofNat 16 v).signExtend 32
  | _, _ => BitVec.ofNat 32 v

/-- R242, R321: a load whose every access has returned: its acquire takes place, and its words are on their way to
their registers. A team that is away acquires where it resumes (R261). -/
def State.finishLoad (s : State) (key : Nat) : State :=
  match look s.loads key with
  | none => s
  | some l =>
    if l.left ≠ 0 || l.failed.isSome then s
    else
      let s := match if s.away l.who then none else l.acq with
        | some sc => (s.acquire (s.agentOf l.who) (s.ctx (s.ctxOf l.who)).asid sc (some { who := l.who, ctx := s.ctxOf l.who, site := l.pc }))
        | none => s
      let s := { s with loads := unlist s.loads key }
      if l.reg = 0 then s
      else s.mapStrand l.who fun st =>
        { st with inbound := st.inbound ++ (List.range l.w.regs).map fun j =>
            { reg := l.reg + j, vals := ((Mask.threads l.mask).filter fun t => st.live.getLsbD t).map fun t => (t, l.word j t) } }

/-- R321: one access of a load returns its bytes. -/
def State.landUnit (s : State) (u : ReadUnit) (bs : List Byte) : State :=
  { s with loads := adjust s.loads u.load fun l => { l.land u.thread u.off bs with left := l.left - 1 } }.finishLoad u.load

/-- R485: an access of a load fails; the earliest failing thread counts. -/
def State.failUnit (s : State) (u : ReadUnit) (cause : Nat) : State :=
  { s with loads := adjust s.loads u.load fun l =>
      { l with left := l.left - 1,
               failed := match l.failed with
                 | some (t, c) => if u.thread < t then some (u.thread, cause) else some (t, c)
                 | none => some (u.thread, cause) } }

/-! ### Hits and misses -/

/-- R226, R241: does the agent have an earlier access to the line in flight. -/
def State.lineBusy (s : State) (a : Agent) (line : Nat) : Bool :=
  s.reads.any fun (_, u) => u.agent = a && u.line = line

/-- R222: the single-copy atomic parts of a piece of an access of n bytes: line, place in it, bytes, place in the piece. An
aligned access is one, or two halves of 16 bytes; a misaligned one falls into its bytes. -/
def Piece.units (p : Piece) (n : Nat) : List (Nat × Nat × Nat × Nat) :=
  let part (off k : Nat) : Nat × Nat × Nat × Nat := (lineNo p.at_.dev (p.at_.pa + off), (p.at_.pa + off) % 128, k, off)
  if p.bytes = n && p.at_.pa % n = 0 then (if n = 16 then [part 0 8, part 8 8] else [part 0 n])
  else (List.range p.bytes).map fun i => part i 1

def rangeMask (pos n : Nat) : BitVec 128 := BitVec.ofNat 128 ((2 ^ n - 1) * 2 ^ pos)

/-- Bytes of a line's data. -/
def lineData (d : BitVec 1024) (pos n : Nat) : List Byte := (List.range n).map fun i => dataByte d (pos + i)

/-- R218, R219, R235, R241: the bytes that an agent's own caches answer an ASID with, where they hold all of them and no
earlier access of the agent to the line is in flight. DEDUCED (log 118): an `si` line of another device answers only the ASID
that filled it. -/
def State.hit (s : State) (a : Agent) (asid line pos n : Nat) : Option (List Byte) :=
  match s.cached a line with
  | none => none
  | some l =>
    if l.valid &&& rangeMask pos n = rangeMask pos n && !s.lineBusy a line && !s.ownWrites a line && (lineDev line = s.dev || l.asid = asid)
    then some (lineData l.data pos n) else none

/-- R219: an `si` load marks the L1 line of this device that it hits. -/
def State.markSi (s : State) (a : Agent) (line : Nat) (si : Bool) : State :=
  match si, a, s.cached a line with
  | true, .wide _, some l => s.setCached a line { l with si := true }
  | _, _, _ => s

/-- R227: LAST drops the line from the caches of the issuing core, dirty bytes first. -/
def State.lastUse (s : State) (a : Agent) (line : Nat) (last : Bool) : State :=
  if !last then s
  else
    match a with
    | .wide c => (s.writeBack c line).dropCached a line
    | _ => (s.recall line).dropCached a line

/-- R234: the core's WCB entry of a line leaves. -/
def State.clearWay (s : State) (a : Agent) (line : Nat) : State :=
  match a with
  | .wide c => s.sendWcb c line
  | _ => s

/-- One access of a load: a hit lands at once, a miss leaves toward the home, the core's own dirty bytes of the line first
(R234, R241). Bytes that are the Z4's `own` are unspecified (R193, R301, R393). -/
def State.loadUnit (s : State) (e : Env) (o : Mem) (key : Nat) (own : Bool) (p : Piece) (x : Nat × Nat × Nat × Nat) : State :=
  let (line, pos, n, off) := x
  let ty := loadType s.dev o p.at_
  let land (s : State) (bs : List Byte) : State := { s with loads := adjust s.loads key fun l => l.land p.thread (p.off + off) bs }
  let unit : ReadUnit :=
    { load := key, agent := e.agent, who := e.who, thread := p.thread, off := p.off + off, line := line, pos := pos, bytes := n,
      strong := strongHere o p.at_, so := p.at_.ord = 1, uo := p.at_.ord = 2, ord := o.ord, sc := o.sc, rt := ty, ctx := e.ctxNo, site := (s.nameOf e.who e.sp.pc).site,
      seq := (s.nameOf e.who e.sp.pc).seq, team := (s.nameOf e.who e.sp.pc).team, asid := e.ctx.asid }
  let miss (s : State) (fill : Option Bool) : State :=
    let s := s.flushLine e.agent line
    { s with reads := place s.reads s.nextKey { unit with fill := fill }, nextKey := s.nextKey + 1,
             loads := adjust s.loads key fun l => { l with left := l.left + 1 } }
  if own then land (s.spend n) (freeBytes s.oracle n)
  else if p.at_.dev = s.dev && hbmEnd ≤ p.at_.pa then
    let (s, bs) := s.deviceRead (p.at_.pa + off) n
    land s bs
  else if ty ≠ .uc && !(strongHere o p.at_ && s.strongAhead e.who p.thread key s.nextKey) then
    match s.hit e.agent e.ctx.asid line pos n with
    | some bs => ((land s bs).markSi e.agent line (ty = .si && p.at_.dev = s.dev)).lastUse e.agent line o.last
    | none =>
      let s := s.count e.die e.ctxNo 0x05 1
      miss (s.lastUse e.agent line o.last) (if o.last then none else some (decide (ty = .si)))
  else miss (s.lastUse e.agent line o.last) none

/-- R243: what the running split releases under its own name. -/
def Env.releaser (e : Env) : Option Releaser := some { who := e.who, ctx := e.ctxNo, site := e.sp.pc }

/-- R51, R314: SCORE takes the destination registers of a load; DESIGN CHOICE (log 107): a load to `v0` is no outstanding work. -/
def Env.score (e : Env) (d : RegNo) (n : Nat) (m : Mask) (s : State) : State :=
  if d = 0 || m = 0 then s
  else s.mapSplit e.who fun k => { k with score := k.score ++ (List.range n).map fun j => { reg := d.toNat + j, mask := m } }

/-- R242: the scope at which an access acquires. -/
def acquireScope (o : Mem) : Option Scope := if o.ord = .acq || o.ord = .ar then some o.sc else none

/-- R273: starts a load of checked pieces. -/
def Env.startLoad (e : Env) (o : Mem) (m : Mask) (own : Piece → Bool) (ps : List Piece) (s : State) : State :=
  let key := s.nextKey
  let op : LoadOp :=
    { who := e.who, pc := e.sp.pc, reg := o.d.toNat, w := o.w, sx := o.sx, mask := m, left := 0, strong := ps.any fun p => strongHere o p.at_,
      acq := acquireScope o, eaddr := (Mask.threads m).map fun t => (t, e.address o true m t) }
  let s := { s with loads := place s.loads key op, nextKey := key + 1 }
  let s := e.score o.d o.w.regs m s
  let s := ps.foldl (fun s p => (p.units o.w.bytes).foldl (fun s u => s.loadUnit e o key (own p) p u) s) s
  s.finishLoad key

end Sys2Proof.Machine
end

