-- ==== Sys2Proof/Machine/Stores.lean ====
section
/-! DEFINITION. Stores and atomics on their way to their home: L1, latency-core caches, WCB and packets
(R219, R220, R223, R224, R234, R238, R241, R276). -/

namespace Sys2Proof.Machine

/-- Data of a line with other bytes placed over it. -/
def overlay (old new : BitVec 1024) (mask : BitVec 128) : BitVec 1024 :=
  (maskPlaces mask).foldl (fun d i => setDataByte d i (dataByte new i)) old

/-- R223, R308: lines that an L1 has room for. -/
def Core.l1Lines (c : Core) : Nat := (24 - c.blocks.length - c.spare.length) * 256

/-- R218: a line that comes into a cache of some size may evict another one; which one, and whether, is open. -/
def victimOf (t : Sparse Line) (line size choice : Nat) : Option Nat :=
  let others := (keep t fun k _ => k ≠ line).map Prod.fst
  let n := Config.pick choice % (others.length + 1)
  if others.length < size then others[n]? else others[n % others.length]?

/-- R218: lines of the two caches of a latency core, and of a die's RDC. -/
def lcLines : Nat := 1024 + 16384
def rdcLines : Nat := 262144

/-- R218, R223: a line comes into an agent's own caches; dirty bytes of the line that it evicts are written back. -/
def State.makeRoom (s : State) (a : Agent) (line : Nat) : State :=
  match a with
  | .wide c =>
    match victimOf (s.core c).l1 line (s.core c).l1Lines s.oracle with
    | some v => ((s.writeBack c v).dropCached a v).spend 1
    | none => s.spend 1
  | .lat l =>
    match victimOf (s.lc l).cache line lcLines s.oracle with
    | some v => ((s.recall v).dropCached a v).spend 1
    | none => s.spend 1
  | _ => s

/-- R218: a line comes into the RDC of a die. -/
def State.fillRdc (s : State) (d line : Nat) (l : Line) : State :=
  let t := match victimOf (s.die d).rdc line rdcLines s.oracle with
    | some v => unlist (s.die d).rdc v
    | none => (s.die d).rdc
  (s.setDie d { s.die d with rdc := place t line l }).spend 1

/-- R219, R236: bytes without an error fill a line of an agent's caches; bytes that are dirty there stay. -/
def State.fillLine (s : State) (a : Agent) (line : Nat) (data : BitVec 1024) (good : BitVec 128) (si uo : Bool) (asid : Nat) : State :=
  match s.cached a line with
  | some l =>
    s.setCached a line { l with valid := good ||| l.dirty, data := overlay data l.data l.dirty, si := si || l.si, asid := asid }
  | none =>
    let s := s.makeRoom a line
    s.setCached a line { valid := good, data := data, si := si, uo := uo, asid := asid }

/-- R219 `cb`: bytes merge into the L1 line; another context's dirty bytes of the line are written back first (R223). -/
def State.storeL1 (s : State) (c line ctx : Nat) (mask : BitVec 128) (data : BitVec 1024) (uo : Bool) : State :=
  let s := match look (s.core c).l1 line with
    | some l => if l.dirty ≠ 0 && l.ctx ≠ ctx then s.writeBack c line else s
    | none => s.makeRoom (.wide c) line
  let l := ((look (s.core c).l1 line).getD { uo := uo })
  s.setCached (.wide c) line { l with valid := l.valid ||| mask, dirty := l.dirty ||| mask, data := overlay l.data data mask, ctx := ctx }

/-- R218, R224: a latency core's store stays dirty in its cache; the directory leaves no other tracked copy of the line. -/
def State.storeLc (s : State) (n line ctx : Nat) (name : Name) (mask : BitVec 128) (data : BitVec 1024) : State :=
  let own := look (s.lc n).cache line
  let s := match own with
    | some l => if l.dirty = 0 then s.recall line else s
    | none => s.recall line
  let t := (s.dropSharers line).nameHome s.homeLog.length fun h => { h with agent := .lat n, ctx := ctx, asid := (s.ctx ctx).asid, site := name.site, seq := name.seq }
  let s := if own.isSome then t else t.makeRoom (.lat n) line
  let l := own.getD {}
  s.setCached (.lat n) line { l with valid := l.valid ||| mask, dirty := l.dirty ||| mask, data := overlay l.data data mask, ctx := ctx }

/-- R219: what a home-bound store leaves of its bytes in the issuing core's L1. -/
def State.updateL1 (s : State) (a : Agent) (line : Nat) (mask : BitVec 128) (data : BitVec 1024) (keepIt : Bool) : State :=
  match a with
  | .wide c =>
    match look (s.core c).l1 line with
    | none => s
    | some l =>
      if keepIt then s.setCached a line { l with data := overlay l.data data (mask &&& l.valid) }
      else if l.valid &&& ~~~ mask = 0 then s.dropCached a line
      else s.setCached a line { l with valid := l.valid &&& ~~~ mask }
  | _ => s

/-- R234, R461: a store to another device enters the WCB. A packet has one job tag: an entry of another job leaves first. -/
def State.storeWcb (s : State) (c line ctx : Nat) (mask : BitVec 128) (data : BitVec 1024) (site : DWord)
    (who : Who) (sc : Scope) (rt : Rt) : State :=
  let s := match look (s.core c).wcb line with
    | some w => if w.ctxs.any fun x => (s.ctx x).job ≠ (s.ctx ctx).job then s.sendWcb c line else s
    | none => s
  let s :=
    if (look (s.core c).wcb line).isNone && 64 ≤ (s.core c).wcb.length then
      match (s.core c).wcb.foldl (fun (best : Option (Nat × Wcb)) (k, w) =>
        match best with | some (_, b) => if w.born < b.born then some (k, w) else best | none => some (k, w)) none with
      | some (k, _) => s.sendWcb c k
      | none => s
    else s
  let w := (look (s.core c).wcb line).getD { born := s.nextKey }
  let w := { w with mask := w.mask ||| mask, data := overlay w.data data mask, ctxs := ctx :: w.ctxs.filter (· ≠ ctx), site := site,
                    sc := sc, rt := rt, makers := who :: w.makers.filter (· ≠ who) }
  let s := (s.setCore c { s.core c with wcb := place (s.core c).wcb line w }).bump
  if w.mask = BitVec.allOnes 128 then s.sendWcb c line else s

/-- R220, R233, R238: a store leaves for another device as a packet of its own. -/
def State.storeFar (s : State) (e : Env) (o : Mem) (p : Place) (line : Nat) (mask : BitVec 128) (data : BitVec 1024) : State :=
  let n := s.nameOf e.who e.sp.pc
  s.sendRemote { dev := p.dev, agent := e.agent, who := some e.who, ctx := e.ctxNo, type := 2, wcb := true, so := p.ord = 1, ord := o.ord,
                 sc := o.sc, rt := storeType o p, line := line, mask := mask, data := data, site := n.site, seq := n.seq }

/-- One part of a store, within one line. -/
def State.storeUnit (s : State) (e : Env) (o : Mem) (p : Place) (line : Nat) (mask : BitVec 128) (data : BitVec 1024) : State :=
  if p.dev ≠ s.dev then
    let s := s.updateL1 e.agent line mask data false
    let s := match e.agent with
      | .wide c =>
        if p.nc || strongAt o p then (s.sendWcb c line).storeFar e o p line mask data
        else s.storeWcb c line e.ctxNo mask data e.sp.pc e.who o.sc (storeType o p)
      | _ => s.storeFar e o p line mask data
    s.lastUse e.agent line o.last
  else if hbmEnd ≤ p.pa then
    s.deviceWrite (linePa line + (maskPlaces mask).headD 0) ((maskPlaces mask).map (dataByte data))
  else
    let ty := storeType o p
    let name := s.nameOf e.who e.sp.pc
    let home (s : State) (keepIt : Bool) : State :=
      let s := (s.flushLine e.agent line).updateL1 e.agent line mask data keepIt
      s.send { agent := e.agent, who := some e.who, line := line, mask := mask, data := data, rel := o.ord = .rel && o.sc ≠ .team,
               ord := o.ord, sc := o.sc, rt := ty, ctx := e.ctxNo, site := name.site, seq := name.seq, team := name.team, so := p.ord = 1 }
    match e.agent, ty with
    | .wide c, .cb => (s.storeL1 c line e.ctxNo mask data (p.ord = 2)).lastUse e.agent line o.last
    | .wide _, .wt => (home s true).lastUse e.agent line o.last
    | .lat _, .uc => (home s false).lastUse e.agent line o.last
    | .lat n, _ => (if s.ownWrites e.agent line then home s false else s.storeLc n line e.ctxNo name mask data).lastUse e.agent line o.last
    | _, _ => (home s false).lastUse e.agent line o.last

/-- R271, R273: one thread's piece of a store of n bytes. -/
def State.storePiece (s : State) (e : Env) (o : Mem) (n : Nat) (p : Piece) (bs : List Byte) : State :=
  (p.units n).foldl (fun s (line, pos, n, off) =>
    let (mask, data) := lineBytes pos ((bs.drop off).take n)
    s.storeUnit e o p.at_ line mask data) s

/-- R273: the bytes that a thread stores. -/
def Env.storeData (e : Env) (o : Mem) (d : RegNo) (t : Nat) : List Byte :=
  ((List.range o.w.regs).flatMap fun j => leBytes 4 (if d = 0 then 0 else (e.reg (d.toNat + j) t).toNat)).take o.w.bytes

/-! ### Atomics -/

/-- R50, R267, R276: a `f32` operation of an atomic. -/
def atomicF32 (op : Nat) (a b : Nat) : Nat :=
  match op with
  | 0x9 => (f32.deliver .rn false (addExact .rn (f32.value a) (f32.value b))).1
  | 0xB => (pickCode f32 true a b).1
  | _ => (pickCode f32 false a b).1

/-- R267, R276: Op(old, b) for n bytes, by the codes of R50. -/
def atomicResult (op n old b : Nat) : Nat :=
  let m := 2 ^ (8 * n)
  let signed (x : Nat) : Int := if m / 2 ≤ x then (x : Int) - m else x
  match op with
  | 0 => (old + b) % m
  | 1 => if signed old ≤ signed b then old else b
  | 2 => if signed b ≤ signed old then old else b
  | 3 => Nat.land old b
  | 4 => Nat.lor old b
  | 5 => Nat.xor old b
  | 6 => b
  | 7 => if b ≤ old then 0 else old + 1
  | 8 => if old = 0 || b < old then b else old - 1
  | 0xA =>
    let el (k : Nat) : Nat :=
      (bf16.deliver .rn false (addExact .rn (bf16.value (old / 2 ^ (16 * k) % 2 ^ 16)) (bf16.value (b / 2 ^ (16 * k) % 2 ^ 16)))).1
    el 0 + el 1 * 2 ^ 16
  | op => atomicF32 op old b

/-- R276: what an atomic writes, if it writes. -/
def AtomicOp.written (a : AtomicOp) (old : Nat) : Option Nat :=
  if a.op = 13 then
    if old = a.compare.toNat % 2 ^ (8 * a.bytes) then some (a.operand.toNat % 2 ^ (8 * a.bytes)) else none
  else some (atomicResult a.op a.bytes old (a.operand.toNat % 2 ^ (8 * a.bytes)))

/-- R277: one thread's atomic leaves for its home. -/
def State.atomicUnit (s : State) (e : Env) (o : Mem) (op : Nat) (load : Option Nat) (b c : DWord) (p : Piece) : State :=
  let line := lineNo p.at_.dev p.at_.pa
  let n := s.nameOf e.who e.sp.pc
  let a : AtomicOp := { op := op, bytes := p.bytes, pa := p.at_.pa, operand := if op = 13 then c else b, compare := b, load := load, thread := p.thread, pc := e.sp.pc, va := BitVec.ofNat 64 p.va }
  let s := match e.agent with
    | .wide k => ((s.writeBack k line).dropCached e.agent line).sendWcb k line
    | _ => s
  let rel : Bool := (o.ord = .rel || o.ord = .ar) && o.sc ≠ .team
  s.send { agent := e.agent, who := some e.who, line := line, mask := rangeMask (p.at_.pa % 128) p.bytes, atomic := some a,
           rel := rel, relSys := rel && o.sc = .sys, ord := o.ord, sc := o.sc, ctx := e.ctxNo, site := n.site, seq := n.seq,
           team := n.team, so := p.at_.ord = 1 }

end Sys2Proof.Machine
end

