-- ==== Sys2Proof/Machine/Scratch.lean ====
section
/-! DEFINITION. Scratchpad: its checks, its bytes, the tiles that lie in it (R155, R157, R180, R215, R216, R274, R275). -/

namespace Sys2Proof.Machine

/-! ### Descriptors and tiles (R148, R149, R154, R155) -/

/-- A word of a descriptor, and 64 bits of it. -/
def descWord (d : List Word) (k : Nat) : Word := d.getD k 0
def descPair (d : List Word) (k : Nat) : DWord := descWord d (k + 1) ++ descWord d k

def descFmt (d : List Word) : Nat := (descWord d 2).toNat % 32
def descNdim (d : List Word) : Nat := ((descWord d 2).extractLsb' 5 2).toNat
def descSat (d : List Word) : Bool := (descWord d 2).getLsbD 8
def descUfs (d : List Word) : Bool := (descWord d 2).getLsbD 9
def descFc (d : List Word) : Bool := (descWord d 2).getLsbD 10
def descPol (d : List Word) : Nat := ((descWord d 2).extractLsb' 11 2).toNat
def descQkind (d : List Word) : Nat := ((descWord d 2).extractLsb' 13 2).toNat
def descBase (d : List Word) : Nat := (descPair d 0).toNat
def descScale (d : List Word) : Nat := (descPair d 12).toNat
def descHist (d : List Word) : Nat := (descPair d 14).toNat

/-- R150: size of a dimension; those above NDIM have size 1. -/
def descSize (d : List Word) (k : Nat) : Nat := if k ≤ descNdim d then (descWord d (5 + k)).toNat else 1
/-- R148, R150: stride of a dimension from 1 to 3. -/
def descStride (d : List Word) (k : Nat) : Nat := (descWord d (8 + k)).toNat

/-- R149, R150: bits of an element of a format. -/
def fmtBits (f : Nat) : Nat :=
  match f with
  | 0 | 15 => 32 | 1 | 2 => 16 | 3 | 4 | 5 | 6 | 8 | 9 | 13 => 8 | 7 | 12 => 4 | 10 | 11 => 6 | 14 => 1 | 16 => 64 | _ => 8

/-- R149: formats with scale bytes. -/
def fmtScaled (f : Nat) : Bool := 7 ≤ f && f ≤ 13

/-- A context's descriptor (R147). -/
def State.desc (s : State) (c n : Nat) : Option (List Word) := look (s.ctx c).descs n

def specDesc (sp : List Word) : Nat := (sp.getD 0 0).toNat % 256
def specLoc (sp : List Word) : Nat := (sp.getD 0 0).toNat / 256 % 4
def specSlot (sp : List Word) : Nat := (sp.getD 0 0).toNat / 1024 % 64
def specOfs (sp : List Word) : Nat := (sp.getD 1 0).toNat
def specRows (sp : List Word) : Nat := (sp.getD 2 0).toNat % 65536
def specCols (sp : List Word) : Nat := (sp.getD 2 0).toNat / 65536
/-- R154, R166: origins are signed; a negative one lies outside the tensor. -/
def specOrigin (sp : List Word) (k : Nat) : Int := (sp.getD (3 + k) 0).toInt
def specVer (sp : List Word) : Word := sp.getD 7 0

/-- R155: bytes of a row, and of the tile. -/
def rowBytes (f : Nat) (sp : List Word) : Nat := specCols sp * fmtBits f / 8
def tileBytes (f : Nat) (sp : List Word) : Nat :=
  specRows sp * rowBytes f sp + if fmtScaled f then specRows sp * specCols sp / 32 else 0

/-- R157: scratchpad bytes of a tile. -/
def Tile.covers (k : Tile) (f off n : Nat) : Bool :=
  specLoc k.spec = 1 && off < specOfs k.spec + tileBytes f k.spec && specOfs k.spec < off + n

/-- The format of a tile's descriptor. -/
def State.tileFmt (s : State) (c : Nat) (k : Tile) : Nat := descFmt ((s.desc c (specDesc k.spec)).getD [])

/-- R157: does a tile in a state cover one of the scratchpad bytes. -/
def State.tileOver (s : State) (t : Nat) (st : TileSt) (off n : Nat) : Bool :=
  match look s.teams t with
  | none => false
  | some x => someVal x.tiles fun _ k => k.st = st && k.covers (s.tileFmt x.ctx k) off n

/-! ### Accesses of threads -/

/-- A thread's access: the team whose scratchpad it reaches, with its size, and the offset. -/
structure SpadAt where
  thread : Nat
  team   : Option Nat
  size   : Nat
  off    : Nat
  deriving DecidableEq, Repr

/-- R274: own scratchpad; none on a latency core (R215). -/
def State.ownSpad (s : State) (e : Env) : Option Nat × Nat :=
  if e.lat then (none, 0) else (some e.team, ((look s.teams e.team).map Team.spadBytes).getD 0)

/-- R215, R304: teams of a band. -/
def LaunchRec.bandTeams (r : LaunchRec) (b : Nat) : Nat := min r.band (r.teams - b * r.band)

/-- R215, R274: the scratchpad of the band member of a rank. -/
def State.bandSpad (s : State) (e : Env) (rank : Nat) : Option Nat × Nat :=
  if e.lat then (none, 0)
  else
    match look s.teams e.team with
    | none => (none, 0)
    | some x =>
      if rank = x.brank then (some e.team, x.spadBytes)
      else
        let n := ((look s.launches x.launch).map fun l => l.record.bandTeams x.band).getD 1
        match s.teams.find? fun (_, y) => y.launch = x.launch && y.band = x.band && y.brank = rank with
        | some (k, y) => if rank < n then (some k, y.spadBytes) else (none, 0)
        | none => (none, 0)

/-- R215, R270: the first failing check of scratchpad accesses of n bytes, alignment first. -/
def spadCheck (n : Nat) (xs : List SpadAt) : Option (Cause × DWord) :=
  match xs.find? fun x => x.off % n ≠ 0 with
  | some x => some (.misaligned, BitVec.ofNat 64 x.off)
  | none =>
    match xs.find? fun x => x.team.isNone || x.size < x.off + n with
    | some x => some (.permission, BitVec.ofNat 64 x.off)
    | none => none

/-- R157, R215: scratchpad bytes as a thread reads them. The bytes of a FILLING tile come one by one (`Stop.part`), so that each
has its old or its new value. -/
def State.spadRead (s : State) (t off n : Nat) : List Byte :=
  match look s.teams t with
  | none => List.replicate n 0
  | some x => (List.range n).map fun i => readOr 0 x.spad (off + i)

/-- R157, R180: a thread writes scratchpad bytes; an engine may still see the replaced ones. -/
def Team.spadWrite (x : Team) (fmts : Tile → Nat) (w th off : Nat) (own : Bool) (bs : List Byte) : Team :=
  let x := bs.zipIdx.foldl (fun x (b, i) =>
    { x with spad := write 0 x.spad (off + i) b,
             spadOlder := if own then x.spadOlder ++ [(w, th, off + i, readOr 0 x.spad (off + i))] else x.spadOlder }) x
  { x with tiles := mapVals x.tiles fun _ k =>
      if k.st = .filling && k.covers (fmts k) off bs.length then { k with raced := k.raced ++ (List.range bs.length).map (off + ·) } else k }

def State.spadWrite (s : State) (e : Env) (t th off : Nat) (bs : List Byte) : State :=
  let c := ((look s.teams t).map Team.ctx).getD 0
  s.mapTeam t fun x => x.spadWrite (s.tileFmt c) e.warp th off (decide (t = e.team)) bs

/-- R273: the word that register number j receives of an access. -/
def accessWord (w : Width) (sx : Bool) (bs : List Byte) (j : Nat) : Word :=
  LoadOp.word { who := .lat 0 1, pc := 0, reg := 0, w := w, sx := sx, mask := 0, left := 0, bytes := bs.zipIdx.map fun (b, i) => (i, b) } j 0

/-- R216, R222: the two halves of accesses of 16 bytes, each a single-copy atomic part; others are one part. DESIGN CHOICE (log 115):
the threads' accesses of one instruction, or of one half of it, are made in one step. -/
def Width.parts (w : Width) (hi : Bool) : Nat × Nat := if w = .b128 then (if hi then 8 else 0, 8) else (0, w.bytes)

/-- R216, R274: one part of the accesses of a scratchpad load: the words of its registers are on their way. -/
def Env.spadFetch (e : Env) (o : Mem) (hi : Bool) (xs : List (Nat × Nat × Nat × Nat)) (s : State) : State :=
  let (lo, n) := Width.parts o.w hi
  let m := Mask.ofTest fun t => xs.any fun x => x.1 = t
  let bytes (t : Nat) : List Byte :=
    match xs.find? fun x => x.1 = t with
    | some x => s.spadRead x.2.1 (x.2.2.1 + lo) n
    | none => []
  let w : Width := if o.w = .b128 then .b64 else o.w
  (List.range w.regs).foldl (fun s j =>
    if o.d = 0 then s else e.later m (BitVec.ofNat 7 (o.d.toNat + lo / 4 + j)) (fun t => accessWord w o.sx (bytes t) j) s) s

/-- R216, R274: one part of the accesses of a scratchpad store. -/
def Env.spadPut (e : Env) (o : Mem) (hi : Bool) (xs : List (Nat × Nat × Nat × Nat)) (s : State) : State :=
  let (lo, n) := Width.parts o.w hi
  xs.foldl (fun s x => s.spadWrite e x.2.1 x.1 (x.2.2.1 + lo) (((leBytes o.w.bytes x.2.2.2).drop lo).take n)) s

/-- R216, R222: a scratchpad access in its parts: one of 16 bytes makes its halves one after the other, in an order that is open. -/
def Env.spadParts (e : Env) (o : Mem) (part : Bool → List (Nat × Nat × Nat × Nat) → State → State)
    (xs : List (Nat × Nat × Nat × Nat)) (finish : State → State) (s : State) : State :=
  if o.w = .b128 then
    let hi : Bool := Config.pick s.oracle % 2 = 1
    e.interlock (.half (!hi) xs) (part hi xs (s.spend 1))
  else finish (part false xs s)

/-- The accesses of an instruction as `Wake.half` keeps them, with a store's data. -/
def spadWork (xs : List SpadAt) (data : Nat → List Byte) : List (Nat × Nat × Nat × Nat) :=
  xs.map fun x => (x.thread, x.team.getD 0, x.off, leNat (data x.thread))

/-- R275: what follows a scratchpad load: with `acq`, its acquire. -/
def Env.spadLoaded (e : Env) (i : Instr) (o : Mem) (s : State) : State :=
  e.retire i (if o.ord = .acq then s.acquire e.agent e.ctx.asid o.sc e.releaser else s)

/-- R274, R275: a scratchpad load; it is strong. -/
def Env.spadLoad (e : Env) (i : Instr) (o : Mem) (xs : List SpadAt) (s : State) : State :=
  match e.halfDone with
  | some (hi, xs) => e.spadLoaded i o (e.spadFetch o hi xs s)
  | none =>
  if e.exm o.p = 0 then e.retire i s
  else
  match spadCheck o.w.bytes xs with
  | some (c, a) => e.raise c a s
  | none =>
    match xs.find? fun x => s.tileOver (x.team.getD 0) .prov x.off o.w.bytes with
    | some x => e.raise .speculation (BitVec.ofNat 64 x.off) s
    | none =>
      if s.strongOf e (e.exm o.p) then e.interlock (.strong (e.exm o.p)) s
      else e.spadParts o (e.spadFetch o) (spadWork xs fun _ => []) (e.spadLoaded i o) s

/-- R274: a scratchpad store. -/
def Env.spadStore (e : Env) (i : Instr) (o : Mem) (xs : List SpadAt) (s : State) : State :=
  match e.halfDone with
  | some (hi, xs) => e.retire i (e.spadPut o hi xs s)
  | none =>
  if e.exm o.p = 0 then e.retire i s
  else
  match spadCheck o.w.bytes xs with
  | some (c, a) => e.raise c a s
  | none =>
    let put (s : State) : State := e.spadParts o (e.spadPut o) (spadWork xs fun t => e.storeData o o.d t) (e.retire i) s
    if o.ord = .rel then e.drain false (fun s => s.release e.agent o.sc e.releaser) put s else put s

/-- R274: the accesses of `lds` and `sts`, and of `ldr` and `str`. -/
def Env.ownAccesses (e : Env) (o : Mem) (s : State) : List SpadAt :=
  (Mask.threads (e.exm o.p)).map fun t =>
    let (k, n) := s.ownSpad e
    { thread := t, team := k, size := n, off := (e.offset o (e.exm o.p) t).toNat }

def Env.bandAccesses (e : Env) (o : Mem) (s : State) : List SpadAt :=
  (Mask.threads (e.exm o.p)).map fun t =>
    let (k, n) := s.bandSpad e (e.src (e.exm o.p) o.b o.ub t).toNat
    { thread := t, team := k, size := n, off := (e.bandOffset o (e.exm o.p) t).toNat }

end Sys2Proof.Machine
end

