-- ==== Sys2Proof/Machine/Deferred.lean ====
section
/-! DEFINITION. What engines write into tiles (R155 to R157), operations that are aborted and start again (R190,
R399), and faults of operations that wait for their delivery (R156, R188, R192, R197, R207). -/

namespace Sys2Proof.Machine

/-! ### Bytes of a tile -/

/-- R155, R180: a byte that an engine writes reaches a place of a tile; what a thread's write replaced there before is gone. DESIGN
CHOICE (log 137): a tile whose descriptor has been rewritten to a wider format runs on past the end of its slot or scratchpad. -/
def Team.putByte (x : Team) (sp : List Word) (i : Nat) (b : Byte) : Team :=
  if specLoc sp = 0 then { x with vat := place x.vat (16384 * specSlot sp + specOfs sp + i) b }
  else { x with spad := write 0 x.spad (specOfs sp + i) b, spadOlder := x.spadOlder.filter fun q => q.2.2.1 ≠ specOfs sp + i }

/-- R157: bytes reach a tile's location; where a thread has written meanwhile, its value may stay. -/
def Team.putBytes (x : Team) (sp : List Word) (raced : List Nat) (oracle : Nat) (bs : List Byte) : Team :=
  bs.zipIdx.foldl (fun x (b, i) =>
    if specLoc sp ≠ 0 && raced.contains (specOfs sp + i) && Config.pick (oracle + specOfs sp + i) % 2 = 1 then x else x.putByte sp i b) x

/-! ### Tasks (R170, R171) -/

def recField (r : List Word) (w lo n : Nat) : Nat := (r.getD w 0).toNat / 2 ^ lo % 2 ^ n

def recKind (r : List Word) : Nat := recField r 0 0 4
def recAw (r : List Word) : Nat := recField r 2 0 5
def recAb (r : List Word) : Nat := recField r 2 8 7

/-- R171: kinds that update accumulators. -/
def recAcc (r : List Word) : Bool := recKind r < 3

/-- R180: of the scratchpad bytes of a tile that an engine has rewritten, no copy and no task sees an earlier value. -/
def State.pruneBytes (s : State) (t : Nat) (sp : List Word) (n : Nat) : State :=
  let rest (old : List (Nat × Byte)) : List (Nat × Byte) := old.filter fun p => p.1 < specOfs sp || specOfs sp + n ≤ p.1
  if specLoc sp = 0 then s
  else { s with
    copies := mapVals s.copies fun _ c => if c.team = some t then { c with olderBytes := rest c.olderBytes } else c,
    tasks := mapVals s.tasks fun _ k => if k.team = t then { k with olderBytes := rest k.olderBytes } else k }

/-- R180: the accumulators of a task take values; no later task sees what a thread's write replaced there before. -/
def State.putAccs (s : State) (k : Task) (vs : Sparse Word) : State :=
  let at_ (i : Nat) : Nat := 32 * recAb k.record + i
  let rest (old : List (Nat × Word)) : List (Nat × Word) := old.filter fun p => !vs.any fun v => at_ v.1 = p.1
  let s := { s with tasks := mapVals s.tasks fun _ x =>
    if x.team = k.team && recAw x.record = recAw k.record then { x with older := rest x.older } else x }
  s.mapWarp k.team (recAw k.record) fun w =>
    { w with main := { w.main with regs := vs.foldl (fun t (i, v) => write 0 t (at_ i) v) w.main.regs, older := rest w.main.older } }

/-- The linear index of a team, as reports show it. -/
def State.teamIdx (s : State) (t : Nat) : Word := BitVec.ofNat 32 (((look s.teams t).map Team.idx).getD 0)

/-! ### Operations that start again (R190) -/

/-- R190: a task in flight is aborted: its accumulators are as they were, and it waits to issue again. -/
def State.abortTask (s : State) (key : Nat) (k : Task) : State :=
  if !k.running then s
  else
    let s := if recAcc k.record then s.putAccs k k.shadow else s
    { s with tasks := place s.tasks key { k with running := false, started := false, shadow := [] } }

/-- R190: the copies and tasks that a test names begin anew: what they have read is dropped, and requests of theirs bring
nothing any more. -/
def State.restartOps (s : State) (p : Nat → Option Nat → Bool) : State :=
  let keys := (s.copies.filter fun (_, c) => p c.ctx c.team).map Prod.fst
  let s := { s with
    copies := mapVals s.copies fun _ c => if p c.ctx c.team then { c with written := false, done := [] } else c,
    fetched := keep s.fetched fun k _ => !keys.contains k,
    remote := keep s.remote fun _ r => match r.copy with | some k => !keys.contains k | none => true }
  (s.tasks.filter fun (_, k) => p k.ctx (some k.team)).foldl (fun s (key, k) => s.abortTask key k) s

/-- R190, R399: before a block or slot of a team passes, its operations are aborted. -/
def State.haltOps (s : State) (t : Nat) : State := s.restartOps fun _ x => x = some t

def Team.blocks (x : Team) : Nat := (x.spadBytes + 32767) / 32768

/-- Scratchpad blocks of a core that a team holds. -/
def Core.held (c : Core) (t : Nat) : Nat := (keep c.blocks fun _ o => o = t + 1).length

/-- R190, R398: may operations of a team go on: it is resident, or nothing of it has passed; and its job runs (R439). -/
def State.inPlace (s : State) (c : Nat) (t : Option Nat) : Bool :=
  (match s.jobOf (s.ctx c).job with | some (_, j) => j.st = .run | none => true) &&
  match t.bind (look s.teams) with
  | none => true
  | some x => x.core.isSome || x.exited || ((x.held.all fun (n, _) => (look x.slots n).isSome) &&
      (x.blocks = 0 || someVal s.cores fun _ k => k.held (t.getD 0) = x.blocks))

/-! ### Deferred faults -/

/-- R188: where a tile goes when the fault of its operation is delivered. -/
def Tile.settle (k : Tile) (op : Nat) : Tile :=
  let k := { k with pins := k.pins.filter (· ≠ op) }
  if k.op = some op then
    { k with op := none, st := match k.st with | .filling => .empty | .draining => .ready | x => x }
  else k

/-- R188: the descriptor of the tile that an operation fills. -/
def State.outDesc (s : State) (op : Nat) : List Word :=
  match look s.copies op, look s.tasks op with
  | some c, _ => c.desc
  | none, some k => k.descs.getD 2 []
  | none, none => []

/-- R156: a tile that an operation has failed to fill holds unspecified bytes. -/
def Team.loseFill (x : Team) (op : Nat) (d : List Word) (oracle : Nat) : Team :=
  x.tiles.foldl (fun x (_, k) =>
    if k.op = some op && k.st = .filling then x.putBytes k.spec [] oracle (freeBytes oracle (tileBytes (descFmt d) k.spec)) else x) x

/-- R156, R188: a deferred fault is delivered: the entry completes with status 1, the tile moves, the operation is gone. -/
def State.settleDeferred (s : State) (t : Nat) (d : Deferred) : State :=
  let s := (s.mapTeam t fun x =>
    let x := x.loseFill d.op (s.outDesc d.op) s.oracle
    { x with deferred := x.deferred.filter (· ≠ d), tiles := mapVals x.tiles fun _ k => k.settle d.op }).spend 1048576
  let s := { s with copies := unlist s.copies d.op, tasks := unlist s.tasks d.op, colls := unlist s.colls d.op }
  s.completeToken t d.token 1 []

/-- R188: delivers a fault that is due to the running split, as `engine operand fault`, or goes on. -/
def Env.deliver (e : Env) (s : State) (p : Deferred → Bool) (body : State → State) : State :=
  match (look s.teams e.team).bind fun x => x.due e.warp p with
  | some d => e.raise .engine d.va (s.settleDeferred e.team d) 0 (some (d.site, d.seq))
  | none => body s

/-- R188, R192: an operation of a team has failed; nothing is delivered where no thread of the team lives. Where only the
issuing warp has exited, nothing delivers it before the team's end (notes/assumptions/112.md). -/
def State.defer (s : State) (t : Nat) (d : Deferred) : State :=
  match look s.teams t with
  | none => s
  | some x =>
    if x.warps.all fun w => w.main.live = 0 then (s.settleDeferred t d).endTeam t
    else s.mapTeam t fun x => { x with deferred := x.deferred ++ [d] }

/-- R188, R192: faults that nothing will deliver any more, since no thread of their team lives, are settled: their tokens complete with status
1 and their tiles move, so that what waits for them goes on; then the team may end. -/
def State.settleGone (s : State) : State :=
  ((keep s.teams fun _ x => !x.exited && !x.deferred.isEmpty && x.warps.all fun w => w.main.live = 0).map Prod.fst).foldl (fun s t =>
    (match look s.teams t with
     | some x => x.deferred.foldl (fun (s : State) d => s.settleDeferred t d) s
     | none => s).endTeam t) s

/-- R207: a tile that has become READY drains at once where a `cpout` was held for it. -/
def State.drainHeld (s : State) (t : Nat) : State :=
  s.copies.foldl (fun s (key, c) =>
    if c.held && c.team = some t && ((look s.teams t).bind fun x => (look x.tiles c.tile).map Tile.st) = some .ready then
      { s with copies := place s.copies key { c with held := false } }.mapTeam t fun x => { x with
        tiles := adjust x.tiles c.tile fun k => { k with st := .draining, op := some key, raced := [] } }
    else s) s

end Sys2Proof.Machine
end

