-- ==== Sys2Proof/Machine/MemOps.lean ====
section
/-! DEFINITION. The MEM group but for `cpmm` and `coll` (R266 to R290). -/

namespace Sys2Proof.Machine

/-! ### Loads and stores -/

/-- R270, R273: an access of the acting threads, its checks made. -/
def Env.global (e : Env) (i : Instr) (o : Mem) (indexed : Bool) (n : Nat) (k : Kind) (s : State)
    (body : List Piece → State → State) : State :=
  let m := e.exm o.p
  if m = 0 then e.retire i s
  else
    let (s, sp) := e.space s
    e.checked k (s.checkAll sp k (e.wants o indexed m n)) body

/-- R230: accesses to SO pages wait for the thread's earlier ones. -/
def Env.ordered (e : Env) (so : Bool) (body : State → State) (s : State) : State :=
  if so then e.drain false id body s else body s

/-- R193, R8: a load from a history area that a descriptor of the context names returns an unspecified value. -/
def State.inHistory (s : State) (c va n : Nat) : Bool :=
  (s.ctx c).descs.any fun (_, d) =>
    let count := (List.range (descNdim d + 1)).foldl (fun x k => x * descSize d k) 1
    descFc d && descHist d < va + n && va < descHist d + 64 + 2 * (64 * ((count * fmtBits (descFmt d) + 511) / 512))

/-- R301: the queues of a context whose storage a range of bytes touches, by launch. -/
def State.queuesAt (s : State) (c va n : Nat) : List (Nat × Nat) :=
  s.launches.flatMap fun (l, x) =>
    if x.ctx ≠ c then []
    else x.record.queues.filterMap fun (q, y) =>
      if y.base.toNat < va + n && va < y.base.toNat + y.depth * y.elem then some (l, q) else none

/-- R193, R301, R393: some byte of a piece is the Z4's own: what a thread's load of it returns is unspecified. -/
def State.ownsPiece (s : State) (c : Nat) (p : Piece) : Bool :=
  s.inHistory c p.va p.bytes || (p.at_.dev = s.dev && s.ownedByZ4 p.at_.pa p.bytes) || !(s.queuesAt c p.va p.bytes).isEmpty

/-- R301: threads have stored to the storage of queues. -/
def State.spoilQueues (s : State) (c : Nat) (ps : List Piece) : State :=
  (ps.flatMap fun p => s.queuesAt c p.va p.bytes).foldl (fun s (l, q) =>
    { s with launches := adjust s.launches l fun x =>
        { x with record := { x.record with queues := adjust x.record.queues q fun y => { y with spoiled := true } } } }) s

/-- R230, R448: accesses to SO pages and to registers are ordered. -/
def orderedAt (dev : Nat) (p : Piece) : Bool :=
  p.at_.ord = 1 || (p.at_.dev = dev && match regionOf p.at_.pa with | .registers _ | .zou _ _ => true | _ => false)

/-- R273 -/
def execLd (o : Mem) (s : State) : Out :=
  act (.ld o) s fun e s =>
    e.global (.ld o) o true o.w.bytes .read s fun ps s =>
      e.ordered (ps.any (orderedAt s.dev)) (fun s => e.retire (.ld o) (e.startLoad o (e.exm o.p) (s.ownsPiece e.ctxNo) ps s)) s

/-- R271, R273: the bytes of checked pieces are stored, threads in ascending order. -/
def Env.storeAll (e : Env) (o : Mem) (ps : List Piece) (s : State) : State :=
  ps.foldl (fun s p => s.storePiece e o o.w.bytes p (((e.storeData o o.d p.thread).drop p.off).take p.bytes)) s

/-- R234, R242, R273: a releasing store of die scope or wider follows every earlier access; one of system scope, to another
device or to an SO page waits here. -/
def Env.storeOrdered (e : Env) (i : Instr) (o : Mem) (ps : List Piece) (s : State) : State :=
  let so := ps.any (orderedAt s.dev)
  let far := ps.any fun p => p.at_.dev ≠ s.dev
  let rel : Bool := o.ord = .rel && o.sc ≠ .team
  let finish (s : State) : State := e.leaveTo i (e.next i) (so || endsRegion i) (e.storeAll o ps (s.spoilQueues e.ctxNo ps))
  if rel && (far || so || o.sc = .sys) then e.drain (o.sc = .sys) (fun s => s.release e.agent o.sc e.releaser) finish s
  else e.ordered so finish (if rel then s.release e.agent o.sc e.releaser else s)

/-- R273 -/
def execSt (o : Mem) (s : State) : Out :=
  act (.st o) s fun e s =>
    e.global (.st o) o true o.w.bytes .write s fun ps s => e.storeOrdered (.st o) o ps s

/-- R274 -/
def execLds (o : Mem) (s : State) : Out := act (.lds o) s fun e s => e.spadLoad (.lds o) o (e.ownAccesses o s) s
def execSts (o : Mem) (s : State) : Out := act (.sts o) s fun e s => e.spadStore (.sts o) o (e.ownAccesses o s) s
def execLdr (o : Mem) (s : State) : Out := act (.ldr o) s fun e s => e.spadLoad (.ldr o) o (e.bandAccesses o s) s
def execStr (o : Mem) (s : State) : Out := act (.str o) s fun e s => e.spadStore (.str o) o (e.bandAccesses o s) s

/-! ### Atomics -/

/-- R270, R222: the accesses of an atomic, alignment first. -/
def Env.atomicAccess (e : Env) (i : Instr) (o : Mem) (s : State) (body : List Piece → State → State) : State :=
  let m := e.exm o.p
  match (Mask.threads m).find? fun t => (e.address o false m t).toNat % o.w.bytes ≠ 0 with
  | some t => e.raise .misaligned (e.address o false m t) s
  | none => e.global i o false o.w.bytes .atomic s body

/-- An operand of an atomic: one register, or a pair for `b64`. -/
def Env.atomicOperand (e : Env) (o : Mem) (m : Mask) (r : RegNo) (u : Bool) (t : Nat) : DWord :=
  if o.w = .b64 then e.srcPair m r u t else (e.src m r u t).setWidth 64

/-- R276: the atomics of the acting threads leave, the old values are on their way where `load` is set. -/
def Env.startAtomics (e : Env) (o : Mem) (op : Nat) (value : Bool) (ps : List Piece) (s : State) : State :=
  let m := e.exm o.p
  let key := s.nextKey
  let s :=
    if value then
      let l : LoadOp :=
        { who := e.who, pc := e.sp.pc, reg := o.d.toNat, w := o.w, mask := m, left := ps.length, strong := true, acq := acquireScope o,
          eaddr := (Mask.threads m).map fun t => (t, e.address o false m t) }
      e.score o.d o.w.regs m { s with loads := place s.loads key l, nextKey := key + 1 }
    else s
  ps.foldl (fun s p => s.atomicUnit e o op (if value then some key else none)
      (e.atomicOperand o m o.b o.ub p.thread) (e.atomicOperand o m o.c false p.thread) p) s

/-- R240, R276, R277: an atomic of any kind. A releasing one of system scope, to another device or to an SO page waits here for
what it releases; elsewhere the release takes place on the way to the home, for a `cas` only where it succeeds. -/
def Env.atomicRun (e : Env) (i : Instr) (o : Mem) (op : Nat) (value : Bool) (ps : List Piece) (s : State) : State :=
  let so := ps.any fun p => p.at_.ord = 1
  let rel : Bool := (o.ord = .rel || o.ord = .ar) && o.sc ≠ .team
  let finish (s : State) : State := e.retire i (e.startAtomics o op value ps (s.spoilQueues e.ctxNo ps))
  if rel && ((op ≠ 13 && (so || o.sc = .sys)) || ps.any fun p => p.at_.dev ≠ s.dev) then
    e.drain (o.sc = .sys) (fun s => s.release e.agent o.sc e.releaser) finish s
  else e.ordered so finish (if rel then s.release e.agent o.sc e.releaser else s)

/-- R276 -/
def execAtom (o : Mem) (s : State) : Out :=
  act (.atom o) s fun e s => e.atomicAccess (.atom o) o s fun ps s => e.atomicRun (.atom o) o (o.c.toNat % 16) true ps s
def execRed (o : Mem) (s : State) : Out :=
  act (.red o) s fun e s => e.atomicAccess (.red o) o s fun ps s => e.atomicRun (.red o) o (o.c.toNat % 16) false ps s
def execCas (o : Mem) (s : State) : Out :=
  act (.cas o) s fun e s => e.atomicAccess (.cas o) o s fun ps s => e.atomicRun (.cas o) o 13 true ps s

/-! ### Fences and cache maintenance -/

/-- R242, R278: what a fence does once what comes before it has come about: with `acq` its drops, whose write-backs it awaits. -/
def Env.fenced (e : Env) (o : Mem) (s : State) : State :=
  if o.ord = .acq || o.ord = .ar then
    let t := s.acquire e.agent e.ctx.asid o.sc e.releaser
    if t.acknowledged e.agent s.nextKey t.nextKey then e.retire (.fence o) t else e.interlock (.acked s.nextKey t.nextKey) t
  else e.retire (.fence o) s

/-- R242, R278 -/
def execFence (o : Mem) (s : State) : Out :=
  act (.fence o) s fun e s =>
    let m := e.exm o.p
    if m = 0 || e.dropped then e.retire (.fence o) s
    else if (o.ord = .acq || o.ord = .ar) && s.strongOf e m then e.interlock (.strong m) s
    else if o.ord = .acq then
      if s.awaitsPath e.who m then e.interlock (.returned m) s else e.fenced o s
    else e.drain (o.sc = .sys) (fun s => s.release e.agent o.sc e.releaser) (e.fenced o) s

/-- R279: a part of a range that lies in one page, where it may be read: the place and the bytes; `whole` asks for lines
that lie wholly in the range. -/
def State.covered (s : State) (sp : Space) (va len : Nat) (k : Kind) : State × List (Place × Nat × Trans) :=
  (pieces va len).foldl (fun (acc : State × List (Place × Nat × Trans)) (a, n) =>
    if 2 ^ 57 ≤ a then acc
    else
      let (s, t) := acc.1.translate sp k a
      match t with
      | .ok p => (s, acc.2 ++ [(p, n, t)])
      | t => (s, acc.2 ++ [({ dev := 0, pa := 0 }, n, t)])) (s, [])

/-- R279: the lines that a present, readable part of the range touches. -/
def coveredLines (xs : List (Place × Nat × Trans)) : List (Nat × Place) :=
  xs.flatMap fun (p, n, t) =>
    match t with
    | .ok _ => (List.range ((p.pa % 128 + n + 127) / 128)).map fun i => (lineNo p.dev p.pa + i, p)
    | _ => []

/-- R282: the lines that lie wholly in the range. -/
def wholeLines (xs : List (Place × Nat × Trans)) : List (Nat × Place) :=
  xs.flatMap fun (p, n, t) =>
    match t with
    | .ok _ =>
      let first := (p.pa + 127) / 128
      let last := (p.pa + n) / 128
      (List.range (last - first)).map fun i => (lineNo p.dev 0 + first + i, p)
    | _ => []

/-- R279: what `flush`, `inval`, `discard` and `pref` do with the covered lines of the acting threads. -/
def Env.overLines (e : Env) (o : Mem) (k : Kind) (pick : List (Place × Nat × Trans) → List (Nat × Place)) (s : State) :
    State × List (Nat × Place) :=
  let m := e.exm o.p
  let (s, sp) := e.space s
  (Mask.threads m).foldl (fun (acc : State × List (Nat × Place)) t =>
    let (s, xs) := acc.1.covered sp (e.address o false m t).toNat (e.src m o.b o.ub t).toNat k
    (s, acc.2 ++ pick xs)) (s, [])

/-- R269: the first acting thread whose address has one of the bits [63:57] set. -/
def Env.beyond (e : Env) (o : Mem) : Option Nat :=
  (Mask.threads (e.exm o.p)).find? fun t => 2 ^ 57 ≤ (e.address o false (e.exm o.p) t).toNat

/-- R269, R270: an instruction over ranges of lines goes on where every address lies in the address space. -/
def Env.inSpace (e : Env) (o : Mem) (s : State) (body : State → State) : State :=
  match e.beyond o with
  | some t => e.raise .permission (e.address o false (e.exm o.p) t) s
  | none => body s

/-- R280, R281: dirty bytes of a line leave the agent's caches. -/
def State.cleanLine (s : State) (a : Agent) (line : Nat) : State :=
  match a with
  | .wide c => s.writeBack c line
  | _ => s.recall line

/-- R280, R281: a die's RDC drops a line of another device that an ASID filled. -/
def State.dropFar (s : State) (d line asid : Nat) : State :=
  if lineDev line = s.dev then s
  else
    (s.setDie d { s.die d with rdc := keep (s.die d).rdc fun k l => !(k = line && l.si && l.asid = asid) }).staleFar d fun l i =>
      l = line && i = asid

/-- R226, R280, R281: an agent's caches drop a line, dirty bytes first; a fill of it that is in flight is not installed. -/
def State.dropHere (s : State) (a : Agent) (line : Nat) : State :=
  let s := (s.cleanLine a line).dropCached a line
  { s with reads := mapVals s.reads fun _ u => if u.fill.isSome && u.agent = a && u.line = line then { u with stale := true } else u }

/-- R280 -/
def execFlush (o : Mem) (s : State) : Out :=
  act (.flush o) s fun e s => e.inSpace o s fun s =>
    let (s, ls) := e.overLines o .read coveredLines s
    if e.exm o.p = 0 then e.retire (.flush o) s
    else if o.sc = .team then e.drain false id (e.retire (.flush o)) s
    else
      let start (s : State) : State := ls.foldl (fun s (l, _) =>
        let s := s.cleanLine e.agent l
        if o.sc = .sys then s.clearWay e.agent l else s) s
      let finish (s : State) : State := ls.foldl (fun s (l, _) =>
        let s := s.dropHere e.agent l
        if o.sc = .sys then s.dropFar e.die l e.ctx.asid else s) s
      e.drain (o.sc = .sys) start (fun s => e.retire (.flush o) (finish s)) s

/-- R281 -/
def execInval (o : Mem) (s : State) : Out :=
  act (.inval o) s fun e s => e.inSpace o s fun s =>
    let (s, ls) := e.overLines o .read coveredLines s
    e.retire (.inval o) (ls.foldl (fun s (l, _) =>
      let s := s.dropHere e.agent l
      if o.sc = .sys then s.dropFar e.die l e.ctx.asid else s) s)

/-- R227, R282: a line is discarded from the issuing core's caches and from every tracked cache. -/
def State.discardLine (s : State) (e : Env) (line : Nat) : State :=
  let s := s.dropCached e.agent line
  if lineDev line = s.dev then
    (s.dropSharers line).recordLine line
  else
    let s := s.setDie e.die { s.die e.die with rdc := unlist (s.die e.die).rdc line }
    match e.agent with
    | .wide c => s.setCore c { s.core c with wcb := unlist (s.core c).wcb line }
    | _ => s

/-- R282: a page as `discard` finds it: its place where it grants W, `denied` where it is present and does not. -/
def State.discardPage (s : State) (sp : Space) (a : Nat) : State × Trans :=
  match s.translate sp .read a with
  | (s, .ok p) => (s, if pteW p.leaf then .ok p else .denied)
  | (s, .denied) =>
    match s.walk a 5 sp.ptbase with
    | .leaf e level _ => (s, if pteW e && (sp.priv || pteUser e) then .ok (leafPlace a level e) else .denied)
    | _ => (s, .denied)
  | r => r

/-- R282: the pages of a thread's range. -/
def State.discardRange (s : State) (sp : Space) (va len : Nat) : State × List (Place × Nat × Trans) :=
  (pieces va len).foldl (fun (acc : State × List (Place × Nat × Trans)) (a, n) =>
    if 2 ^ 57 ≤ a then acc
    else
      match acc.1.discardPage sp a with
      | (s, .ok p) => (s, acc.2 ++ [(p, n, .ok p)])
      | (s, t) => (s, acc.2 ++ [({ dev := 0, pa := 0 }, n, t)])) (s, [])

/-- R282 -/
def execDiscard (o : Mem) (s : State) : Out :=
  act (.discard o) s fun e s => e.inSpace o s fun s =>
    let m := e.exm o.p
    let (s, sp) := e.space s
    let range (s : State) (t : Nat) := s.discardRange sp (e.address o false m t).toNat (e.src m o.b o.ub t).toNat
    match (Mask.threads m).find? fun t => (range s t).2.any fun x => x.2.2 = .denied with
    | some t => e.raise .permission (e.address o false m t) s
    | none =>
      let (s, ls) := (Mask.threads m).foldl (fun (acc : State × List (Nat × Place)) t =>
        let (s, xs) := range acc.1 t
        (s, acc.2 ++ wholeLines xs)) (s, [])
      e.retire (.discard o) (ls.foldl (fun s (l, _) => s.discardLine e l) s)

/-- R283: a covered line is fetched; whether it arrives has no effect on values but those that R252 leaves open. -/
def State.prefetch (s : State) (e : Env) (o : Mem) (line : Nat) (p : Place) : State :=
  let far : Bool := p.dev ≠ s.dev
  if p.nc || p.ord = 1 || hbmEnd ≤ p.pa || (far && o.rt ≠ .si) || (s.cached e.agent line).isSome then s
  else
    { s.clearWay e.agent line with
      reads := place (s.clearWay e.agent line).reads (s.clearWay e.agent line).nextKey
        { load := 0, agent := e.agent, who := e.who, thread := 0, off := 0, line := line, pos := 0, bytes := 0,
          fill := some (decide (o.rt = .si)), asid := e.ctx.asid, uo := p.ord = 2, rt := o.rt, ctx := e.ctxNo, site := e.sp.pc },
      nextKey := (s.clearWay e.agent line).nextKey + 1 }

/-- R283 -/
def execPref (o : Mem) (s : State) : Out :=
  act (.pref o) s fun e s => e.inSpace o s fun s =>
    let (s, ls) := e.overLines o .read coveredLines s
    e.retire (.pref o) (ls.foldl (fun s (l, p) => s.prefetch e o l p) s)

/-- R284: fetched but not issued words of a split are dropped. -/
def Split.unfetch (k : Split) : Split := { k with block := none }

/-- R284: the code of another device in the die's RDC. -/
def State.dropFarCode (s : State) (d : Nat) : State :=
  (s.setDie d { s.die d with rdc := keep (s.die d).rdc fun k _ => lineDev k = s.dev }).staleFar d fun _ _ => true

/-- R284 -/
def execIcinv (o : Mem) (s : State) : Out :=
  act (.icinv o) s fun e s =>
    if e.exm o.p = 0 then e.retire (.icinv o) s
    else
      let start (s : State) : State :=
        match e.agent with
        | .wide c =>
          let s := s.writeBackEvery c e.releaser
          if o.sc = .sys then s.sendWcbs c fun _ _ => true else s
        | _ => s
      let finish (s : State) : State :=
        let s := match e.agent with
          | .wide c => s.setCore c { s.core c with icache := [] }
          | .lat n => s.setLc n { s.lc n with icache := [] }
          | _ => s
        let s := if o.sc = .sys then s.dropFarCode e.die else s
        (e.retire (.icinv o) s).mapSplit e.who fun k => { Split.unfetch k with st := if k.st = .ready then .fetch else k.st }
      e.drain (o.sc = .sys) start finish s

/-! ### Monitors -/

/-- R287: monitors that the home slices of a die hold. -/
def State.monitorsOn (s : State) (d : Nat) : Nat :=
  let of_ (st : Strand) : Nat := (st.splits.filter fun k => match k.mon with | some m => !m.coarse && homeDie (linePa m.line) = d | none => false).length
  (s.teams.map fun (_, t) => (t.warps.map fun w => of_ w.main + (w.handler.map of_).getD 0).sum).sum +
  (s.lcs.map fun (_, l) => [l.t0, l.t1].map fun h => of_ h.main + (h.handler.map of_).getD 0).flatten.sum

/-- R287: exact monitors of one line, which one slice holds. -/
def State.monitorsAt (s : State) (line : Nat) : Nat :=
  let of_ (st : Strand) : Nat := (st.splits.filter fun k => match k.mon with | some m => !m.coarse && m.line = line | none => false).length
  (s.teams.map fun (_, t) => (t.warps.map fun w => of_ w.main + (w.handler.map of_).getD 0).sum).sum +
  (s.lcs.map fun (_, l) => [l.t0, l.t1].map fun h => of_ h.main + (h.handler.map of_).getD 0).flatten.sum

/-- R287: a line of another device, and a full home slice, give a coarse monitor; which lines a slice holds is not given, but
that those of one line are in one. -/
def State.coarse (s : State) (p : Place) : Bool :=
  p.dev ≠ s.dev || 1024 ≤ s.monitorsAt (lineNo p.dev p.pa) ||
  (1024 ≤ s.monitorsOn (homeDie p.pa) && Config.pick s.oracle % 2 = 1)

/-- R285 -/
def execMon (o : Mem) (s : State) : Out :=
  act (.mon o) s fun e s =>
    let m := e.exm o.p
    if m = 0 then e.retire (.mon o) s
    else e.inSpace o s fun s =>
      let (s, sp) := e.space s
      let ea := e.address o false m (Mask.lowest m)
      e.checked .read (s.checkAll sp .read [{ thread := Mask.lowest m, va := ea.toNat, bytes := 1 }]) fun ps s =>
        match ps with
        | p :: _ =>
          let mon : Monitor := { line := lineNo p.at_.dev p.at_.pa, coarse := s.coarse p.at_ }
          e.retire (.mon o) ((s.spend 1).mapSplit e.who fun k => { k with mon := some mon })
        | [] => e.retire (.mon o) s

/-- Has the timeout of the running instruction's park passed. -/
def Env.timedOut (e : Env) : Bool := e.sp.again && (match e.sp.park with | some p => p.left = some 0 | none => false)

/-- R286: the timeout of `mwait`. -/
def Env.mwaitClocks (e : Env) (o : Mem) : Nat := (match o.x with | some x => x | none => e.one (e.exm o.p) o.b).toNat

/-- R286: `mwait` returns with a reason and disarms the monitor. -/
def Env.mwaitReturn (e : Env) (o : Mem) (r : Word) (s : State) : State :=
  e.retire (.mwait o) ((e.setAll (e.exm o.p) o.d (fun _ => r) s).mapSplit e.who fun k => { k with mon := none })

/-- R286 -/
def execMwait (o : Mem) (s : State) : Out :=
  act (.mwait o) s fun e s =>
    if e.exm o.p = 0 then e.retire (.mwait o) s
    else
      match e.sp.mon with
      | none => e.mwaitReturn o 2 s
      | some mon =>
        if mon.hit then e.mwaitReturn o 1 s
        else if e.mwaitClocks o = 0 || e.timedOut then e.mwaitReturn o 0 s
        else
          let left := match e.sp.again, e.sp.park with
            | true, some p => p.left
            | _, _ => if e.mwaitClocks o = 2 ^ 32 - 1 then none else some (e.mwaitClocks o)
          e.hold 5 .monitor s left

/-! ### Remote writes and launch hints -/

/-- R288: has the running split's core packets with stores of its context under way, sent before `mark`; on a latency core those
of the hardware thread. -/
def State.remoteWrites (s : State) (e : Env) (mark : Nat) : Bool := s.remote.any fun (_, r) =>
  r.born < mark && r.wcb && r.agent = e.agent && r.storers.contains e.ctxNo && (!e.lat || r.who = some e.who)

/-- R288 -/
def execWcdrain (o : Mem) (s : State) : Out :=
  act (.wcdrain o) s fun e s =>
    if e.exm o.p = 0 then e.retire (.wcdrain o) s
    else
      let start (s : State) : State :=
        match e.agent with
        | .wide c => s.sendWcbs c fun _ w => w.ctxs.contains e.ctxNo
        | _ => s
      let open_ (s : State) (mark : Nat) : Bool := s.remoteWrites e mark
      match (if e.sp.again then e.sp.park.map Park.cond else none) with
      | some (.remoteWrites mark) => if open_ s mark then e.hold 10 (.remoteWrites mark) s else e.retire (.wcdrain o) s
      | _ =>
        let s := start s
        if open_ s s.nextKey then e.hold 10 (.remoteWrites s.nextKey) s else e.retire (.wcdrain o) s

/-- R289 -/
def execLnext (o : Mem) (s : State) : Out :=
  act (.lnext o) s fun e s =>
    let s := match e.who with
      | .warp t w _ | .handler t w => if e.exm o.p = 0 then s else s.mapWarp t w fun x => { x with lnext := true }
      | _ => s
    e.retire (.lnext o) s

/-- R265, R290: the predecessor that the running team still waits for. -/
def State.waitsFor (s : State) (e : Env) : Bool :=
  !e.lat && (match s.launchOf e with | some l => l.early && l.pred.isSome | none => false)

/-- R290 -/
def execPdwait (o : Mem) (s : State) : Out :=
  act (.pdwait o) s fun e s =>
    if e.exm o.p = 0 then e.retire (.pdwait o) s
    else if s.waitsFor e then e.hold 6 .predecessor s
    else e.retire (.pdwait o) (s.acquire e.agent e.ctx.asid .dev e.releaser)

end Sys2Proof.Machine
end

