-- ==== Sys2Proof/Machine/Tiles.lean ====
section
/-! DEFINITION. The TILE group but for `post` (R147 to R168, R180, R184 to R188, R196, R207). -/

namespace Sys2Proof.Machine

/-! ### Descriptors -/

/-- R151: FP32 tolerances are neither negative nor NaN; −0 is negative. -/
def toleranceOk (w : Word) : Bool := !w.getLsbD 31 && !(f32.value w.toNat).isNan

/-- R151: a valid descriptor record. -/
def descValid (d : List Word) : Bool :=
  let f := descFmt d
  let ctl := descWord d 2
  let top (k : Nat) : Bool := descPair d k >>> 57 = 0
  let fc := descFc d
  f ≤ 16 && descPol d ≠ 3 && ctl.extractLsb' 15 17 = 0 && !ctl.getLsbD 7 && top 0 && top 12 && top 14 &&
  (List.range 4).all (fun k => if k ≤ descNdim d then descWord d (5 + k) ≠ 0 else descWord d (5 + k) = 0) &&
  (match f with
    | 1 | 2 => descBase d % 2 = 0
    | 0 | 15 => descBase d % 4 = 0
    | 16 => descBase d % 8 = 0
    | f => !fmtScaled f || descBase d % 8 = 0) &&
  (if fmtScaled f then (descWord d 5).toNat % 32 = 0 && descScale d ≠ 0 else descScale d = 0) &&
  (f ≠ 14 || (descWord d 5).toNat % 8 = 0) && (f = 7 || descQkind d = 0) &&
  (if fc then f ≤ 4 && toleranceOk (descWord d 3) && toleranceOk (descWord d 4) && descHist d ≠ 0 && descHist d % 64 = 0
   else descPol d = 0 && descWord d 3 = 0 && descWord d 4 = 0 && descHist d = 0)

/-- R234: lines of other devices that pieces touch leave an agent's WCB. -/
def State.flushFar (s : State) (a : Agent) (ps : List Piece) : State :=
  ps.foldl (fun s p => if p.at_.dev = s.dev then s else p.lines.foldl (fun s l => s.flushLine a l) s) s

/-- R234, R241: the bytes of pieces that the running split reads; bytes of another device once the agent's writes of their lines
are at their home. -/
def State.gatherAfter (s : State) (a : Agent) (o : Origin) (ps : List Piece) : State × Option (List (Piece × List Byte)) :=
  let s := s.flushFar a ps
  if ps.any fun p => p.at_.dev ≠ s.dev && p.lines.any fun l => s.ownWrites a l then (s, none) else s.gather o ps

/-- R159: the record of `n` bytes at a pair, read uncached at device scope after the split's own earlier writes;
a line of another device leaves the WCB first (R234). -/
def Env.readRecord (e : Env) (i : Instr) (m : Mask) (a : RegNo) (align n : Nat) (s : State)
    (body : DWord → List Byte → State → State) : State :=
  let addr := e.onePair m a
  if m = 0 then e.retire i s
  else if addr.toNat % align ≠ 0 then e.raise .misaligned addr s
  else
    let read (s : State) : State :=
      let (s, sp) := e.space s
      e.checked .read (s.checkAll sp .read [{ thread := 0, va := addr.toNat, bytes := n }]) fun ps s =>
        if ps.any fun p => s.poisonedAt p then e.raise .dataError addr s
        else
          let key := e.waitingOp.getD s.nextKey
          match s.gatherAfter e.agent { key := key, ctx := e.ctxNo, die := e.die, who := some e.who, site := e.sp.pc } ps with
          | (s, some got) => body addr (wantBytes got 0) { s with fetched := unlist s.fetched key }
          | (s, none) => e.hold 10 (.operation key) s
    if e.waitingOp.isSome then read s
    else e.drain false (fun s => match e.agent with | .wide c => s.writeBackAll c e.releaser | _ => s) read s

/-- R3: the words of a record. -/
def recordWords (bs : List Byte) : List Word :=
  (List.range (bs.length / 4)).map fun k => BitVec.ofNat 32 (leNat ((bs.drop (4 * k)).take 4))

/-- R207: fields of a descriptor that a PROV tile bound to it holds fixed. -/
def descFixed (d : List Word) : List Nat :=
  [descFmt d, descNdim d, (descWord d 5).toNat, (descWord d 6).toNat, (descWord d 7).toNat, (descWord d 8).toNat,
   (descWord d 9).toNat, (descWord d 10).toNat, (descWord d 11).toNat, descBase d, if descFc d then 1 else 0, descPol d, descHist d]

/-- R207: is a tile of the context that is bound to descriptor n PROV. -/
def State.provBound (s : State) (c n : Nat) : Bool :=
  s.teams.any fun (_, t) => t.ctx = c && someVal t.tiles fun _ k => k.st = .prov && specDesc k.spec = n

/-- R159 -/
def execTdset (p : Pre) (a b : RegNo) (s : State) : Out :=
  act (.tdset p a b) s fun e s =>
    let m := e.exm p
    let n := (e.one m b).toNat % 256
    e.readRecord (.tdset p a b) m a 64 64 s fun addr bs s =>
      let d := recordWords bs
      if !descValid d then e.raise .tileState addr s
      else if s.provBound e.ctxNo n && descFixed ((s.desc e.ctxNo n).getD []) ≠ descFixed d then e.raiseOpen .speculation s
      else
        let x := s.ctx e.ctxNo
        e.retire (.tdset p a b) (s.setCtx e.ctxNo { x with descs := place x.descs n d })

/-- R160 -/
def execTdget (p : Pre) (d b : RegNo) (s : State) : Out :=
  act (.tdget p d b) s fun e s =>
    let m := e.exm p
    let words := (s.desc e.ctxNo ((e.one m b).toNat % 256)).getD (List.replicate 16 0)
    e.retire (.tdget p d b) ((Mask.threads m).foldl (fun s t => e.setList d.toNat t words s) s)

/-! ### Vat slots -/

/-- R152, R399: physical slots of a core that no team holds, and then those of teams that are swapped out, the longest
first. -/
def State.openSlots (s : State) (core : Nat) : List Nat :=
  let used := (s.core core).slots
  let none_ := (List.range 64).filter fun k => (look used k).isNone
  let away := used.filterMap fun (k, o) =>
    match look s.teams (o - 1) with
    | some x => if x.core.isNone then some (x.swapped, k) else none
    | none => some (0, k)
  none_ ++ (away.mergeSort fun a b => a.1 ≤ b.1).map Prod.snd

/-- R161: the team numbers that `vclaim` and `vrel` name. -/
def slotRange (b : Word) : Nat × Nat := (b.toNat % 64, b.toNat / 256 % 128)

/-- R399: a team that is away loses a vat slot of the core that it left; its bytes go to the image. -/
def Team.loseSlot (x : Team) (phys : Nat) : Team :=
  { x with slots := keep x.slots fun _ q => q ≠ phys, unsaved := (keep x.slots fun _ q => q = phys).map (fun p => .slot p.1) ++ x.unsaved }

/-- R161: maps team slot numbers to physical slots; their contents are unspecified. -/
def State.claimSlots (s : State) (t core : Nat) (pairs : List (Nat × Nat)) : State :=
  pairs.foldl (fun s (n, phys) =>
    let owner := (look (s.core core).slots phys).map (· - 1)
    -- R190, R399: a victim's operations are aborted and its slot is saved before it passes
    let s := match owner with
      | some v => (s.haltOps v).mapTeam v fun x => x.loseSlot phys
      | none => s
    let s := s.setCore core { s.core core with slots := place (s.core core).slots phys (t + 1) }
    (s.mapTeam t fun x => { x with
      slots := place x.slots n phys,
      held := place x.held n (),
      vat := keep x.vat fun k _ => k / 16384 ≠ n,
      vatFree := place x.vatFree n s.oracle }).spend 4096) s

/-- R152: does the team hold a slot number. -/
def Team.holds (x : Team) (n : Nat) : Bool := (look x.held n).isSome

/-- R161 -/
def execVclaim (p : Pre) (d b : RegNo) (s : State) : Out :=
  act (.vclaim p d b) s fun e s =>
    let m := e.exm p
    let (n0, n) := slotRange (e.one m b)
    match look s.teams e.team with
    | none => e.retire (.vclaim p d b) s
    | some x =>
      let nums := (List.range n).map (n0 + ·)
      let core := x.core.getD 0
      let put (v : Word) (s : State) : State := e.retire (.vclaim p d b) (e.setAll m d (fun _ => v) s)
      if m = 0 then e.retire (.vclaim p d b) s
      else if n = 0 || 64 < n0 + n then e.raiseOpen .vatSlot s
      else if nums.all x.holds then put 1 s
      else if nums.any x.holds then e.raiseOpen .vatSlot s
      else if (s.openSlots core).length < n then put 0 s
      else put 1 (s.claimSlots e.team core (nums.zip (s.openSlots core)))

/-- R162: does a held slot back a tile that is neither EMPTY nor unbound. -/
def Team.backs (x : Team) (n : Nat) : Bool :=
  someVal x.tiles fun _ k => specLoc k.spec = 0 && specSlot k.spec = n && k.st ≠ .empty

/-- R162: slot numbers of a team are released. -/
def State.releaseSlots (s : State) (t : Nat) (nums : List Nat) : State :=
  match look s.teams t with
  | none => s
  | some x =>
    let phys := nums.filterMap (look x.slots)
    let core := x.core.getD 0
    let s := s.setCore core { s.core core with slots := keep (s.core core).slots fun k o => !(phys.contains k && o = t + 1) }
    s.mapTeam t fun x => { x with
      slots := keep x.slots fun n _ => !nums.contains n,
      held := keep x.held fun n _ => !nums.contains n,
      vat := keep x.vat fun k _ => !nums.contains (k / 16384) }

/-- R162 -/
def execVrel (p : Pre) (b : RegNo) (s : State) : Out :=
  act (.vrel p b) s fun e s =>
    let m := e.exm p
    let (n0, n) := slotRange (e.one m b)
    match look s.teams e.team with
    | none => e.retire (.vrel p b) s
    | some x =>
      let nums := ((List.range n).map (n0 + ·)).filter x.holds
      if m = 0 then e.retire (.vrel p b) s
      else if n = 0 || 64 < n0 + n || nums.any x.backs then e.raiseOpen .vatSlot s
      else e.retire (.vrel p b) (s.releaseSlots e.team nums)

/-! ### Bindings -/

/-- R154, R155: a well-formed binding to a descriptor, in a team with some bytes of scratchpad. -/
def bindingOk (d : List Word) (sp : List Word) (spad : Nat) : Bool :=
  let f := descFmt d
  let w0 := sp.getD 0 0
  let loc := specLoc sp
  descValid d && w0.toNat / 65536 = 0 && loc ≤ 1 && (loc = 0 || specSlot sp = 0) && specOfs sp % 64 = 0 &&
  1 ≤ specRows sp && 1 ≤ specCols sp && (descFc d || specVer sp = 0) &&
  (!fmtScaled f || (specCols sp % 32 = 0 && specOrigin sp 0 % 32 = 0)) &&
  (f ≠ 14 || (specCols sp % 8 = 0 && specOrigin sp 0 % 8 = 0)) &&
  specRows sp * specCols sp ≤ 65536 && specOfs sp + tileBytes f sp ≤ (if loc = 0 then 16384 else spad)

/-- R194: the history of a context at a base. -/
def State.hist? (s : State) (c base : Nat) : Option (Nat × Hist) := s.hists.find? fun (_, h) => h.ctx = c && h.base = base

/-- R194: the key of a history, which exists from its first use on. DESIGN CHOICE (log 113): one that no `fcset` has started has zero in
VLAST, NHIST and every counter. -/
def State.histKey (s : State) (c base : Nat) : State × Nat :=
  match s.hist? c base with
  | some (k, _) => (s, k)
  | none => ({ s with hists := place s.hists s.nextKey { ctx := c, base := base }, nextKey := s.nextKey + 1 }, s.nextKey)

/-- R196: versions that a policy needs. -/
def versionsNeeded (pol : Nat) : Nat := if pol = 0 then 1 else 2

/-- R153: bound tiles of the teams on a core. -/
def State.tilesOn (s : State) (core : Nat) : Nat :=
  (s.teams.map fun (_, t) => if t.core = some core then t.tiles.length else 0).sum

/-- R156, R163: binds a tile, EMPTY; tasks that have pinned it keep it pinned. The version rules of a forecastable one are due. -/
def Env.bind (e : Env) (id : Nat) (sp d : List Word) (s : State) : State :=
  s.mapTeam e.team fun x =>
    let k : Tile := { spec := sp, pins := ((look x.tiles id).map Tile.pins).getD [], fc := descFc d, due := if descFc d then some (e.who, d) else none }
    { x with tiles := place x.tiles id k }

/-- R196: the version rules: an EMPTY tile becomes PROV where the version is the next one. DEDUCED (log 123): a tile that another warp has
made FILLING meanwhile stays as it is. -/
def Env.applyVersion (e : Env) (id : Nat) (sp d : List Word) (s : State) : State :=
  let (s, hk) := s.histKey e.ctxNo (descHist d)
  let h := readOr { ctx := 0, base := 0 } s.hists hk
  let s := s.mapTeam e.team fun x => { x with tiles := adjust x.tiles id fun k => { k with due := none } }
  if specVer sp = h.vlast + 1 && versionsNeeded (descPol d) ≤ h.nhist && ((look s.teams e.team).bind fun x => (look x.tiles id).map Tile.st) = some .empty then
    let key := s.nextKey
    let s := { s with
      checks := place s.checks key
        { ctx := e.ctxNo, team := e.team, tile := id, hist := hk, ver := specVer sp, desc := d, site := e.sp.pc },
      nextKey := key + 1 }
    s.mapTeam e.team fun x => { x with tiles := adjust x.tiles id fun k => { k with st := .prov, sets := [key], own := some key } }
  else s

/-- R196: the publication that captures a history. -/
def State.capturing (s : State) (c base : Nat) : Option Nat :=
  match s.hist? c base with
  | some (k, h) => if h.capture.isSome then some k else none
  | none => none

/-- R196: a bound tile of a forecastable descriptor: parks while a publication captures, and then the version rules apply. -/
def Env.version (e : Env) (i : Instr) (id : Nat) (sp d : List Word) (s : State) : State :=
  if !descFc d then e.retire i s
  else
    match s.capturing e.ctxNo (descHist d) with
    | some h => e.hold 14 (.capture h) s
    | none => e.retire i (e.applyVersion id sp d s)

/-- R196: does the running split come back from a park on a capture. -/
def Env.fromCapture (e : Env) : Bool :=
  e.sp.again && match e.sp.park.map Park.cond with | some (.capture _) => true | _ => false

/-- R163, R196 -/
def execTlset (p : Pre) (a : RegNo) (id : Num) (s : State) : Out :=
  act (.tlset p a id) s fun e s =>
    let m := e.exm p
    let n := (e.num m id).toNat % 256
    let sp := (List.range 8).map fun k => e.reg (a.toNat + k) (Mask.lowest m)
    let d := (s.desc e.ctxNo (specDesc sp)).getD []
    match look s.teams e.team with
    | none => e.retire (.tlset p a id) s
    | some x =>
      let due := (look x.tiles n).bind fun k => (k.due.filter fun v => k.spec = sp && v.1 = e.who)
      if m = 0 then e.retire (.tlset p a id) s
      else if e.fromCapture then
        match due with
        | some (_, d) => e.version (.tlset p a id) n sp d s
        | none => e.retire (.tlset p a id) s
      else if !bindingOk d sp x.spadBytes then e.raise .tileState 0 s
      else if specLoc sp = 0 && !x.holds (specSlot sp) then e.raise .vatSlot 0 s
      else
        match look x.tiles n with
        | some k =>
          if k.spec = sp then
            match due with
            | some (_, d) => e.version (.tlset p a id) n sp d s
            | none => e.retire (.tlset p a id) s
          else if k.st ≠ .empty then e.raise .tileState 0 s
          else e.version (.tlset p a id) n sp d (e.bind n sp d s)
        | none =>
          if 1024 ≤ s.tilesOn (x.core.getD 0) then e.hold 10 .tileEntry s
          else e.version (.tlset p a id) n sp d (e.bind n sp d s)

/-- R164: a tile's state word. DESIGN CHOICE (log 109): FC is the descriptor's as it stood at `tlset`. -/
def stateWord (k : Option Tile) : Word :=
  match k with
  | none => 0
  | some k =>
    let st := match k.st with | .empty => 0 | .filling => 1 | .ready => 2 | .draining => 3 | .prov => 4
    BitVec.ofNat 32 (fields [(0, st), (8, 1), (9, if k.pins.isEmpty then 0 else 1), (10, if k.fc then 1 else 0)])

/-- R187: finding a tile READY is an acquire at the scope of what made it so. -/
def Env.seeTile (e : Env) (k : Option Tile) (s : State) : State :=
  match k with
  | some k => if k.st = .ready then s.acquire e.agent e.ctx.asid k.sc e.releaser else s
  | none => s

def State.tile (s : State) (t id : Nat) : Option Tile := (look s.teams t).bind fun x => look x.tiles id

/-- R164 -/
def execTlst (p : Pre) (d b : RegNo) (s : State) : Out :=
  act (.tlst p d b) s fun e s =>
    let m := e.exm p
    if m = 0 then e.retire (.tlst p d b) s
    else
      let k := s.tile e.team ((e.one m b).toNat % 256)
      e.retire (.tlst p d b) (e.setAll m d (fun _ => stateWord k) (e.seeTile k s))

/-- R164, R188 -/
def execTlwait (p : Pre) (d b : RegNo) (s : State) : Out :=
  act (.tlwait p d b) s fun e s =>
    let m := e.exm p
    let id := (e.one m b).toNat % 256
    if m = 0 then e.retire (.tlwait p d b) s
    else
      e.deliver s (fun f => f.tile = some id) fun s =>
        let k := s.tile e.team id
        match k.map Tile.st with
        | some .filling | some .draining | some .prov => e.hold 7 (.tile id) s
        | _ => e.retire (.tlwait p d b) (e.setAll m d (fun _ => stateWord k) (e.seeTile k s))

/-- R165: a tile that `tlfree` may unbind. -/
def Tile.freeable (k : Tile) : Bool := (k.st = .empty || k.st = .ready) && k.pins.isEmpty

/-- R165 -/
def execTlfree (p : Pre) (b : RegNo) (s : State) : Out :=
  act (.tlfree p b) s fun e s =>
    let m := e.exm p
    let id := (e.one m b).toNat % 256
    if m = 0 then e.retire (.tlfree p b) s
    else
      match s.tile e.team id with
      | none => e.retire (.tlfree p b) s
      | some k =>
        if k.freeable then e.retire (.tlfree p b) (s.mapTeam e.team fun x => { x with tiles := unlist x.tiles id })
        else e.raiseOpen .tileState s

/-! ### Handing work to engines -/

/-- R183: takes a token for an operation, or none where D is `v0`; parks while no entry is free. -/
def Env.takeToken (e : Env) (d : RegNo) (m : Mask) (sc : Scope) (op : Nat) (s : State)
    (body : Option Nat → State → State) : State :=
  if d = 0 || e.lat then body none s
  else
    match s.newToken e.team e.warp sc op with
    | (s, some (i, v)) => body (some i) (e.setAll m d (fun _ => v) s)
    | (_, none) => e.hold 10 .tokenEntry s

/-- R166, R168: a tile's binding moved by the deltas. -/
def movedSpec (sp : List Word) (d0 d1 : Word) : List Word :=
  setNth (setNth sp 3 (sp.getD 3 0 + d0)) 4 (sp.getD 4 0 + d1)

/-- R166, R168: does an element of the tile lie outside the tensor; `all` asks for every dimension, else for dimension 0. -/
def outside (d sp : List Word) (all : Bool) : Bool :=
  let beyond (o : Int) (n k : Nat) : Bool := o < 0 || (descSize d k : Int) < o + n
  beyond (specOrigin sp 0) (specCols sp) 0 ||
  (all && (beyond (specOrigin sp 1) (specRows sp) 1 || beyond (specOrigin sp 2) 1 2 || beyond (specOrigin sp 3) 1 3))

/-- R166, R168: hands a copy to a copy engine. DESIGN CHOICE (log 110): a misaligned list of `gth` or `sct` is found before the tile's
state. -/
def Env.startCopy (e : Env) (i : Instr) (o : Copy) (kind : CopyKind) (s : State) : State :=
  let m := e.exm o.p
  let id := (e.one m o.b).toNat % 256
  let fills : Bool := kind = .cpin || kind = .gth
  let indexed : Bool := kind = .gth || kind = .sct
  let list := e.onePair m o.a
  if m = 0 then e.retire i s
  else if indexed && list.toNat % 4 ≠ 0 then e.raise .misaligned list s
  else
    match look s.teams e.team, s.tile e.team id with
    | some x, some k =>
      let d := (s.desc e.ctxNo (specDesc k.spec)).getD []
      let sp := movedSpec k.spec o.d0 (if indexed then 0 else o.d1)
      let prov : Bool := k.st = .prov && kind = .cpout
      if !prov && (k.st ≠ (if fills then .empty else .ready) || !k.pins.isEmpty) then e.raiseOpen .tileState s
      else if specLoc k.spec = 0 && !x.holds (specSlot k.spec) then e.raiseOpen .vatSlot s
      else if !o.edge && outside d sp (!indexed) then e.raiseOpen .tileState s
      else
        let key := s.nextKey
        e.takeToken o.d m o.sc key s.bump fun tok s =>
          let s := s.release e.agent o.sc e.releaser
          let (s, seq) := s.command e.agent e.ctxNo
          let op : CopyOp :=
            { kind := kind, ctx := e.ctxNo, die := e.die, agent := e.agent, team := some e.team, warp := e.warp, token := tok, tile := id,
              spec := sp, desc := d, olderBytes := x.spadOlder.map fun (_, _, off, b) => (off, b), list := list, bias := o.d1.toInt,
              edge := o.edge, rt := o.rt, sc := o.sc, last := o.last, site := e.sp.pc, seq := seq,
              lidx := BitVec.ofNat 32 x.idx, who := e.who, mark := s.nextKey, held := prov }
          let s := { s with copies := place s.copies key op }
          let s := s.mapTeam e.team fun x => { x with tiles := adjust x.tiles id fun k =>
            { k with spec := sp, st := if prov then k.st else if fills then .filling else .draining,
                     op := if prov then k.op else some key, raced := [] } }
          e.retire i s
    | _, _ => e.raiseOpen .tileState s

/-- R166 -/
def execCpin (o : Copy) (s : State) : Out := act (.cpin o) s fun e s => e.startCopy (.cpin o) o .cpin s
def execCpout (o : Copy) (s : State) : Out := act (.cpout o) s fun e s => e.startCopy (.cpout o) o .cpout s
/-- R168 -/
def execGth (o : Copy) (s : State) : Out := act (.gth o) s fun e s => e.startCopy (.gth o) o .gth s
def execSct (o : Copy) (s : State) : Out := act (.sct o) s fun e s => e.startCopy (.sct o) o .sct s

/-- R180: engines see a split's register and scratchpad writes from now on; operations already accepted may see what
they replaced. -/
def State.fenceWrites (s : State) (t w : Nat) (m : Mask) : State :=
  let old := ((look s.teams t).map Team.spadOlder).getD []
  let gone := old.filter fun (w', th, _, _) => w' = w && m.getLsbD th
  let bytes := gone.map fun (_, _, off, b) => (off, b)
  let s := s.mapTeam t fun x => { x with spadOlder := x.spadOlder.filter fun (w', th, _, _) => !(w' = w && m.getLsbD th) }
  let s := s.mapWarp t w fun x => { x with main := { x.main with older := x.main.older.filter fun (n, _) => !m.getLsbD (n % 32) } }
  { s with tasks := mapVals s.tasks fun _ k => if k.team = t then { k with olderBytes := k.olderBytes ++ bytes } else k,
           copies := mapVals s.copies fun _ k => if k.team = some t then { k with olderBytes := k.olderBytes ++ bytes } else k }

/-- R180 -/
def execOpfence (p : Pre) (s : State) : Out :=
  act (.opfence p) s fun e s =>
    if e.exm p = 0 then e.retire (.opfence p) s
    else if e.sp.busy then e.hold 1 .score s
    else e.retire (.opfence p) (s.fenceWrites e.team e.warp e.sp.exm)

/-! ### Tokens -/

/-- R184, R369: the status and the result words of a token for a thread. -/
def Token.wordsFor (k : Token) (t : Nat) : List Word :=
  if k.ship.isEmpty then k.status :: k.words
  else ((k.ship.find? fun w => w.thread = t).bind ShipWait.res).getD [4]

/-- R184, R369: what `tkwait` writes. -/
def Env.putToken (e : Env) (m : Mask) (d : RegNo) (n : Nat) (k : Token) (s : State) : State :=
  (Mask.threads m).foldl (fun s t => e.setList d.toNat t ((List.range (n + 1)).map fun j => (k.wordsFor t).getD j 0) s) s

/-- R184, R186: a token is consumed at the split's next region entry. -/
def Env.consume (e : Env) (v : Word) (s : State) : State :=
  s.mapSplit e.who fun k => { k with consumes := v :: k.consumes }

/-- R184, R187, R188 -/
def execTkwait (p : Pre) (d a : RegNo) (n : BitVec 3) (s : State) : Out :=
  act (.tkwait p d a n) s fun e s =>
    let m := e.exm p
    let v := e.one m a
    if m = 0 then e.retire (.tkwait p d a n) s
    else
      match (look s.teams e.team).bind fun x => x.current v with
      | none => e.raise .invalidToken (v.setWidth 64) s
      | some (i, k) =>
        e.deliver s (fun f => f.token = some i) fun s =>
          if !k.done then e.hold 8 (.token v) s
          else
            let s := (s.seeToken e.team i k).acquire e.agent e.ctx.asid k.sc e.releaser
            e.consume v (e.retire (.tkwait p d a n) (e.putToken m d n.toNat k s))

/-- R185, R187, R188 -/
def execTktest (p : Pre) (d a : RegNo) (s : State) : Out :=
  act (.tktest p d a) s fun e s =>
    let m := e.exm p
    let v := e.one m a
    if m = 0 then e.retire (.tktest p d a) s
    else
      match (look s.teams e.team).bind fun x => x.current v with
      | none => e.raise .invalidToken (v.setWidth 64) s
      | some (i, k) =>
        e.deliver s (fun f => f.token = some i) fun s =>
          let s := if k.done then (s.seeToken e.team i k).acquire e.agent e.ctx.asid k.sc e.releaser else s
          e.retire (.tktest p d a) (e.setAll m d (fun _ => if k.done then 1 else 0) s)

/-- R186 -/
def execTkfree (p : Pre) (a : RegNo) (s : State) : Out :=
  act (.tkfree p a) s fun e s =>
    let m := e.exm p
    let v := e.one m a
    if m = 0 then e.retire (.tkfree p a) s
    else
      match (look s.teams e.team).bind fun x => x.current v with
      | none => e.raise .invalidToken (v.setWidth 64) s
      | some _ => e.consume v (e.retire (.tkfree p a) s)

end Sys2Proof.Machine
end

