-- ==== Sys2Proof/Machine/Control.lean ====
section
/-! DEFINITION. The CTL group and the fill word (R32, R315 to R317, R326 to R339). -/

namespace Sys2Proof.Machine

/-- R32, R320: a split that has passed a fill word has not issued; while it stays READY it keeps its place on its lane. -/
def Split.passing (k old : Split) : Split := { k with passed := [], since := if k.st = .ready then old.since else k.since }

/-- R32: a fill word is skipped. -/
def execFillWord (s : State) : Out :=
  match s.env with
  | none => .fault .noStrand
  | some e => .next (s.bump.mapSplit e.who fun k => (Split.go k (e.sp.pc + 4) s.nextKey).passing k)

/-- R336 -/
def execNop (p : Pre) (s : State) : Out := act (.nop p) s fun e s => e.retire (.nop p) s

/-! ### Branches -/

/-- R45: a target at a signed byte offset from the running instruction. -/
def Env.offsetTo (e : Env) (x : Word) : DWord := e.sp.pc + x.signExtend 64

/-- R328: the alignment and address checks of a target. -/
def targetCause (tgt : DWord) : Option Cause :=
  if tgt.extractLsb' 0 2 ≠ 0 then some .misaligned
  else if tgt.extractLsb' 57 7 ≠ 0 then some .permission
  else none

/-- R328: a uniform branch of which the target is known: it is checked, and the link pair is written where `link`. -/
def Env.branchTo (e : Env) (i : Instr) (m : Mask) (tgt : DWord) (link : Bool) (s : State) : State :=
  match targetCause tgt with
  | some c => e.raise c tgt s
  | none =>
    let s := if link then e.setPairs m 126 (fun _ => e.next i) s else s
    e.goTo i tgt s

/-- R328: the direction of the uniform forms with an offset. -/
def Env.uniformTo (e : Env) (i : Instr) (p : Pre) (x : Word) (link : Bool) (s : State) : State :=
  let m := e.exm p
  if m = 0 then e.retire i s
  else if m ≠ e.sp.exm then e.raiseOpen .divergent s
  else e.branchTo i m (e.offsetTo x) link s

/-- R328, R330: the direction of the forms with a target pair; `ret` says whether the return pair ends a section. -/
def Env.uniformBy (e : Env) (i : Instr) (p : Pre) (a : RegNo) (ua link ret : Bool) (s : State) : State :=
  let m := e.exm p
  let tgt := e.srcPair m a ua (Mask.lowest m)
  if m = 0 then e.retire i s
  else if m ≠ e.sp.exm then e.raiseOpen .divergent s
  else if !ua && (Mask.threads m).any fun t => e.pair a.toNat t ≠ tgt then e.raiseOpen .divergent s
  else if ret && e.serving && tgt = 0xFFFFFFFFFFFFFFFC then
    match e.who with
    | .lat lc _ => s.bump.endSection lc 0 0 0 0
    | _ => s
  else e.branchTo i m tgt link s

/-- R328 -/
def execBraUniform (p : Pre) (x : Word) (s : State) : Out :=
  act (.braUniform p x) s fun e s => e.uniformTo (.braUniform p x) p x false s
def execBrx (p : Pre) (a : RegNo) (ua : Bool) (s : State) : Out :=
  act (.brx p a ua) s fun e s => e.uniformBy (.brx p a ua) p a ua false false s
def execCall (p : Pre) (x : Word) (s : State) : Out :=
  act (.call p x) s fun e s => e.uniformTo (.call p x) p x true s
def execCalx (p : Pre) (a : RegNo) (ua : Bool) (s : State) : Out :=
  act (.calx p a ua) s fun e s => e.uniformBy (.calx p a ua) p a ua true false s
/-- R328, R330 -/
def execRet (p : Pre) (a : RegNo) (ua : Bool) (s : State) : Out :=
  act (.ret p a ua) s fun e s => e.uniformBy (.ret p a ua) p a ua false true s

/-! ### Division -/

/-- R315: the lowest free split number of a warp. -/
def Strand.freeSplit (st : Strand) : Option Nat :=
  (List.range 4).find? fun i => (st.split i).st = .free || (st.split i).st = .exited

/-- Puts a split in its place. -/
def Strand.putSplit (st : Strand) (n : Nat) (k : Split) : Strand :=
  if n < st.splits.length then { st with splits := setNth st.splits n k } else { st with splits := st.splits ++ [k] }

/-- R315: SCORE with its masks cut to some threads. -/
def cutScore (m : Mask) (es : List ScoreEntry) : List ScoreEntry :=
  (es.map fun e => { e with mask := e.mask &&& m }).filter fun e => e.mask ≠ 0

/-- R315: split k divides into the threads that take the branch, under number n, and the others. -/
def Strand.divide (st : Strand) (k n : Nat) (taken : Mask) (target join next : DWord) (key now : Nat) : Strand :=
  let sp := st.split k
  let rest := sp.exm &&& ~~~ taken
  let st := { st with joins := place st.joins key { joinAt := join, depth := sp.stack.length, expected := sp.exm } }
  let new := { sp with exm := taken, score := cutScore taken sp.score, jrec := key :: sp.jrec, mon := none,
                       paid := sp.paid, again := false, mark := none, passed := [], redo := false, fresh := false }
  let old := { sp with exm := rest, score := cutScore rest sp.score, jrec := key :: sp.jrec,
                       again := false, mark := none, passed := [], redo := false, fresh := false }
  (st.putSplit n { Split.go new target now with st := .ready }).putSplit k (Split.go old next now)

/-- R315: the split runs the taken threads first and keeps the others on its stack. -/
def Split.serialise (k : Split) (taken : Mask) (target join next : DWord) (now : Nat) : Split :=
  let k := { k with exm := taken, stack := { pc := next, mask := k.exm &&& ~~~ taken, joinAt := join } :: k.stack,
                    again := false, mark := none, passed := [], redo := false, fresh := false }
  Split.go k target now

/-- R403: a division splits a warp; a handler image is one split. -/
def Env.room (e : Env) : Option Nat :=
  match e.who with
  | .warp _ _ _ => e.st.freeSplit
  | _ => none

/-- R51: the switch marker parks a split that holds outstanding results. -/
def parkMarked (sw : Bool) (site : DWord) (k : Split) : Split :=
  if sw && k.busy then { k with st := .parked, park := some { reason := 1, cond := .score, site := site } } else k

/-- R315, R329 -/
def Env.divergent (e : Env) (i : Instr) (p : Pre) (x j : Word) (s : State) : State :=
  let m := e.exm p
  let tgt := e.offsetTo x
  let join := e.offsetTo j
  if m = 0 then e.retire i s
  else
    match targetCause tgt, targetCause join with
    | some c, _ => e.raise c tgt s
    | none, some c => e.raise c join s
    | none, none =>
      if m = e.sp.exm then e.goTo i tgt s
      else
        match e.room with
        | some n =>
          s.bump.mapStrand e.who fun st =>
            let st := st.divide e.k n m tgt join (e.next i) s.nextKey s.nextKey
            (st.mapSplit e.k (parkMarked p.sw e.sp.pc)).mapSplit n (parkMarked p.sw e.sp.pc)
        | none =>
          if 16 ≤ e.sp.stack.length then e.raiseOpen .joinOverflow s
          else s.bump.mapSplit e.who fun k => parkMarked p.sw e.sp.pc (k.serialise m tgt join (e.next i) s.nextKey)

/-- R315, R329 -/
def execBraDivergent (p : Pre) (x j : Word) (s : State) : Out :=
  act (.braDivergent p x j) s fun e s => e.divergent (.braDivergent p x j) p x j s

/-! ### Joining -/

/-- R316: the running split waits under its innermost record. -/
def Env.arrive (e : Env) (key : Nat) (sw : Bool) (s : State) : State :=
  s.bump.mapStrand e.who fun st =>
    let st := st.mapSplit e.k fun k =>
      { k with st := .parked, again := false, mark := none, passed := [], redo := false, park := some { reason := 2, cond := .joined } }
    let st := { st with joins := adjust st.joins key fun r => { r with arrived := r.arrived ||| e.sp.exm, sw := r.sw || sw } }
    let low := (st.members key).headD e.k
    let st := st.closeJoin key s.nextKey
    if (look st.joins key).isNone then st.mapSplit low e.charge else st

/-- R316: a `join` that closes no serialised division arrives under the innermost record, or passes on. -/
def Env.joinRecord (e : Env) (i : Instr) (sw : Bool) (s : State) : State :=
  match e.sp.jrec.head?, e.sp.jrec.head?.bind (look e.st.joins) with
  | some key, some r =>
    if r.joinAt = e.sp.pc && r.depth = e.sp.stack.length then e.arrive key sw s else e.retire i s
  | _, _ => e.retire i s

/-- R316, R331 -/
def execJoin (p : Pre) (s : State) : Out :=
  act (.join p) s fun e s =>
    match e.sp.stack with
    | top :: rest =>
      if top.joinAt = e.sp.pc then
        if top.mask ≠ 0 then
          e.goTo (.join p) top.pc (s.mapSplit e.who fun k =>
            { k with exm := top.mask, stack := { top with mask := 0, pending := top.pending ||| e.sp.exm } :: rest })
        else
          e.retire (.join p) (s.mapSplit e.who fun k => { k with exm := top.pending ||| e.sp.exm, stack := rest })
      else e.joinRecord (.join p) p.sw s
    | [] => e.joinRecord (.join p) p.sw s

/-! ### Ending threads -/

/-- R404: a handler that has lost every thread ends; the warp goes on. -/
def State.endHandler (s : State) (t w : Nat) : State :=
  if (s.strand? (.handler t w)).any fun st => st.live = 0 then s.resumeWarp t w else s

/-- R332, R361, R404: the acting threads have ended. -/
def State.exitThreads (s : State) (w : Who) (m : Mask) : State :=
  match w with
  | .warp t n _ => s.removeThreads t n m
  | .handler t n =>
    let s := s.mapStrand w fun st => st.remove m s.nextKey
    (s.removeThreads t n m).endHandler t n
  | .lat lc 0 => s.endSection lc 1 0 0 0
  | .lat lc th =>
    let s := s.mapStrand w fun st => st.remove m s.nextKey
    let h := (s.lc lc).thread th
    if h.main.live &&& ~~~ m = 0 || (h.handler.getD h.main).live = 0 then
      s.setLc lc ((s.lc lc).setThread th { h with active := false, handler := none })
    else s

/-- R332 -/
def execExit (p : Pre) (s : State) : Out :=
  act (.exit p) s fun e s =>
    let m := e.exm p
    let done (s : State) : State := ((e.retire (.exit p) s).exitThreads e.who m).mapSplit e.who fun k =>
      if k.st = .exited then { k with pc := e.sp.pc } else k
    if m = 0 then e.retire (.exit p) s
    else if e.handler then done s
    else
      e.deliver s (fun _ => true) fun s =>
        if e.sp.score.any fun x => x.mask &&& m ≠ 0 then e.hold 1 (.scoreOf m) s
        else e.drain false (fun s => s.release e.agent .dev e.releaser) done s

/-! ### Traps and breakpoints -/

/-- R334 -/
def execTrap (p : Pre) (code : Byte) (s : State) : Out :=
  act (.trap p code) s fun e s =>
    if e.exm p = 0 then e.retire (.trap p code) s
    else e.raiseAfter .explicit code.toNat (instrSize (.trap p code)) s

/-- R392: DBG of a context, as its block holds it. -/
def State.debugged (s : State) (c : Nat) : Bool := ((s.homeRead (s.ctx c).cblk 1).2.getD 0 0).getLsbD 6

/-- R335 -/
def execBrk (p : Pre) (tag : BitVec 7) (s : State) : Out :=
  act (.brk p tag) s fun e s =>
    let n := s.nameOf e.who e.sp.pc
    if e.exm p = 0 then e.retire (.brk p tag) s
    else
      let s := e.retire (.brk p tag) s
      if s.debugged e.ctxNo then
        (s.debugReport e.die { cause := 0x30, ctx := e.ctxNo, mode := 0, flags := bit n.async 0, tag := tag.toNat, site := n.site, seq := n.seq, team := n.team }).debugStop
          e.who 0
      else s.eventRecord e.ctxNo e.die 3 0 0x30 e.sp.pc 0 n tag.toNat

/-! ### Pacing and progress points -/

/-- R337: the split's waiting time starts anew as it goes on. -/
def execYieldw (p : Pre) (s : State) : Out := act (.yieldw p) s fun e s => e.retire (.yieldw p) s

/-- R338 -/
def execWait (p : Pre) (n : Num) (s : State) : Out :=
  act (.wait p n) s fun e s =>
    let clocks := (e.num (e.exm p) n).toNat
    if e.exm p = 0 || clocks = 0 || e.timedOut then e.retire (.wait p n) s
    else
      let left := match e.sp.again, e.sp.park with
        | true, some k => k.left
        | _, _ => some clocks
      e.hold 11 .clocks s left

/-- R339 -/
def execProg (p : Pre) (n : Num) (s : State) : Out :=
  act (.prog p n) s fun e s =>
    let k := (e.num (e.exm p) n).toNat % 16
    if e.exm p = 0 then e.retire (.prog p n) s
    else
      let x := s.ctx e.ctxNo
      e.retire (.prog p n) (s.setCtx e.ctxNo { x with prog := write 0 x.prog k (readOr 0 x.prog k + 1) })

end Sys2Proof.Machine
end

