-- ==== Sys2Proof/Machine/Sync.lean ====
section
/-! DEFINITION. The SYNC group but for `ship`: barriers, stage queues, the register pool and software interrupts
(R340 to R350). -/

namespace Sys2Proof.Machine

/-! ### Barriers -/

/-- R341: limits of a barrier's ID. -/
def idLimit : Level → Nat
  | .team => 16 | .band => 4 | .launch => 4 | .job => 64

/-- R260, R341: the scope of a level. -/
def levelScope : Level → Scope
  | .team => .team | .band => .die | .launch => .dev | .job => .sys

def levelCode : Level → Nat
  | .team => 0 | .band => 1 | .launch => 2 | .job => 3

def levelOf (n : Nat) : Level :=
  match n with
  | 0 => .team | 1 => .band | 2 => .launch | _ => .job

/-- The team of the running strand. -/
def State.teamOf (s : State) (e : Env) : Team := readOr {} s.teams e.team

/-- R341: the barrier of the running team's instance. -/
def State.barrier (s : State) (e : Env) (lvl : Level) (id : Nat) : Barrier :=
  let x := s.teamOf e
  match lvl with
  | .team => readOr {} x.bars id
  | .band => ((look s.launches x.launch).map fun l => readOr {} l.bandBars (4 * x.band + id)).getD {}
  | .launch => ((look s.launches x.launch).map fun l => readOr {} l.bars id).getD {}
  | .job => readOr {} (s.ctx x.ctx).jobBars id

def State.setBarrier (s : State) (e : Env) (lvl : Level) (id : Nat) (b : Barrier) : State :=
  let x := s.teamOf e
  match lvl with
  | .team => s.mapTeam e.team fun x => { x with bars := place x.bars id b }
  | .band => { s with launches := adjust s.launches x.launch fun l => { l with bandBars := place l.bandBars (4 * x.band + id) b } }
  | .launch => { s with launches := adjust s.launches x.launch fun l => { l with bars := place l.bars id b } }
  | .job => s.setCtx x.ctx { s.ctx x.ctx with jobBars := place (s.ctx x.ctx).jobBars id b }

/-- R341: the number of a thread among the participants of a level. -/
def State.barrierNo (s : State) (e : Env) (lvl : Level) (t : Nat) : Nat :=
  let n := 32 * e.warp + t
  match lvl with
  | .team => n
  | .band | .launch => 1024 * (s.teamOf e).idx + n
  | .job => 1024 * e.team + n

/-- R341: the limits of a barrier's level and ID, and the group entry of a job barrier. -/
def Env.barrierCause (_e : Env) (lvl : Level) (id : Nat) (s : State) : Option (Cause × Bool) :=
  if idLimit lvl ≤ id then some (.illegal, true)
  else if lvl = .job && (s.groupHere id).isNone then some (.permission, false)
  else none

/-- R341: goes on at a barrier that exists, or traps. -/
def Env.atBarrier (e : Env) (lvl : Level) (id : Nat) (s : State) (body : State → State) : State :=
  match e.barrierCause lvl id s with
  | some (c, pc) => e.raise c (if pc then e.sp.pc else 0) s
  | none => body s

/-- R342: one thread arrives. -/
def Barrier.arrive (b : Barrier) (n : Nat) (rmask : Byte) : Barrier :=
  let a := readOr 0 b.counts n
  { b with
    cur := if a = b.phase && b.cur.isNone then some rmask else b.cur,
    next := if a = b.phase + 1 && b.next.isNone then some rmask else b.next,
    counts := place b.counts n (a + 1) }

/-- R342: arrival counts of the acting threads. -/
def State.arrivals (s : State) (e : Env) (m : Mask) (lvl : Level) (id : Nat) : List Nat :=
  (Mask.threads m).map fun t => readOr 0 (s.barrier e lvl id).counts (s.barrierNo e lvl t)

/-- R342: the ticket of an arrival in a phase. -/
def ticket (lvl : Level) (id phase : Nat) : Word := BitVec.ofNat 32 (phase % 2 ^ 24 * 256 + levelCode lvl * 64 + id)

/-- R343: has phase p completed. -/
def phaseDone (c p : Nat) : Bool :=
  let d := (c + 2 ^ 24 - p % 2 ^ 24) % 2 ^ 24
  1 ≤ d && d < 2 ^ 23

/-- R342: the acting threads arrive. -/
def State.arriveAll (s : State) (e : Env) (m : Mask) (lvl : Level) (id : Nat) (rmask : Byte) : State :=
  let b := (Mask.threads m).foldl (fun b t => b.arrive (s.barrierNo e lvl t) rmask) (s.barrier e lvl id)
  (s.setBarrier e lvl id b).settleBarriers e.team

/-- R260, R342: waits until no acting thread is two phases ahead, releases, and goes on. -/
def Env.beforeArrival (e : Env) (m : Mask) (lvl : Level) (id : Nat) (s : State) (body : State → State) : State :=
  let c := (s.barrier e lvl id).phase
  let early := (s.arrivals e m lvl id).filter fun a => c + 2 ≤ a
  if early.isEmpty then
    e.drain (lvl = .job) (fun s => s.release e.agent (levelScope lvl) e.releaser) body s
  else e.hold 3 (.barrier lvl id (early.map fun a => a - 2) false) s

/-- R342 -/
def execBara (p : Pre) (d : RegNo) (id : Num) (lvl : Level) (rmask : Byte) (s : State) : Out :=
  act (.bara p d id lvl rmask) s fun e s =>
    let m := e.exm p
    let n := (e.num m id).toNat % 64
    if m = 0 then e.retire (.bara p d id lvl rmask) s
    else
      e.atBarrier lvl n s fun s => e.beforeArrival m lvl n s fun s =>
        let s' := e.setAll m d (fun t => ticket lvl n (readOr 0 (s.barrier e lvl n).counts (s.barrierNo e lvl t))) s
        (e.retire (.bara p d id lvl rmask) s').arriveAll e m lvl n rmask

/-- R343: the status of a completed phase. -/
def Barrier.status (b : Barrier) (p : Nat) : Word := if b.failed.any fun q => q % 2 ^ 24 = p % 2 ^ 24 then 1 else 0

/-- R343: waits for the phases of the acting threads, acquires, and writes the status. -/
def Env.awaitPhases (e : Env) (i : Instr) (m : Mask) (d : RegNo) (lvl : Level) (id : Nat) (arrived : Bool) (p : Nat → Nat)
    (s : State) : State :=
  let b := s.barrier e lvl id
  let ps := (Mask.threads m).map p
  if ps.all fun q => phaseDone b.phase q then
    e.retire i (e.setAll m d (fun t => b.status (p t)) (s.acquire e.agent e.ctx.asid (levelScope lvl) e.releaser))
  else e.hold 3 (.barrier lvl id ps arrived) s

/-- R343 -/
def execBarw (p : Pre) (d a : RegNo) (s : State) : Out :=
  act (.barw p d a) s fun e s =>
    let m := e.exm p
    let k := (e.one m a).toNat
    if m = 0 then e.retire (.barw p d a) s
    else
      e.atBarrier (levelOf (k / 64 % 4)) (k % 64) s fun s =>
        e.awaitPhases (.barw p d a) m d (levelOf (k / 64 % 4)) (k % 64) false (fun t => (e.reg a.toNat t).toNat / 256) s

/-- R343: has the running `bars` arrived already. -/
def Env.hasArrived (e : Env) : Bool :=
  e.sp.again && (match e.sp.park with | some k => (match k.cond with | .barrier _ _ _ arrived => arrived | _ => false) | none => false)

/-- R343 -/
def execBars (p : Pre) (d : RegNo) (id : Num) (lvl : Level) (rmask : Byte) (s : State) : Out :=
  act (.bars p d id lvl rmask) s fun e s =>
    let m := e.exm p
    let n := (e.num m id).toNat % 64
    let wait (s : State) : State :=
      e.awaitPhases (.bars p d id lvl rmask) m d lvl n true
        (fun t => readOr 0 (s.barrier e lvl n).counts (s.barrierNo e lvl t) - 1) s
    if m = 0 then e.retire (.bars p d id lvl rmask) s
    else if e.hasArrived then wait s
    else e.atBarrier lvl n s fun s => e.beforeArrival m lvl n s fun s => wait (s.arriveAll e m lvl n rmask)

/-! ### Stage queues -/

/-- R347, R348: the launch and the stage for which the running strand uses queues. -/
def State.queueSide (s : State) (e : Env) : Option (Nat × Nat) :=
  match e.who with
  | .warp _ _ _ | .handler _ _ => (look s.teams e.team).map fun x => (x.launch, x.stage)
  | .lat lc 0 => ((s.lc lc).t0.serving).bind fun r => if r.srcDev = s.dev then some (r.launch, r.stage) else none
  | .lat _ _ => none

def State.queue (s : State) (l q : Nat) : Option Queue := (look s.launches l).bind fun x => look x.record.queues q

def State.mapQueue (s : State) (l q : Nat) (f : Queue → Queue) : State :=
  { s with launches := adjust s.launches l fun x => { x with record := { x.record with queues := adjust x.record.queues q f } } }

/-- R311: has every team of a stage exited. -/
def State.stageOver (s : State) (l st : Nat) : Bool :=
  match look s.launches l with
  | none => true
  | some x =>
    match x.record.stages[st]? with
    | none => true
    | some g => g.teams ≤ ((s.teamsOf l).filter fun (_, t) => t.stage = st && t.exited).length

/-- R311: is a queue closed to its producers, or to its consumers. -/
def State.queueClosed (s : State) (l : Nat) (q : Queue) (push : Bool) : Bool :=
  (List.range 8).all (fun st => !(if push then q.cons else q.prod).getLsbD st || s.stageOver l st) && (push || q.items.isEmpty)

/-- R348: does an actor still wait at a queue. -/
def State.waitsAt (s : State) (w : Who) (c : Wake) : Bool :=
  match s.strand? w with
  | some st =>
    let k := st.split (splitNo w)
    k.again && (match k.park with | some p => p.cond = c | none => false)
  | none => false

/-- R348: who waits at a queue, in the order in which they parked. -/
def State.queueWaiters (s : State) (q : Queue) (n : Nat) (push : Bool) : List Who :=
  (if push then q.pushWait else q.popWait).filter fun w => s.waitsAt w (if push then .queueRoom n else .queueElement n)

/-- R347, R348: may an actor move an element now: the oldest that waits goes first. -/
def State.queueGo (s : State) (q : Queue) (n : Nat) (push : Bool) (w : Who) : Bool :=
  let ws := s.queueWaiters q n push
  let there := if push then q.depth - q.items.length else q.items.length
  if ws.contains w then ws.head? = some w && 0 < there else ws.length < there

/-- R347: an element's bytes in memory, as plain `cb` reads; far ones are asked for first. -/
def State.elementRead (s : State) (e : Env) (key : Nat) (ps : List Piece) : State × Option (List Byte) :=
  let o : Origin := { key := key, ctx := e.ctxNo, die := e.die, who := some e.who, site := e.sp.pc }
  match s.gatherAfter e.agent o ps with
  | (s, none) => (s, none)
  | (s, some got) =>
    let held (p : Piece) : Option (List Byte) :=
      if p.at_.nc || p.at_.ord = 1 || p.at_.dev ≠ s.dev then none
      else s.hit e.agent e.ctx.asid (lineNo p.at_.dev p.at_.pa) (p.at_.pa % 128) p.bytes
    ({ s with fetched := unlist s.fetched key }, some (got.flatMap fun g => (held g.1).getD g.2))

/-- R347: the checked range of an element: scratchpad, or pieces of memory, which the element's move then touches. -/
def Env.elementRange (e : Env) (push spm : Bool) (addr : DWord) (n : Nat) (s : State)
    (body : List Piece → State → State) : State :=
  if addr.toNat % 4 ≠ 0 then e.raise .misaligned addr s
  else if spm then
    let (k, size) := s.ownSpad e
    if k.isNone || size < addr.toNat + n then e.raise .permission addr s
    else if push && s.tileOver e.team .prov addr.toNat n then e.raise .speculation addr s
    else body [] s
  else
    let (s, sp) := e.space s
    let m := Mask.lowest e.sp.exm
    let ws : List Want := (List.range (n / 4)).map fun j => { thread := m, va := addr.toNat + 4 * j, bytes := 4 }
    e.checked (if push then .read else .write) (s.tryAll sp (if push then .read else .write) ws) body

/-- R10, R413: the accesses of an element take place. -/
def Env.touchElement (e : Env) (push : Bool) (ps : List Piece) (s : State) : State × List Piece :=
  match s.touchAll e.agent (if push then .read else .write) (.ok ps) with
  | (s, .ok ps) => (s, ps)
  | (s, _) => (s, ps)

/-- R348: has the running queue instruction waited at its queue; what it releases or orders came before. -/
def Env.hasQueued (e : Env) (q : Nat) (push : Bool) : Bool :=
  e.sp.again && e.sp.park.map Park.cond = some (if push then .queueRoom q else .queueElement q)

/-- R347: does the head slot of a queue hold an uncorrectable error. -/
def State.slotPoisoned (s : State) (e : Env) (q : Queue) : Bool :=
  let va := q.base.toNat + q.elem * (q.head % q.depth)
  (pieces va q.elem).any fun (a, n) =>
    match s.walk a 5 e.ctx.ptbase with
    | .leaf p level _ => (leafPlace a level p).dev = s.dev && s.poisoned (leafPlace a level p).pa n
    | _ => false

/-- R301, R8: the words of the head element; after a thread's store to the storage they are free. -/
def State.headWords (s : State) (q : Queue) : State × List Word :=
  let ws := q.items.headD []
  if q.spoiled then (s.spend ws.length, (List.range ws.length).map fun j => Config.freeWord (s.oracle + j)) else (s, ws)

/-- R347: the status of a queue instruction is written, and it goes on. -/
def Env.queueDone (e : Env) (i : Instr) (d : RegNo) (v : Word) (s : State) : State :=
  e.retire i (e.setAll e.sp.exm d (fun _ => v) s)

/-- R347: a queue that the running strand may use on this side. -/
def Env.queueFor (e : Env) (q : Nat) (push : Bool) (s : State) (body : Nat → Queue → State → State) : State :=
  match s.queueSide e with
  | none => e.raise .permission 0 s
  | some (l, st) =>
    match s.queue l q with
    | some x => if (if push then x.prod else x.cons).getLsbD st then body l x s else e.raise .permission 0 s
    | none => e.raise .permission 0 s

/-- R347: closed, full or empty, or the element moves. -/
def Env.queueTry (e : Env) (i : Instr) (d : RegNo) (l q : Nat) (x : Queue) (push nb : Bool) (move : State → State) (s : State) : State :=
  if s.queueClosed l x push then e.queueDone i d 1 s
  else if s.queueGo x q push e.who then move s
  else if nb then e.queueDone i d 2 s
  else
    let ws := s.queueWaiters x q push
    let ws := if ws.contains e.who then ws else ws ++ [e.who]
    let s := s.mapQueue l q fun x => if push then { x with pushWait := ws } else { x with popWait := ws }
    e.hold 4 (if push then .queueRoom q else .queueElement q) s

/-- R347: the operand A of a queue instruction. -/
def Env.elementAt (e : Env) (a : RegNo) (spm : Bool) : DWord :=
  if spm then (e.one e.sp.exm a).setWidth 64 else e.onePair e.sp.exm a

/-- R348: does the running strand serve a section whose sender is on another device. -/
def State.farSender (s : State) (e : Env) : Bool :=
  match e.who with
  | .lat lc 0 => ((s.lc lc).t0.serving).any fun r => r.srcDev ≠ s.dev
  | _ => false

/-- R347: an element's bytes go to their range. -/
def Env.putElement (e : Env) (p : Pre) (spm : Bool) (addr : DWord) (ps : List Piece) (bs : List Byte) (s : State) : State :=
  if spm then s.spadWrite e e.team (Mask.lowest e.sp.exm) addr.toNat bs
  else ps.foldl (fun s k => s.storePiece e { p := p, rt := .cb } k.bytes k ((bs.drop (k.va - addr.toNat)).take k.bytes)) s

/-- R347, R348: a queue of a launch on another device. DESIGN CHOICE (log 119): how it is reached is not given: whether the
launch has the queue, the size of its elements, whether it is closed, full or empty, and what it holds are free. -/
def Env.farQueue (e : Env) (i : Instr) (p : Pre) (d : RegNo) (q : BitVec 4) (push spm nb : Bool) (addr : DWord) (s : State) : State :=
  let choice := Config.pick s.oracle % 4
  let n := 4 * (1 + Config.pick (s.oracle + 1) % 128)
  let s := s.spend 2
  if choice = 0 then e.raise .permission 0 s
  else
    e.elementRange push spm addr n s fun ps s =>
      if choice = 1 then e.queueDone i d 1 s
      else if choice = 2 then
        if nb then e.queueDone i d 2 s else e.hold 4 (if push then .queueRoom q.toNat else .queueElement q.toNat) s
      else if push then
        match ps.find? fun p => s.poisonedAt p with
        | some p => e.raise .dataError (BitVec.ofNat 64 p.va) s
        | none => e.queueDone i d 0 (e.touchElement push ps s).1
      else
        let (s, ps) := e.touchElement push ps s
        let bs := freeBytes s.oracle n
        e.queueDone i d 0 ((e.putElement p spm addr ps bs (s.spend n)).acquire e.agent e.ctx.asid .dev e.releaser)

/-- R347, R348 -/
def execQpush (p : Pre) (d a : RegNo) (q : BitVec 4) (spm nb : Bool) (s : State) : Out :=
  act (.qpush p d a q spm nb) s fun e s =>
    let i := Instr.qpush p d a q spm nb
    if e.sp.exm = 0 then e.retire i s
    else if s.farSender e then
      let go (s : State) : State := e.farQueue i p d q true spm nb (e.elementAt a spm) s
      if e.hasQueued q.toNat true then go s else e.drain false (fun s => s.release e.agent .dev e.releaser) go s
    else
      e.queueFor q.toNat true s fun l x s =>
        e.elementRange true spm (e.elementAt a spm) x.elem s fun ps s =>
          let move (s : State) : State :=
            match ps.find? fun p => s.poisonedAt p with
            | some p => e.raise .dataError (BitVec.ofNat 64 p.va) s
            | none =>
              let key := e.waitingOp.getD s.nextKey
              let (s, ps) := e.touchElement true ps s
              let (s, bs) :=
                if spm then (s, some (s.spadRead e.team (e.elementAt a spm).toNat x.elem)) else s.elementRead e key ps
              match bs with
              | none => e.hold 10 (.operation key) s
              | some bs =>
                let s := (s.mapQueue l q.toNat fun x =>
                  { x with items := x.items ++ [recordWords bs], pushWait := x.pushWait.filter (· ≠ e.who) }).spend (if spm then 1048576 else 0)
                e.queueDone i d 0 s
          let go (s : State) : State := e.queueTry i d l q.toNat x true nb move s
          if e.waitingOp.isSome || e.hasQueued q.toNat true then go s else e.drain false (fun s => s.release e.agent .dev e.releaser) go s

/-- R347, R348 -/
def execQpop (p : Pre) (d a : RegNo) (q : BitVec 4) (spm nb : Bool) (s : State) : Out :=
  act (.qpop p d a q spm nb) s fun e s =>
    let i := Instr.qpop p d a q spm nb
    if e.sp.exm = 0 then e.retire i s
    else if s.farSender e then e.farQueue i p d q false spm nb (e.elementAt a spm) s
    else
      e.queueFor q.toNat false s fun l x s =>
        e.elementRange false spm (e.elementAt a spm) x.elem s fun ps s =>
          let go (s : State) : State := e.queueTry i d l q.toNat x false nb (fun s =>
            if s.slotPoisoned e x then e.raiseOpen .dataError s
            else
              let (s, ps) := e.touchElement false ps s
              let (s, ws) := s.headWords x
              let bs := ws.flatMap fun w => le 4 w.toNat
              let s := s.mapQueue l q.toNat fun x =>
                { x with items := x.items.tail, head := x.head + 1, spoiled := x.spoiled && 1 < x.items.length,
                         popWait := x.popWait.filter (· ≠ e.who) }
              let s := e.putElement p spm (e.elementAt a spm) ps bs s
              e.queueDone i d 0 (s.acquire e.agent e.ctx.asid .dev e.releaser)) s
          if e.hasQueued q.toNat false then go s else e.ordered (ps.any (orderedAt s.dev)) go s

/-! ### The register pool -/

/-- R349: a count that `rgive` and `rclaim` accept. -/
def countOk (n : Nat) : Bool := n % 8 = 0 && 8 ≤ n && n ≤ 128

/-- R349: the register count of the warp. -/
def State.warpCount (s : State) (e : Env) : Nat := (((s.teamOf e).warps[e.warp]?).map fun w => w.main.nreg).getD 0

/-- R182: does an outstanding task of the warp hold a register at or above n. -/
def State.taskHolds (s : State) (e : Env) (n : Nat) : Bool := (s.accBases (.warp e.team e.warp 0)).any fun ab => n ≤ ab + 63

/-- R349: registers of all threads by number. -/
def Strand.dropRegs (st : Strand) (lo : Nat) : Strand := { st with regs := keep st.regs fun k _ => k / 32 < lo }

/-- R349 -/
def execRgive (p : Pre) (n : Num) (s : State) : Out :=
  act (.rgive p n) s fun e s =>
    let k := (e.num e.sp.exm n).toNat % 256
    let old := s.warpCount e
    if e.sp.exm = 0 then e.retire (.rgive p n) s
    else if !countOk k || old < k then e.raise .illegal e.sp.pc s
    else if s.taskHolds e k && k ≠ old then e.raiseOpen .tileState s
    else if e.sp.busy then e.hold 1 .score s
    else
      let s := s.mapWarp e.team e.warp fun w => { w with main := { w.main with nreg := k }.dropRegs k }
      e.retire (.rgive p n) (s.mapTeam e.team fun x => { x with pool := x.pool + (old - k) })

/-- R349: the place of the running split among the splits of its team. -/
def Env.claimant (e : Env) : Nat × Nat := (e.warp, if e.handler then 4 else e.k)

/-- R349: does an earlier `rclaim` of the team wait. -/
def State.claimBefore (s : State) (e : Env) : Bool :=
  let waits := (s.teamOf e).claims.filter fun (w, k, n) =>
    s.waitsAt (if k = 4 then .handler e.team w else .warp e.team w k) (.registers n)
  match waits with
  | (w, k, _) :: _ => (w, k) ≠ e.claimant
  | [] => false

/-- R349 -/
def execRclaim (p : Pre) (d : RegNo) (n : Num) (nb : Bool) (s : State) : Out :=
  act (.rclaim p d n nb) s fun e s =>
    let i := Instr.rclaim p d n nb
    let k := (e.num e.sp.exm n).toNat % 256
    let old := s.warpCount e
    let put (limit : Nat) (v : Word) (s : State) : State :=
      if limit < upTo d 1 then e.raise .beyondCount e.sp.pc s else e.retire i (e.setAll e.sp.exm d (fun _ => v) s)
    if e.sp.exm = 0 then e.retire i s
    else if !countOk k || k < old then e.raise .illegal e.sp.pc s
    else if k = old then put (if e.handler then 128 else old) 1 s
    else if (s.teamOf e).pool < k - old || s.claimBefore e then
      if nb then put (if e.handler then 128 else old) 0 s
      else if (if e.handler then 128 else k) < upTo d 1 then e.raise .beyondCount e.sp.pc s
      else
        let me := e.claimant
        let s := s.mapTeam e.team fun x =>
          if x.claims.any fun c => (c.1, c.2.1) = me then x else { x with claims := x.claims ++ [(me.1, me.2, k)] }
        e.hold 13 (.registers k) s
    else if (if e.handler then 128 else k) < upTo d 1 then e.raise .beyondCount e.sp.pc s
    else
      let me := e.claimant
      let s := s.mapTeam e.team fun x => { x with pool := x.pool - (k - old), claims := x.claims.filter fun c => (c.1, c.2.1) ≠ me }
      let s := s.mapWarp e.team e.warp fun w => { w with main := { w.main with nreg := k }.dropRegs old }
      e.retire i (e.setAll e.sp.exm d (fun _ => 1) s)

/-! ### Software interrupts -/

/-- R418: an event that stands in a die's service ring. -/
def State.svSlot (s : State) (d k : Nat) : Nat × Nat :=
  let base := (s.fqDword d 0x10).2
  let size := (s.fqWord d 0x18).2
  let w := leNat (s.homeRead (base + 32 * (k % size)) 4).2
  (w % 256, w / 256 % 64)

/-- R350: `sint .svc` events of a context that the service of a die has not taken. -/
def State.svPending (s : State) (d c : Nat) : Nat :=
  if (s.die d).fqbase = 0 then 0
  else
    let size := (s.fqWord d 0x18).2
    let tail := (s.fqWord d 0x1C).2
    let head := (s.fqWord d 0x20).2
    let n := if size = 0 then 0 else min ((tail + 2 ^ 32 - head) % 2 ^ 32) size
    ((List.range n).filter fun k => s.svSlot d (head + k) = (2, c)).length +
    ((s.die d).heldSv.filter fun v => v.kind = 2 && v.ctx = c).length

/-- R350: events of a context that their targets have not taken. -/
def State.sintsOf (s : State) (c : Nat) : Nat := (s.ctx c).sints + ((List.range 4).map fun d => s.svPending d c).sum

/-- R350: the body of a host event of class 2. -/
def Env.sintBody (e : Env) (a : Word) (s : State) : List Byte :=
  let n := s.nameOf e.who e.sp.pc
  le 4 a.toNat ++ le 4 e.ctxNo ++ le 4 e.ctx.asid ++ le 4 s.dev ++ le 4 n.team.toNat ++ le 4 n.seq.toNat ++ le 8 n.site.toNat

/-- R350 -/
def execSint (p : Pre) (a : RegNo) (svc : Bool) (s : State) : Out :=
  act (.sint p a svc) s fun e s =>
    let i := Instr.sint p a svc
    let v := e.one e.sp.exm a
    if e.sp.exm = 0 then e.retire i s
    else
      e.drain (!svc) (fun s => s.release e.agent (if svc then .dev else .sys) e.releaser) (fun s =>
        if 64 ≤ s.sintsOf e.ctxNo then e.hold 10 .sints s
        else if svc then
          let n := s.nameOf e.who e.sp.pc
          e.retire i (s.serviceEvent e.die { kind := 2, ctx := e.ctxNo, arg := v, site := n.site, seq := n.seq, team := n.team })
        else
          let x := s.ctx e.ctxNo
          let s' := if s.hub.evWait.length < 256 then s.setCtx e.ctxNo { x with sints := x.sints + 1 } else s
          e.retire i (s'.hostEvent (s.hostWord (some e.ctxNo)) 2 [] (e.sintBody v s))) s

end Sys2Proof.Machine
end

