-- ==== Sys2Proof/Machine/Tasks.lean ====
section
/-! DEFINITION. Tile tasks: `post`, the task scheduler and the matrix engines (R170 to R182, R201 to R204). -/

namespace Sys2Proof.Machine

/-! ### Records (R170) -/

def recSpec (r : List Word) : Bool := recField r 0 8 1 = 1
def recAccz (r : List Word) : Bool := recField r 0 9 1 = 1
def recRm (r : List Word) : Rm :=
  match recField r 0 10 2 with
  | 0 => .rn | 1 => .rz | 2 => .rd | _ => .ru
def recNdep (r : List Word) : Nat := recField r 0 16 4
def recTa (r : List Word) : Nat := recField r 1 0 8
def recTb (r : List Word) : Nat := recField r 1 8 8
def recTo (r : List Word) : Nat := recField r 1 16 8
def recK (r : List Word) : Nat := recField r 3 0 16
def recDa (r : List Word) : Nat := recField r 4 0 8
def recDb (r : List Word) : Nat := recField r 4 8 8
def recDo (r : List Word) : Nat := recField r 4 16 8
def recDeps (r : List Word) : List Nat := (List.range (recNdep r)).map fun i => (r.getD (6 + i) 0).toNat

/-- R172 step 2: reserved fields, KIND and NDEP. -/
def recReserved (r : List Word) : Bool :=
  recField r 0 4 4 ≠ 0 || recField r 0 12 4 ≠ 0 || recField r 0 20 12 ≠ 0 || recField r 1 24 8 ≠ 0 || recField r 2 5 3 ≠ 0 ||
  recField r 2 15 17 ≠ 0 || recField r 3 16 16 ≠ 0 || recField r 4 24 8 ≠ 0 || r.getD 5 0 ≠ 0 || 5 < recKind r || 10 < recNdep r

/-- R171: fields that the kind does not use are zero. -/
def recUnused (r : List Word) : Bool :=
  match recKind r with
  | 0 | 1 | 2 => recField r 0 10 2 = 0 && recTo r = 0 && recDo r = 0
  | k =>
    !recAccz r && recTb r = 0 && recDb r = 0 && recAw r = 0 && recAb r = 0 && recK r = 0 &&
    (k = 3 || recField r 0 10 2 = 0) && (k ≠ 5 || (recTa r = 0 && recDa r = 0))

/-- Input tiles of a task with their descriptor numbers, and its output. -/
def recInputs (r : List Word) : List (Nat × Nat) :=
  match recKind r with
  | 0 | 1 | 2 => [(recTa r, recDa r), (recTb r, recDb r)]
  | 5 => []
  | _ => [(recTa r, recDa r)]

def recOutput (r : List Word) : Option (Nat × Nat) := if recAcc r then none else some (recTo r, recDo r)

/-- R171: formats of a matrix product. -/
def mmaFormats (a b : Nat) : Bool :=
  let real (f : Nat) : Bool := f ≤ 4 || (7 ≤ f && f ≤ 13)
  (real a && real b) || ((a = 5 || a = 6) && (b = 5 || b = 6))

/-- R171: shapes and formats of a record over its tiles; fa, fb, fo are the formats and a, b, o the bindings. -/
def shapesOk (r : List Word) (fa fb fo : Nat) (a b o : List Word) : Bool :=
  let k := recK r
  let ab : Bool := recAb r % 8 = 0 && 8 ≤ recAb r && recAb r ≤ 64
  let product : Bool := specRows a = 64 && specCols a = k && specRows b = k && specCols b = 32
  match recKind r with
  | 0 => mmaFormats fa fb && product && ab && 1 ≤ k && k ≤ 512 && (k % 32 = 0 || !(fmtScaled fa || fmtScaled fb))
  | 1 | 2 => fa = 14 && fb = 14 && product && ab && k % 512 = 0 && 512 ≤ k && k ≤ 4096
  | 3 => fa ≠ 14 && fo ≠ 14 && specRows a = specRows o && specCols a = specCols o
  | 4 => fa = fo && (fa ≤ 6 || fa = 15 || fa = 16) && specRows o = specCols a && specCols o = specRows a
  | _ => true

/-- R172 step 3: is an input tile in a state that the record accepts. -/
def inputOk (r : List Word) (d : List Word) (k : Tile) : Bool :=
  match k.st with
  | .filling | .ready => true
  | .prov => recSpec r || descFc d
  | _ => false

/-- R172: the first failing check of a record after its alignment. DEDUCED (log 111): step 5 is for kinds with accumulators. -/
def State.recordCause (s : State) (c : Nat) (x : Team) (r : List Word) : Option Cause :=
  let d (n : Nat) : List Word := (s.desc c n).getD []
  let tile (n : Nat) : Tile := readOr {} x.tiles n
  let ins := recInputs r
  let outs := (recOutput r).toList
  let fmt (p : Option (Nat × Nat)) : Nat := (p.map fun p => descFmt (d p.2)).getD 0
  let spec (p : Option (Nat × Nat)) : List Word := (p.map fun p => (tile p.1).spec).getD []
  let all := ins ++ outs
  if recReserved r then some .tileState
  else if !recUnused r || all.any (fun p => (look x.tiles p.1).isNone || specDesc (tile p.1).spec ≠ p.2) then some .tileState
  else if !shapesOk r (fmt ins[0]?) (fmt ins[1]?) (fmt outs[0]?) (spec ins[0]?) (spec ins[1]?) (spec outs[0]?) then some .tileState
  else if ins.any (fun p => !inputOk r (d p.2) (tile p.1)) || outs.any (fun p => (tile p.1).st ≠ .empty) then some .tileState
  else if all.any fun p => specLoc (tile p.1).spec = 0 && !x.holds (specSlot (tile p.1).spec) then some .vatSlot
  else if recAcc r && (match x.warps[recAw r]? with | some w => w.main.nreg ≤ recAb r + 63 | none => true) then some .beyondCount
  else if (recDeps r).any fun v => (x.current (BitVec.ofNat 32 v)).isNone then some .invalidToken
  else none

/-- R173: an accepted record: its inputs are pinned, its output fills. -/
def Team.accept (x : Team) (key : Nat) (r : List Word) : Team :=
  let tiles := (recInputs r).foldl (fun ts p => adjust ts p.1 fun k => { k with pins := k.pins ++ [key] }) x.tiles
  { x with tiles := (recOutput r).toList.foldl (fun ts p =>
      adjust ts p.1 fun k => { k with st := .filling, op := some key, raced := [] }) tiles }

/-- R173 -/
def execPost (p : Pre) (d a : RegNo) (sc : Scope) (s : State) : Out :=
  act (.post p d a sc) s fun e s =>
    let i := Instr.post p d a sc
    let m := e.exm p
    e.readRecord i m a 64 64 s fun addr bs s =>
      let r := recordWords bs
      match look s.teams e.team with
      | none => e.retire i s
      | some x =>
        match s.recordCause e.ctxNo x r with
        | some c => e.raise c addr s
        | none =>
          let key := s.nextKey
          e.takeToken d m sc key s.bump fun tok s =>
            let s := s.release e.agent sc e.releaser
            let (s, seq) := s.command e.agent e.ctxNo
            let desc (n : Nat) : List Word := (s.desc e.ctxNo n).getD []
            let older := ((x.warps[recAw r]?).map fun w => w.main.older).getD []
            let k : Task :=
              { ctx := e.ctxNo, team := e.team, core := x.core.getD 0, warp := e.warp, order := key, record := r,
                descs := [desc (recDa r), desc (recDb r), desc (recDo r)], token := tok, deps := recDeps r, sc := sc, who := e.who,
                mark := s.nextKey, site := e.sp.pc, seq := seq, older := older }
            e.retire i ({ s with tasks := place s.tasks key k }.mapTeam e.team fun x => x.accept key r)

/-! ### The scheduler (R174, R201 to R203) -/

/-- R174: has a dependence token completed. -/
def Team.depDone (x : Team) (v : Nat) : Bool :=
  match look x.tokens (v % 1024) with
  | some k => k.gen.toNat ≠ v / 1024 || k.done
  | none => true

/-- R174: do two tasks update registers in common. -/
def sameRange (a b : List Word) : Bool :=
  recAcc a && recAcc b && recAw a = recAw b && recAb a ≤ recAb b + 63 && recAb b ≤ recAb a + 63

/-- R174: earlier tasks of the team on an overlapping range that have not completed. -/
def State.earlier (s : State) (key : Nat) (k : Task) : List (Nat × Task) :=
  s.tasks.filter fun (n, t) => t.team = k.team && n < key && sameRange t.record k.record

/-- R201: the check set of a task as it would issue now. -/
def State.taskSet (s : State) (key : Nat) (k : Task) : List Nat :=
  let tiles := ((look s.teams k.team).map Team.tiles).getD []
  let ins := (recInputs k.record).flatMap fun p => ((look tiles p.1).map Tile.sets).getD []
  let range := match (s.earlier key k).getLast? with
    | some (_, t) => t.sets
    | none => []
  (ins ++ range).dedup

/-- R202: may a task take an input as it stands; a prediction must have been written (R196). -/
def State.inputReady (s : State) (r : List Word) (k : Tile) : Bool :=
  match k.st with
  | .ready => true
  | .prov => recSpec r && (match k.own with | some c => (match look s.checks c with | some x => x.written | none => true) | none => true)
  | _ => false

/-- R174, R202, R203: may a task issue. -/
def State.issuable (s : State) (core key : Nat) (k : Task) : Bool :=
  match look s.teams k.team with
  | none => false
  | some x =>
    x.core = some core && !k.running && !k.ended && !k.deferred && k.fault.isNone &&
    k.deps.all x.depDone &&
    (recInputs k.record).all (fun p => s.inputReady k.record (readOr {} x.tiles p.1)) &&
    (s.earlier key k).all (fun (_, t) => recSpec k.record && t.ended) &&
    (s.taskSet key k).length ≤ 4

/-- R174: the task that issues next on a core, with a free engine. -/
def State.nextTask (s : State) (core : Nat) : Option (Nat × Task × Nat) :=
  let busy := (s.tasks.filter fun (_, t) => t.core = core && t.running).map fun (_, t) => t.engine
  match [0, 1].find? fun n => !busy.contains n with
  | none => none
  | some n => (s.tasks.find? fun (key, t) => s.issuable core key t).map fun (key, t) => (key, t, n)

/-- R180: the values that the shadow may take for one register of a thread. -/
def shadowChoices (st : Strand) (older : List (Nat × Word)) (n : Nat) : List Word :=
  readOr 0 st.regs n :: (((older ++ st.older).filter fun p => p.1 = n).map Prod.snd)

/-- R175, R180: the shadow copy of 64 registers from `ab` on, by 32 × row + thread. -/
def shadowOf (st : Strand) (older : List (Nat × Word)) (ab oracle : Nat) : Sparse Word :=
  (List.range 2048).map fun i =>
    let vs := shadowChoices st older (32 * ab + i)
    (i, vs.getD (Config.pick (oracle + i) % vs.length) 0)

/-- R174, R175 -/
def execTaskIssue (core : Nat) (s : State) : Out :=
  match s.nextTask core with
  | none => .next s.bump
  | some (key, k, n) =>
    let st := (((look s.teams k.team).bind fun x => x.warps[recAw k.record]?).map Warp.main).getD {}
    let shadow := if recAcc k.record then shadowOf st k.older (recAb k.record) s.oracle else []
    .next { (s.bump.spend 2048) with
      tasks := place s.tasks key { k with running := true, started := true, engine := n, core := core, sets := s.taskSet key k, shadow := shadow } }

/-! ### What engines read and write -/

/-- R152, R161: a byte of a team's vat slot; one that nothing has written is free. -/
def Team.vatByte (x : Team) (slot off : Nat) : Byte :=
  match look x.vat (16384 * slot + off) with
  | some b => b
  | none =>
    match look x.vatFree slot with
    | some n => (Config.freeWord (n + off / 4)).extractLsb' (8 * (off % 4)) 8
    | none => 0

/-- R180: a scratchpad byte as an engine sees it: written before the last `opfence`, or perhaps replaced since. -/
def Team.spadByte (x : Team) (older : List (Nat × Byte)) (off oracle : Nat) : Byte :=
  let vs := readOr 0 x.spad off ::
    ((older.filter fun p => p.1 = off).map Prod.snd ++ (x.spadOlder.filter fun p => p.2.2.1 = off).map fun p => p.2.2.2)
  vs.getD (Config.pick (oracle + off) % vs.length) 0

/-- R155: the bytes of a tile's location. -/
def Team.tileBytes (x : Team) (older : List (Nat × Byte)) (sp : List Word) (n oracle : Nat) : List Byte :=
  (List.range n).map fun i =>
    if specLoc sp = 0 then x.vatByte (specSlot sp) (specOfs sp + i) else x.spadByte older (specOfs sp + i) oracle

/-- A tile's contents: rows as numbers, and scale bytes by 32-column blocks. -/
structure Grid where
  fmt    : Nat
  rows   : List Nat
  scales : List (List Nat)
  deriving DecidableEq, Repr

/-- R155: the contents of a tile from its bytes. -/
def gridOf (f : Nat) (sp : List Word) (bs : List Byte) : Grid :=
  let rb := rowBytes f sp
  let nb := specCols sp / 32
  { fmt := f,
    rows := (List.range (specRows sp)).map fun r => leNat ((bs.drop (r * rb)).take rb),
    scales := if fmtScaled f then (List.range (specRows sp)).map fun r =>
        (List.range nb).map fun b => (bs.getD (specRows sp * rb + r * nb + b) 0).toNat
      else [] }

/-- R150: the code of element (r, c), and its block's scale byte. -/
def Grid.code (g : Grid) (r c : Nat) : Nat := g.rows.getD r 0 / 2 ^ (fmtBits g.fmt * c) % 2 ^ fmtBits g.fmt
def Grid.scale (g : Grid) (r c : Nat) : Nat := (g.scales.getD r []).getD (c / 32) 0

def Grid.value (g : Grid) (r c : Nat) : Fp := elementValue g.fmt (g.scale r c) (g.code r c)

def Grid.int (g : Grid) (r c : Nat) : Int :=
  match fmtInt g.fmt with
  | some ty => readInt ty (BitVec.ofNat 64 (g.code r c))
  | none => 0

/-- An element as a conversion takes it. -/
def Grid.elem (g : Grid) (r c : Nat) : Elem :=
  match fmtInt g.fmt with
  | some _ => .int (g.int r c)
  | none => .real (g.value r c).exact

/-- R155: the bytes of a tile whose rows hold codes, with its scale bytes. -/
def tileOf (f : Nat) (sp : List Word) (rows : List (List Nat)) (scales : List (List Nat)) : List Byte :=
  let rb := rowBytes f sp
  (rows.flatMap fun cs => leBytes rb (cs.zipIdx.foldl (fun n (c, i) => n + c * 2 ^ (fmtBits f * i)) 0)) ++
  if fmtScaled f then scales.flatMap fun bs => bs.map fun b => BitVec.ofNat 8 b else []

/-- R167, R178: the zero codes of a tile. -/
def zeroScale (d : List Word) : Nat := if descFmt d = 7 then descQkind d * 64 else 0

def zeroTile (d sp : List Word) : List Byte :=
  tileOf (descFmt d) sp (List.replicate (specRows sp) (List.replicate (specCols sp) 0))
    (List.replicate (specRows sp) (List.replicate (specCols sp / 32) (zeroScale d)))

/-- R193, R177: the linear index of a tile's element in its tensor. DESIGN CHOICE (log 146): outside the tensor the formula goes on. -/
def linearIndex (d sp : List Word) (r c : Nat) : Int :=
  (specOrigin sp 0 + c) + (descSize d 0 : Int) * ((specOrigin sp 1 + r) + (descSize d 1 : Int) * (specOrigin sp 2 + (descSize d 2 : Int) * specOrigin sp 3))

/-- R93, R177: how an element below the smallest magnitude is written. -/
def underOf (seed : DWord) (n : Nat) (d sp : List Word) (r c : Nat) : Under :=
  if descUfs d then .chance (randomOf (seed ^^^ (BitVec.ofNat 64 n <<< 56) ^^^ BitVec.ofInt 64 (linearIndex d sp r c))) else .flush

/-- R177: the output of `tcvt`. -/
def convertTile (seed : DWord) (rm : Rm) (g : Grid) (n : Nat) (d sp : List Word) : List Byte :=
  let f := descFmt d
  let cell (r c : Nat) : Elem × Under := (g.elem r c, underOf seed n d sp r c)
  let rows := (List.range (specRows sp)).map fun r => (List.range (specCols sp)).map fun c => cell r c
  if fmtScaled f then
    let blocks := rows.map fun row => (chunksOf 32 2048 row).map fun b =>
      let xs := b.map fun x => (x.1.exact, x.2)
      if f = 7 then quadBlock (descQkind d) rm xs else mxBlock f rm xs
    tileOf f sp (blocks.map fun bs => bs.flatMap Prod.fst) (blocks.map fun bs => bs.map Prod.snd)
  else tileOf f sp (rows.map fun row => row.map fun x => plainCode f rm (descSat d) x.2 x.1) []

/-- R175, R176: the accumulators after a matrix task, by 32 × row + thread. -/
def productOf (r : List Word) (sat : Bool) (a b : Grid) (start : Nat → Word) : Sparse Word :=
  let k := List.range (recK r)
  let cols := (List.range 32).map fun j => k.map fun x => (x, j)
  (List.range 64).flatMap fun i => cols.zipIdx.map fun (col, j) =>
    let c : Word := if recAccz r then 0 else start (32 * i + j)
    let v : Word :=
      if recKind r ≠ 0 then
        accumulateBits c (recKind r = 2) (k.map fun x => a.code i x = 1) (col.map fun p => b.code p.1 p.2 = 1)
      else if (fmtInt a.fmt).isSome then accumulateInts c (k.map fun x => a.int i x) (col.map fun p => b.int p.1 p.2)
      else BitVec.ofNat 32 (accumulate sat c.toNat (k.map fun x => a.value i x) (col.map fun p => b.value p.1 p.2))
    (32 * i + j, v)

/-! ### Completion (R174, R181, R201, R204) -/

/-- R181: registers that a thread has written meanwhile end with a free value. -/
def State.putSpoiled (s : State) (k : Task) : State :=
  if k.spoiled.isEmpty then s
  else (s.mapWarp k.team (recAw k.record) fun w =>
    { w with main := { w.main with regs := k.spoiled.foldl (fun t n => write 0 t n (Config.freeWord (s.oracle + n))) w.main.regs } }).spend 4096

/-- R174, R204: a task completes: inputs unpinned, output READY, token complete. -/
def State.finishTask (s : State) (key : Nat) : State :=
  match look s.tasks key with
  | none => s
  | some k =>
    let s := (s.putSpoiled k).mapTeam k.team fun x => { x with
      tiles := mapVals x.tiles fun _ t =>
        let t := { t with pins := t.pins.filter (· ≠ key) }
        if t.op = some key then { t with st := .ready, op := none, sets := [], sc := k.sc } else t }
    let token := k.token.bind fun i => (look s.teams k.team).bind fun x =>
      match look x.tokens i with
      | some v => if v.freed then none else some (i, v.gen)
      | none => none
    let s := { s with tasks := unlist s.tasks key }.completeToken k.team k.token 0 []
    let s := if recAcc k.record then s.leaveAccs k.team (recAw k.record) (recAb k.record) token else s
    (s.drainHeld k.team).endTeam k.team

/-- What a task computes: accumulators, or the bytes of its output. -/
def State.compute (s : State) (k : Task) (x : Team) : Sparse Word × List Byte :=
  let r := k.record
  let d (n : Nat) : List Word := k.descs.getD n []
  let spec (n : Nat) : List Word := ((look x.tiles n).map Tile.spec).getD []
  let grid (n t : Nat) : Grid :=
    gridOf (descFmt (d n)) (spec t) (x.tileBytes k.olderBytes (spec t) (tileBytes (descFmt (d n)) (spec t)) s.oracle)
  let out := spec (recTo r)
  match recKind r with
  | 0 | 1 | 2 =>
    (productOf r (descSat (d 0) || descSat (d 1)) (grid 0 (recTa r)) (grid 1 (recTb r)) (fun i => readOr 0 k.shadow i), [])
  | 3 => ([], convertTile (s.ctx k.ctx).seed (recRm r) (grid 0 (recTa r)) (recDo r) (d 2) out)
  | 4 =>
    let g := grid 0 (recTa r)
    ([], tileOf (descFmt (d 2)) out ((List.range (specRows out)).map fun i => (List.range (specCols out)).map fun j => g.code j i) [])
  | _ => ([], zeroTile (d 2) out)

/-- R188, R189: an access of a task has failed at an address: its accumulators are as they were, and it writes nothing else. -/
def State.failTask (s : State) (key : Nat) (k : Task) (va : DWord) : State :=
  let out := if recAcc k.record then none else some (recTo k.record)
  let s := s.abortTask key k
  { s.putSpoiled k with tasks := place s.tasks key { k with running := false, deferred := true, fault := none } }.defer k.team
    { warp := some k.warp, op := key, token := k.token, tile := out, va := va, site := k.site, seq := k.seq }

/-- R189: the fetch of a task's accumulators has met a recoverable translation fault: they are as they were, and the task is
replayed from its beginning. -/
def State.faultTask (s : State) (key : Nat) (k : Task) (va cause level : Nat) : State :=
  let s := s.abortTask key k
  let (s, f) := s.engineFault (k.core / 64) (.task key) k.ctx .engineRead va cause level (s.ctx k.ctx).asid (Agent.wide k.core).source k.site k.seq (s.teamIdx k.team)
  { s with tasks := adjust s.tasks key fun k => { k with fault := f } }

/-- R157: byte `i` of the output tile of a task comes. -/
def State.landTaskByte (s : State) (k : Task) (x : Team) (i : Nat) : State :=
  if recAcc k.record then s
  else
    match (s.compute k x).2[i]? with
    | some b => s.mapTeam k.team fun y => y.putByte (readOr {} x.tiles (recTo k.record)).spec i b
    | none => s

/-- R157, R175 to R178, R189, R201: a task's computation ends, and it completes, or waits for its checks; or a byte of its
output comes. -/
def execTaskComplete (key : Nat) (stop : Stop) (s : State) : Out :=
  match look s.tasks key with
  | none => .next s.bump
  | some k =>
    match look s.teams k.team with
    | none => .next { s.bump with tasks := unlist s.tasks key }
    | some x =>
      if !k.running then .next s.bump
      else match stop with
      | .lost va => .next (s.bump.failTask key k va)
      | .fault va cause level => .next (s.bump.faultTask key k va.toNat cause level)
      | .part n => .next (s.bump.landTaskByte k x n)
      | .none =>
        let (accs, bytes) := s.compute k x
        let out := readOr {} x.tiles (recTo k.record)
        let s := if recAcc k.record then s.putAccs k accs
          else (s.mapTeam k.team fun x => x.putBytes out.spec out.raced s.oracle bytes).pruneBytes k.team out.spec bytes.length
        let s := (s.bump.spend 1048576)
        let s := { s with tasks := place s.tasks key { k with running := false, ended := true } }
        if k.sets.isEmpty then .next (s.finishTask key)
        else if recAcc k.record then .next s
        else .next (s.mapTeam k.team fun x => { x with tiles := adjust x.tiles (recTo k.record) fun t => { t with st := .prov, sets := k.sets } })

end Sys2Proof.Machine
end

