-- ==== Sys2Proof/Machine/WarpOps.lean ====
section
/-! DEFINITION. The WARP group (R140 to R145). -/

namespace Sys2Proof.Machine

/-- R142: the thread that `shfl` reads from. -/
def shuffleFrom (mode : Nat) (t b : Nat) : Option Nat :=
  match mode with
  | 0 => some (b % 32)
  | 1 => if b ≤ t then some (t - b) else none
  | 2 => if t + b < 32 then some (t + b) else none
  | _ => some (t ^^^ (b % 32))

/-- R142: the thread whose value each thread receives. -/
def shuffleSource (m : Mask) (mode t b : Nat) : Nat :=
  match shuffleFrom mode t b with
  | some u => if m.getLsbD u then u else t
  | none => t

/-- R142, R51: variable-latency results, a register or a pair. -/
def Env.laterWide (e : Env) (m : Mask) (d : RegNo) (wide : Bool) (f : Nat → DWord) (s : State) : State :=
  let s := e.later m d (fun t => lowWord (f t)) s
  if wide && d ≠ 0 then e.later m (d + 1) (fun t => (f t).extractLsb' 32 32) s else s

/-- R142 -/
def execShfl (o : Alu) (s : State) : Out :=
  runAlu (.shfl o) o false s fun e m b s =>
    e.retire (.shfl o) (e.laterWide m o.d o.ty.wide (fun t =>
      e.srcA m o o.ty.wide (shuffleSource m o.sub.toNat t (lowWord (b t)).toNat)) s)

/-- R143: what a vote over the acting threads gives. -/
def voteOf (mode : Nat) (vs : List Word) : Bool :=
  match mode with
  | 0 => vs.all fun v => v ≠ 0
  | 1 => vs.any fun v => v ≠ 0
  | _ => vs.all fun v => vs.all fun w => v = w

/-- R143 -/
def execVote (o : Alu) (s : State) : Out :=
  runAlu (.vote o) o false s fun e m _ s =>
    let r := voteOf o.sub.toNat ((Mask.threads m).map fun t => e.src m o.a o.ua t)
    e.finish (.vote o) m o.d false (fun _ => if r then 1 else 0) s

/-- R143 -/
def execBal (o : Alu) (s : State) : Out :=
  runAlu (.bal o) o false s fun e m _ s =>
    let r := m &&& Mask.ofTest fun t => e.src m o.a o.ua t ≠ 0
    e.finish (.bal o) m o.d false (fun _ => r.setWidth 64) s

/-- R144: the combination of integers; nothing gives the identity. -/
def combineInts (ty : Ty) (sat : Bool) (op : Nat) (vs : List DWord) : DWord :=
  let xs := vs.map (readInt ty)
  match op with
  | 0 =>
    let x := xs.foldl (· + ·) 0
    placeInt ty (if sat then clampInt ty x else x)
  | 1 => placeInt ty (xs.foldl min (maxInt ty))
  | 2 => placeInt ty (xs.foldl max (minInt ty))
  | 3 => vs.foldl (· &&& ·) (BitVec.allOnes 64)
  | 4 => vs.foldl (· ||| ·) 0
  | _ => vs.foldl (· ^^^ ·) 0

/-- R127, R144: the least or greatest of floating-point codes. -/
def leastCode (f : Ieee) (least : Bool) : List Nat → Nat × Flags
  | [] => ((if least then 0 else f.signBit) + f.infCode, 0)
  | c :: cs =>
    let (r, fl) := cs.foldl (fun (acc : Nat × Flags) c =>
      let (r, fl) := pickCode f least acc.1 c
      (r, acc.2 ||| fl)) (c, nanFlag (f.value c))
    (if (f.value r).isNan then f.nanCode else r, fl)

/-- R144: the combination of floating-point values. -/
def combineFloats (ty : Ty) (rm : Rm) (op : Nat) (cs : List Nat) : DWord × Flags :=
  let f := Ty.ieee ty
  match op with
  | 0 => if cs.isEmpty then (0, 0) else perElement [f.deliver rm false (sumExact rm (cs.map f.value))]
  | 1 => perElement [leastCode f true cs]
  | _ => perElement [leastCode f false cs]

/-- R144: the combination of the values of some threads, in their order. -/
def combine (o : Alu) (vs : List DWord) : DWord × Flags :=
  if Ty.isFloat o.ty then combineFloats o.ty o.rm (o.sub.toNat % 8) (vs.flatMap (elements o.ty))
  else (combineInts o.ty o.sat (o.sub.toNat % 8) vs, 0)

/-- R144 -/
def execRedw (o : Alu) (s : State) : Out :=
  runAlu (.redw o) o false s fun e m _ s =>
    let r := combine o ((Mask.threads m).map fun t => e.srcA m o o.ty.wide t)
    e.finishFloat (.redw o) m o.d o.ty.wide (fun _ => r) s

/-- R144 -/
def execScanw (o : Alu) (s : State) : Out :=
  runAlu (.scanw o) o false s fun e m _ s =>
    let excl := 8 ≤ o.sub.toNat
    e.finishFloat (.scanw o) m o.d o.ty.wide (fun t =>
      combine o (((Mask.threads m).filter fun u => u < t || (u = t && !excl)).map fun u => e.srcA m o o.ty.wide u)) s

/-- R145: the thread that `bcast` reads. -/
def broadcastFrom (m : Mask) (b : Nat) : Nat := if m.getLsbD (b % 32) then b % 32 else Mask.lowest m

/-- R145 -/
def execBcast (o : Alu) (s : State) : Out :=
  runAlu (.bcast o) o false s fun e m b s =>
    let u := broadcastFrom m (lowWord (b (Mask.lowest m))).toNat
    e.finish (.bcast o) m o.d o.ty.wide (fun _ => e.srcA m o o.ty.wide u) s

/-- R109, R141, R145: D is a pair for `i64`. -/
def execMatchw (o : Alu) (s : State) : Out :=
  runAlu (.matchw o) o false s fun e m _ s =>
    let x (t : Nat) := e.srcA m o o.ty.wide t
    e.finish (.matchw o) m o.d o.ty.wide (fun t => (m &&& Mask.ofTest fun u => x u = x t).setWidth 64) s

end Sys2Proof.Machine
end

