-- ==== Sys2Proof/Machine/Copies.lean ====
section
/-! DEFINITION. What copy engines do: tile copies (R166 to R169), `cpmm` (R291, R296) and how a copy ends (R188, R189). -/

namespace Sys2Proof.Machine

/-! ### Rows of a tensor (R150, R154) -/

/-- R167: the in-bounds columns of a tile: from the first up to the second. -/
def colRange (d sp : List Word) : Nat × Nat :=
  let o := specOrigin sp 0
  let lo := (max 0 (-o)).toNat
  (lo, max lo (min (specCols sp) (((descSize d 0 : Int) - o).toNat)))

/-- R167: an index of a dimension, where it lies inside the tensor. -/
def inside (d : List Word) (k : Nat) (i : Int) : Option Nat := if 0 ≤ i && i < descSize d k then some i.toNat else none

/-- R150: the row of a tensor at indices 1 to 3. -/
structure RowAt where
  row : Nat                       -- of the tile
  i1  : Nat
  i2  : Nat
  i3  : Nat
  deriving DecidableEq, Repr

/-- R167, R168: the tile's rows that lie inside the tensor; `index` gives dimension 1 of a row. -/
def rowsInside (d sp : List Word) (index : Nat → Option Nat) : List RowAt :=
  match inside d 2 (specOrigin sp 2), inside d 3 (specOrigin sp 3) with
  | some i2, some i3 =>
    (List.range (specRows sp)).filterMap fun r => (index r).map fun i1 => { row := r, i1 := i1, i2 := i2, i3 := i3 }
  | _, _ => []

/-- R150: address of the row's element 0. -/
def RowAt.addr (x : RowAt) (d : List Word) : Nat :=
  descBase d + 16 * (descStride d 1 * x.i1 + descStride d 2 * x.i2 + descStride d 3 * x.i3)

/-- R150: number of the row's first scale byte. -/
def RowAt.scaleAddr (x : RowAt) (d : List Word) : Nat :=
  descScale d + descSize d 0 / 32 * (x.i1 + descSize d 1 * (x.i2 + descSize d 2 * x.i3))

/-- First bit and one past the last bit of the in-bounds columns of a row. -/
def bitRange (d sp : List Word) : Nat × Nat :=
  let (lo, hi) := colRange d sp
  let at_ (c : Nat) : Nat := (specOrigin sp 0 + c).toNat * fmtBits (descFmt d)
  (at_ lo, at_ hi)

/-- R150: the bytes of the rows' elements, under the number of the tile row. -/
def rowWants (d sp : List Word) (rows : List RowAt) : List Want :=
  let (a, b) := bitRange d sp
  if a = b then []
  else rows.map fun x => { thread := x.row, va := (x.addr d + a / 8) % 2 ^ 64, bytes := (b + 7) / 8 - a / 8 }

/-- Blocks of a tile row with in-bounds elements: from the first up to the second. -/
def blockRange (d sp : List Word) : Nat × Nat :=
  let (lo, hi) := colRange d sp
  if lo = hi then (0, 0) else (lo / 32, (hi + 31) / 32)

/-- R150: the scale bytes of the rows, under the number of the tile row above all rows. -/
def scaleWants (d sp : List Word) (rows : List RowAt) : List Want :=
  let (a, b) := blockRange d sp
  if !fmtScaled (descFmt d) || a = b then []
  else rows.map fun x =>
    { thread := specRows sp + x.row, va := (x.scaleAddr d + ((specOrigin sp 0 + 32 * a) / 32).toNat) % 2 ^ 64, bytes := b - a }

/-- R167: the tile's bytes from what the memory holds, zero codes where nothing was read. -/
def fillTile (d sp : List Word) (bytes : Nat → List Byte) : List Byte :=
  let f := descFmt d
  let (a, b) := bitRange d sp
  let (lo, _) := colRange d sp
  let (b0, b1) := blockRange d sp
  let rb := rowBytes f sp
  let row (r : Nat) : List Byte :=
    leBytes rb (leNat (bytes r) / 2 ^ (a % 8) % 2 ^ (b - a) * 2 ^ (lo * fmtBits f))
  let scale (r : Nat) : List Byte :=
    let got := bytes (specRows sp + r)
    (List.range (specCols sp / 32)).map fun k =>
      if b0 ≤ k && k < b1 then got.getD (k - b0) (BitVec.ofNat 8 (zeroScale d)) else BitVec.ofNat 8 (zeroScale d)
  ((List.range (specRows sp)).flatMap row) ++
  if fmtScaled f then (List.range (specRows sp)).flatMap scale else []

/-- R167, R169: the bytes that go to memory; bits of a byte beside the tile's elements are free. -/
def drainTile (d sp : List Word) (tile : List Byte) (free : Nat → Word) (n : Nat) : List Byte :=
  let f := descFmt d
  let rb := rowBytes f sp
  let (a, b) := bitRange d sp
  let (lo, _) := colRange d sp
  let (b0, b1) := blockRange d sp
  if n < specRows sp then
    let v := leNat ((tile.drop (n * rb)).take rb) / 2 ^ (lo * fmtBits f) % 2 ^ (b - a)
    let low := (free (2 * n)).toNat % 2 ^ (a % 8)
    let high := (free (2 * n + 1)).toNat
    leBytes ((b + 7) / 8 - a / 8) (low + 2 ^ (a % 8) * (v + 2 ^ (b - a) * high))
  else
    let r := n - specRows sp
    ((tile.drop (specRows sp * rb + r * (specCols sp / 32) + b0)).take (b1 - b0))

/-! ### Ends of copies -/

def CopyOp.origin (c : CopyOp) (key : Nat) : Origin :=
  { key := key, ctx := c.ctx, die := c.die, who := some c.who, site := c.site, seq := c.seq, team := c.lidx, rt := c.rt, sc := c.sc }

/-- R169, R291: bytes of a copy's single-copy atomic accesses. -/
def CopyOp.unit (c : CopyOp) : Nat :=
  if c.kind = .cpmm then (if c.list.toNat % 8 = c.dst.toNat % 8 then 8 else 1) else max 1 (fmtBits (descFmt c.desc) / 8)

def State.setCopy (s : State) (key : Nat) (c : CopyOp) : State := { s with copies := place s.copies key c }

/-- R188, R296: a copy has failed at an address. -/
def State.failCopy (s : State) (key : Nat) (c : CopyOp) (va : DWord) : State :=
  let s := { s with fetched := unlist s.fetched key, remote := keep s.remote fun _ r => r.copy ≠ some key }
  match c.team with
  | some t =>
    (s.setCopy key { c with deferred := true }).defer t
      { warp := some c.warp, op := key, token := c.token, tile := if c.kind = .cpmm then none else some c.tile, va := va,
        site := c.site, seq := c.seq }
  | none => s.setCopy key { c with status := some 1 }

/-- R167, R168, R291: a copy has ended. -/
def State.finishCopy (s : State) (key : Nat) (c : CopyOp) : State :=
  let s := { s with fetched := unlist s.fetched key }
  match c.team with
  | none => s.setCopy key { c with status := some 0 }
  | some t =>
    let s := { s with copies := unlist s.copies key }
    let s := s.mapTeam t fun x => { x with
      tiles := mapVals x.tiles fun _ k =>
        if k.op = some key then
          { k with op := none, raced := [], sets := [], sc := c.sc, st := if c.kind = .cpin || c.kind = .gth then .ready else .empty }
        else k }
    let words : List Word := match c.kind with
      | .gth | .sct => [BitVec.ofNat 32 c.bad]
      | .cpmm => [BitVec.ofNat 32 c.len]
      | _ => []
    (s.completeToken t c.token 0 words).endTeam t

/-- R189: a recoverable fault of a copy, which is replayed from its beginning. -/
def State.faultCopy (s : State) (key : Nat) (c : CopyOp) (k : Kind) (va cause level asid : Nat) : State :=
  let s := { s with fetched := unlist s.fetched key }
  let c := { c with done := [] }
  let (s, f) := s.engineFault c.die (.copy key) c.ctx k va cause level asid c.agent.source c.site c.seq c.lidx
  s.setCopy key { c with fault := f }

/-- R188, R189: a copy goes on with the checked pieces of its accesses. -/
def State.copyReach (s : State) (key : Nat) (c : CopyOp) (k : Kind) (ws : List Want) (body : List Piece → State → State) : State :=
  let (s, sp) := s.engineSpace c.ctx c.die
  match s.reach sp k ws with
  | (s, .ok ps) => body ps s
  | (s, .trap _ a) => s.failCopy key c a
  | (s, .queue va cause level asid) => s.faultCopy key c k va cause level asid

/-- R256: a copy reads, all that remains or one part alone; where other devices are asked, it begins anew once they have
answered. -/
def State.copyRead (s : State) (key : Nat) (c : CopyOp) (stop : Stop) (ws : List Want) (body : (Nat → List Byte) → State → State) : State :=
  s.copyReach key c .engineRead ws fun ps s =>
    match s.gatherBy (c.origin key) c.unit stop ps with
    | (s, some got) => body (wantBytes got) s
    | (s, none) => s

/-- R169, R256: a copy writes, one part alone or all that remains; it ends once other devices have acknowledged. -/
def State.copyWrite (s : State) (key : Nat) (c : CopyOp) (stop : Stop) (ws : List Want) (bytes : Nat → List Byte) : State :=
  s.copyReach key c .engineWrite ws fun ps s =>
    match stop with
    | .part n =>
      match nextPart c.unit c.done ps n with
      | some (q, i) => (s.putPiece (c.origin key) q (q.dataOf bytes)).setCopy key { c with done := i :: c.done }
      | none => s
    | _ =>
      let s := s.putPieces (c.origin key) c.unit c.done ps bytes
      if s.awaiting key then s.setCopy key { c with written := true } else s.finishCopy key c

/-- The rows of a copy, and how many indices lie outside the tensor (R168). -/
def State.copyRows (s : State) (key : Nat) (c : CopyOp) (stop : Stop) (body : List RowAt → Nat → State → State) : State :=
  match c.kind with
  | .gth | .sct =>
    let n := specRows c.spec
    s.copyRead key c stop [{ thread := 0, va := c.list.toNat, bytes := 4 * n }] fun got s =>
      let index (r : Nat) : Option Nat := inside c.desc 1 ((leNat (((got 0).drop (4 * r)).take 4) : Int) + c.bias)
      body (rowsInside c.desc c.spec index) ((List.range n).filter fun r => (index r).isNone).length s
  | _ => body (rowsInside c.desc c.spec fun r => inside c.desc 1 (specOrigin c.spec 1 + r)) 0 s

/-- The row of a tile that byte `i` of the tile belongs to, as `rowWants` and `scaleWants` number it. -/
def tileRow (d sp : List Word) (i : Nat) : Nat :=
  let rb := rowBytes (descFmt d) sp
  if i < specRows sp * rb then i / rb else specRows sp + (i - specRows sp * rb) / (specCols sp / 32)

/-- R157, R256: byte `i` of a tile that a copy fills comes, where the memory of its row has been read. -/
def State.landByte (s : State) (key t : Nat) (c : CopyOp) (ps : List Piece) (i : Nat) : State :=
  let got := (ps.filter fun p => p.thread = tileRow c.desc c.spec i).map fun p => (s.heldBytes key p).map fun bs => (p, bs)
  match allSome got with
  | some got =>
    match (fillTile c.desc c.spec (wantBytes got))[i]? with
    | some b => s.mapTeam t fun x => x.putByte c.spec i b
    | none => s
  | none => s

/-- R167, R168, R256: a tile copy does its work, or a part of it: of a fill, an even number stands for a read, an odd one for a
byte of the tile. -/
def State.runCopy (s : State) (key : Nat) (c : CopyOp) (stop : Stop) (t : Nat) : State :=
  match (look s.teams t).bind fun x => (look x.tiles c.tile).map fun k => (x, k) with
  | none => s
  | some (x, k) =>
    s.copyRows key c stop fun rows bad s =>
      let c := { c with bad := bad }
      let ws := rowWants c.desc c.spec rows ++ scaleWants c.desc c.spec rows
      if c.kind = .cpin || c.kind = .gth then
        match stop with
        | .part n =>
          s.copyReach key c .engineRead ws fun ps s =>
            if n % 2 = 0 then s.fetchPart (c.origin key) c.unit ps (n / 2) else s.landByte key t c ps (n / 2)
        | _ =>
          s.copyRead key c stop ws fun got s =>
            let bs := fillTile c.desc c.spec got
            let s := s.mapTeam t fun x => x.putBytes c.spec k.raced s.oracle bs
            ((s.pruneBytes t c.spec bs.length).spend 1048576).finishCopy key c
      else
        let tile := x.tileBytes c.olderBytes c.spec (tileBytes (descFmt c.desc) c.spec) s.oracle
        let free (n : Nat) : Word := Config.freeWord (s.oracle + n)
        (s.spend 1048576).copyWrite key c stop ws (drainTile c.desc c.spec tile free)

/-- R253: have the accesses that come before an operation taken place at its home. -/
def State.precedes (s : State) (a : Agent) (who : Who) (mark : Nat) (sc : Scope) : Bool :=
  sc = .team || s.drained a who mark (sc = .sys)

/-- R12: copies of a die that its 16 copy engines have taken before another. -/
def State.copiesAhead (s : State) (key : Nat) (c : CopyOp) : Nat :=
  (s.copies.filter fun (k, x) => k < key && x.die = c.die && !(x.deferred || x.held || x.status.isSome || x.fault.isSome) && s.inPlace x.ctx x.team).length

/-- R12, R167, R188, R190, R471: a copy goes on or ends. -/
def State.stepCopy (s : State) (key : Nat) (c : CopyOp) (stop : Stop) (work : State → State) : State :=
  let waits : Bool := c.deferred || c.held || c.status.isSome || c.fault.isSome || !s.inPlace c.ctx c.team || 16 ≤ s.copiesAhead key c ||
    !s.precedes c.agent c.who c.mark c.sc
  match stop with
  | .lost va => if c.deferred || c.status.isSome then s else s.failCopy key c va
  | .none => if waits || s.awaiting key then s else if c.written then s.finishCopy key c else work s
  | .part _ => if waits || c.written then s else work s
  | .fault .. => s

/-- R167, R168 -/
def execCopyComplete (key : Nat) (stop : Stop) (s : State) : Out :=
  match look s.copies key with
  | some c =>
    if c.kind = .cpmm then .next s.bump
    else .next (s.bump.stepCopy key c stop fun s => match c.team with | some t => s.runCopy key c stop t | none => s)
  | none => .next s.bump

/-! ### `cpmm` -/

/-- R296, R433: the issuing thread of a latency core waits for its operation, acquires at its scope, and D receives its status. -/
def Env.awaitOp (e : Env) (i : Instr) (d : RegNo) (m : Mask) (key : Nat) (sc : Scope) (status : Option Word) (s : State) : State :=
  match status with
  | some v =>
    let s := s.acquire e.agent e.ctx.asid sc e.releaser
    e.retire i (e.setAll m d (fun _ => v) { s with copies := unlist s.copies key, colls := unlist s.colls key })
  | none => e.hold 15 (.operation key) s

/-- R291: the address at which a range of a `cpmm` goes beyond the address space. -/
def beyondSpace (len : Nat) (src dst : DWord) : Option DWord :=
  if len = 0 then none
  else if 2 ^ 57 < src.toNat + len then some src
  else if 2 ^ 57 < dst.toNat + len then some dst
  else none

/-- R291, R296 -/
def execCpmm (o : Cpmm) (s : State) : Out :=
  act (.cpmm o) s fun e s =>
    let m := e.exm o.p
    let src := e.onePair m o.a
    let dst := e.onePair m o.b
    let len := o.len.toNat
    if m = 0 then e.retire (.cpmm o) s
    else
      match e.waitingOp.bind fun k => (look s.copies k).map fun c => (k, c) with
      | some (k, c) => if e.lat then e.awaitOp (.cpmm o) o.d m k c.sc c.status s else e.retire (.cpmm o) s
      | none =>
        match beyondSpace len src dst with
        | some a => e.raise .permission a s
        | none =>
          let key := s.nextKey
          e.takeToken o.d m o.sc key s.bump fun tok s =>
            let s := s.release e.agent o.sc e.releaser
            let (s, seq) := s.command e.agent e.ctxNo
            if len = 0 then
              e.retire (.cpmm o) (if e.lat then e.setAll m o.d (fun _ => 0) s else s.completeToken e.team tok 0 [0])
            else
              let n := s.nameOf e.who e.sp.pc
              let op : CopyOp :=
                { kind := .cpmm, ctx := e.ctxNo, die := e.die, agent := e.agent, team := if e.lat then none else some e.team,
                  warp := e.warp, lat := if e.lat then some e.who else none, token := tok, list := src, dst := dst, len := len,
                  rt := o.rt, sc := o.sc, last := o.last, site := e.sp.pc, seq := seq, lidx := n.team, who := e.who, mark := s.nextKey }
              let s := s.setCopy key op
              if e.lat then e.hold 15 (.operation key) s else e.retire (.cpmm o) s

/-- R291: byte `a` of the source of a `cpmm`, where it has been read. -/
def State.sourceByte (s : State) (key : Nat) (ps : List Piece) (a : Nat) : Option Byte :=
  (ps.find? fun p => p.off ≤ a && a < p.off + p.bytes).bind fun p => s.heldByte key p (a - p.off)

/-- R256, R291: a `cpmm` writes one of the parts whose source has been read. -/
def State.movePart (s : State) (key : Nat) (c : CopyOp) (ps qs : List Piece) (n : Nat) : State :=
  match nextPart c.unit c.done qs n with
  | none => s
  | some (q, i) =>
    match allSome ((List.range q.bytes).map fun k => s.sourceByte key ps (q.off + k)) with
    | some bs => (s.putPiece (c.origin key) q bs).setCopy key { c with done := i :: c.done }
    | none => s

/-- R256, R291: a `cpmm` does its work: the bytes that the source held go to the destination; or one read, an even number, or
one write. -/
def State.runCpmm (s : State) (key : Nat) (c : CopyOp) (stop : Stop) : State :=
  let src : List Want := [{ thread := 0, va := c.list.toNat, bytes := c.len }]
  let dst : List Want := [{ thread := 0, va := c.dst.toNat, bytes := c.len }]
  match stop with
  | .part n =>
    s.copyReach key c .engineRead src fun ps s =>
      if n % 2 = 0 then s.fetchPart (c.origin key) c.unit ps (n / 2)
      else s.copyReach key c .engineWrite dst fun qs s => s.movePart key c ps qs (n / 2)
  | _ => s.copyRead key c stop src fun got s => s.copyWrite key c stop dst got

/-- R291 -/
def execCpmmComplete (key : Nat) (stop : Stop) (s : State) : Out :=
  match look s.copies key with
  | some c => if c.kind = .cpmm then .next (s.bump.stepCopy key c stop fun s => s.runCpmm key c stop) else .next s.bump
  | none => .next s.bump

/-! ### Collectives -/

/-- R293: bytes of a member's send and receive buffers; `root` says whether it is the broadcast's root. -/
def sendBytes (kind : CollKind) (count e n : Nat) (root : Bool) : Nat :=
  match kind with
  | .allReduce | .allGather => count * e
  | .reduceScatter => n * count * e
  | .broadcast => if root then count * e else 0

def recvBytes (kind : CollKind) (count e n : Nat) : Nat :=
  match kind with
  | .allGather => n * count * e
  | _ => count * e

def elemBytes (ty : Ty) : Nat :=
  match ty with
  | .f64 => 8
  | .f16 | .bf16 => 2
  | _ => 4

/-- R294: an element's bytes after the reduction over all ranks. -/
def reduceElement (ty : Ty) (op : CollOp) (xs : List Nat) : Nat :=
  let code := match op with | .add => 0 | .min => 1 | .max => 2
  let r := if Ty.isFloat ty then (combineFloats ty .rn code xs).1 else combineInts ty false code (xs.map (BitVec.ofNat 64))
  r.toNat % 2 ^ (8 * elemBytes ty)

/-- R294: the reduction of `count` elements from an offset of every rank's buffer. -/
def reduceBlock (ty : Ty) (op : CollOp) (count off : Nat) (parts : List (List Byte)) : List Byte :=
  let e := elemBytes ty
  (List.range count).flatMap fun i => leBytes e (reduceElement ty op (parts.map fun p => leNat ((p.drop (off + e * i)).take e)))

/-- R293: what the receive buffer of a rank holds, from the send buffers in rank order. -/
def collectiveResult (c : CollOpn) (parts : List (List Byte)) : List Byte :=
  match c.kind with
  | .allReduce => reduceBlock c.ty c.op c.count 0 parts
  | .allGather => parts.flatMap fun p => p.take (c.count * elemBytes c.ty)
  | .reduceScatter => reduceBlock c.ty c.op c.count (c.rank * c.count * elemBytes c.ty) parts
  | .broadcast => (parts.getD c.root []).take (c.count * elemBytes c.ty)

/-- R292, R293, R296 -/
def execColl (o : Coll) (s : State) : Out :=
  act (.coll o) s fun e s =>
    let i := Instr.coll o
    let m := e.exm o.p
    let send := e.onePair m o.a
    let recv := e.onePair m o.b
    let size := elemBytes o.ty
    if m = 0 then e.retire i s
    else
      match e.waitingOp.bind fun k => (look s.colls k).map fun c => (k, c) with
      | some (k, c) => if e.lat then e.awaitOp i o.d m k c.sc c.status s else e.retire i s
      | none =>
        match s.groupHere o.group.toNat with
        | none => e.raise .permission 0 s
        | some g =>
          if g.n ≤ o.root.toNat then e.raise .illegal e.sp.pc s
          else if send.toNat % size ≠ 0 then e.raise .misaligned send s
          else if recv.toNat % size ≠ 0 then e.raise .misaligned recv s
          else
            let key := s.nextKey
            e.takeToken o.d m o.sc key s.bump fun tok s =>
              let s := s.release e.agent o.sc e.releaser
              let (s, seq) := s.command e.agent e.ctxNo
              let num := readOr 0 s.collSeq o.group.toNat
              let n := s.nameOf e.who e.sp.pc
              let op : CollOpn :=
                { ctx := e.ctxNo, team := if e.lat then none else some e.team, warp := e.warp, lat := if e.lat then some e.who else none,
                  token := tok, agent := e.agent, group := o.group.toNat, n := g.n, rank := g.rank, number := num, send := send, recv := recv,
                  count := o.count.toNat, root := o.root.toNat, ty := o.ty, op := o.op, kind := o.kind, rt := o.rt, sc := o.sc, who := e.who,
                  mark := s.nextKey, site := e.sp.pc, seq := seq, lidx := n.team }
              let s := { s with colls := place s.colls key op, collSeq := write 0 s.collSeq o.group.toNat (num + 1) }
              if e.lat then e.hold 15 (.operation key) s else e.retire i s

def State.setColl (s : State) (key : Nat) (c : CollOpn) : State := { s with colls := place s.colls key c }

/-- R292: KIND, OP, TY and ROOT as one number, which every member must agree on. -/
def CollOpn.kinds (c : CollOpn) : Nat :=
  fields [(0, c.root), (13, c.ty.code.toNat), (17, c.op.code.toNat), (20, c.kind.code.toNat)]

/-- R293, R436: the packets of up to 128 bytes that bring a member's send buffer, or its failure, to another (log 142). -/
def State.collPackets (s : State) (c : CollOpn) (d : Nat) (own : List Byte) (failed : Bool) : List Flit :=
  (List.range (max 1 ((own.length + 127) / 128))).flatMap fun i =>
    let bs := (own.drop (128 * i)).take 128
    packet 9 s.dev d (s.ctx c.ctx).job
      (fields [(0, c.group), (6, c.rank), (53, if failed then 4 else 3), (64, c.number % 2 ^ 32), (96, c.kinds), (128, c.count), (160, i)])
      (payloads bs ((bs.length + 31) / 32))

/-- R293, R295: a member sends its part, or that it has failed, to every other. -/
def State.sendColl (s : State) (c : CollOpn) (own : List Byte) (failed : Bool) : State :=
  match s.groupHere c.group with
  | some g => ((s.members g).filter fun d => d ≠ s.dev && !s.hub.unreachable.contains d).foldl (fun s d => s.inject (s.collPackets c d own failed)) s
  | none => s

/-- R293, R295: what a rank has brought so far to a collective, where it is whole; one that has failed, or that cannot be reached, is not
alive. -/
def State.rankPart (s : State) (c : CollOpn) (r : Nat) : Option CollPart :=
  let ins := s.hub.collIn.filter fun i => i.group = c.group && i.number = c.number % 2 ^ 32 && i.rank = r
  let total := sendBytes c.kind c.count (elemBytes c.ty) c.n (r = c.root)
  let part (i : Nat) : Option (List Byte) := (ins.find? fun x => x.part = i).map CollIn.bytes
  if ins.any CollIn.failed || (r ≠ c.rank && (match s.groupHere c.group with | some g => s.hub.unreachable.contains (s.member g r) | none => false)) then
    some { rank := r, alive := false, agree := true, bytes := [] }
  else if ins.any fun i => i.kinds ≠ c.kinds || i.count ≠ c.count then some { rank := r, alive := true, agree := false, bytes := [] }
  else if ins.isEmpty then none
  else (allSome ((List.range ((total + 127) / 128)).map part)).map fun bs =>
    { rank := r, alive := true, agree := true, bytes := bs.flatten.take total }

/-- R293: what has come for a collective. -/
def State.collected (s : State) (c : CollOpn) : List CollPart := (List.range c.n).filterMap (s.rankPart c)

/-- R293: a collective has ended here; nothing waits for it any more. -/
def State.dropColl (s : State) (key : Nat) (c : CollOpn) : State :=
  { s with
    fetched := unlist s.fetched key, remote := keep s.remote fun _ r => r.copy ≠ some key,
    hub := { s.hub with collIn := s.hub.collIn.filter fun i => !(i.group = c.group && i.number = c.number % 2 ^ 32) } }

/-- R295: a collective of this device ends with a status. -/
def State.finishColl (s : State) (key : Nat) (c : CollOpn) (status : Word) : State :=
  let s := if status = 3 then s.sendColl c [] true else s
  let s := s.dropColl key c
  match c.team with
  | none => s.setColl key { c with status := some status }
  | some t => ({ s with colls := unlist s.colls key }.completeToken t c.token status []).endTeam t

/-- R188, R295, R296: a buffer of this member has failed. -/
def State.failColl (s : State) (key : Nat) (c : CollOpn) (va : DWord) : State :=
  let s := (s.sendColl c [] true).dropColl key c
  match c.team with
  | some t => (s.setColl key { c with deferred := true }).defer t
      { warp := some c.warp, op := key, token := c.token, va := va, site := c.site, seq := c.seq }
  | none => s.setColl key { c with status := some 1 }

/-- R189, R295: a collective goes on with the checked pieces of a buffer. -/
def State.collReach (s : State) (key : Nat) (c : CollOpn) (k : Kind) (va n : Nat) (body : List Piece → State → State) : State :=
  let (s, sp) := s.engineSpace c.ctx c.agent.die
  match s.reach sp k [{ thread := 0, va := va, bytes := n }] with
  | (s, .ok ps) => body ps s
  | (s, .trap _ a) => s.failColl key c a
  | (s, .queue va cause level asid) =>
    let s := { s with fetched := unlist s.fetched key }
    let c := { c with done := [] }
    let (s, f) := s.engineFault c.agent.die (.coll key) c.ctx k va cause level asid c.agent.source c.site c.seq c.lidx
    s.setColl key { c with fault := f }

def CollOpn.origin (c : CollOpn) (key : Nat) : Origin :=
  { key := key, ctx := c.ctx, die := c.agent.die, who := some c.who, site := c.site, seq := c.seq, team := c.lidx, rt := c.rt, sc := c.sc,
    farSc := some .sys }

/-- R293, R295: the receive buffer takes bytes; those where the send range overlaps it are free, and where `lost` all that lie here. -/
def State.collWrite (s : State) (key : Nat) (c : CollOpn) (stop : Stop) (status : Word) (lost : Bool) (bs : List Byte) : State :=
  let n := recvBytes c.kind c.count (elemBytes c.ty) c.n
  let sent := sendBytes c.kind c.count (elemBytes c.ty) c.n (c.rank = c.root)
  s.collReach key c .engineWrite c.recv.toNat n fun ps s =>
    let ps := if lost then ps.filter fun p => p.at_.dev = s.dev else ps
    let byte (i : Nat) : Byte :=
      let a := c.recv.toNat + i
      if lost || (c.send.toNat ≤ a && a < c.send.toNat + sent) then (Config.freeWord (s.oracle + i)).setWidth 8 else bs.getD i 0
    let unit := elemBytes c.ty
    match stop with
    | .part k =>
      match nextPart unit c.done ps k with
      | some (q, i) => ((s.putPiece (c.origin key) q (q.dataOf fun _ => (List.range n).map byte)).spend n).setColl key { c with done := i :: c.done }
      | none => s
    | _ =>
      let s := (s.putPieces (c.origin key) unit c.done ps fun _ => (List.range n).map byte).spend n
      if s.awaiting key then s.setColl key { c with written := some status } else s.finishColl key c status

/-- R293: the send buffers in rank order. -/
def rankParts (c : CollOpn) (own : List Byte) (peers : List CollPart) : List (List Byte) :=
  (List.range c.n).map fun r => if r = c.rank then own else ((peers.find? fun p => p.rank = r).map CollPart.bytes).getD []

/-- R293: does every other rank stand among the peers. -/
def allPeers (c : CollOpn) (peers : List CollPart) : Bool :=
  (List.range c.n).all fun r => r = c.rank || peers.any fun p => p.rank = r

/-- R256, R293: a collective reads its send buffer, or one part of it, and sends it to the other members once it is whole. -/
def State.readColl (s : State) (key : Nat) (c : CollOpn) (stop : Stop) : State :=
  let n := sendBytes c.kind c.count (elemBytes c.ty) c.n (c.rank = c.root)
  s.collReach key c .engineRead c.send.toNat n fun ps s =>
    match s.gatherBy (c.origin key) (elemBytes c.ty) stop ps with
    | (s, none) => s
    | (s, some got) => (s.sendColl c (wantBytes got 0) false).setColl key { c with own := some (wantBytes got 0) }

/-- R256, R293 to R295: a collective goes on: it ends where a member has failed or differs; it reads and sends what it brings; once the
others have brought theirs it writes, all that remains or one part. -/
def State.runColl (s : State) (key : Nat) (c : CollOpn) (stop : Stop) (peers : List CollPart) : State :=
  if peers.any fun p => !p.alive then s.collWrite key c .none 3 true []
  else
    match c.own with
    | none => s.readColl key c stop
    | some own =>
      if peers.any fun p => !p.agree then s.finishColl key c 2
      else if allPeers c peers then s.collWrite key c stop 0 false (collectiveResult c (rankParts c own peers))
      else s

/-- R295, R471: a member that has lost a request of its own has failed. -/
def State.loseColl (s : State) (key : Nat) (c : CollOpn) : State :=
  let mine : CollIn := { group := c.group, number := c.number % 2 ^ 32, rank := c.rank, kinds := c.kinds, count := c.count, part := 0, failed := true, bytes := [] }
  { s with remote := keep s.remote fun _ r => r.copy ≠ some key, hub := { s.hub with collIn := s.hub.collIn ++ [mine] } }.setColl key { c with written := none }

/-- R293 to R295, R454, R471 -/
def execCollectiveComplete (key : Nat) (stop : Stop) (peers : List CollPart) (s : State) : Out :=
  match look s.colls key with
  | none => .next s.bump
  | some c =>
    let waits : Bool := c.fault.isSome || !s.inPlace c.ctx c.team || !s.precedes c.agent c.who c.mark c.sc
    let peers := peers ++ s.collected c
    if c.deferred || c.status.isSome then .next s.bump
    else
      match stop with
      | .fault va _ _ => .next (s.bump.failColl key c va)
      | .lost _ => .next (s.bump.loseColl key c)
      | .none =>
        if waits || s.awaiting key then .next s.bump
        else
          match c.written with
          | some v => .next (s.bump.finishColl key c v)
          | none => .next (s.bump.runColl key c .none peers)
      | .part n => if waits || c.written.isSome then .next s.bump else .next (s.bump.runColl key c (.part n) peers)

end Sys2Proof.Machine
end

