-- ==== Sys2Proof/Machine/Forecast.lean ====
section
/-! DEFINITION. Forecast tiles: histories, predictions, captures and checks (R193 to R212). -/

namespace Sys2Proof.Machine

/-! ### The history area (R193) -/

/-- R193: elements of the tensor, bytes of one, and bytes of a plane. -/
def histCount (d : List Word) : Nat := descSize d 0 * descSize d 1 * descSize d 2 * descSize d 3
def histWidth (d : List Word) : Nat := fmtBits (descFmt d) / 8
def planeBytes (d : List Word) : Nat := 64 * ((histCount d * fmtBits (descFmt d) + 511) / 512)

/-- R193: address of an element in a plane. -/
def planeAddr (d : List Word) (plane n : Nat) : Nat := descHist d + 0x40 + plane * planeBytes d + n * histWidth d

def Hist.plane (h : Hist) (p : Nat) : Sparse Byte := if p = 0 then h.plane0 else h.plane1

/-- R193: the code of element n of a plane. -/
def planeCode (d : List Word) (t : Sparse Byte) (n : Nat) : Nat :=
  leNat ((List.range (histWidth d)).map fun i => readOr 0 t (n * histWidth d + i))

/-- R193, R198: linear indices of a tile's elements that lie inside the tensor, by row and column. -/
def cellsInside (d sp : List Word) : List (Nat × Nat × Nat) :=
  let (lo, hi) := colRange d sp
  (rowsInside d sp fun r => inside d 1 (specOrigin sp 1 + r)).flatMap fun x =>
    (List.range (hi - lo)).map fun k => (x.row, lo + k, (linearIndex d sp x.row (lo + k)).toNat)

/-- The bytes of a plane that a tile covers, row by row. -/
def planeWants (d sp : List Word) (plane : Nat) : List Want :=
  let (lo, hi) := colRange d sp
  if lo = hi then []
  else (rowsInside d sp fun r => inside d 1 (specOrigin sp 1 + r)).map fun x =>
    { thread := x.row, va := planeAddr d plane (linearIndex d sp x.row lo).toNat, bytes := (hi - lo) * histWidth d }

/-! ### Predictions (R195) -/

/-- R195: the exact value of a prediction from v(VLAST) and v(VLAST − 1). -/
def predictExact (pol : Nat) (a b : Fp) : Exact :=
  match pol with
  | 0 => a.exact
  | 1 => addExact .rn (a.times2 1) b.negate
  | _ => addExact .rn a ((addExact .rn a b.negate).value.times2 (-1))

/-- R195: the code that the prediction of an element writes. -/
def predictCode (d : List Word) (a b : Nat) : Nat :=
  let f := descFmt d
  let t := (f32.deliver .rn (descSat d) (predictExact (descPol d) (elementValue f 0 a) (elementValue f 0 b))).1
  plainCode f .rn (descSat d) .flush (.real (f32.value t).exact)

/-- The bytes of a tile of a forecastable tensor, element codes given; the others get the zero code. -/
def forecastTile (d sp : List Word) (code : Nat → Nat) : List Byte :=
  let cells := cellsInside d sp
  let rows := (List.range (specRows sp)).map fun r => (List.range (specCols sp)).map fun c =>
    match cells.find? fun x => x.1 = r && x.2.1 = c with
    | some (_, _, n) => code n
    | none => 0
  tileOf (descFmt d) sp rows []

def State.hist (s : State) (k : Nat) : Hist := readOr { ctx := 0, base := 0 } s.hists k
def State.setHist (s : State) (k : Nat) (h : Hist) : State := { s with hists := place s.hists k h }
def State.setCheck (s : State) (k : Nat) (c : Check) : State := { s with checks := place s.checks k c }

/-- R197: a prediction has failed: the tile is EMPTY, and the team learns of it. -/
def State.failPrediction (s : State) (key : Nat) (c : Check) (va : DWord) : State :=
  let s := { s with checks := unlist s.checks key }
  let s := s.mapTeam c.team fun x => { x with
    tiles := adjust x.tiles c.tile fun k => { k with st := .empty, own := none, sets := [] } }
  s.defer c.team { warp := none, op := key, tile := some c.tile, va := va, site := c.site, seq := c.seq }

/-- R195, R196: the prediction is written into the tile. -/
def State.writePrediction (s : State) (key : Nat) (c : Check) (k : Tile) : State :=
  let h := s.hist c.hist
  let a := h.plane (h.vlast.toNat % 2)
  let b := h.plane ((h.vlast.toNat + 1) % 2)
  let bs := forecastTile c.desc k.spec fun n => predictCode c.desc (planeCode c.desc a n) (planeCode c.desc b n)
  ((s.mapTeam c.team fun x => x.putBytes k.spec k.raced s.oracle bs).pruneBytes c.team k.spec bs.length |>.spend 1048576).setCheck key { c with written := true }

/-- The planes that a prediction reads (R195). -/
def predictionPlanes (d : List Word) (vlast : Nat) : List Nat :=
  if descPol d = 0 then [vlast % 2] else [vlast % 2, (vlast + 1) % 2]

/-- The die on which an operation of a team runs. -/
def State.teamDie (s : State) (t : Nat) : Nat :=
  match look s.teams t with
  | some x => (match x.core with | some c => c / 64 | none => x.die)
  | none => 0

/-- R416: the core of a team, as a fault of its prediction shows it. -/
def State.teamAgent (s : State) (t : Nat) : Agent :=
  match (look s.teams t).bind Team.core with
  | some c => .wide c
  | none => .engine (s.teamDie t)

/-- R195 to R197 -/
def State.predict (s : State) (key : Nat) (c : Check) (k : Tile) : State :=
  let h := s.hist c.hist
  let die := s.teamDie c.team
  let ws := (predictionPlanes c.desc h.vlast.toNat).flatMap fun p => planeWants c.desc k.spec p
  let (s, sp) := s.engineSpace c.ctx die
  match s.reach sp .engineRead ws with
  | (s, .ok _) => s.writePrediction key c k
  | (s, .trap _ a) => s.failPrediction key c a
  | (s, .queue va cause level asid) =>
    let (s, f) := s.engineFault die (.check key) c.ctx .engineRead va cause level asid (s.teamAgent c.team).source c.site c.seq (s.teamIdx c.team)
    s.setCheck key { c with fault := f }

/-- R197: the write of a prediction into a scratchpad tile has met a recoverable translation fault; the prediction is made again after
the replay. -/
def State.faultPrediction (s : State) (key : Nat) (c : Check) (va cause level : Nat) : State :=
  let (s, f) := s.engineFault (s.teamDie c.team) (.check key) c.ctx .engineWrite va cause level (s.ctx c.ctx).asid (s.teamAgent c.team).source
    c.site c.seq (s.teamIdx c.team)
  s.setCheck key { c with fault := f }

/-- R195 to R197 -/
def execForecastPrediction (check : Nat) (stop : Stop) (s : State) : Out :=
  match look s.checks check with
  | none => .next s.bump
  | some c =>
    match s.tile c.team c.tile with
    | none => .next { s.bump with checks := unlist s.checks check }
    | some k =>
      if c.gone then .next { s.bump with checks := unlist s.checks check }
      else if c.written || c.fault.isSome || !s.inPlace c.ctx none then .next s.bump
      else
        match stop with
        | .lost va => .next (s.bump.failPrediction check c va)
        | .none => .next (s.bump.predict check c k)
        | .fault va cause level => if specLoc k.spec = 0 then .next s.bump else .next (s.bump.faultPrediction check c va.toNat cause level)
        | .part _ => .next s.bump

/-! ### Captures (R210) -/

/-- Every row of a tensor. -/
def allRows (d : List Word) : List RowAt :=
  (List.range (descSize d 3)).flatMap fun i3 => (List.range (descSize d 2)).flatMap fun i2 => (List.range (descSize d 1)).map fun i1 =>
    { row := i1 + descSize d 1 * (i2 + descSize d 2 * i3), i1 := i1, i2 := i2, i3 := i3 }

/-- R193: bytes laid into a plane, rows densely one after the other. -/
def densePlane (d : List Word) (old : Sparse Byte) (bytes : Nat → List Byte) : Sparse Byte :=
  let rb := descSize d 0 * histWidth d
  (List.range (descSize d 1 * descSize d 2 * descSize d 3)).foldl (fun t r =>
    (bytes r).zipIdx.foldl (fun t (b, i) => write 0 t (r * rb + i) b) t) old

/-- R198, R199, R210: may the capture of a version overwrite its plane: every prediction under VLAST has read its
planes, and every check of the version two before has been made. -/
def State.planesFree (s : State) (hk : Nat) (h : Hist) (v : Word) : Bool :=
  s.checks.all fun (_, c) => c.hist ≠ hk || c.gone || ((c.written || c.ver ≠ h.vlast + 1) && c.ver + 2 ≠ v)

/-- R198: the checks of a version may be made from now on. -/
def State.publish (s : State) (hk : Nat) (v : Word) : State :=
  { s with checks := mapVals s.checks fun _ c => if c.hist = hk && c.ver = v then { c with ready := some s.nextKey } else c }

/-- R193, R194: header of a history area. -/
def Hist.header (h : Hist) : List Byte :=
  [h.vlast, BitVec.ofNat 32 h.nhist, h.commits, h.squashes, h.cascSum, h.cascMax].flatMap (fun w => leBytes 4 w.toNat) ++ List.replicate 40 0

/-- R193: what the forecast units hold of a history stands in its area too, as far as its pages are there and are memory; `planes` lists the
planes to be written, with their bytes. -/
def State.mirror (s : State) (hk die : Nat) (planes : List (Nat × Nat)) : State :=
  let h := s.hist hk
  let (s, sp) := s.engineSpace h.ctx die
  let o : Origin := { key := hk, ctx := h.ctx, die := die, site := h.site, seq := h.seq }
  let put (s : State) (va : Nat) (bs : List Byte) : State :=
    match s.reach sp .engineWrite [{ thread := 0, va := va, bytes := bs.length }] with
    | (s, .ok ps) => if ps.any fun p => p.at_.dev = s.dev && hbmEnd ≤ p.at_.pa then s else s.putPieces o 8 [] ps fun _ => bs
    | (s, _) => s
  planes.foldl (fun s (p, n) => put s (h.base + 64 + p * n) ((List.range n).map (readOr 0 (h.plane p)))) (put s h.base h.header)

/-- R193, R210: a capture ends without a publication. -/
def State.failCapture (s : State) (hk die : Nat) (cause : Nat) (va : DWord) : State :=
  let h := s.hist hk
  ({ s with fetched := unlist s.fetched hk, remote := keep s.remote fun _ r => r.copy ≠ some hk }.setHist hk
    { h with capture := none, done := some false, failVa := va, failCause := cause, nhist := min h.nhist 1 }).mirror hk die []

/-- R210: the capture of a history goes on. -/
def State.runCapture (s : State) (hk : Nat) (h : Hist) (v : Word) (w : Who) (stop : Stop) : State :=
  let d := h.desc
  let die := (s.agentOf w).die
  let team := (s.nameOf w h.site).team
  let o : Origin := { key := hk, ctx := h.ctx, die := die, who := some w, site := h.site, seq := h.seq, team := team }
  let rows := (allRows d).map fun x => { thread := x.row, va := x.addr d % 2 ^ 64, bytes := descSize d 0 * histWidth d : Want }
  let plane : List Want := [{ thread := 0, va := planeAddr d (v.toNat % 2) 0, bytes := planeBytes d }]
  let (s, sp) := s.engineSpace h.ctx die
  let fault (s : State) (k : Kind) (va cause level asid : Nat) : State :=
    let (s, f) := s.engineFault die (.hist hk) h.ctx k va cause level asid (s.agentOf w).source h.site h.seq team
    s.setHist hk { h with fault := f }
  match s.reach sp .engineRead rows with
  | (s, .trap c a) => s.failCapture hk die (causeCode c) a
  | (s, .queue va cause level asid) => fault s .engineRead va cause level asid
  | (s, .ok ps) =>
    match s.reach sp .engineWrite plane with
    | (s, .trap c a) => s.failCapture hk die (causeCode c) a
    | (s, .queue va cause level asid) => fault s .engineWrite va cause level asid
    | (s, .ok _) =>
      match s.gatherBy o (histWidth d) stop ps, stop with
      | (s, none), _ | (s, some _), .part _ => s
      | (s, some got), _ =>
        let new := densePlane d (h.plane (v.toNat % 2)) (wantBytes got)
        let s := { s with fetched := unlist s.fetched hk }.setHist hk
          { h with plane0 := if v.toNat % 2 = 0 then new else h.plane0, plane1 := if v.toNat % 2 = 1 then new else h.plane1,
                   vlast := v, nhist := min (h.nhist + 1) 2, capture := none, done := some true }
        (s.publish hk v).mirror hk die [(v.toNat % 2, planeBytes d)]

/-- R471, R188: a capture has lost a packet: a deferred fault of the issuing warp, and no publication. -/
def State.loseCapture (s : State) (hk : Nat) (w : Who) (va : DWord) : State :=
  let s := s.failCapture hk (s.agentOf w).die 0 va
  match w with
  | .warp t n _ | .handler t n => s.bump.defer t { warp := some n, op := s.nextKey, va := va, site := (s.hist hk).site, seq := (s.hist hk).seq }
  | .lat _ _ => s

/-- R210, R471 -/
def execForecastCapture (hist : Nat) (stop : Stop) (s : State) : Out :=
  match look s.hists hist with
  | none => .next s.bump
  | some h =>
    match h.capture, h.captor with
    | some (v, _), some w =>
      match stop with
      | .lost va => .next (s.bump.loseCapture hist w va)
      | .fault .. => .next s.bump
      | stop =>
        if h.fault.isSome || !s.inPlace h.ctx none || (stop = .none && s.awaiting hist) || !s.precedes (s.agentOf w) w h.mark .dev || !s.planesFree hist h v then .next s.bump
        else .next (s.bump.runCapture hist h v w stop)
    | _, _ => .next s.bump

/-! ### Checks (R198 to R206) -/

/-- A finite value over a unit. -/
def Fp.over (v : Fp) (unit : Int) : Int :=
  match v with
  | .fin n m e => scaled n m e unit
  | _ => 0

def Fp.exponent (v : Fp) : Int := match v with | .fin _ _ e => e | _ => 0

def Fp.isInf (v : Fp) : Bool := match v with | .inf _ => true | _ => false

/-- R198: does an element pass. -/
def elementPasses (tola tolr p r : Fp) : Bool :=
  if p.isNan || r.isNan then false
  else if p.isInf || r.isInf then decide (p = r)
  else if tola.isInf || tolr.isInf then true
  else
    let u := [tola.exponent, tolr.exponent + r.exponent, p.exponent, r.exponent, tolr.exponent].foldl min 0
    let product := (tolr.over tolr.exponent * (r.over r.exponent).natAbs) * 2 ^ (tolr.exponent + r.exponent - u).toNat
    ((p.over u - r.over u).natAbs : Int) ≤ tola.over u + product

/-- R198: do all elements of a tile pass against a plane. -/
def tilePasses (d sp : List Word) (g : Grid) (plane : Sparse Byte) : Bool :=
  let f := descFmt d
  let tola := f32.value (descWord d 3).toNat
  let tolr := f32.value (descWord d 4).toNat
  (cellsInside d sp).all fun (r, c, n) => elementPasses tola tolr (g.value r c) (elementValue f 0 (planeCode d plane n))

def Tile.dropCheck (k : Tile) (x : Nat) : Tile := { k with sets := k.sets.filter (· ≠ x) }
def Task.dropCheck (k : Task) (x : Nat) : Task := { k with sets := k.sets.filter (· ≠ x) }

/-- R204: a check leaves every set. -/
def State.dropCheck (s : State) (t x : Nat) : State :=
  { (s.mapTeam t fun y => { y with tiles := mapVals y.tiles fun _ k => k.dropCheck x }) with
    tasks := mapVals s.tasks fun _ k => if k.team = t then k.dropCheck x else k,
    checks := unlist s.checks x }

/-- R204: tasks of a team that have ended with an empty set commit, in post order. -/
def State.commitTasks (s : State) (t : Nat) : State :=
  ((s.tasks.filter fun (_, k) => k.team = t && k.ended && k.sets.isEmpty).map Prod.fst).foldl (fun s k => s.finishTask k) s

/-- R204: a check passes. -/
def State.passCheck (s : State) (x : Nat) (c : Check) : State :=
  let h := s.hist c.hist
  let s := ((s.setHist c.hist { h with commits := h.commits + 1 }).mirror c.hist (s.teamDie c.team) []).dropCheck c.team x
  let s := s.mapTeam c.team fun y => { y with
    tiles := adjust y.tiles c.tile fun k => { k with st := .ready, own := none, sets := [], sc := .dev } }
  (s.commitTasks c.team).drainHeld c.team

/-- R205: a task of S that has started returns to the scheduler. -/
def State.repost (s : State) (key : Nat) (k : Task) : State :=
  let s := { s with tasks := place s.tasks key { k with running := false, started := false, ended := false, sets := [], shadow := [], fault := none } }
  match recOutput k.record with
  | none => s
  | some (o, _) => s.mapTeam k.team fun y => { y with
      tiles := adjust y.tiles o fun t => { t with st := .filling, op := some key, sets := [], raced := [] } }

/-- R205: a check fails: shadows come back, the latest first, tasks are posted again, and the real data stands in the tile. -/
def State.squash (s : State) (x : Nat) (c : Check) (k : Tile) (plane : Sparse Byte) : State :=
  let h := s.hist c.hist
  let hit := s.tasks.filter fun (_, t) => t.team = c.team && t.sets.contains x && t.started
  let n := BitVec.ofNat 32 hit.length
  let s := (s.setHist c.hist { h with squashes := h.squashes + 1, cascSum := h.cascSum + n,
                                      cascMax := if h.cascMax.toNat < hit.length then n else h.cascMax }).count (s.teamDie c.team) c.ctx 0x09 hit.length
  let s := s.mirror c.hist (s.teamDie c.team) []
  let s := hit.reverse.foldl (fun s (_, t) => if recAcc t.record then s.putAccs t t.shadow else s) s
  let s := hit.foldl (fun s (key, t) => s.repost key t) s
  let s := s.dropCheck c.team x
  let bs := forecastTile c.desc k.spec (planeCode c.desc plane)
  let s := s.mapTeam c.team fun y =>
    let y := y.putBytes k.spec k.raced s.oracle bs
    { y with tiles := adjust y.tiles c.tile fun k => { k with st := .ready, own := none, sets := [], sc := .dev } }
  ((s.pruneBytes c.team k.spec bs.length).spend 1048576).drainHeld c.team

/-- R198: checks that the die's TCEs take before another: by the ends of their publications, then in tile-table order. -/
def State.checksAhead (s : State) (key : Nat) (c : Check) : Nat :=
  (s.checks.filter fun (k, x) => k ≠ key && !x.gone && x.written && s.inPlace x.ctx none && s.teamDie x.team = s.teamDie c.team &&
    match x.ready, c.ready with
    | some a, some b => a < b || (a = b && (x.team < c.team || (x.team = c.team && x.tile < c.tile)))
    | _, _ => false).length

/-- R198, R199, R204, R205 -/
def execTceCheck (check : Nat) (s : State) : Out :=
  match look s.checks check with
  | none => .next s.bump
  | some c =>
    match look s.teams c.team, s.tile c.team c.tile with
    | some x, some k =>
      if c.gone then .next { s.bump with checks := unlist s.checks check }
      else if !c.written || c.ready.isNone || !s.inPlace c.ctx none || 4 ≤ s.checksAhead check c then .next s.bump
      else
        let plane := (s.hist c.hist).plane (c.ver.toNat % 2)
        let f := descFmt c.desc
        let g := gridOf f k.spec (x.tileBytes [] k.spec (tileBytes f k.spec) s.oracle)
        let s := s.bump.spend 1048576
        if tilePasses c.desc k.spec g plane then .next (s.passCheck check c) else .next (s.squash check c k plane)
    | _, _ => .next { s.bump with checks := unlist s.checks check }

/-! ### `fcset`, `fcpub`, `fcstat` -/

/-- R209, R210: the forecastable descriptor of a number. -/
def State.forecastDesc (s : State) (c n : Nat) : Option (List Word) :=
  match s.desc c n with
  | some d => if descValid d && descFc d then some d else none
  | none => none

/-- R209: is a tile of the context that is bound to a history area PROV. -/
def State.provOn (s : State) (c base : Nat) : Bool :=
  s.teams.any fun (_, t) => t.ctx = c && someVal t.tiles fun _ k =>
    k.st = .prov && (let d := (s.desc c (specDesc k.spec)).getD []; descFc d && descHist d = base)

/-- R147, R209, R210: the forecastable descriptor of an instruction: as it read it when it first issued. -/
def Env.ownDesc (e : Env) (n : Nat) (s : State) : Option (List Word) :=
  if e.fromCapture && !e.sp.keptDesc.isEmpty then some e.sp.keptDesc else s.forecastDesc e.ctxNo n

/-- R147, R209, R210: the running split waits until a capture of a history has ended, with the descriptor that it has read. -/
def Env.holdCapture (e : Env) (hk : Nat) (d : List Word) (s : State) : State :=
  (e.hold 14 (.capture hk) s).mapSplit e.who fun k => { k with keptDesc := d }

/-- R209 -/
def execFcset (p : Pre) (a : RegNo) (desc : Num) (s : State) : Out :=
  act (.fcset p a desc) s fun e s =>
    let i := Instr.fcset p a desc
    let m := e.exm p
    if m = 0 then e.retire i s
    else
      match e.ownDesc ((e.num m desc).toNat % 256) s with
      | none => e.raise .tileState 0 s
      | some d =>
        let (s, hk) := s.histKey e.ctxNo (descHist d)
        if (s.hist hk).capture.isSome then e.holdCapture hk d s
        else if s.provOn e.ctxNo (descHist d) then e.raise .speculation 0 s
        else
          let s := s.setHist hk { s.hist hk with vlast := e.one m a, nhist := 0, commits := 0, squashes := 0, cascSum := 0, cascMax := 0 }
          e.retire i (s.mirror hk e.die [])

/-- R210: the running split's own capture, where it waits for one. -/
def Env.ownCapture (e : Env) (s : State) : Option (Nat × Hist) :=
  if !e.sp.again then none
  else
    match e.sp.park.map Park.cond with
    | some (.capture hk) => (look s.hists hk).bind fun h => if h.captor = some e.who then some (hk, h) else none
    | _ => none

/-- R210: how the running split's own capture ended, where another has begun since. -/
def Env.pastCapture (e : Env) (s : State) : Option (Nat × Hist × CaptureEnd) :=
  if !e.sp.again then none
  else
    match e.sp.park.map Park.cond with
    | some (.capture hk) => (look s.hists hk).bind fun h => (h.ended.find? fun r => r.who = e.who).map fun r => (hk, h, r)
    | _ => none

/-- R210: a history as an `fcpub` of an actor finds it: nothing of an earlier actor of this number is left. -/
def Hist.without (h : Hist) (w : Who) : Hist := { h with ended := h.ended.filter fun r => r.who ≠ w }

/-- R210: the capture that ended last makes way for another; its issuer may still wait. -/
def Hist.settled (h : Hist) : List CaptureEnd :=
  match h.captor, h.done with
  | some w, some good => h.ended ++ [{ who := w, good := good, cause := h.failCause, va := h.failVa, site := h.site, seq := h.seq }]
  | _, _ => h.ended

/-- R76: the cause that a failed capture raises. -/
def captureCause (n : Nat) : Cause :=
  if n = causeCode .permission then .permission else if n = causeCode .dataError then .dataError else .translation

/-- R210: a publication starts its capture. -/
def Env.startCapture (e : Env) (n : Nat) (hk : Nat) (v : Word) (d : List Word) (s : State) : State :=
  let s := s.release e.agent .dev e.releaser
  let (s, seq) := s.command e.agent e.ctxNo
  let h := s.hist hk
  e.hold 14 (.capture hk) (s.setHist hk { h with
    capture := some (v, n), captor := some e.who, mark := s.nextKey, done := none, site := e.sp.pc, seq := seq, desc := d,
    ended := h.settled.filter fun r => r.who ≠ e.who })

/-- R210 -/
def execFcpub (p : Pre) (a b : RegNo) (s : State) : Out :=
  act (.fcpub p a b) s fun e s =>
    let i := Instr.fcpub p a b
    let m := e.exm p
    let n := (e.one m b).toNat % 256
    let v := e.one m a
    if m = 0 then e.retire i s
    else
      match e.ownCapture s with
      | some (hk, h) =>
        let clear (s : State) : State := s.setHist hk { h with captor := none, done := none }
        match h.done with
        | none => e.hold 14 (.capture hk) s
        | some ok =>
          if ok || h.failCause = 0 then e.retire i (clear s)
          else e.raise (captureCause h.failCause) h.failVa (clear s) 0 (some (h.site, h.seq))
      | none =>
        match e.pastCapture s, e.ownDesc n s with
        | some (hk, h, r), _ =>
          let s := s.setHist hk (h.without e.who)
          if r.good || r.cause = 0 then e.retire i s else e.raise (captureCause r.cause) r.va s 0 (some (r.site, r.seq))
        | none, none => e.raiseOpen .tileState s
        | none, some d =>
          let (s, hk) := s.histKey e.ctxNo (descHist d)
          let h := s.hist hk
          if h.capture.isSome then e.holdCapture hk d s
          else if v = h.vlast && 1 ≤ h.nhist then e.retire i s
          else if 1 ≤ h.nhist && v ≠ h.vlast + 1 then e.raiseOpen .tileState s
          else e.startCapture n hk v d s

/-- R211 -/
def execFcstat (p : Pre) (d b : RegNo) (s : State) : Out :=
  act (.fcstat p d b) s fun e s =>
    let m := e.exm p
    let h := ((s.forecastDesc e.ctxNo ((e.one m b).toNat % 256)).bind fun x => (s.hist? e.ctxNo (descHist x)).map Prod.snd)
    let ws := match h with
      | some h => [h.commits, h.squashes, h.cascSum, h.cascMax]
      | none => [0, 0, 0, 0]
    e.retire (.fcstat p d b) ((Mask.threads m).foldl (fun s t => e.setList d.toNat t ws s) s)

end Sys2Proof.Machine
end

