-- ==== Sys2Proof/Machine/Packets.lean ====
section
/-! DEFINITION. Flits and packets, and the way they take through the fabric (R357, R366, R436, R438, R460 to R463). -/

namespace Sys2Proof.Machine

/-! ### Flits (R461) -/

/-- CRC-32C of a byte and of bytes. -/
def crcBit (c : Nat) : Nat := if c % 2 = 1 then (c / 2) ^^^ 0x82F63B78 else c / 2
def crcByte (c : Nat) (b : Byte) : Nat := (List.range 8).foldl (fun c _ => crcBit c) (c ^^^ b.toNat)
def crc32c (bs : List Byte) : Nat := bs.foldl crcByte 0xFFFFFFFF ^^^ 0xFFFFFFFF

/-- Bits [95:0] of a flit. -/
def flitLow (f : Flit) : Nat :=
  fields [(8, f.ccnt.toNat), (14, f.cvc.toNat), (18, f.aseq.toNat), (30, bit f.nak 0), (31, bit f.av 0), (32, f.type.toNat), (36, f.pos.toNat),
    (38, f.src.toNat), (51, f.dst.toNat), (64, f.tag.toNat), (80, f.vc.toNat), (84, f.seq.toNat)]

/-- The CRC over the payload and then bits [95:0], bytes in ascending order. -/
def flitCrc (f : Flit) : Nat := crc32c (le 32 f.payload.toNat ++ le 12 (flitLow f))

/-- The 48 bytes of a flit. -/
def flitBytes (f : Flit) : List Byte := le 12 (flitLow f) ++ le 4 (flitCrc f) ++ le 32 f.payload.toNat

/-- R441: a flit as a record stores it: its link fields are zero. -/
def stripLink (f : Flit) : Flit := { f with seq := 0, av := false, nak := false, aseq := 0, cvc := 0, ccnt := 0 }

/-- R461: the head payload of a request. -/
def requestHead (mask name txn op w ord rt sc pa : Nat) : Nat :=
  fields [(0, pa), (40, sc), (42, rt), (44, ord), (46, w), (49, op), (64, txn), (96, name), (128, mask)]

/-- R234, R461: the quarters of a line that hold a byte of a mask, lowest first. -/
def quartersOf (mask : BitVec 128) : List Nat := (List.range 4).filter fun q => mask.extractLsb' (32 * q) 32 ≠ 0

/-- R234: bytes of a quarter that the mask does not mark carry zero. -/
def quarterData (mask : BitVec 128) (data : BitVec 1024) (q : Nat) : Nat :=
  leNat ((List.range 32).map fun i => if mask.getLsbD (32 * q + i) then dataByte data (32 * q + i) else 0)

/-- R49: W of an access of n bytes; 5 stands for a line (notes/assumptions/31.md). -/
def widthCode (n : Nat) : Nat :=
  match n with
  | 1 => 0 | 2 => 1 | 4 => 2 | 8 => 3 | 16 => 4 | _ => 5

/-- R461: the request of an operation: what it reads as one access, or the whole line. -/
def readHead (line : Nat) (mask : BitVec 128) (name txn ord rt sc : Nat) : Nat :=
  let n := (maskPlaces mask).length
  let first := (maskPlaces mask).headD 0
  let one : Bool := widthCode n < 5 && mask = BitVec.ofNat 128 ((2 ^ n - 1) * 2 ^ first)
  requestHead 0 name txn 0 (if one then widthCode n else 5) ord rt sc (linePa line + if one then first else 0)

/-- R357: a request as 96 bytes. -/
def shipRecord (r : ShipReq) : List Byte :=
  le 8 r.entry.toNat ++ le 8 (fields [(0, r.pa), (40, r.dev)]) ++
  le 4 (fields [(0, r.asid), (16, r.ctx), (22, r.narg), (26, bit r.token 0)]) ++
  le 4 (fields [(0, r.srcDev), (13, r.core), (21, r.thread)]) ++ le 4 r.ret.toNat ++ le 4 r.seq.toNat ++ le 8 r.site.toNat ++
  le 4 r.team.toNat ++ le 4 r.lid.toNat ++ (List.range 8).flatMap (fun i => le 4 (r.args.getD i 0).toNat) ++ le 16 0

/-- R357: the request of 96 bytes; what the home does not see of its sender is zero. -/
def shipOfRecord (bs : List Byte) (tag : Nat) : ShipReq :=
  let f (o n : Nat) : Nat := leNat ((bs.drop o).take n)
  let lock := f 8 8
  let c := f 0x10 4
  let src := f 0x14 4
  { entry := BitVec.ofNat 64 (f 0 8), dev := lock / 2 ^ 40 % 8192, pa := lock % 2 ^ 40, token := c / 2 ^ 26 % 2 = 1, narg := c / 2 ^ 22 % 16,
    ctx := c / 2 ^ 16 % 64, asid := c % 65536, thread := src / 2 ^ 21 % 32, core := src / 2 ^ 13 % 256, srcDev := src % 8192,
    ret := BitVec.ofNat 32 (f 0x18 4), seq := BitVec.ofNat 32 (f 0x1C 4), site := BitVec.ofNat 64 (f 0x20 8), team := BitVec.ofNat 32 (f 0x28 4),
    lid := BitVec.ofNat 32 (f 0x2C 4), args := (List.range 8).map fun i => BitVec.ofNat 32 (f (0x30 + 4 * i) 4), jobTag := tag,
    stage := 0, launch := 0, key := 0, warp := 0 }

/-- R366: a result as 32 bytes. -/
def resultRecord (r : ShipRes) : List Byte :=
  le 4 r.status.toNat ++ le 4 r.ret.toNat ++ le 4 (fields [(0, r.srcDev), (13, r.core), (21, r.thread)]) ++ le 4 r.seq.toNat ++
  (List.range 4).flatMap fun i => le 4 (r.res.getD i 0).toNat

/-- R366: the result of 32 bytes. -/
def resultOfRecord (bs : List Byte) : ShipRes :=
  let f (o n : Nat) : Nat := leNat ((bs.drop o).take n)
  let src := f 8 4
  { status := BitVec.ofNat 8 (f 0 1), ret := BitVec.ofNat 32 (f 4 4), thread := src / 2 ^ 21 % 32, core := src / 2 ^ 13 % 256, srcDev := src % 8192,
    seq := BitVec.ofNat 32 (f 12 4), res := (List.range 4).map fun i => BitVec.ofNat 32 (f (16 + 4 * i) 4), key := 0, warp := 0, home := 0, mark := 0 }

/-- R461, R436: the flits of a request to another device. -/
def requestFlits (dev tag txn : Nat) (r : RemoteOp) : List Flit :=
  let ord := r.ord.code.toNat
  let rt := r.rt.code.toNat
  let sc := r.sc.code.toNat
  match r.type with
  | 1 => packet 1 dev r.dev tag (readHead r.line r.mask r.seq.toNat txn ord rt sc) []
  | 2 => packet 2 dev r.dev tag (requestHead r.mask.toNat r.seq.toNat txn 0 0 ord rt sc (linePa r.line)) ((quartersOf r.mask).map (quarterData r.mask r.data))
  | 3 =>
    match r.atomic with
    | some a => packet 3 dev r.dev tag (requestHead (a.operand.toNat + a.compare.toNat * 2 ^ 64) r.seq.toNat txn a.op (widthCode a.bytes) ord rt sc a.pa) []
    | none => []
  | 7 =>
    match r.ship with
    | some q => packet 7 dev r.dev tag (fields [(64, txn)]) (payloads (shipRecord q) 3)
    | none => []
  | _ => []

/-- R461: a response holds the TXN of its request, and in its low byte the cause of a failure
(notes/assumptions/31.md). -/
def responseHead (txn cause value : Nat) : Nat := fields [(0, cause), (64, txn), (128, value)]

/-! ### Routes (R460, R463) -/

/-- R463: a link of this device is live. -/
def Port.live (x : Port) : Bool := (x.st = 2 || x.st = 3) && x.peer.isSome && !x.disable

/-- R460: the local port of a position toward another. -/
def localPort (a b : Nat) : Nat := (b + 31 - a) % 32

/-- R463: is a link of a device of the group live. -/
def State.linkLive (s : State) (d p : Nat) : Bool := if d = s.dev then (s.port p).live else s.hub.links.contains (d, p)

/-- R460, R463: the group that a global link of a device leads to. -/
def State.linkGroup (s : State) (d p : Nat) : Nat :=
  let wired := (d / 32 + (32 * (d % 32) + (p - 32)) / 4 + 1) % 256
  if d = s.dev then (((s.port p).peer.map fun x => x.1 / 32).getD wired) else wired

/-- R463: live global links of a group to another, as device and port, in ascending k. -/
def State.globalLinks (s : State) (g h : Nat) : List (Nat × Nat) :=
  (List.range 1020).filterMap fun k =>
    let d := 32 * g + k / 32
    let p := 32 + k % 32
    if s.linkLive d p && s.linkGroup d p = h then some (d, p) else none

/-- R463 step 4: the port for a local hop to a position, by a detour where the link has failed. -/
def State.hopTo (s : State) (b : Nat) : Option Nat :=
  let a := s.dev % 32
  let via (c : Nat) : Bool :=
    c ≠ a && c ≠ b && s.linkLive s.dev (localPort a c) && s.linkLive (s.dev / 32 * 32 + c) (localPort c b)
  if s.linkLive s.dev (localPort a b) then some (localPort a b) else ((List.range 32).find? via).map (localPort a)

/-- R463 steps 2 and 3: the port toward another group. -/
def State.towardGroup (s : State) (h n : Nat) : Option Nat :=
  let g := s.dev / 32
  let pick (ls : List (Nat × Nat)) : Option Nat :=
    match ls[n % ls.length]? with
    | some (d, p) => if d = s.dev then some p else s.hopTo (d % 32)
    | none => none
  let direct := s.globalLinks g h
  if !direct.isEmpty then pick direct
  else
    match ((List.range 255).map fun i => (g + 1 + i) % 256).find? fun i => i ≠ h && !(s.globalLinks g i).isEmpty && !(s.globalLinks i h).isEmpty with
    | some i => pick (s.globalLinks g i)
    | none => none

/-- R463, R440: the output port that a packet takes: 65 is ejection; none where no link leads on. -/
def State.routeTo (s : State) (src dst : Nat) : Option Nat :=
  if dst = s.dev then some 65
  else if dst / 32 = s.dev / 32 then s.hopTo (dst % 32)
  else s.towardGroup (dst / 32) (src + dst)

end Sys2Proof.Machine
end

