-- ==== Sys2Proof/Machine/Shipping.lean ====
section
/-! DEFINITION. Shipped critical sections: `ship`, lock homes, sections and their results (R352 to R371). -/

namespace Sys2Proof.Machine

/-! ### Lock homes (R356) -/

/-- R356: the latency core that homes a lock. -/
def lockHome (pa : Nat) : Nat := ((pa / 2 ^ 7) ^^^ (pa / 2 ^ 13) ^^^ (pa / 2 ^ 19)) % 64

/-! ### The instruction -/

/-- R354, R352: the entry of the section. -/
def Env.shipEntry (e : Env) (o : Ship) : DWord := e.sp.pc + o.x.signExtend 64

/-- R369: the result blocks of a team. -/
def Team.shipBlocks (x : Team) : Nat := (keep x.tokens fun _ k => k.used && !k.ship.isEmpty).length

/-- R369: result blocks in use on a core. -/
def State.blocksOn (s : State) (core : Nat) : Nat :=
  (s.teams.map fun (_, t) => if t.core = some core then t.shipBlocks else 0).sum

/-- R360, R437, R439: is the job of a request RUN here, or not switched here. -/
def State.servable (s : State) (r : ShipReq) : Bool :=
  match s.jobOf r.jobTag with
  | some (_, j) => j.st = .run
  | none => true

/-- R28, R355, R370: requests in a core's send buffer; those of a job that is off are saved with it. -/
def State.sendUsed (s : State) (c : Nat) : Nat := ((s.core c).sendq.filter s.servable).length

/-- R354, R355, R369: is there room for the requests of the running `ship`. -/
def State.shipRoom (s : State) (e : Env) (o : Ship) (n : Nat) : Bool :=
  let core := e.coreNo
  s.sendUsed core + n ≤ 64 && (!o.token || o.d = 0 || (s.tokensOn core < 1024 && s.blocksOn core < 128))

/-- R353, R357: the arguments of a thread. -/
def Env.shipArgs (e : Env) (o : Ship) (m : Mask) (t : Nat) : List Word :=
  (List.range o.narg.toNat).map fun i => e.reg (o.b.toNat + i) (if o.ub then Mask.lowest m else t)

/-- R357: the split's wait slot, in RET of a `.w` request. -/
def Env.waitSlot (e : Env) : Nat := if e.handler then 4 else e.k

/-- R354, R357: one request enters the send buffer. -/
def Env.placeRequest (e : Env) (o : Ship) (m : Mask) (ret : Word) (p : Piece) (s : State) : State × ShipWait :=
  let (s, seq) := s.command e.agent e.ctxNo
  let n := s.nameOf e.who e.sp.pc
  let (l, st) := (s.queueSide e).getD (0, 0)
  let x := s.ctx e.ctxNo
  let r : ShipReq :=
    { entry := e.shipEntry o, dev := p.at_.dev, pa := p.at_.pa, token := o.token, narg := o.narg.toNat, ctx := e.ctxNo, asid := (e.space s).2.asid,
      thread := p.thread, core := e.coreNo, srcDev := s.dev, ret := ret, seq := seq, site := e.sp.pc, team := n.team, lid := n.lid,
      args := e.shipArgs o m p.thread, jobTag := x.job, stage := st, launch := l, key := e.team, warp := e.warp }
  let s := (s.setCore e.coreNo { s.core e.coreNo with sendq := (s.core e.coreNo).sendq ++ [r] }).count e.die e.ctxNo 0x0A 1
  (s, { thread := p.thread, core := e.coreNo, seq := seq, far := p.at_.dev ≠ s.dev })

/-- R354: every request enters the send buffer, threads in ascending order. -/
def Env.placeAll (e : Env) (o : Ship) (m : Mask) (ret : Word) (ps : List Piece) (s : State) : State × List ShipWait :=
  ps.foldl (fun (acc : State × List ShipWait) p =>
    let (s, w) := e.placeRequest o m ret p acc.1
    (s, acc.2 ++ [w])) (s, [])

/-- R369: a token for a `ship.t`; its entry takes a result block. -/
def Env.shipToken (e : Env) (o : Ship) (sc : Scope) (s : State) : State × Option (Nat × Word) :=
  if o.d = 0 then (s, none) else s.newToken e.team e.warp sc s.nextKey

/-- R354: the requests leave, and the split goes on or waits. -/
def Env.sendShip (e : Env) (o : Ship) (m : Mask) (ps : List Piece) (s : State) : State :=
  let far := ps.any fun p => p.at_.dev ≠ s.dev
  if o.token then
    let (s, tok) := e.shipToken o (if far then .sys else .dev) s
    match tok with
    | none => e.retire (.ship o) (e.placeAll o m 0 ps s.bump).1
    | some (i, v) =>
      let (s, ws) := e.placeAll o m v ps s.bump
      let s := s.mapTeam e.team fun x => { x with tokens := adjust x.tokens i fun k => { k with ship := ws } }
      e.retire (.ship o) (e.setAll m o.d (fun _ => v) s)
  else
    let (s, ws) := e.placeAll o m (BitVec.ofNat 32 e.waitSlot) ps s
    e.hold 9 (.shipResult ((ws.head?.map ShipWait.seq).getD 0)) (s.mapSplit e.who fun k => { k with ships := ws, mark := none })

/-- R354, R370: has every request of the split's living threads its result. -/
def Split.shipDone (k : Split) : Bool := k.ships.all fun w => w.res.isSome || !k.exm.getLsbD w.thread

/-- R368: the results and the status of a thread. -/
def Env.putResults (e : Env) (o : Ship) (s : State) : State :=
  e.sp.ships.foldl (fun s w =>
    let ws := w.res.getD []
    let s := if e.sp.exm.getLsbD w.thread then e.setList o.d.toNat w.thread ((List.range o.nres.toNat).map fun j => ws.getD (j + 1) 0) s else s
    if e.sp.exm.getLsbD w.thread then e.set o.c.toNat w.thread (ws.getD 0 0) s else s) s

/-- R352 to R355, R368 -/
def execShip (o : Ship) (s : State) : Out :=
  act (.ship o) s fun e s =>
    let m := e.exm o.p
    let entry := e.shipEntry o
    if !e.sp.ships.isEmpty then
      if e.sp.shipDone then
        let sc : Scope := if e.sp.ships.any ShipWait.far then .sys else .dev
        let s := s.acquire e.agent e.ctx.asid sc e.releaser
        e.retire (.ship o) ((e.putResults o s).mapSplit e.who fun k => { k with ships := [] })
      else e.hold 9 (.shipResult ((e.sp.ships.head?.map ShipWait.seq).getD 0)) s
    else if m = 0 then e.retire (.ship o) s
    else
      match targetCause entry with
      | some c => e.raise c entry s
      | none =>
        let (s, sp) := e.space s
        let ws := (Mask.threads m).map fun t => { thread := t, va := (e.srcPair m o.a o.ua t).toNat, bytes := 1 : Want }
        e.checked .lock (s.checkAll sp .lock ws) fun ps s =>
          if !s.shipRoom e o ps.length then e.hold 10 .sendRoom s
          else
            let far := ps.any fun p => p.at_.dev ≠ s.dev
            e.drain far (fun s => s.release e.agent (if far then .sys else .dev) e.releaser) (e.sendShip o m ps) s

/-! ### Requests on their way (R355, R358, R360) -/

/-- R360: the context of a job on this device. -/
def State.jobContext (s : State) (tag : Nat) : Option Nat :=
  if tag = 0 then none else (s.ctxs.find? fun (_, x) => x.valid && !x.dying && x.job = tag).map Prod.fst

/-- R359, R360: the context in which a request's section runs. -/
def State.sectionCtx (s : State) (r : ShipReq) : Option Nat :=
  if r.srcDev = s.dev then (if (s.ctx r.ctx).valid then some r.ctx else none) else s.jobContext r.jobTag

/-- R28, R358, R370: room for a request in a home queue; those of a job that is off are saved with it. -/
def State.homeRoom (s : State) (h : Nat) (r : ShipReq) : Bool :=
  let q := (s.lc h).homeq.filter s.servable
  q.length < 256 && (q.filter fun x => s.sectionCtx x = s.sectionCtx r).length < 64

/-- R366, R367: a result that a request gets without a section. -/
def State.replyAt (s : State) (h : Nat) (r : ShipReq) (status : Byte) : State :=
  { s with results := s.results ++
      [{ status := status, ret := r.ret, thread := r.thread, core := r.core, srcDev := r.srcDev, seq := r.seq, res := [0, 0, 0, 0],
         key := r.key, warp := r.warp, home := h, mark := s.nextKey, tag := r.jobTag }] }

/-- R355: a request leaves its core's send buffer. -/
def State.popSend (s : State) (r : ShipReq) : State :=
  s.setCore r.core { s.core r.core with sendq := (s.core r.core).sendq.erase r }

/-- R356, R358, R367: a request reaches its home on this device. -/
def State.reachHome (s : State) (r : ShipReq) : State :=
  let h := lockHome r.pa
  if (s.die (h / 16)).fenced || (s.sectionCtx r).isNone then s.replyAt h r 3
  else s.setLc h { s.lc h with homeq := (s.lc h).homeq ++ [r] }

/-- R358: may a request go on to its home now. -/
def State.homeOpen (s : State) (r : ShipReq) : Bool :=
  (s.die (lockHome r.pa / 16)).fenced || (s.sectionCtx r).isNone || s.homeRoom (lockHome r.pa) r

/-- R28, R355, R439: the request that leaves a core's send buffer next: the oldest but for those of jobs that are off. -/
def State.nextRequest (s : State) (c : Core) : Option ShipReq := c.sendq.find? s.servable

/-- R348, R362: a section on another device moves an element of a queue of its sender's launch. DESIGN CHOICE (log 119): how it reaches the
queue is not given: which queue and which side are free, and so are the words that it pushes; those that wait here go first. -/
def State.farMove (s : State) (r : ShipReq) : State :=
  let q := Config.pick s.oracle % 16
  let push : Bool := Config.pick (s.oracle + 1) % 2 = 0
  let s := s.spend 2
  match s.queue r.launch q with
  | none => s
  | some x =>
    let there := if push then x.depth - x.items.length else x.items.length
    if !(if push then x.prod else x.cons).getLsbD r.stage || s.queueClosed r.launch x push || there ≤ (s.queueWaiters x q push).length then s
    else if push then
      (s.mapQueue r.launch q fun x => { x with items := x.items ++ [(List.range (x.elem / 4)).map fun j => Config.freeWord (s.oracle + j)] }).spend (x.elem / 4)
    else s.mapQueue r.launch q fun x => { x with items := x.items.tail, head := x.head + 1 }

/-- R355: has a request for a home on another device left this one. -/
def State.hasLeft (s : State) (r : ShipReq) : Bool := s.remote.any fun (_, x) => x.ship = some r && x.sent

/-- R355, R358, R360: a request leaves its sender's buffer for its home, or arrives from another device. One for a home on another device
stays in the buffer after its packet has left, until that home accepts it, which may be at any time before its result. -/
def execShipRequest (r : ShipReq) (s : State) : Out :=
  if r.srcDev = s.dev then
    if s.nextRequest (s.core r.core) ≠ some r then
      if s.hasLeft r && !(s.core r.core).sendq.contains r then .next (s.bump.farMove r) else .next s.bump
    else if r.dev = s.dev then
      if s.homeOpen r then .next ((s.bump.popSend r).reachHome r) else .next s.bump
    else if s.remote.any fun (_, x) => x.ship = some r then
      if s.hasLeft r then .next (s.bump.popSend r) else .next s.bump
    else
      .next (s.bump.sendRemote
        { dev := r.dev, agent := .wide r.core, ctx := r.ctx, type := 7, ship := some r, site := r.site, seq := r.seq })
  else
    let h := lockHome r.pa
    if s.homeOpen r && (s.lc h).doorq.isEmpty then .next (s.bump.reachHome r)
    else .next (s.bump.setLc h { s.lc h with doorq := (s.lc h).doorq ++ [r] })

/-- R358: a request that has waited for room enters its home queue. -/
def State.letIn (s : State) (h : Nat) : State :=
  match (s.lc h).doorq.find? s.homeOpen with
  | some r => (s.setLc h { s.lc h with doorq := (s.lc h).doorq.erase r }).reachHome r
  | none => s

/-! ### Sections (R359, R365) -/

/-- R359: what the registers of a section hold on entry. -/
def State.sectionRegs (s : State) (h : Nat) (r : ShipReq) (c : Nat) : Sparse Word :=
  let old := (s.lc h).t0
  let kept : Sparse Word := if old.ctx = c then keep old.main.regs fun k _ => Config.pick (s.oracle + k) % 2 = 1 else []
  let sp := (s.ctx c).sstk + BitVec.ofNat 64 (16384 * (h + 1))
  let set (t : Sparse Word) (n : Nat) (v : Word) : Sparse Word := write 0 t (32 * n) v
  let t := (List.range 8).foldl (fun t i => set t (4 + i) (r.args.getD i 0)) kept
  set (set (set (set t 124 (sp.extractLsb' 0 32)) 125 (sp.extractLsb' 32 32)) 126 0xFFFFFFFC) 127 0xFFFFFFFF

/-- R359: thread 0 starts a section. DESIGN CHOICE (log 108): its `%sstat` is 0, TEN among it. -/
def State.startSection (s : State) (h : Nat) (r : ShipReq) (c : Nat) : State :=
  let st : Strand :=
    { regs := keep (s.sectionRegs h r c) fun k _ => k % 32 = 0, nreg := 128, live := 1,
      splits := [Split.go { exm := 1, fresh := true, rgn := r.entry } r.entry s.nextKey] }
  let s := s.setLc h { s.lc h with t0 := { main := st, ctx := c, serving := some r, active := true } }
  (s.acquire (.lat h) (s.ctx c).asid (if r.srcDev = s.dev then .dev else .sys)).spend 4096

/-- R358, R359: the first request that may be served starts, or is answered where its context is gone. -/
def execSectionStart (lc : Nat) (s : State) : Out :=
  let l := s.lc lc
  if l.t0.serving.isSome then .next s.bump
  else
    match l.homeq.find? s.servable with
    | none => .next (s.bump.letIn lc)
    | some r =>
      let s := (s.bump.setLc lc { l with homeq := l.homeq.erase r }).letIn lc
      if (s.die (lc / 16)).fenced then .next (s.replyAt lc r 3)
      else
        match s.sectionCtx r with
        | some c => .next (s.startSection lc r c)
        | none => .next (s.replyAt lc r 3)

/-- R365, R392 WDOG: clocks of a latency core in the watchdog limit of a context; it runs at 3.2 GHz (R13). -/
def State.watchdog (s : State) (c : Nat) : Nat :=
  let w := leNat (s.homeRead ((s.ctx c).cblk + 0x28) 4).2
  (if w = 0 then 100 else w) * 32000

/-- R365: has the section of a latency core reached its watchdog limit. -/
def State.overdue (s : State) (lc : Nat) : Bool := (s.lc lc).t0.serving.isSome && s.watchdog (s.lc lc).t0.ctx ≤ (s.lc lc).t0.spent

/-- R361, R365 -/
def execSectionOverrun (lc : Nat) (s : State) : Out :=
  if s.overdue lc then .next (s.bump.endSection lc 2 0x14 0 0) else .next s.bump

/-! ### Results (R366 to R370) -/

/-- R366, R357: does a wait belong to a result. -/
def ShipWait.matches (w : ShipWait) (r : ShipRes) : Bool := w.thread = r.thread && w.core = r.core && w.seq = r.seq && w.res.isNone

/-- R366: a result reaches a list of waits. -/
def answer (ws : List ShipWait) (r : ShipRes) : List ShipWait :=
  ws.map fun w => if w.matches r then { w with res := some (r.status.setWidth 32 :: r.res) } else w

def Split.answer (k : Split) (r : ShipRes) : Split := { k with ships := Machine.answer k.ships r }
def Strand.answer (st : Strand) (r : ShipRes) : Strand := { st with splits := st.splits.map fun k => k.answer r }
def Warp.answer (w : Warp) (r : ShipRes) : Warp := { w with main := w.main.answer r, handler := w.handler.map fun h => h.answer r }

/-- R369, R186: the token of a `ship.t` completes once every request has its result. -/
def Token.answer (k : Token) (r : ShipRes) : Token :=
  if k.used && !k.done && k.gen.toNat = r.ret.toNat / 1024 && k.ship.any fun w => w.matches r then
    let ws := Machine.answer k.ship r
    if ws.all fun w => w.res.isSome then ({ k with ship := ws }).complete 0 [] else { k with ship := ws }
  else k

/-- R366, R368 to R370: a result reaches its sender, or is discarded where no one waits for it. -/
def State.deliverResult (s : State) (r : ShipRes) : State :=
  if r.ret.toNat / 1024 = 0 then s.mapTeam r.key fun x => x.mapWarp r.warp fun w => w.answer r
  else s.mapTeam r.key fun x => { x with tokens := mapVals x.tokens fun i k => if i = r.ret.toNat % 1024 then k.answer r else k }

/-- R366, R470: the request of this device to which a result of another device belongs. -/
def State.asked (s : State) (r : ShipRes) : Option (Nat × ShipReq) :=
  s.remote.findSome? fun (txn, x) =>
    match x.ship with
    | some q => if q.thread = r.thread && q.core = r.core && q.seq = r.seq && q.ret = r.ret then some (txn, q) else none
    | none => none

/-- R363, R366: a result leaves its home after the writes of its section, or reaches its sender. -/
def execShipResult (r : ShipRes) (s : State) : Out :=
  if s.results.contains r then
    if !s.drained (.lat r.home) (.lat r.home 0) r.mark (r.srcDev ≠ s.dev) then .next s.bump
    else
      let s := { s.bump with results := s.results.erase r }
      if r.srcDev = s.dev then .next (s.deliverResult r)
      else .next (s.inject (packet 8 s.dev r.srcDev r.tag 0 (payloads (resultRecord r) 1)))
  else
    match s.asked r with
    | some (txn, q) => .next (({ s.bump with remote := unlist s.remote txn }.popSend q).deliverResult { r with key := q.key, warp := q.warp })
    | none => .next s.bump

end Sys2Proof.Machine
end

