-- ==== Sys2Proof/Machine/Sys.lean ====
section
/-! DEFINITION. The SYS group but for `gsave` and `grest`, and the end of a context (R385, R387, R419 to R431). -/

namespace Sys2Proof.Machine

/-! ### Handlers -/

/-- R421: the target of `sret`. -/
def Env.returnTarget (e : Env) (m : Mask) (a : RegNo) (s : State) : DWord := if a = 0 then s.returnPoint e.who else e.onePair m a

/-- R421 -/
def execSret (p : Pre) (a : RegNo) (s : State) : Out :=
  act (.sret p a) s fun e s =>
    let m := e.exm p
    if m = 0 then e.retire (.sret p a) s
    else
      let tgt := e.returnTarget m a s
      match targetCause tgt with
      | some c => e.raise c tgt s
      | none => s.returnTo e.who tgt (a ≠ 0)

/-- R422: the trapped strand of a handler image. -/
def State.trapped (s : State) : Who → Strand
  | .lat lc th => ((s.lc lc).thread th).main
  | w => (s.strand? (trapOwner w)).getD {}

/-- R422: changes the trapped strand of a handler image. -/
def State.mapTrapped (s : State) (w : Who) (f : Strand → Strand) : State :=
  match w with
  | .lat lc th =>
    let h := (s.lc lc).thread th
    s.setLc lc ((s.lc lc).setThread th { h with main := f h.main })
  | w => s.mapStrand (trapOwner w) f

/-- R181, R422: does an outstanding task hold a register of the trapped warp. -/
def State.heldTrapped (s : State) (e : Env) (n : Nat) : Bool := (s.accBases (trapOwner e.who) ++ s.accUnseen e.sp.acqAt (trapOwner e.who)).any fun ab => ab ≤ n && n ≤ ab + 63

/-- R422 -/
def execXrd (p : Pre) (d : RegNo) (c : BitVec 7) (st : Bool) (s : State) : Out :=
  act (.xrd p d c st) s fun e s =>
    let x := s.trapped e.who
    let n := c.toNat
    let val (t : Nat) : Word :=
      if st then x.sstat
      else if x.nreg ≤ n then 0
      else if s.heldTrapped e n then Config.freeWord (s.oracle + t)
      else x.reg n t
    e.retire (.xrd p d c st) ((e.setAll (e.exm p) d val s).spend 32)

/-- R422 -/
def execXwr (p : Pre) (a : RegNo) (ua : Bool) (c : BitVec 7) (st : Bool) (s : State) : Out :=
  act (.xwr p a ua c st) s fun e s =>
    let m := e.exm p
    let n := c.toNat
    let x := s.trapped e.who
    let s' :=
      if m = 0 then s
      else if st then s.mapTrapped e.who fun x => { x with sstat := e.one m a &&& 0x1F1F }
      else if x.nreg ≤ n then s
      else
        let s := if s.heldTrapped e n then
            { s with tasks := mapVals s.tasks fun _ k =>
                if k.team = e.team && recAw k.record = e.warp && recAcc k.record && recAb k.record ≤ n && n ≤ recAb k.record + 63
                then { k with spoiled := (Mask.threads m).map (32 * n + ·) ++ k.spoiled } else k }
          else s
        s.mapTrapped e.who fun x => (Mask.threads m).foldl (fun x t => x.setReg n t (e.src m a ua t)) x
    e.retire (.xwr p a ua c st) s'

/-! ### Translation -/

/-- R423: does `tlbinv` drop an entry. -/
def TlbEntry.dropped (x : TlbEntry) (k : TlbKind) (asid va : Nat) : Bool :=
  match k with
  | .all => true
  | .asid => x.asid = asid && !x.glob
  | .page => (x.glob || x.asid = asid) && x.base ≤ va && va < x.base + x.size

/-- R423: a table entry that an invalidation covers. -/
def TableEntry.dropped (t : TableEntry) (k : TlbKind) (asid va : Nat) : Bool :=
  match k with
  | .all => true
  | .asid => t.asid = asid
  | .page => t.asid = asid && t.base ≤ va && va < t.base + t.size

/-- R423, R394: matching entries leave every TLB; `.all` brings written address-space registers into use. -/
def State.dropTlbs (s : State) (k : TlbKind) (asid va : Nat) : State :=
  let cut (t : List TlbEntry) : List TlbEntry := t.filter fun x => !x.dropped k asid va
  { s with
    cores := mapVals s.cores fun _ c => { c with tlb := cut c.tlb },
    dies := mapVals s.dies fun _ d => { d with tlb := cut d.tlb, tables := d.tables.filter fun t => !t.dropped k asid va },
    ctxs := if k = .all then mapVals s.ctxs fun _ x => { x with asid := x.asidW, asidBy := none, ptbase := x.ptbaseW, stvec := x.stvecW } else s.ctxs }

/-- R423: every core's dirty bytes and WCB entries leave for their homes. -/
def State.pushAll (s : State) : State :=
  s.cores.foldl (fun s (c, x) =>
    let s := (x.l1.map Prod.fst).foldl (fun s line => s.writeBack c line) s
    s.sendWcbs c fun _ _ => true) s

/-- R423: every access of the device made before a mark has been performed at its home. -/
def State.settledBefore (s : State) (mark : Nat) : Bool :=
  s.out.all (fun (k, _) => mark ≤ k) && s.held.all (fun (k, _) => mark ≤ k) && s.reads.all (fun (k, _) => mark ≤ k) &&
  s.remote.all fun (_, r) => mark ≤ r.born || r.type = 7

/-- R423: the mark for which the running `tlbinv` waits, once it has dropped its entries. -/
def Env.settling (e : Env) : Option Nat :=
  if e.sp.again then
    match e.sp.park.map Park.cond with
    | some (.settled m) => some m
    | _ => none
  else none

/-- R423 -/
def execTlbinv (p : Pre) (k : TlbKind) (a : RegNo) (asid : Num) (s : State) : Out :=
  act (.tlbinv p k a asid) s fun e s =>
    let i := Instr.tlbinv p k a asid
    let m := e.exm p
    let n := (e.num m asid).toNat % 65536
    let va := (e.onePair m a).toNat
    if m = 0 then e.retire i s
    else
      match e.settling with
      | some mark => if s.settledBefore mark then e.retire i s else e.interlock (.settled mark) s
      | none =>
        e.drain false (fun s => s.release e.agent .dev e.releaser) (fun s =>
          let s := ((s.acquire e.agent e.ctx.asid .dev e.releaser).dropTlbs k n va).pushAll
          if s.settledBefore s.nextKey then e.retire i s else e.interlock (.settled s.nextKey) s) s

/-- R424, R400: a split resumes its region after its fault has been replayed; a step of it ends there (R384). -/
def Split.replayed (k : Split) (now : Nat) : Split :=
  let k := Split.go { k with fresh := true, again := false, mark := none, passed := [], wake := false, redo := true } k.rgn now
  if k.stepOver then k.stepDone true else k

/-- The latency core of an actor. -/
def lcOf : Who → Nat
  | .lat lc _ => lc
  | _ => 0

/-- R371: is an actor a section that has reached its watchdog limit; the expiry wins. -/
def State.late (s : State) : Who → Bool
  | .lat lc 0 => s.overdue lc
  | _ => false

/-- R424, R432: a waiter of an entry is handled; what a split does after it resumes comes after the `replay`. -/
def State.handleWaiter (s : State) (d ser : Nat) (good : Bool) (w : Waiter) : State :=
  match w with
  | .split who =>
    match (s.strand? who).map fun st => st.split (splitNo who) with
    | none => s
    | some sp =>
      match sp.park.map Park.cond with
      | some (.fault d' n va) =>
        if d' ≠ d || n ≠ ser then s
        else if good && s.late who then s.endSection (lcOf who) 2 0x14 0 0
        else if good then
          if s.away who then (s.mapSplit who fun k => { k with wake := true }).imageDue who
          else
            let s := s.acquire (s.agentOf who) (s.ctx (s.ctxOf who)).asid .dev (some { who := who, ctx := s.ctxOf who, site := sp.pc })
            s.mapSplit who fun k => s.charged who (k.replayed s.nextKey)
        else s.takeTrap who { split := splitNo who, ecause := ecauseOf .translation 0 0, epc := sp.pc, eaddr := va }
      | _ => s
  | .copy key =>
    match look s.copies key with
    | some c =>
      let c' := { c with fault := none }
      if good then s.setCopy key c' else s.failCopy key c' (BitVec.ofNat 64 ((c.fault.map fun f => f.2.2).getD 0))
    | none => s
  | .task key =>
    match look s.tasks key with
    | some k =>
      if good then { s with tasks := place s.tasks key { k with fault := none } }
      else s.failTask key k (BitVec.ofNat 64 ((k.fault.map fun f => f.2.2).getD 0))
    | none => s
  | .hist key =>
    match look s.hists key with
    | some h =>
      let s := s.setHist key { h with fault := none }
      if good then s else s.failCapture key d (causeCode .translation) (BitVec.ofNat 64 ((h.fault.map fun f => f.2.2).getD 0))
    | none => s
  | .check key =>
    match look s.checks key with
    | some c =>
      let c' := { c with fault := none }
      if good then s.setCheck key c' else s.failPrediction key c' (BitVec.ofNat 64 ((c.fault.map fun f => f.2.2).getD 0))
    | none => s
  | .coll key =>
    match look s.colls key with
    | some c =>
      let c' := { c with fault := none }
      if good then s.setColl key c' else s.failColl key c' (BitVec.ofNat 64 ((c.fault.map fun f => f.2.2).getD 0))
    | none => s

/-- R424: an entry is closed and its waiters are handled; how many there were. -/
def State.replayEntry (s : State) (d ser : Nat) (good : Bool) : State × Nat :=
  let x := s.die d
  if !x.entries.any fun e => e.serial = ser then (s, 0)
  else
    let ws := x.waiters.filter fun w => w.1 = ser
    let s := s.setDie d { x with entries := x.entries.filter fun e => e.serial ≠ ser, waiters := x.waiters.filter fun w => w.1 ≠ ser }
    (ws.foldl (fun s w => s.handleWaiter d ser good w.2) s.bump, ws.length)

/-- R424, R425, R432 -/
def execReplay (p : Pre) (d a b : RegNo) (s : State) : Out :=
  act (.replay p d a b) s fun e s =>
    let i := Instr.replay p d a b
    let m := e.exm p
    let status := (e.one m b).toNat
    if m = 0 then e.retire i s
    else if status ≠ 1 && status ≠ 2 then e.raise .illegal e.sp.pc s
    else
      e.drain false (fun s => s.release e.agent .dev e.releaser) (fun s =>
        let (s, n) := s.replayEntry e.die (e.one m a).toNat (status = 1)
        e.retire i (e.later m d (fun _ => BitVec.ofNat 32 n) s)) s

/-! ### The end of a context -/

/-- R426: the context of a waiter. -/
def State.waiterCtx (s : State) : Waiter → Option Nat
  | .split w => some (s.ctxOf w)
  | .copy k => (look s.copies k).map CopyOp.ctx
  | .task k => (look s.tasks k).map Task.ctx
  | .hist k => (look s.hists k).map Hist.ctx
  | .check k => (look s.checks k).map Check.ctx
  | .coll k => (look s.colls k).map CollOpn.ctx

/-- R426: fault waiters of a context leave. -/
def State.dropWaiters (s : State) (c : Nat) : State :=
  (List.range 4).foldl (fun s d => s.dropWaiter d fun w => s.waiterCtx w = some c) s

/-- R426: each WCB entry of the context is sent whole or discarded whole; one with stores of other contexts too is sent. -/
def State.settleWcbs (s : State) (c : Nat) : State :=
  (s.cores.foldl (fun s (k, x) =>
    (x.wcb.filter fun (_, w) => w.ctxs.contains c).foldl (fun s (line, _) =>
      if ((look x.wcb line).map fun w => w.ctxs.any (· ≠ c)) = some true || Config.pick (s.oracle + line) % 2 = 0 then s.sendWcb k line
      else s.setCore k { s.core k with wcb := unlist (s.core k).wcb line }) s) s).spend (2 ^ 47)

/-- R370, R360: sections and requests when a context of this device ends. -/
def State.endSections (s : State) (c : Nat) : State :=
  let own (r : ShipReq) : Bool := r.srcDev = s.dev && r.ctx = c
  let s := { s with
    cores := mapVals s.cores fun _ x => { x with sendq := x.sendq.filter fun r => !own r },
    lcs := mapVals s.lcs fun _ l => { l with homeq := l.homeq.filter fun r => !own r } }
  s.lcs.foldl (fun s (k, l) =>
    match l.t0.serving with
    | some r =>
      if own r then (s.setLc k { s.lc k with t0 := { (s.lc k).t0 with serving := none, active := false, spent := 0 } }).dropLoadsOf (.lat k 0)
      else if l.t0.ctx = c then
        ((s.setLc k { s.lc k with t0 := { (s.lc k).t0 with serving := none, active := false, spent := 0 } }).dropLoadsOf (.lat k 0)).replyAt k r 3
      else s
    | none => s) s

/-- R426: copies, tasks, captures and collectives of a context are aborted. -/
def State.abortOps (s : State) (c : Nat) : State :=
  { s with
    copies := keep s.copies fun _ x => x.ctx ≠ c,
    tasks := keep s.tasks fun _ x => x.ctx ≠ c,
    checks := keep s.checks fun _ x => x.ctx ≠ c,
    colls := keep s.colls fun _ x => x.ctx ≠ c,
    hists := keep s.hists fun _ x => x.ctx ≠ c,
    remote := keep s.remote fun _ r => !(r.copy.isSome && r.ctx = c) }

/-- R426: teams and launches of a context leave; their blocks and slots return to the free pool. -/
def State.clearTeams (s : State) (c : Nat) : State :=
  let gone := (s.teams.filter fun (_, t) => t.ctx = c).map Prod.fst
  let s := { s with launches := keep s.launches fun _ l => l.ctx ≠ c,
                    loads := keep s.loads fun _ l => s.ctxOf l.who ≠ c }
  let s := gone.foldl (fun s t => s.freeSpace t true) s
  { s with teams := keep s.teams fun _ t => t.ctx ≠ c }

/-- R426: a thread 1 that runs in the context ends. -/
def State.stopServices (s : State) (c : Nat) : State :=
  { s with lcs := mapVals s.lcs fun _ l =>
      if l.t1.active && l.t1.ctx = c then { l with t1 := { l.t1 with active := false, handler := none } } else l }

/-- R391: does a context hold work: launches, teams, operations of engines, shipped sections or a latency-core thread. -/
def State.holdsWork (s : State) (c : Nat) : Bool :=
  !(s.ctx c).queue.isEmpty || (s.launches.any fun x => x.2.ctx = c) || (s.teams.any fun x => x.2.ctx = c) ||
  (s.copies.any fun x => x.2.ctx = c) || (s.tasks.any fun x => x.2.ctx = c) || (s.colls.any fun x => x.2.ctx = c) ||
  (s.hists.any fun x => x.2.ctx = c) || (s.checks.any fun x => x.2.ctx = c) || (s.remote.any fun x => x.2.ctx = c) ||
  (s.out.any fun x => x.2.ctx = c) ||
  (s.cores.any fun x => (x.2.sendq.any fun r => r.ctx = c) || x.2.wcb.any fun w => w.2.ctxs.contains c) ||
  s.lcs.any fun x => (x.2.homeq.any fun r => r.ctx = c) || (x.2.t0.serving.isSome && x.2.t0.ctx = c) || (x.2.t1.active && x.2.t1.ctx = c)

/-- R426: a context ends on this device; V is cleared once this has been done (CONTEXT_TABLE_CLEAR). -/
def State.killContext (s : State) (c die : Nat) : State :=
  let x := s.ctx c
  if !x.valid || x.dying then s
  else
    let s := s.setCtx c { x with dying := true, queue := [], trial := none }
    let s := (((((s.dropWaiters c).endSections c).settleWcbs c).abortOps c).stopServices c).clearTeams c
    let s := s.eventRecord c die 5 0 0 0 0 {}
    { s with inputs := s.inputs ++ [.contextTableClear c] }

/-- R426 -/
def execCtxkill (p : Pre) (a : RegNo) (s : State) : Out :=
  act (.ctxkill p a) s fun e s =>
    let i := Instr.ctxkill p a
    let m := e.exm p
    let c := (e.one m a).toNat % 64
    let waits : Bool := e.sp.again && e.sp.park.map Park.cond = some (.contextGone c)
    if m = 0 then e.retire i s
    else if waits then
      if (s.ctx c).valid && (s.ctx c).dying then e.hold 15 (.contextGone c) s else e.retire i s
    else if !(s.ctx c).valid || (s.ctx c).dying then e.retire i s
    else if c = e.ctxNo then s.bump.killContext c e.die
    else e.hold 15 (.contextGone c) (s.killContext c e.die)

/-! ### Launches, counters, experiments, waiting -/

/-- R299: CTX of a launch record. -/
def recordCtx (bs : List Byte) : Nat := leNat ((bs.drop 0x1C).take 4) % 64

/-- R427, R263: the placement releases at device scope. -/
def execLnch (p : Pre) (d a : RegNo) (s : State) : Out :=
  act (.lnch p d a) s fun e s =>
    let i := Instr.lnch p d a
    let m := e.exm p
    e.readRecord i m a 64 128 s fun addr bs s =>
      let put (s : State) : State :=
        let (s', v) := s.queueLaunch (recordCtx bs) addr bs false
        if v = 3 then e.hold 10 (.launchRoom (recordCtx bs)) s
        else e.retire i (e.setAll m d (fun _ => BitVec.ofNat 32 v) s')
      if (s.queueLaunch (recordCtx bs) addr bs false).2 ≠ 0 then put s
      else e.drain false (fun s => s.release e.agent .dev e.releaser) put s

/-- R428 -/
def execCntrd (p : Pre) (d : RegNo) (n : Num) (ub : Bool) (s : State) : Out :=
  act (.cntrd p d n ub) s fun e s =>
    let m := e.exm p
    let num (t : Nat) : Nat := (match n with | .reg r => (e.src m r ub t).toNat | .imm x => x.toNat) % 128
    let val (t : Nat) : DWord := readOr 0 (s.ctx e.ctxNo).cnt (num t)
    e.retire (.cntrd p d n ub) (e.laterWide m d true val s)

/-- R387: an experiment of a context ends, and its result is written. DESIGN CHOICE (log 139): EPC and EADDR hold LO and HI, DETAIL
holds S, the duration and D, each as a word; the progress counters, for which the record has no room, stand in `Ctx.trials`. -/
def State.endTrial (s : State) (c : Nat) : State :=
  let x := s.ctx c
  match x.trial with
  | none => s
  | some t =>
    let r : TrialResult := { lo := t.lo, hi := t.hi, s := t.s, dur := t.dur, total := readOr 0 t.total t.die, prog0 := t.prog0, prog1 := x.prog }
    let s := s.setCtx c { x with trial := none, trials := x.trials ++ [r] }
    s.eventRecord c t.die 6 0 0 t.lo t.hi {} (fields [(0, t.s), (32, t.dur), (64, r.total % 2 ^ 32)])

/-- R429: a spec that the instruction accepts. -/
def trialOk (lo hi : DWord) (sp : Nat) (bs : List Byte) : Bool := lo.toNat < hi.toNat && sp ≤ 256 && leNat ((bs.drop 0x18).take 8) = 0

/-- R387: the paid counts of a strand start at zero. -/
def Strand.unpaid (st : Strand) : Strand := { st with splits := st.splits.map fun k => { k with paid := 0 } }

/-- R387, R429: an experiment starts, or the running one ends. -/
def State.startTrial (s : State) (c die : Nat) (lo hi : DWord) (sp dur : Nat) : State :=
  let s := s.endTrial c
  let x := s.ctx c
  if dur = 0 || !x.valid then s
  else
    let s := s.setCtx c { x with trial := some { lo := lo, hi := hi, s := sp, dur := dur, die := die, left := dur, prog0 := x.prog } }
    { s with teams := mapVals s.teams fun _ t =>
        if t.ctx = c then { t with warps := t.warps.map fun w => { w with main := w.main.unpaid, handler := w.handler.map Strand.unpaid } } else t }

/-- R429 -/
def execTrial (p : Pre) (a : RegNo) (ctx : Option Num) (s : State) : Out :=
  act (.trial p a ctx) s fun e s =>
    let i := Instr.trial p a ctx
    let m := e.exm p
    let c := match ctx with | some n => (e.num m n).toNat % 64 | none => e.ctxNo
    e.readRecord i m a 8 32 s fun addr bs s =>
      let lo : DWord := BitVec.ofNat 64 (leNat (bs.take 8))
      let hi : DWord := BitVec.ofNat 64 (leNat ((bs.drop 8).take 8))
      let sp := leNat ((bs.drop 16).take 4)
      let dur := leNat ((bs.drop 20).take 4)
      if !trialOk lo hi sp bs then e.raise .illegal addr s
      else e.retire i (s.startTrial c e.die lo hi sp dur)

/-- R387: the duration of an experiment has passed. -/
def execTrialEnd (ctx : Nat) (s : State) : Out :=
  match (s.ctx ctx).trial with
  | some t => if t.left = 0 then .next (s.bump.endTrial ctx) else .next s.bump
  | none => .next s.bump

/-- R387: each die adds the others' increments. -/
def Experiment.exchange (t : Experiment) : Experiment :=
  { t with
    total := (List.range 4).foldl (fun x d =>
      write 0 x d (readOr 0 x d + (((List.range 4).filter (· ≠ d)).map fun k => readOr 0 t.fresh k).sum)) t.total,
    fresh := [] }

/-- R387 -/
def execDelayExchange (s : State) : Out :=
  .next { s.bump with ctxs := mapVals s.ctxs fun _ x => { x with trial := x.trial.map Experiment.exchange } }

/-- R430: does the service ring of a die hold an event. -/
def State.serviceReady (s : State) (d : Nat) : Bool :=
  (s.die d).fqbase ≠ 0 && (s.fqWord d 0x1C).2 ≠ (s.fqWord d 0x20).2

/-- R430: has an event woken the running split. -/
def Env.served (e : Env) : Bool := e.sp.again && e.sp.park.map Park.cond = some .served

/-- R430 -/
def execWfi (p : Pre) (d b : RegNo) (s : State) : Out :=
  act (.wfi p d b) s fun e s =>
    let i := Instr.wfi p d b
    let m := e.exm p
    let n := (e.one m b).toNat
    if m = 0 then e.retire i s
    else if e.served || s.serviceReady e.die then e.retire i (e.setAll m d (fun _ => 1) s)
    else if n = 0 || e.timedOut then e.retire i (e.setAll m d (fun _ => 0) s)
    else
      let left := match e.sp.again, e.sp.park with
        | true, some k => k.left
        | _, _ => if n = 2 ^ 32 - 1 then none else some n
      e.hold 15 .serviceRing s left

end Sys2Proof.Machine
end

