-- ==== Sys2Proof/Machine/Images.lean ====
section
/-! DEFINITION. What the Z4 keeps in memory of a context: the fields of its block that it owns (R389, R392 to R394, R431) and the images
of its teams in the pool (R395 to R401). The layouts of the team header, of the tile and token images and of the warp extension are the
Z4's own and are not written (notes/assumptions/98.md). -/

namespace Sys2Proof.Machine

/-! ### Allocation (R395) -/

/-- R395: the images of a context's teams: base and bytes. -/
def State.images (s : State) (c : Nat) : List (Nat × Nat) :=
  s.teams.filterMap fun (_, t) => if t.ctx = c && !t.exited then some (t.imageAt, t.image) else none

/-- R395: the lowest place of the pool where an image fits beside others. DESIGN CHOICE (log 138). -/
def imageGap (pool size n : Nat) (taken : List (Nat × Nat)) : Option Nat :=
  let fits (a : Nat) : Bool := a + n ≤ pool + size && taken.all fun x => a + n ≤ x.1 || x.1 + x.2 ≤ a
  let ends := (pool :: taken.map fun x => x.1 + x.2).filter fits
  ends.foldl (fun best a => match best with | some b => some (min a b) | none => some a) none

/-- R395: places for the images of teams, one after the other. -/
def imageGaps (pool size : Nat) : List Nat → List (Nat × Nat) → Option (List Nat)
  | [], _ => some []
  | n :: ns, taken => (imageGap pool size n taken).bind fun a => (imageGaps pool size ns ((a, n) :: taken)).map (a :: ·)

/-- R395: does the context's pool have room for the images of a band. -/
def State.poolRoom (s : State) (c : Nat) (ts : List Team) : Bool :=
  (imageGaps (s.ctx c).pool (s.ctx c).poolsz (ts.map Team.image) (s.images c)).isSome

/-- R395: the place of a new team's image. -/
def State.imagePlace (s : State) (x : Team) : Nat :=
  (imageGap (s.ctx x.ctx).pool (s.ctx x.ctx).poolsz x.image (s.images x.ctx)).getD 0

/-! ### Split blocks (R397) -/

/-- R397 STATE. -/
def SplitSt.code : SplitSt → Nat
  | .free => 0 | .ready => 1 | .fetch => 2 | .interlock => 3 | .parked => 4 | .exited => 5

/-- R397: the record of a split. -/
def Split.imageBytes (k : Split) : List Byte :=
  le 16 (fields [(0, k.pc.toNat % 2 ^ 57), (59, bit k.wake 1), (60, bit k.stop 1), (61, k.st.code), (86, bit (!k.jrec.isEmpty) 1),
    (87, if k.st = .parked then (k.park.map Park.reason).getD 0 % 16 else 0), (91, k.stack.length), (96, k.exm.toNat)])

/-- R395: where the areas of warp n of a team lie in its image. -/
def Team.warpArea (x : Team) (n : Nat) : Nat := x.imageAt + 0x10000 + 34816 * n

/-- R398 step 4, R401: the split blocks of a team are written to its image. -/
def State.saveSplits (s : State) (x : Team) : State :=
  (x.warps.zipIdx).foldl (fun s (w, n) =>
    s.homeWrite (x.warpArea n + 32768) ((List.range 4).flatMap fun i => (w.main.split i).imageBytes)) s

/-! ### Registers, scratchpad and vat (R396, R398, R399) -/

/-- R396: the registers of a strand in an area of the image: register n of thread t at byte 128 × n + 4 × t; those at or above
`%nreg` are not written. -/
def State.saveRegs (s : State) (at_ : Nat) (st : Strand) : State :=
  s.homeFill at_ (128 * st.nreg) ((keep st.regs fun k _ => k / 32 < st.nreg).flatMap fun (k, v) => (le 4 v.toNat).zipIdx.map fun (b, i) => (4 * k + i, b))

/-- R396, R398 step 3: the register-cache lines of a team that is away are written back; none is left that is dirty. -/
def State.saveLines (s : State) (x : Team) : State :=
  (x.warps.zipIdx).foldl (fun s (w, n) =>
    let s := s.saveRegs (x.warpArea n) w.main
    match w.handler with
    | some h => s.saveRegs (x.warpArea n + 16384) h
    | none => s) s

/-- R395: the scratchpad and the vat save area of a team's image. -/
def Team.spadArea (x : Team) : Nat := x.imageAt + 0x10000 + 34816 * x.warps.length
def Team.vatArea (x : Team) : Nat := x.spadArea + x.spadBytes

/-- The bytes of block number n, of a size, of a scratchpad or of vat slots, by offset. -/
def blockBytes (bytes : Sparse Byte) (size n : Nat) : List (Nat × Byte) :=
  (keep bytes fun a _ => size * n ≤ a && a < size * (n + 1)).map fun (a, b) => (a - size * n, b)

/-- R398, R399, R401: a part of a team's image is written. -/
def State.savePart (s : State) (x : Team) : ImagePart → State
  | .splits => s.saveSplits x
  | .registers => s.saveLines x
  | .block n => s.homeFill (x.spadArea + 32768 * n) 32768 (blockBytes x.spad 32768 n)
  | .slot n => s.homeFill (x.vatArea + 16384 * n) 16384 (blockBytes x.vat 16384 n)

/-- R398, R399, R401: what is due of a team's image is written. -/
def State.keepImage (s : State) (t : Nat) : State :=
  match look s.teams t with
  | none => s
  | some x => (if x.exited then s else x.unsaved.eraseDups.foldl (fun s p => s.savePart x p) s).mapTeam t fun x => { x with unsaved := [] }

/-- R398, R399, R401: what is due of the images is written, before anything else happens. -/
def State.keepImages (s : State) : State := ((keep s.teams fun _ x => !x.unsaved.isEmpty).map Prod.fst).foldl State.keepImage s

/-! ### Context blocks (R389, R392 to R394, R431) -/

/-- R389: the image's value of a counter: what a read returns, less every die's live count. -/
def Ctx.imageCount (x : Ctx) (n : Nat) : DWord :=
  readOr 0 x.cnt n - (List.range 5).foldl (fun a d => a + readOr 0 x.live (128 * d + n)) 0

/-- R431: TRIAL. -/
def Ctx.trialBytes (x : Ctx) : List Byte :=
  match x.trial with
  | some t => le 8 t.lo.toNat ++ le 8 t.hi.toNat ++ le 4 t.s ++ le 4 t.dur ++ le 8 0
  | none => List.replicate 32 0

/-- R392: the fields of a block that the Z4 writes, by offset. -/
def Ctx.owned (x : Ctx) : Sparse (List Byte) :=
  [(0x04, le 4 x.asidW), (0x08, le 8 x.ptbaseW), (0x10, le 8 x.stvecW.toNat), (0x54, le 4 x.evtail), (0x5C, le 4 x.evlost),
   (0x6C, le 4 x.smtail), (0x74, le 4 x.smlost), (0x80, x.trialBytes),
   (0x180, (List.range 16).flatMap fun k => le 8 (readOr 0 x.prog k).toNat),
   (0x200, (List.range 128).flatMap fun k => le 8 (x.imageCount k).toNat)]

/-- R7, R393: software has stored to a field that the Z4 owns: the field keeps its value or takes a free one. ASID and PTBASE keep
theirs: another value could reach what is not the context's. -/
def Ctx.disturb (x : Ctx) (o : Nat) : Nat → Ctx
  | 0x10 => { x with stvecW := (Config.freeWord o ++ Config.freeWord (o + 1)) &&& ~~~3#64 }
  | 0x54 => { x with evtail := (Config.freeWord o).toNat }
  | 0x5C => { x with evlost := (Config.freeWord o).toNat }
  | 0x6C => { x with smtail := (Config.freeWord o).toNat }
  | 0x74 => { x with smlost := (Config.freeWord o).toNat }
  | 0x180 => { x with prog := (List.range 16).map fun k => (k, Config.freeWord (o + 2 * k) ++ Config.freeWord (o + 2 * k + 1)) }
  | 0x200 => { x with cnt := (List.range 128).map fun k => (k, Config.freeWord (o + 2 * k) ++ Config.freeWord (o + 2 * k + 1)) }
  | _ => x

/-- R393: a field of a block is in line with what the Z4 holds; where software has stored to it, what it holds is open. -/
def State.keepField (s : State) (c off : Nat) (bs : List Byte) : State :=
  let x := s.ctx c
  let now := bytesAt s.mem (x.cblk + off) bs.length
  match look x.shown off with
  | none => if now = bs then s else s.homeWrite (x.cblk + off) bs
  | some last =>
    let stored : Bool := now ≠ last
    let x' := if stored && Config.pick s.oracle % 2 = 1 then x.disturb (s.oracle + 1) off else x
    let s := if stored then (s.spend 257).setCtx c x' else s
    let bs' := (look x'.owned off).getD bs
    if now = bs' then s else s.homeWrite (x.cblk + off) bs'

/-- R389: the counts of dies where nothing of the context is resident are added to the image. -/
def State.settleCounts (s : State) (c : Nat) : State :=
  let x := s.ctx c
  if x.live.isEmpty then s
  else
    let busy (d : Nat) : Bool :=
      s.teams.any (fun (_, t) => t.ctx = c && t.core.any fun k => k / 64 = d) ||
      s.lcs.any fun (n, l) => n / 16 = d && ((l.t0.active && l.t0.ctx = c) || (l.t1.active && l.t1.ctx = c))
    s.setCtx c { x with live := keep x.live fun k _ => busy (k / 128) }

/-- R392 to R394: a context's block is brought in line with what the Z4 holds. -/
def State.keepBlock (s : State) (c : Nat) : State :=
  let s := s.settleCounts c
  let x := s.ctx c
  if !x.valid || x.shown.isEmpty then s
  else
    let s := x.owned.foldl (fun s (off, bs) => s.keepField c off bs) s
    s.setCtx c { s.ctx c with shown := (s.ctx c).owned }

/-- R392 to R394: what the Z4 holds of its contexts stands in their blocks before anything else happens. -/
def State.keepBlocks (s : State) : State := (s.ctxs.map Prod.fst).foldl State.keepBlock s

end Sys2Proof.Machine
end

