-- ==== Sys2Proof/Machine/Residence.lean ====
section
/-! DEFINITION. Launches that are accepted, teams that are placed, pre-empted and resumed, and the distributors
(R215, R260, R265, R299 to R313, R323, R344, R395, R398 to R401). -/

namespace Sys2Proof.Machine

/-! ### Swapping out (R398) -/

/-- R398 step 1: no split stands within an instruction. -/
def Strand.atBoundary (st : Strand) : Bool := st.splits.all fun k => k.st ≠ .interlock && k.mark.isNone

def Team.atBoundary (x : Team) : Bool :=
  x.warps.all fun w => w.main.atBoundary && (match w.handler with | some h => h.atBoundary | none => true)

/-- R31, R400: a split that leaves its core leaves its fetch block. -/
def Split.stow (k : Split) : Split := { k.unfetch with st := if k.st = .ready then .fetch else k.st }
def Strand.stow (st : Strand) : Strand := { st with splits := st.splits.map Split.stow }
def Warp.stow (w : Warp) : Warp := { w with main := w.main.stow, handler := w.handler.map Strand.stow }

/-- R234, R261, R398: a resident team is swapped out; its blocks and slots stay in place as a victim's. DEDUCED (log 136): the WCB entries
that hold its stores leave too, and every dirty byte of the core is written back. -/
def State.swapOut (s : State) (t : Nat) : State :=
  match look s.teams t with
  | none => s
  | some x =>
    match x.core with
    | none => s
    | some c =>
      let last := !(s.teams.any fun (k, y) => k ≠ t && y.core = some c && y.ctx = x.ctx)
      let s := s.sendWcbs c fun _ w => (last && w.ctxs.contains x.ctx) || w.makers.any (inTeam t)
      let s := (s.writeBackEvery c).bump
      s.mapTeam t fun x =>
        { x with core := none, swapped := s.nextKey, warps := x.warps.map Warp.stow, lines := some c, unsaved := .splits :: x.unsaved }

/-- R312: the teams of a team's band that are resident, by key. -/
def State.bandOf (s : State) (x : Team) : List (Nat × Team) := (s.teamsOf x.launch).filter fun (_, y) => y.band = x.band && y.core.isSome

/-- R312, R398: a band is pre-empted as a whole, each team at an instruction boundary. -/
def State.swapOutBand (s : State) (x : Team) : State :=
  let ts := s.bandOf x
  if ts.all fun (_, y) => y.atBoundary then ts.foldl (fun s (k, _) => s.swapOut k) s else s

/-- R261, R398 step 7: the release with which a team left its core has completed, and so have the accesses that it made there. -/
def State.mayResume (s : State) (t : Nat) (x : Team) : Bool :=
  s.out.all (fun (k, _) => x.swapped ≤ k) && s.held.all (fun (k, _) => x.swapped ≤ k) &&
  s.loads.all (fun (_, l) => l.left = 0 || !inTeam t l.who) && s.reads.all (fun (_, u) => !inTeam t u.who) &&
  s.remote.all fun (_, r) => x.swapped ≤ r.born || r.ship.isSome ||
    !((r.wcb && r.storers.contains x.ctx) || r.who.any (inTeam t))

/-! ### Room on a core (R307 to R309, R399) -/

/-- R307: warps that are resident on a core, by lane and place. -/
def State.warpsOn (s : State) (c : Nat) : List (Nat × Nat) :=
  s.teams.flatMap fun (_, t) => if t.core = some c then t.warps.map fun w => (w.lane, w.place) else []

/-- R309: L1 blocks that can still become scratchpad. -/
def Core.convertible (c : Core) : Nat := 16 - (c.blocks.length + c.spare.length)

/-- R399: scratchpad blocks of swapped-out teams on a core, those of the longest swapped out first. -/
def State.victimBlocks (s : State) (c t : Nat) : List Nat :=
  let away := (s.core c).blocks.filterMap fun (k, o) =>
    match look s.teams (o - 1) with
    | some x => if x.core.isNone && !x.exited && o ≠ t + 1 then some (x.swapped, k) else none
    | none => none
  (away.mergeSort fun a b => a.1 ≤ b.1).map Prod.snd

/-- R299, R300: the stages of a launch. -/
def LaunchRec.stageAt (r : LaunchRec) (idx : Nat) : Nat :=
  (r.stages.zipIdx.foldl (fun (acc : Nat × Option Nat) (g, i) =>
    match acc.2 with
    | some _ => acc
    | none => if idx < acc.1 + g.teams then (acc.1, some i) else (acc.1 + g.teams, none)) (0, none)).2.getD 0

/-- R310: does a stage have teams that are not resident. -/
def State.stageWaiting (s : State) (l : Nat) (x : Launch) (st : Nat) : Bool :=
  (s.teamsOf l).any (fun (_, t) => t.stage = st && t.core.isNone && !t.exited) ||
  (List.range x.record.teams).any fun i => x.record.stageAt i = st && !x.placed.contains (i / x.record.band)

/-- R310: does a core serve another stage of a launch than a team's: by its resident teams, or because a review has moved it. -/
def State.otherStage (s : State) (c t : Nat) (x : Team) : Bool :=
  s.teams.any (fun (k, y) => k ≠ t && y.core = some c && y.launch = x.launch && y.stage ≠ x.stage) ||
  match look s.launches x.launch with
  | some l => (look l.moved c).any fun g => g ≠ x.stage && s.stageWaiting x.launch l g
  | none => false

/-- R399: vat slot numbers of a team that have no slot on a core. -/
def State.slotless (s : State) (c t : Nat) (x : Team) : List Nat :=
  (x.held.map Prod.fst).filter fun n =>
    match look x.slots n with
    | some p => look (s.core c).slots p ≠ some (t + 1)
    | none => true

/-- R399: slots that a team may be given on a core: not its own ones in place. -/
def State.slotsFor (s : State) (c t : Nat) : List Nat := (s.openSlots c).filter fun p => look (s.core c).slots p ≠ some (t + 1)

/-- R153, R183, R369: has a core the tile-table and token-table entries and the result blocks that a resumed team holds. -/
def State.entriesFit (s : State) (c : Nat) (x : Team) : Bool :=
  s.tilesOn c + x.tiles.length ≤ 1024 && s.tokensOn c + (keep x.tokens fun _ k => k.used).length ≤ 1024 && s.blocksOn c + x.shipBlocks ≤ 128

/-- R307, R369: does a core qualify for a team. -/
def State.qualifies (s : State) (c t : Nat) (x : Team) : Bool :=
  let k := s.core c
  (s.warpsOn c).length + x.warps.length ≤ 256 && s.entriesFit c x &&
  x.blocks ≤ k.held t + k.spare.length + k.convertible + (s.victimBlocks c t).length &&
  (s.slotless c t x).length ≤ (s.slotsFor c t).length && !s.otherStage c t x

/-- R307: the core of a die that takes a team. -/
def State.chooseCore (s : State) (d t : Nat) (x : Team) : Option Nat :=
  ((List.range 64).map fun k => 64 * d + k).foldl (fun best c =>
    if !s.qualifies c t x then best
    else
      match best with
      | some b => if (s.warpsOn c).length < (s.warpsOn b).length then some c else best
      | none => some c) none

/-- R309: must blocks pass from L1 before a team can be placed on a core. -/
def State.wantsBlocks (s : State) (c t : Nat) (x : Team) : Nat :=
  min (x.blocks - ((s.core c).held t + (s.core c).spare.length)) (s.core c).convertible

/-- R308: the numbers of a team's scratchpad blocks that have no block of a core. -/
def Team.padless (x : Team) : List Nat := (List.range x.blocks).filter fun n => (look x.pads n).isNone

/-- R308, R399: a team loses a block of the core that it left; its bytes go to the image. -/
def Team.losePad (x : Team) (b : Nat) : Team :=
  { x with pads := keep x.pads fun _ q => q ≠ b, unsaved := (keep x.pads fun _ q => q = b).map (fun p => .block p.1) ++ x.unsaved }

/-- R190, R399: an incoming team takes free blocks, and then victims', whose operations are aborted and whose bytes are saved. -/
def State.takeBlocks (s : State) (c t n : Nat) : State :=
  let ks := (((s.core c).spare ++ s.victimBlocks c t).take n)
  let losers := ks.filterMap fun b => (look (s.core c).blocks b).map fun o => (o - 1, b)
  let s := (losers.map Prod.fst).eraseDups.foldl State.haltOps s
  let s := losers.foldl (fun s (o, b) => s.mapTeam o fun x => x.losePad b) s
  let s := s.mapTeam t fun x => { x with pads := (x.padless.zip ks).foldl (fun p (n, b) => place p n b) x.pads }
  let k := s.core c
  s.setCore c { k with spare := k.spare.filter fun b => !ks.contains b, blocks := ks.foldl (fun bs b => place bs b (t + 1)) k.blocks }

/-- R399: a resumed team's slot numbers get slots, free ones first. -/
def State.takeSlots (s : State) (c t : Nat) (ns : List Nat) : State :=
  (ns.zip (s.slotsFor c t)).foldl (fun s (n, phys) =>
    let s := match look (s.core c).slots phys with
      | some o => (s.haltOps (o - 1)).mapTeam (o - 1) fun x => x.loseSlot phys
      | none => s
    (s.setCore c { s.core c with slots := place (s.core c).slots phys (t + 1) }).mapTeam t fun x => { x with slots := place x.slots n phys }) s

/-- R399: a team leaves every block and slot that it held on the core where it was; their bytes go to its image. -/
def Team.leave (x : Team) : Team :=
  { x with pads := [], slots := [], unsaved := x.pads.map (fun p => .block p.1) ++ x.slots.map (fun p => .slot p.1) ++ x.unsaved }

/-- R398 step 3: the register-cache lines that teams have left on a core are written back when another team comes to it. -/
def State.evictLines (s : State) (c t : Nat) : State :=
  { s with teams := mapVals s.teams fun k x =>
      if k ≠ t && x.lines = some c then { x with lines := none, unsaved := .registers :: x.unsaved } else x }

/-- R396: a team that returns to the core that holds its register-cache lines uses them; elsewhere they are written back first. -/
def Team.takeLines (x : Team) (c : Nat) : Team :=
  { x with lines := none, unsaved := if x.lines.isSome && x.lines ≠ some c then .registers :: x.unsaved else x.unsaved }

/-- R190, R399: blocks and slots that a team has left on other cores are saved and freed; its operations there are aborted. -/
def State.leaveOthers (s : State) (c t : Nat) : State :=
  let left : Bool := s.cores.any fun (k, x) => k ≠ c && (someVal x.slots (fun _ o => o = t + 1) || someVal x.blocks fun _ o => o = t + 1)
  let s := if left then (s.haltOps t).mapTeam t Team.leave else s
  { s with cores := mapVals s.cores fun k x =>
      if k = c then x
      else { x with
        slots := keep x.slots fun _ o => o ≠ t + 1,
        spare := x.spare ++ (keep x.blocks fun _ o => o = t + 1).map Prod.fst,
        blocks := keep x.blocks fun _ o => o ≠ t + 1 } }

/-- R307: the lane with the fewest of the resident warps, the lower one on a tie, and a free place of it. -/
def freePlace (used : List (Nat × Nat)) : Nat × Nat :=
  let load (l : Nat) : Nat := (used.filter fun u => u.1 = l).length
  let lane := (List.range 64).foldl (fun b l => if load l < load b then l else b) 0
  (lane, ((List.range 4).find? fun p => !used.contains (lane, p)).getD 0)

/-- R307: places for a team's warps. -/
def seatWarps (used : List (Nat × Nat)) : List Warp → List Warp
  | [] => []
  | w :: ws =>
    let p := freePlace used
    { w with lane := p.1, place := p.2 } :: seatWarps (p :: used) ws

/-- R424: is a split parked on a fault's entry. -/
def Split.onFault (k : Split) : Bool :=
  k.st = .parked && match k.park.map Park.cond with
  | some (.fault _ _ _) => true
  | _ => false

/-- R400: a split with WAKE set looks at its park condition again. -/
def Split.recheck (k : Split) : Split := if k.stop || k.onFault then k else { k with wake := false }
def Strand.recheck (st : Strand) : Strand := { st with splits := st.splits.map Split.recheck }
def Warp.recheck (w : Warp) : Warp := { w with main := w.main.recheck, handler := w.handler.map Strand.recheck }

/-- R401, R424: splits of a team whose fault was replayed while it was away go on. -/
def State.resumeReplayed (s : State) (t : Nat) : State :=
  match look s.teams t with
  | none => s
  | some x =>
    let whos := (x.warps.zipIdx).flatMap fun (w, n) =>
      ((List.range w.main.splits.length).map fun i => (Who.warp t n i, w.main.split i)) ++
      match w.handler with
      | some h => (List.range h.splits.length).map fun i => (Who.handler t n, h.split i)
      | none => []
    whos.foldl (fun s (w, k) => if k.wake && k.onFault then s.mapSplit w fun k => s.charged w (k.replayed s.nextKey) else s) s

/-- R231, R261: a core drops the lines of UO pages, dirty bytes first, so that a team that comes sees its own stores. -/
def State.dropUo (s : State) (c : Nat) : State :=
  let s := (keep (s.core c).l1 fun _ l => l.uo).foldl (fun s (line, _) => (s.writeBack c line).dropCached (.wide c) line) s
  { s with reads := mapVals s.reads fun _ u => if u.agent = .wide c && u.uo && u.fill.isSome then { u with stale := true } else u }

/-- R261, R262: a core, and its die for other devices, hold no fetched code that is older than what a team that comes has made
current. -/
def State.dropCode (s : State) (c : Nat) : State := (s.setCore c { s.core c with icache := [] }).dropFarCode (c / 64)

/-- R260, R307, R399, R400: a team becomes resident on a core. -/
def State.seat (s : State) (t c : Nat) : State :=
  match look s.teams t with
  | none => s
  | some x =>
    let s := ((s.leaveOthers c t).evictLines c t).mapTeam t fun x => x.takeLines c
    let s := s.takeBlocks c t (x.blocks - (s.core c).held t)
    let s := s.takeSlots c t (s.slotless c t x)
    let ws := seatWarps (s.warpsOn c) x.warps
    let s := { s with launches := adjust s.launches x.launch fun l => { l with moved := unlist l.moved c } }
    let s := (s.bump.mapTeam t fun x => { x with core := some c, die := c / 64, warps := ws.map Warp.recheck }).resumeReplayed t
    ((s.acquire (.wide c) (s.ctx x.ctx).asid .sys).dropUo c).dropCode c

/-! ### Creation (R304, R395) -/

/-- R304: roles of a team's warps in order. -/
def rolesOf (roles : List Nat) : List Nat := roles.zipIdx.flatMap fun (n, r) => List.replicate n r

/-- R395: bytes of an image. -/
def imageBytes (warps spad : Nat) : Nat := (65536 + 34816 * warps + spad + 1048576 + 81920 + 65535) / 65536 * 65536

/-- R304, R106: a warp as it is created. -/
def newWarp (entry : DWord) (regs : Nat) (ten : BitVec 5) (role : Nat) : Warp :=
  { role := role,
    main := { nreg := regs, sstat := ten.setWidth 32 <<< 8, live := 0xFFFFFFFF,
              splits := [{ pc := entry, exm := 0xFFFFFFFF, st := .fetch, fresh := true, rgn := entry }] } }

/-- R304: team number `idx` of a launch. -/
def State.newTeam (s : State) (l : Nat) (x : Launch) (d idx : Nat) : Team :=
  let r := x.record
  let st := r.stageAt idx
  let g := r.stages.getD st { entry := 0, teams := 0, roles := [] }
  let spad := (r.spad + 32767) / 32768 * 32768
  let ws := (rolesOf g.roles).map (newWarp g.entry r.regs (s.ctx x.ctx).ten)
  { ctx := x.ctx, launch := l, idx := idx, band := idx / r.band, brank := idx % r.band, stage := st, die := d, warps := ws,
    spadBytes := spad, image := imageBytes ws.length spad }

/-- R341: a thread starts with an arrival count equal to the phase of every barrier that stands already. -/
def Barrier.enrol (b : Barrier) (ns : List Nat) : Barrier :=
  if b.phase = 0 then b else { b with counts := ns.foldl (fun t n => write 0 t n b.phase) b.counts }

def Team.numbers (x : Team) (base : Nat) : List Nat := x.threads.map fun p => 1024 * base + p.1

/-- R304, R341, R395: a team enters the table, with its image. -/
def State.addTeam (s : State) (x : Team) : State :=
  let key := s.nextKey
  let c := s.ctx x.ctx
  let x := { x with imageAt := s.imagePlace x }
  let s := s.setCtx x.ctx { c with
    jobBars := mapVals c.jobBars fun _ b => b.enrol (x.numbers key) }
  { s with
    teams := place s.teams key x, nextKey := key + 1,
    launches := adjust s.launches x.launch fun l => { l with
      bars := mapVals l.bars fun _ b => b.enrol (x.numbers x.idx),
      bandBars := mapVals l.bandBars fun k b => if k / 4 = x.band then b.enrol (x.numbers x.idx) else b } }

/-! ### Distributors (R303, R305 to R307) -/

/-- R289, R265: does a team count toward an early start of its launch's successor. -/
def Team.released (x : Team) : Bool := x.exited || x.warps.all fun w => w.lnext || w.ended

/-- R265, R303: may a launch's teams be made resident. -/
def State.mayStart (s : State) (l : Launch) : Bool :=
  match l.pred with
  | none => true
  | some p =>
    match look s.launches p with
    | none => true
    | some a => !l.record.noEarly && !a.unplaced && (s.teamsOf p).all fun (_, t) => t.released

/-- R439: a distributor places no team of a job that is not RUN. -/
def State.mayRun (s : State) (c : Nat) : Bool :=
  let x := s.ctx c
  x.valid && !x.dying && (match s.jobOf x.job with | some (_, j) => j.st = .run | none => true)

/-- R305: chunk of a band. -/
def LaunchRec.chunk (r : LaunchRec) (b : Nat) : Nat := b * r.band / 8

/-- R305, R306: the distributor that owns a band. -/
def Launch.owner (l : Launch) (b : Nat) : Nat :=
  match look l.stolen (l.record.chunk b) with
  | some d => d - 1
  | none => l.record.chunk b % 4

/-- R481: a fenced die's chunks are with the next live die. -/
def State.liveDie (s : State) (d : Nat) : Nat := (((List.range 4).map fun i => (d + i) % 4).find? fun k => !(s.die k).fenced).getD d

/-- Bands of a launch that a distributor owns and has not placed, in order. -/
def State.pending (s : State) (l : Launch) (d : Nat) : List Nat :=
  if (s.die d).fenced then []
  else (List.range l.record.bands).filter fun b => !l.placed.contains b && s.liveDie (l.owner b) = d

/-- R303: the launches of a context that may be placed, in the order in which a distributor takes them. -/
def State.placingOrder (s : State) (c : Nat) : List (Nat × Launch) :=
  let ls := s.launches.filter fun (_, l) => l.ctx = c && l.unplaced && s.mayStart l
  ls.mergeSort fun a b => b.2.record.prio < a.2.record.prio || (a.2.record.prio = b.2.record.prio && a.1 ≤ b.1)

/-- The teams of a band as they would be created. -/
def State.bandTeams (s : State) (l : Nat) (x : Launch) (d b : Nat) : List Team :=
  (List.range (x.record.bandTeams b)).map fun i => s.newTeam l x d (b * x.record.band + i)

/-- R305, R307: places teams one by one on cores of a die; none where one does not fit, or where blocks have to pass first. -/
def State.seatAll (s : State) (d : Nat) : List Nat → Option State
  | [] => some s
  | t :: ts =>
    match look s.teams t with
    | none => none
    | some x =>
      match s.chooseCore d t x with
      | none => none
      | some c => if s.wantsBlocks c t x ≠ 0 then none else State.seatAll (s.seat t c) d ts

/-- R309: L1 blocks of a core pass to scratchpad, lowest first; at least 8 stay. -/
def State.passBlocks (s : State) (c n : Nat) : State :=
  let k := s.core c
  let l1 := (List.range 24).filter fun b => (look k.blocks b).isNone && !k.spare.contains b
  s.setCore c { k with spare := k.spare ++ l1.take (min n k.convertible) }

/-- R305, R307, R309: cores of a die for teams one by one, each with the L1 blocks that have to pass first; none where one does
not fit. -/
def State.plan (d : Nat) : List Nat → State → Option (List (Nat × Nat × Nat))
  | [], _ => some []
  | t :: ts, s =>
    match look s.teams t with
    | none => none
    | some x =>
      match s.chooseCore d t x with
      | none => none
      | some c =>
        let n := s.wantsBlocks c t x
        (State.plan d ts ((s.passBlocks c n).seat t c)).map ((t, c, n) :: ·)

/-- R304, R305: the teams of a band are created; their keys. -/
def State.createBand (s : State) (l : Nat) (x : Launch) (d b : Nat) : State × List Nat :=
  let ts := s.bandTeams l x d b
  let t := ts.foldl State.addTeam s
  ({ t with launches := adjust t.launches l fun y => { y with placed := y.placed ++ [b], early := y.early || y.pred.isSome } },
   (List.range ts.length).map (s.nextKey + ·))

/-- R305, R395: a band is created and placed whole, where every team fits. -/
def State.placeBand (s : State) (l : Nat) (x : Launch) (d b : Nat) : Option State :=
  let (s, ks) := s.createBand l x d b
  s.seatAll d ks

/-- R305, R309: where a band that has not been placed would go, L1 blocks that have to pass included. -/
def State.planBand (s : State) (l : Nat) (x : Launch) (d b : Nat) : Option (List (Nat × Nat × Nat)) :=
  let (s, ks) := s.createBand l x d b
  State.plan d ks s

/-- R395: does a distributor wait until an image of the context's pool is freed. -/
def State.waitsForPool (s : State) (d c : Nat) : Bool :=
  match look (s.ctx c).poolWait d with
  | some w => !w.freed
  | none => false

/-- R303, R395: bands of a context that a distributor has to place, in order; a band that has waited for room in the pool is alone the
next, and while it waits there is none. -/
def State.freshBands (s : State) (d c : Nat) : List (Nat × Launch × Nat) :=
  if s.waitsForPool d c then []
  else
    let all := (s.placingOrder c).flatMap fun (l, x) => (s.pending x d).map fun b => (l, x, b)
    match look (s.ctx c).poolWait d with
    | some w => if all.any fun (l, _, b) => l = w.launch && b = w.band then all.filter fun (l, _, b) => l = w.launch && b = w.band else all
    | none => all

/-- R303, R305, R309: the first band of a context that a distributor can place, placed; none while L1 blocks have to pass to it. -/
def State.placeNew (s : State) (d c : Nat) : Option State :=
  match (s.freshBands d c).find? fun (l, x, b) => (s.planBand l x d b).isSome with
  | none => none
  | some (l, x, b) => (s.placeBand l x d b).map fun s' =>
    if s.poolRoom c (s.bandTeams l x d b) then s'.setCtx c { s'.ctx c with poolWait := unlist (s'.ctx c).poolWait d }
    else s.setCtx c { s.ctx c with poolWait := place (s.ctx c).poolWait d { launch := l, band := b } }

/-- R312, R313: swapped-out bands of a context that may be resumed, each whole: their teams by key, the longest away first. -/
def State.swappedBands (s : State) (c : Nat) : List (List Nat) :=
  let ts := (s.teams.filter fun (_, t) => t.ctx = c && t.core.isNone && !t.exited).mergeSort fun a b => a.2.swapped ≤ b.2.swapped
  let band (t : Team) : List (Nat × Team) := ts.filter fun (_, u) => u.launch = t.launch && u.band = t.band
  ((ts.filter fun (_, t) => (band t).all fun (k, u) => s.mayResume k u).map fun (_, t) => (band t).map Prod.fst).eraseDups

/-- R313, R400: a swapped-out band of a context resumes on a die. -/
def State.resumeBand (s : State) (d c : Nat) : Option State := (s.swappedBands c).findSome? (s.seatAll d)

/-- R312: is there a band of a context that a die's cores can take, blocks of L1 included. -/
def State.canPlan (s : State) (d c : Nat) : Bool :=
  (s.swappedBands c).any (fun ts => (State.plan d ts s).isSome) ||
  (s.freshBands d c).any fun (l, x, b) => (s.planBand l x d b).isSome

/-- R312: is a context's turn on a die still running. -/
def Die.turnRuns (x : Die) (c : Nat) : Bool := x.holders.any fun h => h.1 = c && x.clk.toNat < h.2.2

/-- R312: does another context, whose turn it is, take the room of a die. -/
def State.turnTaken (s : State) (d c : Nat) : Bool :=
  (s.die d).holders.any fun h => h.1 ≠ c && (s.die d).turnRuns h.1 && s.mayRun h.1 && s.canPlan d h.1

/-- R307, R312, R313: a distributor places a band of a context, or resumes one; which comes first is open. -/
def State.placeNext (s : State) (d c : Nat) : Option State :=
  if !s.mayRun c || (s.die d).fenced || s.turnTaken d c then none
  else
    let fresh := (s.spend 1).placeNew d c
    let again := (s.spend 1).resumeBand d c
    if Config.pick s.oracle % 2 = 0 then fresh <|> again else again <|> fresh

/-! ### Teams parked on a barrier of their launch (R344) -/

/-- R344: is a split parked on a barrier of its launch of which a phase that it waits for is incomplete. -/
def Split.onLaunchBarrier (l : Launch) (k : Split) : Bool :=
  k.st = .parked &&
  match k.park.map Park.cond with
  | some (.barrier .launch id ps _) => !ps.all (phaseDone (readOr {} l.bars id).phase)
  | _ => false

/-- R344: is every split of a team parked on a barrier of its launch. -/
def Team.onLaunchBarrier (l : Launch) (x : Team) : Bool :=
  x.warps.all fun w => w.handler.isNone && w.main.splits.all fun k => k.st = .free || k.st = .exited || k.onLaunchBarrier l

/-- R344: the resident teams of a launch on a die that a distributor may pre-empt, with their bands. -/
def State.barrierTeams (s : State) (d l : Nat) (x : Launch) : List Team :=
  ((s.teamsOf l).filter fun (_, t) =>
    (match t.core with | some k => k / 64 = d | none => false) &&
    (s.bandOf t).all fun (_, y) => y.onLaunchBarrier x && y.atBoundary).map Prod.snd

/-- R395, R344: the first unplaced band of a launch that fits now. -/
def State.placeOf (s : State) (d c l : Nat) (x : Launch) : Option State :=
  (s.pending x d).findSome? fun b => if s.poolRoom c (s.bandTeams l x d b) then s.placeBand l x d b else none

/-- R344: teams are pre-empted, band by band, until one of their launch's unplaced bands fits in their room. -/
def State.placeOver (d c l : Nat) (x : Launch) : List Team → State → Option State
  | [], _ => none
  | t :: ts, s =>
    let s' := s.swapOutBand t
    match s'.placeOf d c l x with
    | some r => some r
    | none => State.placeOver d c l x ts s'

/-- R309, R344: the L1 blocks that have to pass first to a band that takes the room of teams of its launch. -/
def State.planOver (d c l : Nat) (x : Launch) : List Team → State → Option (List (Nat × Nat × Nat))
  | [], _ => none
  | t :: ts, s =>
    let s' := s.swapOutBand t
    match (s'.pending x d).findSome? fun b => if s'.poolRoom c (s'.bandTeams l x d b) then s'.planBand l x d b else none with
    | some r => some r
    | none => State.planOver d c l x ts s'

/-- R309, R344: the same for the launch whose barrier comes first. -/
def State.planAtBarrier (s : State) (d c : Nat) : Option (List (Nat × Nat × Nat)) :=
  if (s.die d).fenced || s.waitsForPool d c then none
  else (s.placingOrder c).findSome? fun (l, x) => State.planOver d c l x (s.barrierTeams d l x) s.bump

/-- R344: a `.launch` barrier completes whatever the number of the launch's teams. -/
def State.placeAtBarrier (s : State) (d c : Nat) : Option State :=
  if !s.mayRun c || (s.die d).fenced || s.waitsForPool d c then none
  else (s.placingOrder c).findSome? fun (l, x) => State.placeOver d c l x (s.barrierTeams d l x) s.bump

/-- R307, R344 -/
def execTeamPlacement (die ctx : Nat) (s : State) : Out :=
  match s.placeNext die ctx with
  | some s' => .next s'
  | none => .next ((s.placeAtBarrier die ctx).getD s.bump)

/-! ### L1 blocks that become scratchpad (R309) -/

/-- R309: lines of the blocks that pass leave an L1; which lines lie in them is open, beyond what no longer fits. -/
def State.shrinkL1 (s : State) (c room : Nat) : State :=
  let lines := (s.core c).l1.map Prod.fst
  let s := lines.foldl (fun s line =>
    if room < (s.core c).l1.length || Config.pick (s.oracle + line) % 2 = 0
    then (s.writeBack c line).dropCached (.wide c) line else s) s
  s.spend (2 ^ 47)

/-- R309: L1 blocks pass to scratchpad; or, where none is named, the scratchpad blocks that no team holds pass back to L1. -/
def execScratchpadBlockConversion (core blocks : Nat) (s : State) : Out :=
  let k := s.core core
  let n := min blocks k.convertible
  if blocks = 0 then .next (s.bump.setCore core { k with spare := [] })
  else .next ((s.bump.passBlocks core blocks).shrinkL1 core ((24 - k.blocks.length - k.spare.length - n) * 256))

/-- R308 -/
def execPowerOn (s : State) : Out :=
  .next { s.bump with cores := mapVals s.cores fun _ c => { c with blocks := [], spare := [] } }

/-! ### Stealing (R306) -/

/-- R306: may a context's unplaced teams be stolen now. -/
def State.stealable (s : State) (c : Nat) : Bool := s.mayRun c && !someVal (s.ctx c).poolWait fun _ w => !w.freed

/-- R306: unplaced bands that count at a distributor: launch, band and teams. -/
def State.stealBands (s : State) (d : Nat) : List (Nat × Nat × Nat) :=
  s.launches.flatMap fun (k, l) =>
    if l.record.noSteal || !s.mayStart l || !s.stealable l.ctx then []
    else (s.pending l d).map fun b => (k, b, l.record.bandTeams b)

def State.stealTeams (s : State) (d : Nat) : Nat := ((s.stealBands d).map fun x => x.2.2).sum

/-- R306: a distributor that owns no unplaced team that may be placed. -/
def State.idle (s : State) (d : Nat) : Bool :=
  !(s.launches.any fun (_, l) => s.mayStart l && s.stealable l.ctx && !(s.pending l d).isEmpty)

/-- R306: has one of the die's cores room for a team of a band. -/
def State.roomFor (s : State) (d l b : Nat) : Bool :=
  match look s.launches l with
  | some x => (s.chooseCore d s.nextKey (s.newTeam l x d (b * x.record.band))).isSome
  | none => false

/-- R306: a dry distributor. -/
def State.dry (s : State) (d : Nat) : Bool :=
  s.idle d && ((List.range 4).filter (· ≠ d)).any fun v => (s.stealBands v).any fun (l, b, _) => s.roomFor d l b

/-- R306: the distributor that is asked. -/
def State.victim (s : State) (thief : Nat) : Nat :=
  ((List.range 4).filter (· ≠ thief)).foldl (fun (best : Nat × Nat) d =>
    if best.2 < s.stealTeams d then (d, s.stealTeams d) else best) (thief, 0) |>.1

/-- R306: the chunks that pass: the higher half, by number. -/
def State.stolenChunks (s : State) (v : Nat) : List (Nat × Nat) :=
  let cs := ((s.stealBands v).filterMap fun (l, b, _) => (look s.launches l).map fun x => (l, x.record.chunk b)).eraseDups
  (cs.mergeSort fun a b => b.2 ≤ a.2).take ((cs.length + 1) / 2)

/-- R306 -/
def execStealMessage (thief : Nat) (s : State) : Out :=
  if !s.dry thief then .next s.bump
  else
    .next ((s.stolenChunks (s.victim thief)).foldl (fun s (l, c) =>
      { s with launches := adjust s.launches l fun x => { x with stolen := place x.stolen c (thief + 1) } }) s.bump)

/-! ### Stages (R310) -/

/-- Has a warp a READY split. -/
def Warp.hasReady (w : Warp) : Bool :=
  let here (st : Strand) : Bool := st.splits.any fun k => k.st = .ready && !k.stop
  here w.main || (match w.handler with | some h => here h | none => false)

/-- R310: no split of a team is READY. -/
def Team.stalled (x : Team) : Bool := x.warps.all fun w => !w.hasReady

/-- R310: is a queue that feeds a stage at least half full, or has the stage no core at all. -/
def State.stageFed (s : State) (l : Nat) (x : Launch) (st : Nat) : Bool :=
  someVal x.record.queues (fun _ q => q.cons.getLsbD st && q.depth ≤ 2 * q.items.length) ||
  !(s.teamsOf l).any fun (_, t) => t.stage = st && t.core.isSome

/-- R310: the stage to which a review moves a core of a launch, with the launch and the core's teams of it. -/
def State.stageMove (s : State) (c l : Nat) (x : Launch) : Option (Nat × Nat × Nat × List (Nat × Team)) :=
  let here := (s.teamsOf l).filter fun (_, t) => t.core = some c
  match here with
  | [] => none
  | (_, t) :: _ =>
    if (s.teamsOf l).all (fun (_, y) => y.core.isNone || y.stage ≠ t.stage || y.stalled) &&
       here.all (fun (_, y) => (s.bandOf y).all fun z => z.2.atBoundary)
    then ((List.range x.record.stages.length).find? fun g => g ≠ t.stage && s.stageWaiting l x g && s.stageFed l x g).map fun g => (l, c, g, here)
    else none

/-- R310: the moves that a review of the stages of a die's cores may make: launch, core, its new stage and the teams that leave. -/
def State.stageMoves (s : State) (die : Nat) : List (Nat × Nat × Nat × List (Nat × Team)) :=
  s.launches.flatMap fun (l, x) =>
    if x.record.stages.length ≤ 1 then []
    else ((List.range 64).map fun k => 64 * die + k).filterMap fun c => s.stageMove c l x

/-- R310: a distributor reviews the stages of its die's cores and moves the first core that it may. -/
def execStageReview (die : Nat) (s : State) : Out :=
  match s.stageMoves die with
  | [] => .next s.bump
  | (l, c, g, ts) :: _ =>
    let s := ts.foldl (fun s (_, t) => s.swapOutBand t) s.bump
    .next { s with launches := adjust s.launches l fun y => { y with moved := place y.moved c g } }

/-! ### Rotation among contexts (R312) -/

/-- R392 SLICE: clocks of a core's turn, at the base clock of 2.4 GHz (R13); the field counts 50 µs. -/
def State.slice (s : State) (c : Nat) : Nat := leNat (s.homeRead ((s.ctx c).cblk + 0x20) 4).2 * 120000

/-- R312: does a context wait on a die: it has a band there that fits no core without pre-emption. -/
def State.waitsOn (s : State) (d c : Nat) : Bool :=
  s.mayRun c && !(s.die d).fenced &&
  ((s.swappedBands c).any (fun ts => (State.plan d ts s).isNone) ||
   (s.freshBands d c).any fun (l, x, b) => (s.planBand l x d b).isNone)

/-- R312: contexts with resident teams on a die. -/
def State.residentCtxs (s : State) (d : Nat) : List Nat :=
  (s.teams.filterMap fun (_, t) => match t.core with | some c => if c / 64 = d then some t.ctx else none | none => none).eraseDups

/-- R312: the contexts that give way to another one's turn: those with waiting work of their own and past the end of their own
turn, the longest first. -/
def State.victims (s : State) (d turn : Nat) : List Nat :=
  let x := s.die d
  let ended (c : Nat) : Nat := ((x.holders.find? fun h => h.1 = c).map fun h => h.2.2).getD 0
  ((s.residentCtxs d).filter fun c => c ≠ turn && !x.turnRuns c && s.waitsOn d c).mergeSort fun a b => ended a ≤ ended b

/-- R312: the resident teams of a context on a die. -/
def State.teamsOn (s : State) (d c : Nat) : List Team :=
  (s.teams.filter fun (_, t) => t.ctx = c && (match t.core with | some k => k / 64 = d | none => false)).map Prod.snd

/-- R312: teams are pre-empted, band by band, until a context has room. -/
def State.roomBy (d c : Nat) : List Team → State → Option State
  | [], s => if s.canPlan d c then some s else none
  | t :: ts, s => if s.canPlan d c then some s else State.roomBy d c ts (s.swapOutBand t)

/-- R312: at a turn, the next waiting context gets room for its weight times Q. -/
def execContextTurn (die : Nat) (s : State) : Out :=
  let x := s.die die
  match ((List.range 64).map fun i => (x.turn + i) % 64).find? (s.waitsOn die) with
  | none => .next s.bump
  | some c =>
    match State.roomBy die c ((s.victims die c).flatMap (s.teamsOn die)) s.bump with
    | none => .next s.bump
    | some t =>
      let ends := x.clk.toNat + ((s.ctx c).prio + 1) * s.slice c
      .next (t.setDie die { t.die die with turn := (c + 1) % 64, holders := (x.holders.filter fun h => h.1 ≠ c) ++ [(c, 0, ends)] })

/-! ### Clocks (R323) -/

/-- R323: is a lane of a core clock-gated: no split on it is READY. -/
def State.gatedLane (s : State) (c : Nat) : Bool :=
  let busy := s.teams.flatMap fun (_, t) => if t.core = some c then (t.warps.filter Warp.hasReady).map Warp.lane else []
  (List.range 64).any fun l => !busy.contains l

/-- R13, R323: a core's clock rises only with the power of clock-gated lanes. -/
def execFrequencyStep (core : Nat) (up : Bool) (s : State) : Out :=
  let c := s.core core
  if up && !s.gatedLane core then .next s.bump
  else .next (s.bump.setCore core { c with mhz := if up then min 2700 (c.mhz + 25) else max 2400 (c.mhz - 25) })

/-! ### Acceptance (R302) -/

/-- R302: a field of a launch's structures: 0 record, 1 stage table, 2 queue table; address of the structure; offset. -/
structure BadField where
  part : Nat
  addr : Nat
  off  : Nat
  deriving DecidableEq, Repr

/-- R302: does a range lie inside the context's mapped pages, for a kind of access. -/
def State.mappedFor (s : State) (c : Nat) (k : Kind) (va n : Nat) : Bool :=
  let sp := (s.engineSpace c 0).2
  va + n ≤ 2 ^ 57 && (pieces va n).all fun (a, _) =>
    match (s.translate sp k a).2 with
    | .ok _ => true
    | _ => false

/-- Bytes that acceptance reads; those of another device are outside the model, and free. -/
def State.tableBytes (s : State) (c va n : Nat) : State × List Byte :=
  let (s, sp) := s.engineSpace c 0
  (pieces va n).foldl (fun (acc : State × List Byte) (a, m) =>
    match acc.1.translate sp .read a with
    | (s, .ok p) =>
      if p.dev = s.dev && p.pa < hbmEnd then
        let (s, bs) := s.homeRead p.pa m
        let (s, bs) := s.softBytes p.pa m bs
        (s, acc.2 ++ bs)
      else (s.spend m, acc.2 ++ (List.range m).map fun i => (Config.freeWord (s.oracle + i)).setWidth 8)
    | (s, _) => (s, acc.2 ++ List.replicate m 0)) (s, [])

/-- A little-endian field of a record. -/
def fieldAt (bs : List Byte) (off n : Nat) : Nat := leNat ((bs.drop off).take n)

/-- R299: warps by role of a ROLES field. -/
def rolesAt (bs : List Byte) (off : Nat) : List Nat := ((bs.drop off).take 8).map BitVec.toNat

def rolesOk (rs : List Nat) : Bool := rs.all (· ≤ 32) && 1 ≤ rs.sum && rs.sum ≤ 32

/-- R299, R302: the first field of a launch record that is not valid, by offset. -/
def State.badRecord (s : State) (c : Nat) (bs : List Byte) : Option Nat :=
  let tm (k : Nat) : Nat := fieldAt bs (8 + 4 * k) 4
  let cfg := fieldAt bs 0x14 4
  let ctxf := fieldAt bs 0x1C 4
  let regs := cfg / 256 % 256
  let band := cfg % 32
  let stab := fieldAt bs 0x30 8
  let qtab := fieldAt bs 0x38 8
  let nstg := cfg / 2 ^ 16 % 8
  let checks : List (Nat × Bool) :=
    [(0x00, stab ≠ 0 || s.mappedFor c .exec (fieldAt bs 0 8) 4),
     (0x08, 1 ≤ tm 0), (0x0C, 1 ≤ tm 1), (0x10, 1 ≤ tm 2 && tm 0 * tm 1 * tm 2 < 2 ^ 32),
     (0x14, cfg / 2 ^ 25 = 0 && cfg / 2 ^ 19 % 8 = 0 && cfg / 32 % 8 = 0 && regs % 8 = 0 && 8 ≤ regs && regs ≤ 128 &&
            1 ≤ band && band ≤ 16 && (stab ≠ 0 || nstg = 0)),
     (0x18, fieldAt bs 0x18 4 ≤ 524288),
     (0x1C, ctxf / 2 ^ 19 = 0 && ctxf / 64 % 1024 = 0 && ctxf % 64 = c),
     (0x20, fieldAt bs 0x20 4 ≠ 0),
     (0x28, stab ≠ 0 || rolesOk (rolesAt bs 0x28)),
     (0x30, stab = 0 || s.mappedFor c .read stab (32 * (nstg + 1))),
     (0x38, qtab = 0 || s.mappedFor c .read qtab 512)]
  (checks.find? fun x => !x.2).map Prod.fst

/-- R300, R302: the first field of the stage table that is not valid; which TEAMS field a wrong sum names is open. -/
def State.badStage (s : State) (c teams : Nat) (bs : List Byte) (n : Nat) : Option Nat :=
  let sum := ((List.range n).map fun g => fieldAt bs (32 * g + 8) 4).sum
  let wrong := if sum = teams then n else Config.pick s.oracle % n
  let checks : List (Nat × Bool) := (List.range n).flatMap fun g =>
    let o := 32 * g
    [(o, s.mappedFor c .exec (fieldAt bs o 8) 4), (o + 0x08, g ≠ wrong), (o + 0x0C, fieldAt bs (o + 0x0C) 4 = 0),
     (o + 0x10, rolesOk (rolesAt bs (o + 0x10))), (o + 0x18, fieldAt bs (o + 0x18) 8 = 0)]
  (checks.find? fun x => !x.2).map Prod.fst

/-- R301, R302: the first field of the queue table that is not valid. -/
def State.badQueue (s : State) (c : Nat) (bs : List Byte) : Option Nat :=
  let checks : List (Nat × Bool) := (List.range 16).flatMap fun q =>
    let o := 32 * q
    let f (k n : Nat) : Nat := fieldAt bs (o + k) n
    if f 0x0C 4 / 2 ^ 31 = 0 then [(o, f 0 8 = 0), (o + 8, f 8 4 = 0), (o + 0x0C, f 0x0C 4 = 0), (o + 0x10, f 0x10 4 = 0), (o + 0x14, f 0x14 12 = 0)]
    else
      let elem := f 0x0C 4 % 65536
      [(o, f 0 8 % 128 = 0 && [Kind.read, .write].all fun k => s.mappedFor c k (f 0 8) (max 1 (f 8 4 * elem))),
       (o + 8, 1 ≤ f 8 4),
       (o + 0x0C, f 0x0C 4 / 2 ^ 16 % 2 ^ 15 = 0 && elem % 4 = 0 && 4 ≤ elem && elem ≤ 512),
       (o + 0x10, f 0x10 4 / 2 ^ 16 = 0), (o + 0x14, f 0x14 12 = 0)]
  (checks.find? fun x => !x.2).map Prod.fst

/-- R300, R301: the queues of a table. -/
def queuesOf (bs : List Byte) : Sparse Queue :=
  (List.range 16).filterMap fun q =>
    let o := 32 * q
    let cfg := fieldAt bs (o + 0x0C) 4
    if cfg / 2 ^ 31 = 0 then none
    else some (q, { depth := fieldAt bs (o + 8) 4, elem := cfg % 65536, prod := BitVec.ofNat 8 (fieldAt bs (o + 0x10) 1),
                    cons := BitVec.ofNat 8 (fieldAt bs (o + 0x11) 1), base := BitVec.ofNat 64 (fieldAt bs o 8) })

/-- R299 to R301: the record with its tables. -/
def recordOf (addr : DWord) (bs stab qtab : List Byte) : LaunchRec :=
  let cfg := fieldAt bs 0x14 4
  let ctxf := fieldAt bs 0x1C 4
  let teams := fieldAt bs 8 4 * fieldAt bs 12 4 * fieldAt bs 16 4
  { addr := addr, tmx := fieldAt bs 8 4, tmy := fieldAt bs 12 4, tmz := fieldAt bs 16 4, prio := cfg / 2 ^ 22 % 8, regs := cfg / 256 % 256,
    band := cfg % 32, spad := fieldAt bs 0x18 4, noEarly := ctxf / 2 ^ 18 % 2 = 1, noSteal := ctxf / 2 ^ 17 % 2 = 1, cevt := ctxf / 2 ^ 16 % 2 = 1,
    lid := BitVec.ofNat 32 (fieldAt bs 0x20 4), pred := BitVec.ofNat 32 (fieldAt bs 0x24 4),
    stages := if fieldAt bs 0x30 8 = 0 then [{ entry := BitVec.ofNat 64 (fieldAt bs 0 8), teams := teams, roles := rolesAt bs 0x28 }]
      else (List.range (cfg / 2 ^ 16 % 8 + 1)).map fun g =>
        { entry := BitVec.ofNat 64 (fieldAt stab (32 * g) 8), teams := fieldAt stab (32 * g + 8) 4, roles := rolesAt stab (32 * g + 0x10) },
    queues := if fieldAt bs 0x38 8 = 0 then [] else queuesOf qtab,
    wins := (List.range 8).map fun w => BitVec.ofNat 64 (fieldAt bs (0x40 + 8 * w) 8) }

/-- R302: an invalid record starts no team; an event record of kind 4 names the field. -/
def State.rejectLaunch (s : State) (c : Nat) (lid : Word) (b : BadField) : State :=
  s.eventRecord c 0 4 0 0 0 0 { lid := lid } (b.addr + (b.off + b.part * 65536) * 2 ^ 64)

/-- R303: the accepted launch that a record's PRED names. -/
def State.predecessor (s : State) (c : Nat) (pred : Word) : Option Nat :=
  if pred = 0 then none else (s.launches.find? fun (_, l) => l.ctx = c && l.record.lid = pred).map Prod.fst

/-- R302, R303: a checked record becomes an accepted launch. -/
def State.acceptLaunch (s : State) (c : Nat) (r : LaunchRec) : State :=
  { s with
    launches := place s.launches s.nextKey { ctx := c, record := r, pred := s.predecessor c r.pred, born := s.nextKey },
    nextKey := s.nextKey + 1 }

/-- R302: where the record of a queued launch lies. -/
def Queued.place (q : Queued) (c : Nat) : Nat := if q.host then 0xC000030000 + 256 * c else q.addr.toNat

/-- R302: the record at the head of a context's queue is accepted or rejected. -/
def State.takeRecord (s : State) (c : Nat) (q : Queued) : State :=
  let bs := q.bytes
  let lid := recordLid bs
  let stab := fieldAt bs 0x30 8
  let qtab := fieldAt bs 0x38 8
  let n := fieldAt bs 0x14 4 / 2 ^ 16 % 8 + 1
  match s.badRecord c bs with
  | some off => s.rejectLaunch c lid { part := 0, addr := q.place c, off := off }
  | none =>
    let (s, st) := if stab = 0 then (s, []) else s.tableBytes c stab (32 * n)
    match if stab = 0 then none else s.badStage c (fieldAt bs 8 4 * fieldAt bs 12 4 * fieldAt bs 16 4) st n with
    | some off => (s.spend 1).rejectLaunch c lid { part := 1, addr := stab, off := off }
    | none =>
      let (s, qt) := if qtab = 0 then (s, []) else s.tableBytes c qtab 512
      match if qtab = 0 then none else s.badQueue c qt with
      | some off => s.rejectLaunch c lid { part := 2, addr := qtab, off := off }
      | none => s.acceptLaunch c (recordOf q.addr bs st qt)

/-- R303: launches of a context that have been accepted and have not completed. -/
def State.accepted (s : State) (c : Nat) : Nat := (s.launches.filter fun (_, l) => l.ctx = c).length

/-- R302, R303 -/
def execLaunchAccept (ctx : Nat) (s : State) : Out :=
  match (s.ctx ctx).queue with
  | [] => .next s.bump
  | q :: rest =>
    if 8 ≤ s.accepted ctx || !(s.ctx ctx).valid || (s.ctx ctx).dying then .next s.bump
    else .next ((s.bump.setCtx ctx { s.ctx ctx with queue := rest }).takeRecord ctx q)

end Sys2Proof.Machine
end

