-- ==== Sys2Proof/Machine/Coherence.lean ====
section
/-! DEFINITION. Homes at work: writes, invalidations, reads, requests of other devices and requests that are lost
(R218 to R236, R240, R241, R381, R388, R454, R470, R471, R481). -/

namespace Sys2Proof.Machine

/-! ### Events of links and dies (R475) -/

/-- R475: the body of a host event of class 4; the interruption in ns is measured, and free. -/
def State.linkBody (s : State) (sub port maps peer count unit_ : Nat) : List Byte :=
  le 4 (sub + port * 256) ++ le 4 maps ++ le 4 peer ++ le 4 count ++ le 8 (s.die 0).clk.toNat ++ le 4 unit_ ++ le 4 (Config.freeWord s.oracle).toNat

/-- R475: a host event of class 4. -/
def State.linkHost (s : State) (sub port maps peer count unit_ : Nat) : State :=
  (s.hostEvent (s.hostWord none) 4 [] (s.linkBody sub port maps peer count unit_)).spend 1

/-- R475: a context event of kind 8. -/
def State.linkContext (s : State) (c sub port maps peer : Nat) (eaddr : DWord) : State :=
  if (s.ctx c).valid then s.eventRecord c 0 8 0 0 0 eaddr {} (fields [(0, sub + port * 256), (32, maps), (64, peer)]) else s

/-- R475, R436: the contexts of this device whose tag is on some flits. -/
def State.ctxsOf (s : State) (fs : List Flit) : List Nat :=
  (s.ctxs.filter fun (_, x) => x.valid && x.job ≠ 0 && fs.any fun f => f.tag.toNat = x.job).map Prod.fst

/-! ### A die that is fenced (R228, R481) -/

/-- R228: contexts with a warp, a team or a shipped section on a die. -/
def State.workOn (s : State) (d : Nat) : List Nat :=
  ((s.teams.filterMap fun (_, t) => match t.core with | some c => if c / 64 = d then some t.ctx else none | none => none) ++
   (s.lcs.filterMap fun (n, l) => if n / 16 = d && l.t0.serving.isSome then some l.t0.ctx else none)).eraseDups

/-- R228, R481: a die is fenced: what its caches hold is lost, contexts with work there end, and the host is told. -/
def State.fence (s : State) (d : Nat) : State :=
  if (s.die d).fenced then s
  else
    let work := s.workOn d
    let s := s.setDie d { s.die d with fenced := true, rdc := [] }
    let s := { s with lcs := mapVals s.lcs fun n l => if n / 16 = d then { l with cache := [] } else l }
    let s := s.linkHost 12 0 0 0 0 d
    (work.foldl (fun s c => (s.linkContext c 12 0 0 0 0).killContext c d) s).noteDegraded

/-! ### Writes at the home (R225, R240, R241) -/

/-- R240, R277: a `cas` that would find another value now; its release half orders nothing. -/
def State.failsNow (s : State) (op : WriteOp) : Bool :=
  match op.atomic with
  | some a => a.op = 13 && lineDev op.line = s.dev && a.written (leNat (s.homeRead a.pa a.bytes).2) = none
  | none => false

/-- R240, R241, R242: may a request be performed now. -/
def State.mayPerform (s : State) (k : Nat) (op : WriteOp) : Bool :=
  let rel : Bool := op.rel && !s.failsNow op
  !s.sentBefore k (fun o => o.agent = op.agent && (rel || o.line = op.line)) &&
  !(rel && op.relSys && s.remote.any fun (_, r) => r.born < k && r.agent = op.agent && (r.wcb || r.type = 3)) &&
  !(match op.atomic with | some a => s.atomicAhead op.who a.thread k | none => false) &&
  !(lineDev op.line ≠ s.dev && s.packetAhead op.agent op.line k) &&
  !(op.so && s.soAhead op.who k)

/-- R381: an access that a request makes, as a home slice sees it. -/
def WriteOp.seen (op : WriteOp) : Seen :=
  { line := op.line, ctx := op.ctx, asid := op.asid, write := true, read := op.atomic.isSome, who := if op.evict then none else op.who,
    flags := bit (bySection op.who && !op.evict) 0 + bit op.wb 1 + bit op.evict 2, site := if op.evict then 0 else op.site, seq := if op.evict then 0 else op.seq, team := op.team }

/-- R276, R321: the old value of an atomic returns. -/
def State.landAtomic (s : State) (a : AtomicOp) (bs : List Byte) : State :=
  match a.load with
  | none => s
  | some key => { s with loads := adjust s.loads key fun l => { l.land a.thread 0 bs with left := l.left - 1 } }.finishLoad key

/-- R76, R236: an error that no instruction can report: a machine-check record with the cause, and the context ends. DESIGN CHOICE
(log 117): the record's words. -/
def State.fatalError (s : State) (c die : Nat) (n : Name) : State :=
  if (s.ctx c).valid then (s.eventRecord c die 8 0 (BitVec.ofNat 32 (causeCode .dataError)) 0 0 n).killContext c die else s

/-- R236, R485: an atomic fails at its home. -/
def State.failAtomic (s : State) (a : AtomicOp) (cause : Nat) : State :=
  match a.load with
  | none => s
  | some key => { s with loads := adjust s.loads key fun l =>
      { l with left := l.left - 1,
               failed := match l.failed with
                 | some (t, c) => if a.thread < t then some (a.thread, cause) else some (t, c)
                 | none => some (a.thread, cause) } }

/-- R224, R276, R393: an atomic reads and writes at its home; what it writes, and its old value. -/
def State.atomicAt (s : State) (a : AtomicOp) : State × Nat :=
  let (s, bs) := s.softBytes a.pa a.bytes (bytesAt s.mem a.pa a.bytes)
  let old := leNat bs
  match a.written old with
  | some v =>
    let (mask, data) := lineBytes (a.pa % 128) (leBytes a.bytes v)
    (s.merge (lineNo s.dev a.pa) mask data, old)
  | none => (s, old)

/-- R388: the trace record of a write that merges. -/
def State.traceWrite (s : State) (op : WriteOp) : State :=
  if op.wb || op.evict then
    s.traceRecord op.line op.mask op.site op.seq op.asid op.agent.die op.sc.code.toNat op.rt.code.toNat
      (bit op.wb 0 + bit op.evict 1 + bit (s.gone op.seen) 2) 2 s.dev
      op.agent.number
  else s

/-- R221, R225, R236: a write whose line no tracked cache holds any more merges; its agent has its acknowledgement. -/
def State.performWrite (s : State) (op : WriteOp) : State :=
  let s := s.watch op.seen
  match op.atomic with
  | none => (s.merge op.line op.mask op.data).traceWrite op
  | some a =>
    if s.poisoned a.pa a.bytes || s.fencedAt a.pa then
      if a.load.isSome then s.failAtomic a (causeCode .dataError)
      else s.fatalError op.ctx (homeDie a.pa) { site := op.site, seq := op.seq, team := op.team }
    else
      let (s, old) := s.atomicAt a
      s.landAtomic a (leBytes a.bytes old)

/-- R225: a write at its home: it is held while sharers are invalidated, or merges. -/
def State.takeWrite (s : State) (k : Nat) (op : WriteOp) : State :=
  match s.sharers op.line with
  | [] => { s with held := unlist s.held k }.performWrite op
  | cs =>
    let s := s.recall op.line
    { s with held := place s.held k { op with awaits := cs, silent := [] } }

/-- R233: an atomic for another device leaves as a request. -/
def State.sendAtomic (s : State) (k : Nat) (op : WriteOp) : State :=
  s.sendRemote { dev := lineDev op.line, agent := op.agent, who := op.who, ctx := op.ctx, type := 3, line := op.line, mask := op.mask,
                 so := op.so, ord := op.ord, sc := op.sc, rt := .cb, atomic := op.atomic, seq := op.seq, site := op.site } k

/-- R225 -/
def execHomeWriteRequest (k : Nat) (s : State) : Out :=
  match look s.out k with
  | none => .next s.bump
  | some op =>
    if !s.mayPerform k op then .next s.bump
    else
      let s := ({ s.bump with out := unlist s.out k }).count (homeDie (linePa op.line)) op.ctx 0x06 1
      if lineDev op.line ≠ s.dev then .next (s.sendAtomic k op) else .next (s.takeWrite k op)

/-- R226: a tracked cache drops a line; fills of it that are in flight are not installed. -/
def State.dropTracked (s : State) (cache line : Nat) : State :=
  let stale (s : State) (p : Agent → Bool) : State :=
    { s with reads := mapVals s.reads fun _ u => if u.line = line && u.fill.isSome && p u.agent then { u with stale := true } else u }
  if cache < 4 then
    stale (s.setDie cache { s.die cache with rdc := unlist (s.die cache).rdc line }) fun a => a.die = cache && homeDie (linePa line) ≠ cache
  else
    stale (s.setLc (cache - 4) { s.lc (cache - 4) with cache := unlist (s.lc (cache - 4)).cache line }) fun a => a = .lat (cache - 4)

/-- R225, R226, R388 -/
def execInvalidation (k cache : Nat) (s : State) : Out :=
  match look s.held k with
  | none => .next s.bump
  | some op =>
    if !op.awaits.contains cache || op.silent.contains cache then .next s.bump
    else
      let s := ((s.bump.recall op.line).dropTracked cache op.line).traceRecord op.line (BitVec.allOnes 128) op.site op.seq op.asid
        op.agent.die op.sc.code.toNat op.rt.code.toNat
        (bit op.wb 0 + bit op.evict 1 + bit (s.gone op.seen) 2) 1 s.dev op.agent.number
      .next { s with held := adjust s.held k fun o => { o with silent := o.silent ++ [cache] } }

/-- R225, R277: a `cas` that succeeds by now waits for what its release half orders before it. -/
def execInvalidationAck (k : Nat) (s : State) : Out :=
  match look s.held k with
  | none => .next s.bump
  | some op => if op.awaits.all op.silent.contains && s.mayPerform k op then .next (s.bump.takeWrite k op) else .next s.bump

/-- R228: sharers that have not acknowledged for 100 µs: their dies are fenced and the write completes. -/
def execSharerTimeout (k : Nat) (s : State) : Out :=
  match look s.held k with
  | none => .next s.bump
  | some op =>
    let dies := ((op.awaits.filter fun c => !op.silent.contains c).map fun c => if c < 4 then c else (c - 4) / 16).eraseDups
    if dies.isEmpty then .next s.bump
    else
      let s := dies.foldl State.fence s.bump
      match look s.held k with
      | some op => if s.mayPerform k op then .next (s.takeWrite k op) else .next s
      | none => .next s

/-- R234, R392 WCBAGE: the age at which an entry of a context leaves, in clocks of a core. -/
def State.wcbLimit (s : State) (core ctx : Nat) : Nat :=
  let n := leNat (s.homeRead ((s.ctx ctx).cblk + 0x24) 4).2
  (if n = 0 then 8 else n) * (s.core core).mhz / 4

/-- R234: has an entry reached the ageing timer of a context whose stores it holds. -/
def State.wcbAged (s : State) (core : Nat) (w : Wcb) : Bool := w.ctxs.any fun c => s.wcbLimit core c ≤ w.age

/-- R234 -/
def execWcbAgeing (core : Nat) (s : State) : Out := .next (s.bump.sendWcbs core fun _ w => s.wcbAged core w)

/-! ### Reads at the home (R219, R225, R226, R230, R233, R236) -/

/-- R240, R241: may an access of a load be served now. -/
def State.mayRead (s : State) (k : Nat) (u : ReadUnit) : Bool :=
  !s.sentBefore k (fun o => o.agent = u.agent && o.line = u.line) &&
  !(s.reads.any fun (i, v) => i < k && v.agent = u.agent && v.line = u.line) &&
  !s.packetAhead u.agent u.line k &&
  !(u.strong && s.strongAhead u.who u.thread u.load k) &&
  !(u.so && s.soAhead (some u.who) k)

def ReadUnit.mask (u : ReadUnit) : BitVec 128 := if u.bytes = 0 || u.fill.isSome then BitVec.allOnes 128 else rangeMask u.pos u.bytes

/-- R219, R220, R226, R235, R236: the line that a read has fetched goes into the caches of its agent and, where it is new to
the RDC of the agent's die and lies on another die or device, into that; only bytes `good` have no error. A line that the core
has written since is not installed (R246). -/
def State.install (s : State) (u : ReadUnit) (data : BitVec 1024) (good : BitVec 128) (isNew : Bool) : State :=
  match u.fill with
  | none => s.dropClean u.agent u.line
  | some si =>
    if u.stale || s.ownWrites u.agent u.line then s.dropClean u.agent u.line
    else
      let far : Bool := lineDev u.line ≠ s.dev
      let wide : Bool := match u.agent with | .wide _ => true | _ => false
      let d := u.agent.die
      let s := if isNew && good = BitVec.allOnes 128 && (far || (wide && homeDie (linePa u.line) ≠ d)) then
          s.fillRdc d u.line { valid := BitVec.allOnes 128, data := data, si := si && far, uo := u.uo, asid := u.asid }
        else s
      if far && !wide then s else s.fillLine u.agent u.line data good si u.uo u.asid

/-- The data of a line as bytes. -/
def dataOf (bs : List Byte) : BitVec 1024 := BitVec.ofNat 1024 (leNat bs)

/-- R321: a read has its line. -/
def State.serve (s : State) (k : Nat) (u : ReadUnit) (data : BitVec 1024) (good : BitVec 128) (isNew : Bool) : State :=
  let s := { s with reads := unlist s.reads k }.install u data good isNew
  if u.bytes = 0 then s else s.landUnit u (lineData data u.pos u.bytes)

/-- R381: a load or fill as the home sees it. -/
def ReadUnit.seen (u : ReadUnit) : Seen :=
  { line := u.line, ctx := u.ctx, asid := u.asid, read := true, who := some u.who, flags := bit (bySection (some u.who)) 0, site := u.site,
    seq := u.seq, team := u.team }

/-- R236, R481: a read of bytes that are lost fails; a prefetch has no instruction that could. -/
def State.failRead (s : State) (k : Nat) (u : ReadUnit) (cause : Nat) : State :=
  let s := { s with reads := unlist s.reads k }
  if u.bytes = 0 then s else s.failUnit u cause

/-- R236: the bytes of a line of this device without an error. -/
def State.goodBytes (s : State) (pa : Nat) : BitVec 128 :=
  s.poison.foldl (fun m (a, _) => if pa ≤ a && a < pa + 128 then m &&& ~~~ maskBit (a - pa) else m) (BitVec.allOnes 128)

/-- R225: a read of a line of this device is served, from the RDC of its agent's die or from the home. -/
def State.readHere (s : State) (k : Nat) (u : ReadUnit) : State :=
  match if u.fill.isSome && u.agent.die < 4 then look (s.die u.agent.die).rdc u.line else none with
  | some l => s.serve k u l.data (BitVec.allOnes 128) false
  | none =>
    let pa := linePa u.line
    let s := (s.count (homeDie (linePa u.line)) u.ctx 0x06 1).watch u.seen
    if s.poisoned (pa + u.pos) u.bytes || s.fencedAt pa then s.failRead k u (causeCode .dataError)
    else
      let (s, bs) := s.homeRead pa 128
      s.serve k u (dataOf bs) (s.goodBytes pa) true

/-- R233, R235: a read of a line of another device: an `si` line from the die's RDC, else a request. -/
def State.readFar (s : State) (k : Nat) (u : ReadUnit) : State :=
  match if u.fill = some true then s.farLine u.agent.die u.line u.asid else none with
  | some l => s.serve k u l.data (BitVec.allOnes 128) false
  | none =>
    let txn := s.txn
    let s := s.sendRemote { dev := lineDev u.line, agent := u.agent, who := some u.who, ctx := u.ctx, type := 1, line := u.line, mask := u.mask,
                            so := u.so, ord := u.ord, sc := u.sc, rt := u.rt, read := some k, site := u.site, seq := u.seq }
    { s with reads := adjust s.reads k fun u => { u with txn := some txn } }

/-- R225, R233 -/
def execHomeRead (k : Nat) (s : State) : Out :=
  match look s.reads k with
  | none => .next s.bump
  | some u =>
    if u.txn.isSome || !s.mayRead k u then .next s.bump
    else if lineDev u.line = s.dev then .next (s.bump.readHere k u)
    else .next (s.bump.readFar k u)

/-! ### Requests of other devices (R233, R454) -/

/-- R454: may an access from another device be performed. -/
def State.grantedTo (s : State) (tag pa n : Nat) (r w : Bool) : Bool :=
  tag ≠ 0 && someVal s.hub.grants fun _ g => g.valid && g.tag = tag && g.base ≤ pa && pa + n ≤ g.limit && (!r || g.r) && (!w || g.w)

/-- R461: a response leaves for the device that has asked. -/
def State.respond (s : State) (r : RemoteReq) (ty cause value : Nat) (body : List Nat) : State :=
  s.inject (packet ty s.dev r.src r.tag (responseHead r.txn cause value) body)

/-- R436, R454: the context of this device whose job a tag names, with its ASID; none where there is none. DESIGN CHOICE (log 141): a
packet holds no ASID, and an access of another device counts as that context's. -/
def State.tagged (s : State) (tag : Nat) : Nat × Nat :=
  match s.ctxs.find? fun (_, x) => x.valid && x.job ≠ 0 && x.job = tag with
  | some (c, x) => (c, x.asid)
  | none => (noContext, noAsid)

/-- R381: an access of another device, as a home slice sees it. -/
def State.remoteSeen (s : State) (r : RemoteReq) : Seen :=
  { line := lineNo s.dev r.pa, ctx := (s.tagged r.tag).1, asid := (s.tagged r.tag).2, write := r.write || r.atomic.isSome || r.isCas, read := !r.write, site := r.site, seq := r.seq }

/-- R461: the quarters of a line with the bytes of an access. -/
def answerBody (data : BitVec 1024) (pos n : Nat) : List Nat :=
  (quartersOf (rangeMask pos n)).map (quarterData (BitVec.allOnes 128) data)

/-- R225, R388: sharers are invalidated for an access of another device. -/
def State.remoteDrop (s : State) (r : RemoteReq) (line : Nat) : State :=
  (s.dropSharers line).nameHome s.homeLog.length fun h =>
    { h with ctx := (s.tagged r.tag).1, asid := (s.tagged r.tag).2, dev := some r.src, site := r.site, seq := r.seq, sc := r.sc, rt := r.rt }

/-- R388: the trace record of a packet of another device; DESIGN CHOICE (log 141): the source core and die, which no packet holds, are free. -/
def State.traceRemote (s : State) (r : RemoteReq) (line : Nat) (mask : BitVec 128) (kind : Nat) : State :=
  (s.spend 2).traceRecord line mask r.site r.seq (s.tagged r.tag).2 (Config.pick s.oracle % 5) r.sc.code.toNat r.rt.code.toNat 8 kind r.src
    (Config.pick (s.oracle + 1) % 2048)

/-- R233, R454: a write of another device merges at its home as one step (R222). -/
def State.remoteWrite (s : State) (r : RemoteReq) : State :=
  let line := lineNo s.dev r.pa
  if s.fencedAt r.pa then s.respond r 5 (causeCode .dataError) 0 []
  else
    let data := dataOf r.data
    let s := if r.pa < hbmEnd then ((s.recall line).remoteDrop r line).merge line r.mask data
      else s.deviceWrite (linePa line + (maskPlaces r.mask).headD 0) ((maskPlaces r.mask).map (dataByte data))
    (s.traceRemote r line r.mask 3).respond r 5 0 0 []

/-- R233, R276: an atomic of another device at its home. -/
def State.remoteAtomic (s : State) (r : RemoteReq) (op : Nat) : State :=
  if s.fencedAt r.pa || s.poisoned r.pa r.bytes then s.respond r 6 (causeCode .dataError) 0 []
  else
    let line := lineNo s.dev r.pa
    let a : AtomicOp := { op := op, bytes := r.bytes, pa := r.pa, operand := r.operand, compare := r.compare, load := none, thread := 0 }
    let (s, old) := ((s.recall line).remoteDrop r line).atomicAt a
    (s.traceRemote r line (rangeMask (r.pa % 128) r.bytes) 4).respond r 6 0 old []

/-- R225, R233: a load of another device at its home. -/
def State.remoteLoad (s : State) (r : RemoteReq) : State :=
  if s.fencedAt r.pa || s.poisoned r.pa r.bytes then s.respond r 4 (causeCode .dataError) 0 []
  else
    let (s, bs) := if r.pa < hbmEnd then s.homeRead r.pa r.bytes else s.deviceRead r.pa r.bytes
    let (s, mine) := s.softBytes r.pa r.bytes bs
    s.respond r 4 0 0 (answerBody (dataOf (List.replicate (r.pa % 128) 0 ++ mine)) (r.pa % 128) r.bytes)

/-- R448, R451, R454: why an access of another device, of some bytes from an address on, is not performed beyond HBM4: a cause, or 0. -/
def State.remoteBar (s : State) (pa n : Nat) (write atomic : Bool) : Nat :=
  match regionOf pa with
  | .memory => 0
  | .registers _ | .zou _ _ => if atomic then causeCode .permission else if (n = 4 || n = 8) && pa % n = 0 then 0 else causeCode .misaligned
  | .window w off =>
    if atomic || s.windowSize w < off + n then causeCode .permission
    else if s.hub.filairDown && !write then causeCode .dataError else 0
  | .nothing => causeCode .permission

/-- R448, R451, R454 -/
def execRemoteRequest (r : RemoteReq) (s : State) : Out :=
  let s := s.bump
  let atomic : Bool := r.atomic.isSome || r.isCas
  let n := if r.write then 128 - r.pa % 128 else r.bytes
  let refuse (cause : Nat) : Out := .next (s.respond r (if r.write then 5 else if atomic then 6 else 4) cause 0 [])
  let first := if r.write then r.pa + (maskPlaces r.mask).headD 0 else r.pa
  let span := if r.write then ((maskPlaces r.mask).getLastD 0 + 1) - (maskPlaces r.mask).headD 0 else n
  if !s.grantedTo r.tag first span (!r.write) (r.write || atomic) || 128 < r.pa % 128 + n then refuse (causeCode .permission)
  else if s.remoteBar first span r.write atomic ≠ 0 then refuse (s.remoteBar first span r.write atomic)
  else
    let s := s.watch (s.remoteSeen r)
    if r.write then .next (s.remoteWrite r)
    else if r.isCas then .next (s.remoteAtomic r 13)
    else
      match r.atomic with
      | some op => .next (s.remoteAtomic r op.toNat)
      | none => .next (s.remoteLoad r)

/-! ### Responses and losses (R234, R470, R471) -/

/-- R470: a request has its response. -/
def State.closeRemote (s : State) (txn : Nat) : State := { s with remote := unlist s.remote txn }

/-- R234, R246: a write to another device is at its home; of the line as it was before, nothing in the die answers its core. -/
def execWriteAcknowledgement (txn : Nat) (s : State) : Out :=
  match look s.remote txn with
  | some r =>
    if r.type = 2 then .next ((s.bump.closeRemote txn).dropFarLine r.agent.die r.line) else .next s.bump
  | none => .next s.bump

/-- R454, R471: the event with which an engine operation learns that it has lost a line, or that its access has been refused. -/
def State.lostEvent (s : State) (key cause : Nat) (va : DWord) : Option Instr :=
  match look s.copies key with
  | some c => some (if c.kind = .cpmm then .cpmmComplete key (.lost va) else .copyComplete key (.lost va))
  | none =>
    if (look s.colls key).isSome then
      some (.collectiveComplete key (if cause = causeCode .permission then .fault va cause 0 else .lost va) [])
    else if (look s.hists key).isSome then some (.forecastCapture key (.lost va))
    else if (look s.checks key).isSome then some (.forecastPrediction key (.lost va))
    else if (look s.tasks key).isSome then some (.taskComplete key (.lost va))
    else none

/-- R367, R471: a shipped request is lost. -/
def shipLost (q : ShipReq) (now : Nat) : ShipRes :=
  { status := 3, ret := q.ret, thread := q.thread, core := q.core, srcDev := q.srcDev, seq := q.seq, res := [0, 0, 0, 0],
    key := q.key, warp := q.warp, home := 0, mark := now }

/-- R471, R475: a store that is lost: an event with SUB 8 to the host and to the storing contexts. -/
def State.storeLost (s : State) (r : RemoteOp) : State :=
  let addr := fields [(0, linePa r.line), (40, r.dev)]
  r.storers.foldl (fun s c => s.linkContext c 8 0 0 r.dev (BitVec.ofNat 64 addr)) (s.linkHost 8 0 0 r.dev 1 0)

/-- R454, R485: a `red` that another device refuses traps at its instruction, as a load does that fails late. -/
def State.refuseRed (s : State) (r : RemoteOp) (a : AtomicOp) : State :=
  match r.who with
  | none => s
  | some w =>
    { s with nextKey := s.nextKey + 1,
             loads := place s.loads s.nextKey { who := w, pc := a.pc, reg := 0, w := .b32, mask := 1#32 <<< a.thread, left := 0,
                                                eaddr := [(a.thread, a.va)], failed := some (a.thread, causeCode .permission) } }

/-- R470, R471: a request fails, with the cause that its instruction raises. -/
def State.failRemote (s : State) (txn cause : Nat) : State :=
  match look s.remote txn with
  | none => s
  | some r =>
    let s := s.closeRemote txn
    match r.read, r.copy, r.ship, r.atomic with
    | some k, _, _, _ => match look s.reads k with | some u => s.failRead k u cause | none => s
    | _, some key, _, _ =>
      match s.lostEvent key cause r.va with
      | some i => { s with inputs := s.inputs ++ [i] }
      | none => s
    | _, _, some q, _ => (s.popSend q).deliverResult (shipLost q s.nextKey)
    | _, _, _, some a =>
      if a.load.isSome then s.failAtomic a cause
      else if cause = causeCode .permission then s.refuseRed r a
      else s.storeLost r
    | _, _, _, _ => s.storeLost r

/-- R470, R471 -/
def execLossNotice (txn : Nat) (s : State) : Out := .next (s.bump.failRemote txn (causeCode .dataError))

/-- R470: only time during which the request's job is RUN counts. -/
def execRequestTimeout (txn : Nat) (s : State) : Out :=
  match look s.remote txn with
  | some r => if s.mayRun r.ctx then .next (s.bump.failRemote txn (causeCode .dataError)) else .next s.bump
  | none => .next s.bump

end Sys2Proof.Machine
end

