-- ==== Sys2Proof/Machine/Router.lean ====
section
/-! DEFINITION. The router of the hub die: flits that agents inject, that go on and that reach their agents
(R436, R438, R440, R443, R461 to R464). -/

namespace Sys2Proof.Machine

/-! ### Jobs at the router (R438, R439) -/

/-- R439 step 3: does the router move flits of a tag. -/
def State.tagMoves (s : State) (tag : Nat) : Bool :=
  match s.jobOf tag with
  | some (_, j) => j.st = .run || (j.st = .stopping && !j.closed)
  | none => true

/-- R438: flits of a tag in the router. -/
def State.heldOf (s : State) (tag : Nat) : Nat := (s.hub.buffers.filter fun h => h.flit.tag.toNat = tag).length

/-- R438, R439: does the job of a tag have its whole share here, so that its next flit waits upstream. -/
def State.shareFull (s : State) (tag : Nat) : Bool :=
  match s.jobOf tag with
  | some (_, j) => if j.st = .stopping && j.closed then j.share ≤ j.swept else (j.st = .run || j.st = .stopping) && j.share ≤ s.heldOf tag
  | none => false

/-- R439: do agents inject flits of a tag. -/
def State.tagInjects (s : State) (tag : Nat) : Bool :=
  match s.jobOf tag with
  | some (_, j) =>
    (j.st = .run || (j.st = .stopping && !j.closed)) &&
    s.heldOf tag < j.share
  | none => true

/-! ### Arrival in a buffer (R462, R463) -/

/-- R462: a flit that has crossed a global link goes on in the next stage, up to 2. -/
def stageVc (from_ : Nat) (vc : BitVec 4) : BitVec 4 := if 32 ≤ from_ && from_ < 64 && vc.toNat < 8 then vc + 4 else vc

/-- R463: which of the packets that pass a port on a virtual channel follows its head. -/
def followKey (f : Flit) : Nat := f.vc.toNat + 16 * f.tag.toNat

/-- R438: a job flit leaves a place of an input port, which may be granted again. -/
def State.owe (s : State) (from_ : Nat) (f : Flit) : State :=
  if 64 ≤ from_ || (s.jobOf f.tag.toNat).isNone then s
  else
    let x := s.port from_
    s.setPort from_ { x with owed := place x.owed (followKey f) (readOr 0 x.owed (followKey f) + 1) }

/-- R463, R470: a flit enters the router's buffers; a head chooses the output port, its packet follows. The rest of a packet that
was partly sent on a port that has failed (0x7E) is discarded. -/
def State.buffer (s : State) (from_ : Nat) (f : Flit) : State :=
  let x := s.port from_
  let head : Bool := f.pos = 0 || f.pos = 3
  let out := if head then (s.routeTo f.src.toNat f.dst.toNat).getD 0x7F else readOr 0x7F x.follow (followKey f)
  let follow := if f.pos = 0 then place x.follow (followKey f) out else if f.pos = 2 then unlist x.follow (followKey f) else x.follow
  let s := s.setPort from_ { x with follow := follow }
  if out = 0x7E then s.owe from_ f
  else { s with hub := { s.hub with buffers := s.hub.buffers ++ [{ flit := f, from_ := from_, out := out }] } }

/-! ### Packets that reach this device (R461) -/

/-- Bytes of body flits. -/
def bodyBytes (fs : List Flit) : List Byte := fs.flatMap fun f => le 32 f.payload.toNat

/-- R461: the line that body flits fill, in the quarters of a mask. -/
def lineOfBody (mask : BitVec 128) (fs : List Flit) : BitVec 1024 :=
  BitVec.ofNat 1024 (((quartersOf mask).zip fs).map fun (q, f) => f.payload.toNat * 2 ^ (256 * q)).sum

/-- R461: a request as its head flit holds it, with a write's body. -/
def requestOf (f : Flit) (body : List Flit) : RemoteReq :=
  let h := f.payload.toNat
  let at_ (lo n : Nat) : Nat := h / 2 ^ lo % 2 ^ n
  let ty := f.type.toNat
  let mask := BitVec.ofNat 128 (at_ 128 128)
  { src := f.src.toNat, tag := f.tag.toNat, txn := at_ 64 32, pa := at_ 0 40,
    bytes := if ty = 2 then 0 else if 5 ≤ at_ 46 3 then 128 else 2 ^ at_ 46 3, write := decide (ty = 2),
    mask := if ty = 2 then mask else 0, data := if ty = 2 then leBytes 128 (lineOfBody mask body).toNat else [],
    atomic := if ty = 3 && at_ 49 4 ≠ 13 then some (BitVec.ofNat 4 (at_ 49 4)) else none, isCas := decide (ty = 3 && at_ 49 4 = 13),
    operand := BitVec.ofNat 64 (at_ 128 64), compare := BitVec.ofNat 64 (at_ 192 64),
    seq := BitVec.ofNat 32 (at_ 96 32), ord := Ord.ofCode (BitVec.ofNat 2 (at_ 44 2)), sc := Scope.ofCode (BitVec.ofNat 3 (at_ 40 2)),
    rt := Rt.ofCode (BitVec.ofNat 2 (at_ 42 2)) }

/-- R220, R235, R256: bytes of another device have come for an operation; an `si` line goes into the die's RDC. -/
def State.fetchedLine (s : State) (key : Nat) (r : RemoteOp) (data : BitVec 1024) : State :=
  let got := (maskPlaces r.mask).foldl (fun t i => place t (farKey r.dev (linePa r.line + i)) (dataByte data i)) (readOr [] s.fetched key)
  let s := { s with fetched := place s.fetched key got }
  if r.rt = .si && r.mask = BitVec.allOnes 128 && !r.stale then
    s.fillRdc r.agent.die r.line { valid := r.mask, data := data, si := true, uo := false, asid := (s.ctx r.ctx).asid }
  else s

/-- R461: read data reach the access or the operation that has asked. -/
def State.answerRead (s : State) (txn cause : Nat) (body : List Flit) : State :=
  match look s.remote txn with
  | none => s
  | some r =>
    if cause ≠ 0 || r.type ≠ 1 then s.failRemote txn cause
    else
      let data := lineOfBody r.mask body
      let s := s.closeRemote txn
      match r.read, r.copy with
      | some k, _ => match look s.reads k with | some u => s.serve k u data (BitVec.allOnes 128) true | none => s
      | _, some key => s.fetchedLine key r data
      | _, _ => s

/-- R461: the result of an atomic reaches its load. -/
def State.answerAtomic (s : State) (txn cause value : Nat) : State :=
  match look s.remote txn with
  | none => s
  | some r =>
    if cause = causeCode .dataError && (match r.atomic with | some a => a.load.isNone | none => false) then
      (s.closeRemote txn).fatalError r.ctx (min 3 r.agent.die) { site := r.site, seq := r.seq }
    else if cause ≠ 0 then s.failRemote txn cause
    else
      match r.atomic with
      | some a => ((s.closeRemote txn).dropFarLine r.agent.die r.line).landAtomic a (leBytes a.bytes value)
      | none => s.closeRemote txn

/-- R345, R461: what a barrier message brings. -/
def barrierEvent (f : Flit) : Option Instr :=
  let h := f.payload.toNat
  match sortOf f with
  | 1 => some (.jobBarrierArrival (h % 64) (h / 2 ^ 6 % 64) (h / 2 ^ 12 % 2 ^ 24) f.src.toNat)
  | 2 => some (.jobBarrierRelease (h % 64) (h / 2 ^ 6 % 64) (h / 2 ^ 12 % 2 ^ 24) (h / 2 ^ 36 % 4))
  | _ => none

/-- R461: a packet that has come whole. -/
def State.takePacket (s : State) (fs : List Flit) : State :=
  match fs with
  | [] => s
  | f :: body =>
    let cause := f.payload.toNat % 256
    let event (i : Instr) : State := { s with inputs := s.inputs ++ [i] }
    match f.type.toNat with
    | 1 | 2 | 3 => event (.remoteRequest (requestOf f body))
    | 4 => s.answerRead (txnOf f) cause body
    | 5 => if cause = 0 then event (.writeAcknowledgement (txnOf f)) else s.failRemote (txnOf f) cause
    | 6 => s.answerAtomic (txnOf f) cause (f.payload.toNat / 2 ^ 128 % 2 ^ 64)
    | 7 => event (.shipRequest (shipOfRecord (bodyBytes body) f.tag.toNat))
    | 8 => event (.shipResult (resultOfRecord (bodyBytes body)))
    | 9 => s.takeColl (collOf f (bodyBytes body))
    | 10 => match barrierEvent f with | some i => event i | none => s
    | 12 => s.noteLoss f
    | _ => s

/-- R222, R437, R442, R444: a flit reaches its agent; a packet counts once its tail has come. One that a new head overtakes has lost its
tail and is discarded, as flits are whose head has been. -/
def State.eject (s : State) (f : Flit) : State :=
  let same (p : Partial) : Bool := p.src = f.src.toNat && p.dst = f.dst.toNat && p.tag = f.tag.toNat && p.cls = f.vc.toNat % 4
  let put (s : State) (ps : List Partial) : State := { s with hub := { s.hub with partials := ps } }
  match f.pos.toNat, s.hub.partials.find? same with
  | 3, _ => s.takePacket [f]
  | 0, _ =>
    let s := s.dropPartials same
    put s (s.hub.partials ++ [{ src := f.src.toNat, dst := f.dst.toNat, tag := f.tag.toNat, cls := f.vc.toNat % 4, flits := [f] }])
  | 2, some p => (put s (s.hub.partials.filter fun x => !same x)).takePacket (p.flits ++ [f])
  | _, some p => put s (s.hub.partials.map fun x => if same x then { p with flits := p.flits ++ [f] } else x)
  | _, none => s

/-! ### What the router does next -/

/-- R462, R463: the virtual channel on which a flit leaves: a detour's second hop uses an escape channel, from which a global hop
returns to the stage of a packet that leaves its own group, or one that it only crosses. DEDUCED (log 149). -/
def State.leaveVc (s : State) (h : Held) : BitVec 4 :=
  if h.from_ < 31 && h.out < 31 then 12 + h.flit.vc % 4
  else if 12 ≤ h.flit.vc.toNat && h.flit.type ≠ 11 then h.flit.vc % 4 + (if h.flit.src.toNat / 32 = s.dev / 32 then 0 else 4)
  else stageVc h.from_ h.flit.vc

/-- R464: may a port send something new. -/
def Port.sends (x : Port) : Bool := (x.st = 2 || x.st = 3) && x.unacked.length < 2048

/-- R438: places of a flit's job and virtual channel that the peer has granted; before it has granted any, their number is free. -/
def Port.credit (x : Port) (f : Flit) : Nat := (look x.credits (followKey f)).getD (Config.linkCredits f.tag.toNat f.vc.toNat)

/-- R438: the credits that a flit of a tag takes along. DESIGN CHOICE (log 143): they are of the flit's own tag. -/
def Port.owes (x : Port) (tag : Nat) : Option (Nat × Nat) := (x.owed.find? fun (k, n) => k / 16 = tag && n ≠ 0).map fun (k, n) => (k, min 63 n)

/-- R438, R461: a flit of a tag leaves with credits for its reverse direction. -/
def Port.withCredits (x : Port) (f : Flit) : Port × Flit :=
  match x.owes f.tag.toNat with
  | some (k, n) => ({ x with owed := place x.owed k (readOr 0 x.owed k - n) }, { f with cvc := BitVec.ofNat 4 k, ccnt := BitVec.ofNat 6 n })
  | none => (x, f)

/-- R438, R464: a flit is sent on a port with the next SEQ. -/
def State.transmit (s : State) (h : Held) : State :=
  let f := { h.flit with vc := s.leaveVc h, seq := BitVec.ofNat 12 (s.port h.out).nextSeq, cvc := 0, ccnt := 0 }
  let (x, f) := (s.port h.out).withCredits f
  let x := if (s.jobOf f.tag.toNat).isNone then x else { x with credits := place x.credits (followKey f) (x.credit f - 1) }
  s.setPort h.out { x with nextSeq := (x.nextSeq + 1) % 4096, unacked := x.unacked ++ [f] }

/-- R438, R464: may a port take a flit: one of a job needs a credit of the peer. -/
def State.portTakes (s : State) (h : Held) : Bool :=
  h.out < 64 && (s.port h.out).sends && ((s.jobOf h.flit.tag.toNat).isNone || 0 < (s.port h.out).credit { h.flit with vc := s.leaveVc h })

/-- May a held flit go on. -/
def State.passes (s : State) (h : Held) : Bool := s.tagMoves h.flit.tag.toNat && (h.out = 65 || s.portTakes h)

/-- A held flit goes on: to its agent, or out of its port. -/
def State.passOn (s : State) (h : Held) : State := if h.out = 65 then s.eject h.flit else s.transmit h

/-- R463: a packet that had no way takes one that has come up. -/
def State.reroute (s : State) : State :=
  { s with hub := { s.hub with buffers := s.hub.buffers.map fun h =>
      if h.out = 0x7F then { h with out := (s.routeTo h.flit.src.toNat h.flit.dst.toNat).getD 0x7F } else h } }

/-- R443 step 4: the next record of a job that is being put back. -/
def State.replayNext (s : State) : Option State :=
  s.hub.replays.findSome? fun (j, hs) =>
    match hs with
    | [] => none
    | h :: rest =>
      let h := if h.out ≠ 65 && !(s.port h.out).live then { h with out := (s.routeTo h.flit.src.toNat h.flit.dst.toNat).getD 0x7F } else h
      if h.out = 65 || s.portTakes h then
        some ({ s with hub := { s.hub with replays := place s.hub.replays j rest } }.passOn h)
      else none

/-- R439: a marker travels behind every earlier flit of its port and virtual channel. -/
def State.behind (s : State) (h : Held) : Bool :=
  h.flit.type = 11 && (s.hub.buffers.takeWhile (· ≠ h)).any fun b => b.out = h.out && s.leaveVc b = s.leaveVc h

/-- The first held flit that may go on. -/
def State.passNext (s : State) : Option State :=
  (s.hub.buffers.find? fun h => s.passes h && !s.behind h).map fun h =>
    ({ s with hub := { s.hub with buffers := s.hub.buffers.erase h } }.passOn h).owe h.from_ h.flit

/-- R438, R461: credits that no other flit takes along leave in a link-control flit. -/
def State.creditNext (s : State) : Option State :=
  s.hub.ports.findSome? fun (p, x) =>
    if !(x.st = 2 || x.st = 3) then none
    else (x.owed.find? fun (k, n) => n ≠ 0 && s.tagMoves (k / 16)).map fun (k, _) =>
      let (y, f) := x.withCredits (newFlit 0 0 3 s.dev ((x.peer.map Prod.fst).getD 0) (k / 16) 0)
      s.setPort p { y with control := some { f with av := true, aseq := BitVec.ofNat 12 x.expect } }

/-- R438: the first waiting flit that may be injected. -/
def State.injectNext (s : State) : Option State :=
  (s.hub.waiting.find? fun f => s.tagInjects f.tag.toNat).map fun f =>
    { s with hub := { s.hub with waiting := s.hub.waiting.erase f } }.buffer 64 f

/-- R241, R436, R461: a request that has not left yet becomes a packet; a write of an agent follows the earlier ones of its
line. -/
def State.handOver (s : State) : Option State :=
  (s.remote.find? fun (_, r) => !r.sent && !s.hub.unreachable.contains r.dev &&
      !(r.type = 2 && r.copy.isNone && s.packetAhead r.agent r.line r.born) && !(r.type = 2 && r.so && s.soAhead r.who r.born)).map fun (txn, r) =>
    ({ s with remote := place s.remote txn { r with sent := true } }.count r.agent.die r.ctx 0x07 1).inject
      (requestFlits s.dev (s.ctx r.ctx).job txn r)

/-- One step of the router, where it has something to do. -/
def State.routerStep (s : State) : Option State :=
  (s.replayNext <|> s.reroute.passNext <|> s.injectNext <|> s.handOver <|> s.creditNext).map State.bump

end Sys2Proof.Machine
end

