-- ==== Sys2Proof/Machine/Gang.lean ====
section
/-! DEFINITION. Gang switch: a job is taken off every member device and put back (R345, R436 to R447). -/

namespace Sys2Proof.Machine

/-! ### Entries and members -/

/-- R439: the members of an entry's group, where the group is set and lists this device. -/
def State.jobMembers (s : State) (x : Job) : Option (List Nat) := (s.groupHere x.grp).map s.members

/-- A message of a switch to a member; a device hears its own at once. -/
def State.tellMember (s : State) (d : Nat) (m : Message) (own : Instr) : State :=
  if d = s.dev then { s with inputs := s.inputs ++ [own] } else s.message d m

/-- R445, R447: a switch has ended at its conductor. -/
def State.endSwitch (s : State) (j : Nat) (status : Word) : State :=
  let x := s.job j
  let serial := BitVec.ofNat 32 x.serial
  let results := match x.issuer with
    | some w => (x.results.filter fun r => r.1 ≠ w) ++ [(w, status, serial)]
    | none => x.results
  let s := s.setJob j { x with cond := false, conducts := false, went := false, mailbox := false, issuer := none, results := results }
  if x.mailbox then { s with hub := { s.hub with mbres := (status, serial), busy := false } } else s

/-- R447: has the switch that a split waits for ended. -/
def State.gangDone (s : State) (tag : Nat) (w : Who) : Bool :=
  match s.jobOf tag with
  | some (_, x) => x.results.any fun r => r.1 = w
  | none => true

/-- R447: what keeps a switch from starting: 1 or 2. Where no entry holds the tag, there is no SERIAL and D+1 is free (log 127). -/
def State.switchBar (s : State) (tag ownJob : Nat) (off : Bool) : Option (Nat × Word × Word) :=
  match s.jobOf tag with
  | none => some (0, 1, Config.freeWord s.oracle)
  | some (j, x) =>
    let serial := BitVec.ofNat 32 x.serial
    if (off && ownJob = tag && tag ≠ 0) || (s.jobMembers x).isNone then some (j, 1, serial)
    else if off && x.st ≠ .run then some (j, 2, serial)
    else if !off && x.st ≠ .off then some (j, 2, serial)
    else none

/-- R426, R447: the serial of an entry whose job has ended while a switch of it was waited for. -/
def State.lastSerial (s : State) (tag : Nat) : Word := BitVec.ofNat 32 (((s.hub.jobs.find? fun (_, x) => x.tag = tag).map fun x => x.2.serial).getD 0)

/-- R418: the service event of a gang command. DESIGN CHOICE (log 125): it goes into the ring of the issuer's die, of die 0 for the host,
with the serial. -/
def State.gangEvent (s : State) (tag serial : Nat) (issuer : Option Who) : State :=
  s.serviceEvent (match issuer with | some w => (s.agentOf w).die | none => 0)
    { kind := 4, ctx := (s.jobContext tag).getD 0, arg := BitVec.ofNat 32 serial }

/-- R439 step 1, R443 step 1: this device conducts a switch. -/
def State.startSwitch (s : State) (tag : Nat) (off : Bool) (issuer : Option Who) (host : Bool) : State :=
  match s.jobOf tag with
  | none => s
  | some (j, x) =>
    let serial := (x.serial + 1) % 2 ^ 32
    let x := { x with serial := serial, cond := true, conducts := true, conductor := s.dev, heard := [], failcnt := 0, firstfail := 0, issuer := issuer,
                      mailbox := host, went := false, restored := false, going := false }
    let x := if off then { x with st := .stopping, closed := false, swept := 0, marks := [], sweptHere := false } else { x with st := .restoring, latedrop := 0 }
    let s := (s.setJob j x).gangEvent tag serial issuer
    ((s.jobMembers x).getD []).foldl (fun s d =>
      if off then s.tellMember d (.stop tag serial) (.stopMessage tag serial s.dev)
      else s.tellMember d (.restore tag serial) (.restoreMessage tag serial s.dev)) s

/-- R447: `gsave` and `grest`. -/
def Env.gang (e : Env) (i : Instr) (p : Pre) (d a : RegNo) (off : Bool) (s : State) : State :=
  let m := e.exm p
  let tag := (e.one m a).toNat % 65536
  let put (r : Word × Word) (s : State) : State :=
    e.retire i (if d = 0 then s else (Mask.threads m).foldl (fun s t => e.setList d.toNat t [r.1, r.2] s) s)
  if m = 0 then e.retire i s
  else if e.sp.again && e.sp.park.map Park.cond = some (.gang tag) then
    match s.jobOf tag with
    | some (j, x) =>
      match x.results.find? fun r => r.1 = e.who with
      | some r => put r.2 (s.setJob j { x with results := x.results.filter fun q => q.1 ≠ e.who })
      | none => e.hold 15 (.gang tag) s
    | none => put (3, s.lastSerial tag) s
  else
    match s.switchBar tag e.ctx.job off with
    | some (_, st, ser) => put (st, ser) (if st = 1 then s.spend 1 else s)
    | none => e.hold 15 (.gang tag) (s.startSwitch tag off (some e.who) false)

/-- R447 -/
def execGsave (p : Pre) (d a : RegNo) (s : State) : Out := act (.gsave p d a) s fun e s => e.gang (.gsave p d a) p d a true s
/-- R447 -/
def execGrest (p : Pre) (d a : RegNo) (s : State) : Out := act (.grest p d a) s fun e s => e.gang (.grest p d a) p d a false s

/-- R447, R449: the host's commands. -/
def hostSwitch (off : Bool) (s : State) : Out :=
  let tag := s.hub.mbarg % 65536
  if !s.hub.busy || s.hub.mbcmd ≠ (if off then 1 else 2) || (s.jobOf tag).any (fun x => x.2.mailbox) then .next s.bump
  else
    match s.switchBar tag 0 off with
    | some (_, st, ser) => .next { s.bump.spend 1 with hub := { s.hub with mbres := (st, ser), busy := false } }
    | none => .next (s.bump.startSwitch tag off none true)

/-- R449 -/
def execGangSave (s : State) : Out := hostSwitch true s
/-- R449 -/
def execGangRestore (s : State) : Out := hostSwitch false s

/-! ### Switching off (R439) -/

/-- R190, R439 step 2: copies and tasks of the job's contexts start again when it returns. DESIGN CHOICE (log 142): a collective
keeps in State what it has moved, and goes on from there (R295); no rule lays its partial state out in the save area. -/
def State.abandon (s : State) (c : Nat) : State :=
  let s := s.restartOps fun x _ => x = c
  { s with
    remote := keep s.remote fun _ r => !(r.copy.any (fun k => (look s.colls k).isNone) && r.ctx = c),
    fetched := keep s.fetched fun k _ => !((look s.hists k).any (fun x => x.ctx = c) || (look s.checks k).any fun x => x.ctx = c) }

/-- R439 step 2: the contexts of a job are pre-empted. -/
def State.quiesce (s : State) (tag : Nat) : State :=
  let cs := (s.ctxs.filter fun (_, x) => x.valid && x.job = tag).map Prod.fst
  let ts := (s.teams.filter fun (_, t) => cs.contains t.ctx && t.core.isSome).map Prod.fst
  cs.foldl State.abandon (ts.foldl State.swapOut s)

/-- R370, R439: does a section of the job run here. -/
def State.jobSections (s : State) (tag : Nat) : Bool :=
  s.lcs.any fun (_, l) => match l.t0.serving with | some r => r.jobTag = tag | none => false

/-- R439: every local agent of the job has quiesced, and has injected what it sends. -/
def State.quiet (s : State) (tag : Nat) : Bool :=
  !s.jobSections tag && s.results.all (fun r => r.tag ≠ tag) && s.hub.waiting.all (fun f => f.tag.toNat ≠ tag) &&
  !s.teams.any (fun (_, t) => t.core.isSome && (s.ctx t.ctx).job = tag) &&
  s.remote.all fun (_, r) => r.sent || (s.ctx r.ctx).job ≠ tag

/-- R439 step 2: a stop or a marker finds the entry RUN. -/
def State.stopJob (s : State) (j serial conductor : Nat) : State :=
  let x := s.job j
  let x := { x with st := .stopping, serial := serial, conductor := conductor, closed := false, swept := 0, marks := [], sweptHere := false }
  (s.setJob j x).quiesce x.tag

/-- R441: one record of the save area or the late area. -/
def recordBytes (h : Held) (cls serial : Nat) : List Byte :=
  let out := if h.out = 65 then 0x7F else h.out
  flitBytes (stripLink h.flit) ++ le 4 (fields [(0, h.from_), (7, h.flit.vc.toNat), (11, out)]) ++ le 4 cls ++ le 4 serial ++ le 4 0

/-- R441: a flit becomes the next record of the save area. -/
def State.saveFlit (s : State) (j : Nat) (h : Held) (cls : Nat) : State :=
  let x := s.job j
  ((s.homeWrite (x.save + 64 * x.swept) (recordBytes h cls x.serial)).setJob j { x with swept := x.swept + 1 }).owe h.from_ h.flit

/-- R440: what has come of packets whose tail is still to come, as flits of input port 65. DEDUCED (log 143): they are recorded last, as far
as SHARE leaves room, since no flit that arrives before its marker may be refused; others stay. -/
def State.savePartials (s : State) (j : Nat) : State :=
  (s.hub.partials.filter fun p => p.tag = (s.job j).tag).foldl (fun s p =>
    if (s.job j).share < (s.job j).swept + p.flits.length then s
    else p.flits.foldl (fun s f => s.saveFlit j { flit := f, from_ := 65, out := 65 } 0)
      { s with hub := { s.hub with partials := s.hub.partials.erase p } }) s

/-- R439 step 5: flits of a tag in the buffers, by input port, virtual channel and buffer order. -/
def State.bufferedOf (s : State) (tag : Nat) : List Held :=
  ((s.hub.buffers.filter fun h => h.flit.tag.toNat = tag).zipIdx.mergeSort fun a b =>
    a.1.from_ < b.1.from_ || (a.1.from_ = b.1.from_ &&
      (a.1.flit.vc.toNat < b.1.flit.vc.toNat || (a.1.flit.vc = b.1.flit.vc && a.2 ≤ b.2)))).map Prod.fst

/-- R440: operational ports whose peer is a member. -/
def State.memberPorts (s : State) (ms : List Nat) : List (Nat × Nat × Nat) :=
  s.hub.ports.filterMap fun (p, x) =>
    match x.peer with
    | some (d, q) => if (x.st = 2 || x.st = 3) && ms.contains d then some (p, d, q) else none
    | none => none

/-- R439 step 6: has every input virtual channel delivered its marker. -/
def State.allMarked (s : State) (x : Job) : Bool :=
  (s.memberPorts ((s.jobMembers x).getD [])).all fun (p, _, _) => (List.range 16).all fun v => x.marks.contains (p, v)

/-- R439 step 6: this device is swept, and reports it. -/
def State.trySwept (s : State) (j : Nat) : State :=
  let x := s.job j
  if x.st ≠ .stopping || !x.closed || x.sweptHere || 8192 ≤ x.conductor || !s.allMarked x then s
  else
    let s := s.savePartials j
    let x := s.job j
    (s.pushAll.setJob j { x with st := .off, saved := x.swept, sweptHere := true, ranks := (s.jobMembers x).getD [] }).tellMember x.conductor (.swept x.tag x.serial)
      (.swept x.tag x.serial s.dev)

/-- R439 step 4: a sweep marker, which holds tag and serial (log 142) and stands behind every earlier flit of its virtual channel. -/
def State.markerAt (s : State) (p d v tag serial : Nat) : State :=
  { s with hub := { s.hub with buffers := s.hub.buffers ++
      [{ flit := newFlit (fields [(0, tag), (16, serial), (53, 5)]) 11 3 s.dev d 0 v, from_ := 64, out := p }] } }

/-- R439 steps 3 to 5: the router closes for the job, sweeps its buffers and sends markers. -/
def State.closeJob (s : State) (j : Nat) : State :=
  let x := s.job j
  let hs := s.bufferedOf x.tag
  let s := { s with hub := { s.hub with buffers := s.hub.buffers.filter fun h => h.flit.tag.toNat ≠ x.tag } }
  let s := hs.foldl (fun s h => s.saveFlit j h 0) (s.setJob j { x with closed := true })
  let s := (s.memberPorts ((s.jobMembers x).getD [])).foldl (fun s (p, d, _) =>
    (List.range 16).foldl (fun s v => s.markerAt p d v x.tag x.serial) s) s
  s.trySwept j

/-- R439 -/
def execStopMessage (tag serial conductor : Nat) (s : State) : Out :=
  match s.jobOf tag with
  | none => .next s.bump
  | some (j, x) =>
    if x.st = .run then .next (s.bump.stopJob j serial conductor)
    else if x.st = .stopping && x.serial = serial then
      .next (((s.bump.setJob j { x with conductor := conductor }).quiesce tag).trySwept j)
    else .next s.bump

/-- R439 steps 3 and 6: the router closes; where it has, and no marker is awaited any more, the sweep ends. -/
def execGangClose (tag : Nat) (s : State) : Out :=
  match s.jobOf tag with
  | none => .next s.bump
  | some (j, x) =>
    if x.st ≠ .stopping then .next s.bump
    else if x.closed then .next (s.bump.trySwept j)
    else
      let s := s.bump.quiesce tag
      if s.quiet tag then .next (s.closeJob j) else .next s

/-- R439, R440: a marker; a device outside the job discards it. -/
def State.takeMarker (s : State) (port vc tag serial : Nat) : State :=
  match s.jobOf tag with
  | none => s
  | some (j, x) =>
    if (s.jobMembers x).isNone then s
    else
      let s := if x.st = .run then s.stopJob j serial 8192 else s
      let x := s.job j
      if x.st = .stopping && x.serial = serial then (s.setJob j { x with marks := x.marks ++ [(port, vc)] }).trySwept j else s

/-- R439, R440 -/
def execSweepMarker (port vc tag serial : Nat) (s : State) : Out := .next (s.bump.takeMarker port vc tag serial)

/-- R439: the conductor has heard of every member. -/
def execSwept (tag serial device : Nat) (s : State) : Out :=
  match s.jobOf tag with
  | none => .next s.bump
  | some (j, x) =>
    if !x.conducts || x.serial ≠ serial || (x.st ≠ .stopping && x.st ≠ .off) then .next s.bump
    else
      let x := { x with heard := if x.heard.contains device then x.heard else x.heard ++ [device] }
      let s := s.bump.setJob j x
      if ((s.jobMembers x).getD []).all x.heard.contains then .next (s.endSwitch j 0) else .next s

/-- R445: 1 ms after the stop message, some members are silent. -/
def execGangSwitchTimeout (tag : Nat) (s : State) : Out :=
  match s.jobOf tag with
  | none => .next s.bump
  | some (j, x) =>
    if !x.conducts || (x.st ≠ .stopping && x.st ≠ .off) then .next s.bump
    else
      let silent := ((s.jobMembers x).getD []).filter fun d => !x.heard.contains d
      let x := { x with failcnt := silent.length, firstfail := silent.foldl min 8191 }
      if silent.isEmpty then .next s.bump else .next ((s.bump.setJob j x).endSwitch j 3)

/-! ### Late flits (R442) -/

/-- R442: is a flit that has come in on a virtual channel late. -/
def State.isLate (s : State) (port vc tag : Nat) : Bool :=
  match s.jobOf tag with
  | none => false
  | some (_, x) =>
    x.st = .off || x.st = .restoring ||
    (x.st = .stopping && (x.marks.contains (port, vc) ||
      (x.closed && !((s.memberPorts ((s.jobMembers x).getD [])).any fun m => m.1 = port))))

/-- R445: the device that the group entry names now at the rank which a device had when the job went off. A replacement itself holds no
earlier ranks: there, a device that is no member any more is the one that it replaces. -/
def State.successor (s : State) (x : Job) (d : Nat) : Nat :=
  let ms := (s.jobMembers x).getD []
  match (x.ranks.zip ms).find? fun r => r.1 = d with
  | some r => r.2
  | none => if x.ranks.isEmpty && !ms.isEmpty && !ms.contains d then s.dev else d

/-- R445: a flit for a device that has been replaced goes to its replacement. -/
def State.readdress (s : State) (x : Job) (h : Held) : Held :=
  let d := s.successor x h.flit.dst.toNat
  if d = h.flit.dst.toNat then h else { h with flit := { h.flit with dst := BitVec.ofNat 13 d }, out := 0x7F }

/-- R442: a late record, or a dropped flit with its event. -/
def State.keepLate (s : State) (port vc : Nat) (f : Flit) : State :=
  let s := s.owe port f
  match s.jobOf f.tag.toNat with
  | none => s
  | some (j, x) =>
    let h : Held := { flit := f, from_ := port, out := (s.routeTo f.src.toNat f.dst.toNat).getD 0x7F }
    if x.latecnt < x.latesz then
      let s := s.homeWrite (x.late + 64 * (x.latecnt % x.latesz)) (recordBytes h 2 x.serial)
      let s := s.setJob j { x with latecnt := x.latecnt + 1 }
      if x.going then { s with hub := { s.hub with replays := place s.hub.replays j (readOr [] s.hub.replays j ++ [s.readdress x h]) } } else s
    else
      let s := s.setJob j { x with latedrop := x.latedrop + 1, dropped := x.dropped ++ [f] }
      match s.jobContext f.tag.toNat with
      | some c => s.eventRecord c 0 7 0 0 0 0 {}
          (fields [(0, f.src.toNat), (13, f.dst.toNat), (26, vc), (32, f.seq.toNat), (44, f.tag.toNat), (64, x.serial)])
      | none => s

/-- R442 -/
def execLateFlit (port vc : Nat) (flit : Flit) (s : State) : Out :=
  if s.isLate port vc flit.tag.toNat then .next (s.bump.keepLate port vc flit) else .next s.bump

/-! ### Bringing back (R443) -/

/-- R443 step 1, R445 -/
def execRestoreMessage (tag serial conductor : Nat) (s : State) : Out :=
  let answer (s : State) (good : Bool) : State :=
    if good then s.tellMember conductor (.restored tag serial) (.restored tag serial s.dev)
    else s.tellMember conductor (.stay tag serial) (.stay tag serial)
  match s.jobOf tag with
  | none => .next (answer s.bump false)
  | some (j, x) =>
    if x.st = .off || (x.st = .restoring && x.serial = serial) then
      .next (answer (s.bump.setJob j { x with st := .restoring, serial := serial, conductor := conductor, restored := true, latedrop := 0 }) true)
    else .next (answer s.bump false)

/-- R443: the conductor's word to every member. -/
def State.tellAll (s : State) (x : Job) (m : Message) (own : Instr) : State :=
  ((s.jobMembers x).getD []).foldl (fun s d => s.tellMember d m own) s

/-- R443 step 3 -/
def execRestored (tag serial device : Nat) (s : State) : Out :=
  match s.jobOf tag with
  | none => .next s.bump
  | some (j, x) =>
    if !x.conducts || x.serial ≠ serial || x.st ≠ .restoring || x.went then .next s.bump
    else
      let x := { x with heard := if x.heard.contains device then x.heard else x.heard ++ [device] }
      if ((s.jobMembers x).getD []).all x.heard.contains then
        .next ((s.bump.setJob j { x with heard := [], went := true }).tellAll x (.go tag serial) (.go tag serial))
      else .next (s.bump.setJob j x)

/-- R443 step 3: the job stays off everywhere. -/
def State.stayOff (s : State) (j : Nat) : State :=
  let x := s.job j
  let s := s.setJob j { x with st := .off, restored := false }
  if x.conducts then (s.tellAll x (.stay x.tag x.serial) (.stay x.tag x.serial)).endSwitch j 3 else s

/-- R443 step 3 -/
def execRestoreTimeout (tag : Nat) (s : State) : Out :=
  match s.jobOf tag with
  | some (j, x) => if x.conducts && x.st = .restoring && !x.went then .next (s.bump.stayOff j) else .next s.bump
  | none => .next s.bump

/-- R443 step 3 -/
def execStay (tag serial : Nat) (s : State) : Out :=
  match s.jobOf tag with
  | some (j, x) => if x.st = .restoring && x.serial = serial && !x.going && !x.went then .next (s.bump.stayOff j) else .next s.bump
  | none => .next s.bump

/-- R441: a record as a flit in a buffer. -/
def State.heldAt (s : State) (a : Nat) : Held :=
  let bs := (s.homeRead a 64).2
  let w := leNat ((bs.drop 48).take 4)
  { flit := flitOf (bs.take 48), from_ := w % 128, out := w / 2 ^ 11 % 128 }

/-- R443 step 4, R445: save records in order, those of input port 65 first, since they are the front of their packets (log 143); and then
late records. -/
def State.recordsOf (s : State) (x : Job) : List Held :=
  let save := (List.range x.saved).map fun i => s.heldAt (x.save + 64 * i)
  (save.filter (fun h => h.from_ = 65) ++ save.filter (fun h => h.from_ ≠ 65) ++
    (List.range x.latecnt).map fun i => s.heldAt (x.late + 64 * (i % x.latesz))).map (s.readdress x)

/-- R442: flits of one triple of a job. -/
def sameTriple (a b : Flit) : Bool := a.src = b.src && a.dst = b.dst && a.vc.toNat % 4 = b.vc.toNat % 4 && a.tag = b.tag

/-- R442: heads of packets that have lost a flit, and what is left to re-inject. A flit is dropped after every recorded one of its triple, so
the packet that loses it is the one that stands open at their end; flits without a head here end a packet that has gone ahead. -/
def wholePackets (dropped : List Flit) : List Held → List Held → List Held × List Flit
  | [], open_ => ([], (open_.filter fun h => h.flit.pos = 0).map Held.flit)
  | h :: hs, open_ =>
    if !dropped.any (sameTriple h.flit) then
      let r := wholePackets dropped hs open_
      (h :: r.1, r.2)
    else
      let mine := open_.filter fun o => sameTriple o.flit h.flit
      let others := open_.filter fun o => !sameTriple o.flit h.flit
      match h.flit.pos.toNat with
      | 3 => let r := wholePackets dropped hs open_; (h :: r.1, r.2)
      | 0 => let r := wholePackets dropped hs (others ++ [h]); (r.1, (mine.filter fun o => o.flit.pos = 0).map Held.flit ++ r.2)
      | 2 =>
        let r := wholePackets dropped hs others
        (mine ++ h :: r.1, r.2)
      | _ =>
        if mine.isEmpty then
          let r := wholePackets dropped hs open_
          (h :: r.1, r.2)
        else wholePackets dropped hs (open_ ++ [h])

/-- R442: packets that a dropped flit has belonged to are discarded, with what of them has already come. -/
def State.loseDropped (s : State) (fs : List Flit) : State :=
  fs.foldl State.losePacket (s.dropPartials fun p => p.flits.any fun f => fs.any (sameTriple f))

/-- R443 step 4 -/
def execGo (tag serial : Nat) (s : State) : Out :=
  match s.jobOf tag with
  | none => .next s.bump
  | some (j, x) =>
    if x.st ≠ .restoring || x.serial ≠ serial || x.going then .next s.bump
    else
      let (hs, lost) := wholePackets x.dropped (s.recordsOf x) []
      let s := lost.foldl State.losePacket (s.bump.loseDropped x.dropped)
      let s := s.setJob j { x with going := true, dropped := [] }
      .next { s with hub := { s.hub with replays := place s.hub.replays j hs } }

/-- R443 step 5 -/
def execReinjectEnd (tag : Nat) (s : State) : Out :=
  match s.jobOf tag with
  | none => .next s.bump
  | some (j, x) =>
    if x.st ≠ .restoring || !x.going || !(readOr [] s.hub.replays j).isEmpty then .next s.bump
    else
      let s := (s.bump.loseDropped x.dropped).setJob j { x with st := .run, saved := 0, latecnt := 0, going := false, restored := false, dropped := [] }
      let s := { s with hub := { s.hub with replays := unlist s.hub.replays j } }
      .next (s.tellMember x.conductor (.running tag x.serial) (.running tag x.serial s.dev))

/-- R443 step 5 -/
def execRunning (tag serial device : Nat) (s : State) : Out :=
  match s.jobOf tag with
  | none => .next s.bump
  | some (j, x) =>
    if !x.conducts || !x.went || x.serial ≠ serial || (x.st ≠ .restoring && x.st ≠ .run) then .next s.bump
    else
      let x := { x with heard := if x.heard.contains device then x.heard else x.heard ++ [device] }
      let s := s.bump.setJob j x
      if ((s.jobMembers x).getD []).all x.heard.contains then .next (s.endSwitch j 0) else .next s

/-! ### Admission (R437) -/

/-- R437 -/
def execJobAdmit (entry : Nat) (s : State) : Out := .next (s.bump.admitJob entry)
/-- R437 -/
def execJobFree (entry : Nat) (s : State) : Out := .next (s.bump.freeJob entry)

/-! ### Job barriers (R345) -/

/-- R436: a barrier message that has come waits while its job is off. -/
def State.barrierWaits (s : State) (c : Nat) : Bool := match s.jobOf (s.ctx c).job with | some (_, x) => x.st ≠ .run | none => false

/-- R345: an arrival message reaches this device. -/
def execJobBarrierArrival (ctx id phase device : Nat) (s : State) : Out :=
  if s.barrierWaits ctx then .next { s.bump with inputs := s.inputs ++ [.jobBarrierArrival ctx id phase device] }
  else if !(s.ctx ctx).valid || (s.groupHere id).isNone then .next s.bump
  else
    let x := s.ctx ctx
    let b := readOr {} x.jobBars id
    if b.phase % 2 ^ 24 ≠ phase || b.devs.contains device then .next s.bump
    else .next ((s.bump.setCtx ctx { x with jobBars := place x.jobBars id { b with devs := b.devs ++ [device] } }).settleJob ctx)

/-- R345: a release message reaches this device. -/
def execJobBarrierRelease (ctx id phase status : Nat) (s : State) : Out :=
  if s.barrierWaits ctx then .next { s.bump with inputs := s.inputs ++ [.jobBarrierRelease ctx id phase status] }
  else
  match s.groupHere id with
  | none => .next s.bump
  | some g =>
    let b := readOr {} (s.ctx ctx).jobBars id
    if !(s.ctx ctx).valid || b.phase % 2 ^ 24 ≠ phase then .next s.bump
    else .next ((s.bump.completeJob ctx id status (s.members g)).settleJob ctx)

/-- R343, R472: job barriers whose group has a member that is unreachable complete with status 1. -/
def State.failBarriers (s : State) (device : Nat) : State :=
  s.ctxs.foldl (fun s (c, x) =>
    x.jobBars.foldl (fun s (id, b) =>
      match s.groupHere id with
      | some g => if (s.members g).contains device && (b.cur.isSome || !b.devs.isEmpty) then s.completeJob c id 1 (s.members g) else s
      | none => s) s) s

end Sys2Proof.Machine
end

