-- ==== Sys2Proof/Machine/Links.lean ====
section
/-! DEFINITION. Links of the fabric: acceptance and replay, stripes, ports, routes, devices that go and lasers
(R20, R456, R463 to R475, R481). -/

namespace Sys2Proof.Machine

/-! ### Stripes (R466) -/

/-- R466: the channels of a direction. -/
def fullMap (p : Nat) : BitVec 16 := if 32 ≤ p then 0xFFFF else 0xF

/-- R466: the stripe map of the live channels: the lowest of them, as many as are used. -/
def reduceMap (m : BitVec 16) : BitVec 16 :=
  (((List.range 16).filter m.getLsbD).take (inUse m)).foldl (fun acc c => acc ||| (1#16 <<< c)) 0

def mapsWord (old new : BitVec 16) : Nat := fields [(0, old.toNat), (16, new.toNat)]

def peerWord (x : Port) : Nat := match x.peer with | some (d, p) => fields [(0, d), (13, p)] | none => 0

/-- R475: an event of a port, to the host and to the contexts of some flits. -/
def State.portEvent (s : State) (p sub maps count : Nat) (fs : List Flit) : State :=
  let peer := peerWord (s.port p)
  (s.ctxsOf fs).foldl (fun s c => s.linkContext c sub p maps peer 0) (s.linkHost sub p maps peer count 0)

/-! ### Failed ports (R468, R470) -/

/-- R470: flits that are held for a port whose packet it has partly sent: no head stands before them. -/
def cutPackets (p : Nat) : List Held → List Flit → List Held × List Held
  | [], _ => ([], [])
  | h :: hs, heads =>
    if h.out ≠ p then let r := cutPackets p hs heads; (h :: r.1, r.2)
    else if h.flit.pos = 0 || h.flit.pos = 3 || heads.any (sameTriple h.flit) then
      let r := cutPackets p hs (h.flit :: heads)
      (h :: r.1, r.2)
    else let r := cutPackets p hs heads; (r.1, h :: r.2)

/-- R463, R470: what becomes of the packets whose heads have chosen a port that fails: one whose head stands here takes another
way, the rest of one whose head has left is discarded. -/
def State.unfollow (s : State) (p : Nat) (kept : List Held) : State :=
  let waits (k n : Nat) : Bool := kept.any fun h =>
    h.from_ = k && h.flit.pos = 0 && h.flit.tag.toNat = n / 16 && h.flit.vc = BitVec.ofNat 4 n
  { s with hub := { s.hub with ports := s.hub.ports.map fun (k, x) =>
      (k, { x with follow := mapVals x.follow fun n o => if o = p then (if waits k n then 0x7F else 0x7E) else o }) } }

/-- R440: a port that has failed counts as having delivered its markers. -/
def State.markAll (s : State) (p : Nat) : State :=
  { s with hub := { s.hub with jobs := mapVals s.hub.jobs fun _ x =>
      if x.st = .stopping then { x with marks := x.marks ++ (List.range 16).map fun v => (p, v) } else x } }

/-- R468, R470: a port fails: packets in its replay buffer or partly sent are lost, others take another way. -/
def State.failPort (s : State) (p : Nat) : State :=
  let x := s.port p
  let (kept, cut) := cutPackets p s.hub.buffers []
  let gone := x.unacked ++ cut.map Held.flit
  let moved := (kept.filter fun h => h.out = p).map Held.flit
  let s := s.setPort p { x with st := 4, unacked := [], tx := 0, rx := 0, stripe := none, nak := none, heldNak := none, tries := 0, credits := [], owed := [], control := none }
  let s := (s.unfollow p kept).markAll p
  let s := gone.foldl State.losePacket s
  let s := { s with hub := { s.hub with buffers := kept.map fun (h : Held) => if h.out = p then { h with out := 0x7F } else h } }
  let s := (s.hub.jobs.map Prod.fst).foldl State.trySwept s
  s.portEvent p 4 (mapsWord x.tx 0) ((gone.filter fun f => f.pos = 0 || f.pos = 3).length) (gone ++ moved)

/-- R464: a link retrains; whether two earlier retrains lie within a second is open. -/
def State.retrain (s : State) (p : Nat) : State :=
  let x := s.port p
  let s := s.portEvent p 3 (mapsWord x.tx x.tx) 0 x.unacked
  if x.retrains < 2 then s.setPort p { x with st := 1, tries := 0, retrains := x.retrains + 1 }
  else if Config.pick s.oracle % 2 = 0 then (s.spend 1).failPort p
  else (s.spend 1).setPort p { x with st := 1, tries := 0, retrains := 1 }

/-! ### Replay (R464) -/

/-- R464: flits up to the next expected SEQ are acknowledged. -/
def Port.acked (x : Port) (seq : Nat) : Port :=
  let rest := x.unacked.dropWhile fun f => f.seq.toNat ≠ seq
  if rest.isEmpty && seq ≠ x.nextSeq then x
  else { x with unacked := rest, tries := if rest.length < x.unacked.length then 0 else x.tries }

/-- R464: the transmitter resends what is not acknowledged. -/
def State.replayPort (s : State) (p : Nat) : State :=
  let x := s.port p
  let s := s.setPort p { x with replayed := (x.replayed + x.unacked.length) % 2 ^ 32, tries := x.tries + 1 }
  if 8 ≤ x.tries + 1 then s.retrain p else s

def Port.operates (x : Port) : Bool := x.st = 2 || x.st = 3

/-- R464 -/
def execNak (port seq : Nat) (s : State) : Out :=
  if (s.port port).operates then .next ((s.bump.setPort port ((s.port port).acked seq)).replayPort port) else .next s.bump

/-- R464 -/
def execLinkReplayTimeout (port : Nat) (s : State) : Out :=
  if (s.port port).operates && !(s.port port).unacked.isEmpty then .next (s.bump.replayPort port) else .next s.bump

/-- R461, R464: a flit that counts as a CRC failure. -/
def badFlit (bits : Nat) (f : Flit) : Bool := bits / 2 ^ 96 % 2 ^ 32 ≠ flitCrc f || 13 ≤ f.type.toNat || bits % 256 ≠ 0

/-- R464, R465: a NAK with the expected SEQ is on its way, or is held while a channel has a dip. -/
def Port.naks (x : Port) : Port := if x.dipped = 0 then { x with nak := some x.expect } else { x with heldNak := some x.expect }

/-- R465: a dip has ended; after the last one the NAK that was held is sent. -/
def Port.undip (x : Port) (c : BitVec 16) : Port :=
  let x := { x with dipped := x.dipped &&& ~~~ c }
  if x.dipped = 0 && x.heldNak.isSome then { x with nak := x.heldNak, heldNak := none } else x

/-- R467 step 3, R468: the first flit accepted after a STRIPE shows that the direction runs on its new map. -/
def State.striped (s : State) (p : Nat) (f : Flit) : State :=
  let x := s.port p
  match x.stripe with
  | none => s
  | some m =>
    let new := reduceMap (BitVec.ofNat 16 m)
    let s := s.setPort p { x with st := 2, rx := new, stripe := none }
    s.portEvent p (if x.widens then 2 else 1) (mapsWord x.rx new) 0 [f]

/-- R439, R442, R464: what becomes of an accepted flit. -/
def State.acceptFlit (s : State) (p : Nat) (f : Flit) : State :=
  let tag := f.tag.toNat
  let h := f.payload.toNat
  if f.type = 11 then (if sortOf f = 5 then s.takeMarker p f.vc.toNat (h % 65536) (h / 2 ^ 16 % 2 ^ 32) else s)
  else if s.isLate p f.vc.toNat tag then s.keepLate p f.vc.toNat f
  else
    match s.jobOf tag with
    | some (j, x) =>
      if x.st = .stopping && x.closed then
        s.saveFlit j { flit := f, from_ := p, out := (s.routeTo f.src.toNat f.dst.toNat).getD 0x7F } 1
      else s.buffer p f
    | none => s.buffer p f

/-- R438, R461: the credits that a flit brings, of its own tag (log 143). -/
def Port.granted (x : Port) (f : Flit) : Port :=
  if f.ccnt = 0 then x
  else
    let g := { f with vc := f.cvc }
    { x with credits := place x.credits (followKey g) (x.credit g + f.ccnt.toNat) }

/-- R438, R464: a flit comes in on a port; one for which its job has no place here stands upstream still. -/
def execFlitReceive (port : Nat) (bits : BitVec 384) (s : State) : Out :=
  let x := s.port port
  let f := flitOf (leBytes 48 bits.toNat)
  if !x.operates then .next s.bump
  else if badFlit bits.toNat f then .next (s.bump.setPort port { x.naks with crc := (x.crc + 1) % 2 ^ 32 })
  else
    let s := if f.av then s.bump.setPort port (x.acked f.aseq.toNat) else s.bump
    let s := if f.av && f.nak then s.replayPort port else s
    let x := s.port port
    if f.type = 0 then .next (s.setPort port (x.granted f))
    else if f.seq.toNat = x.expect && f.type ≠ 11 && s.shareFull f.tag.toNat && !s.isLate port f.vc.toNat f.tag.toNat then .next s
    else if f.seq.toNat = x.expect then
      let s := s.setPort port { x.granted f with expect := (x.expect + 1) % 4096, nak := none, heldNak := none }
      .next ((s.striped port f).acceptFlit port f)
    else if (x.expect + 4096 - f.seq.toNat) % 4096 ≤ 2048 then .next s
    else .next (s.setPort port x.naks)

/-! ### Channels (R465 to R468) -/

def chan (c : Nat) : BitVec 16 := 1#16 <<< c

/-- R465; R468: a lost channel whose signal dips again has not stayed above the threshold. -/
def execChannelDip (port channel : Nat) (s : State) : Out :=
  let x := s.port port
  if x.operates && x.rx.getLsbD channel then .next (s.bump.setPort port { x with dipped := x.dipped ||| chan channel })
  else if x.lost.getLsbD channel then .next (s.bump.setPort port { x with back := x.back &&& ~~~ chan channel })
  else .next s.bump

/-- R467 step 1: the receiver leads a restripe. -/
def State.restripe (s : State) (p : Nat) (x : Port) : State :=
  let map := fullMap p &&& ~~~ x.lost
  let x := { x with epoch := (x.epoch + 1) % 256 }
  if map = 0 then (s.setPort p x).failPort p
  else s.setPort p { x with st := 3, stripe := some map.toNat, widens := false, nak := some x.expect, heldNak := none }

/-- R465 -/
def execChannelLossDecision (port channel : Nat) (lost : Bool) (s : State) : Out :=
  let x := s.port port
  if !x.operates || !x.dipped.getLsbD channel then .next s.bump
  else
    let x := x.undip (chan channel)
    if lost then .next (s.bump.restripe port { x with lost := x.lost ||| chan channel, back := x.back &&& ~~~ chan channel })
    else .next (s.bump.setPort port x)

/-- R467 step 2, R468: the transmitter forms the new map; it replays from the NAK's SEQ, except where the receiver only has
a channel back: SEQ then names the flit boundary of the switch. -/
def execStripe (port rxmap epoch seq : Nat) (s : State) : Out :=
  let x := s.port port
  if !x.operates then .next s.bump
  else
    let new := reduceMap (BitVec.ofNat 16 rxmap &&& ~~~ x.dark &&& fullMap port)
    let rx := BitVec.ofNat 16 rxmap &&& fullMap port
    let wider : Bool := x.told &&& ~~~ rx = 0 && x.told ≠ rx
    let s := s.bump.setPort port { if wider then x else x.acked seq with epoch := epoch % 256, told := rx }
    if new = 0 then .next (s.failPort port)
    else
      let y := s.port port
      let n := if wider then 0 else y.unacked.length
      let s := s.setPort port { y with tx := new, replayed := (y.replayed + n) % 2 ^ 32 }
      .next (s.portEvent port (if wider then 2 else 1) (mapsWord x.tx new) n (if wider then [] else y.unacked))

/-- R468: a lost channel has a signal again. -/
def execChannelSignalReturn (port channel : Nat) (s : State) : Out :=
  let x := s.port port
  if x.lost.getLsbD channel then .next (s.bump.setPort port { x with back := x.back ||| chan channel }) else .next s.bump

/-- R468 -/
def execChannelRestore (port channel : Nat) (s : State) : Out :=
  let x := s.port port
  if x.st = 2 && x.lost.getLsbD channel && x.back.getLsbD channel then
    let x := { x with lost := x.lost &&& ~~~ chan channel, back := x.back &&& ~~~ chan channel, epoch := (x.epoch + 1) % 256 }
    .next (s.bump.setPort port { x with st := 3, stripe := some (fullMap port &&& ~~~ x.lost).toNat, widens := true })
  else .next s.bump

/-- R468 -/
def execStripeTimeout (port : Nat) (s : State) : Out :=
  if (s.port port).stripe.isSome then .next (s.bump.failPort port) else .next s.bump

/-! ### Ports (R456, R468, R474) -/

/-- R23, R455: the policy of a global port, fixed at boot: 0 unused, 1 encrypted, 2 clear. Local links have none. -/
def portPolicy (port : Nat) : Nat := portCode (port - 32)

/-- R455: a port that the boot policy leaves unused. -/
def portUnused (port : Nat) : Bool := 32 ≤ port && portPolicy port = 0

/-- R455, R456, R468, R478: a port trains, or fails to; the SUB of a failed first exchange is not given. -/
def execPortTrain (port : Nat) (ok : Bool) (peer peerPort : Nat) (s : State) : Out :=
  let x := s.port port
  if !isPort port || portUnused port || x.disable || x.operates || s.hub.mode = .minimal then .next s.bump
  else if ok then
    let tx := reduceMap (fullMap port &&& ~~~ x.dark)
    let y := { x with st := 2, tx := tx, rx := fullMap port, peer := some (peer, peerPort), dipped := 0, lost := 0, back := 0, nak := none, heldNak := none, told := fullMap port, tries := 0 }
    let y := if x.st = 1 && x.peer.isSome then y else { y with nextSeq := 0, expect := 0, unacked := [] }
    let s := s.bump.setPort port y
    if tx = 0 then .next (s.failPort port)
    else .next (if x.st = 4 then s.portEvent port 5 (mapsWord 0 tx) 0 [] else s)
  else if x.st = 1 && x.peer.isSome then .next (s.bump.failPort port)
  else .next (((s.bump.setPort port { x with st := if x.st = 4 then 4 else 0 }).spend 1).portEvent port (Config.pick s.oracle % 256) 0 0 [])

/-- R23, R455, R456: a direction of an encrypted global port goes over to its next key. -/
def execKeyRefresh (port : Nat) (transmit : Bool) (s : State) : Out :=
  let x := s.port port
  if 32 ≤ port && portPolicy port = 1 && x.operates then
    .next (s.bump.setPort port (if transmit then { x with txKey := !x.txKey } else { x with rxKey := !x.rxKey }))
  else .next s.bump

/-- R474: a disabled port goes down once nothing is left on it. -/
def execPortDisable (port : Nat) (s : State) : Out :=
  let x := s.port port
  if x.disable && x.operates && x.unacked.isEmpty && s.hub.buffers.all fun h => h.out ≠ port then
    .next (s.bump.setPort port { x with st := 0 })
  else .next s.bump

/-- R455, R474, R478 -/
def execPortEnable (port : Nat) (s : State) : Out :=
  let x := s.port port
  if !x.disable && x.st = 0 && isPort port && !portUnused port && s.hub.mode ≠ .minimal then .next (s.bump.setPort port { x with st := 1 }) else .next s.bump

/-! ### Routes and devices (R463, R472) -/

/-- R463: another router's link has come up or failed. -/
def execRouteUpdate (device port : Nat) (live : Bool) (s : State) : Out :=
  let rest := s.hub.links.filter fun l => l ≠ (device, port)
  .next { s.bump with hub := { s.hub with links := if live then rest ++ [(device, port)] else rest } }

/-- R472, R475: a device is gone: what waits to go there is lost, and contexts whose tag is on it hear of it. -/
def execDeviceUnreachable (device : Nat) (s : State) : Out :=
  if (s.routeTo s.dev device).isSome || s.hub.unreachable.contains device then .next s.bump
  else
    let lost := (s.remote.filter fun (_, r) => r.dev = device).map Prod.fst
    let told := s.ctxsOf (s.hub.waiting.filter fun f => f.dst.toNat = device)
    let s := { s.bump with hub := { s.hub with
      unreachable := s.hub.unreachable ++ [device],
      outbox := s.hub.outbox.filter fun m => m.1 ≠ device,
      waiting := s.hub.waiting.filter fun f => f.dst.toNat ≠ device } }
    let s := lost.foldl (fun s t => s.failRemote t (causeCode .dataError)) s
    let s := told.foldl (fun s c => s.linkContext c 6 0 0 device 0) s
    .next ((s.failBarriers device).linkHost 6 0 0 device lost.length 0)

/-- R472 -/
def execDeviceReachable (device : Nat) (s : State) : Out :=
  if (s.routeTo s.dev device).isSome && s.hub.unreachable.contains device then
    .next ({ s.bump with hub := { s.hub with unreachable := s.hub.unreachable.filter (· ≠ device) } }.linkHost 7 0 0 device 0 0)
  else .next s.bump

/-! ### Lasers (R473, R481) -/

/-- R473: transmit channels that a source lights, and its ports. -/
def laserChannels (n : Nat) : BitVec 16 := if n % 2 = 0 then 0x0F0F else 0xF0F0
def laserPorts (n : Nat) : List Nat := (List.range 4).map fun i => 32 + 4 * (n / 2) + i

/-- R473: a source darkens, or lights, its channels. -/
def State.darken (s : State) (n : Nat) (off : Bool) : State :=
  (laserPorts n).foldl (fun s p =>
    let x := s.port p
    s.setPort p { x with dark := if off then x.dark ||| laserChannels n else x.dark &&& ~~~ laserChannels n }) s

/-- R473 -/
def execLaserFault (source : Nat) (s : State) : Out :=
  let s := (s.bump.setLaser source { s.laser source with fault := true, latched := true }).darken source true
  .next (s.linkHost 9 0 0 0 0 source).noteDegraded

/-- R481 -/
def execLaserRemoved (source : Nat) (s : State) : Out :=
  let s := (s.bump.setLaser source { s.laser source with removed := true }).darken source true
  .next (s.linkHost 13 0 0 0 0 source).noteDegraded

/-- R473 -/
def execLaserReturn (source : Nat) (s : State) : Out :=
  let s := (s.bump.setLaser source { s.laser source with fault := false, removed := false }).darken source false
  .next (s.linkHost 10 0 0 0 0 source)

/-- R20: a failed link between dies is bypassed through a third die. -/
def execDieToDieLinkFailure (a b : Nat) (s : State) : Out :=
  .next { s.bump with hub := { s.hub with cut := if s.hub.cut.contains (a, b) then s.hub.cut else s.hub.cut ++ [(a, b)] } }

end Sys2Proof.Machine
end

