-- ==== Sys2Proof/Machine/Wakes.lean ====
section
/-! DEFINITION. What a strand waits for: results that return, conditions that come true, timeouts, late failures,
instruction fetch and words that are no instruction (R53 to R57, R286, R287, R314, R321, R322, R338, R417, R418, R485). -/

namespace Sys2Proof.Machine

/-! ### Results (R321) -/

/-- R314: a return of some threads to a register leaves SCORE; an entry without threads is freed. -/
def Split.scored (k : Split) (reg : Nat) (m : Mask) : Split :=
  { k with score := (k.score.map fun e => if e.reg = reg then { e with mask := e.mask &&& ~~~ m } else e).filter fun e => e.mask ≠ 0 }

/-- R321: a result reaches its register in its threads. -/
def Strand.returned (st : Strand) (n : Nat) (r : Inbound) : Strand :=
  let m := Mask.ofTest fun t => r.vals.any fun v => v.1 = t
  let st := r.vals.foldl (fun st v => st.setReg r.reg v.1 v.2) { st with inbound := st.inbound.eraseIdx n }
  { st with splits := st.splits.map fun k => k.scored r.reg m }

/-- R181: a result that reaches a register while a task holds it leaves it unspecified after the task. -/
def State.spoilReturn (s : State) (w : Who) (r : Inbound) : State :=
  match w with
  | .warp t n _ => r.vals.foldl (fun s v => s.spoilTask t n r.reg v.1) s
  | _ => s

/-- R321: a result of the strand in focus returns; which one comes first is open. -/
def execResultReturn (s : State) : Out :=
  match s.strand? s.focus with
  | none => .fault .noStrand
  | some st =>
    let n := Config.pick s.oracle % st.inbound.length
    match st.inbound[n]? with
    | some r => .next (((s.bump.spend 1).spoilReturn s.focus r).mapStrand s.focus fun st => st.returned n r)
    | none => .next s.bump

/-! ### Conditions (R322) -/

/-- R322, R188: does a tile stand in a state that ends a `tlwait`. -/
def State.tileSettled (s : State) (e : Env) (id : Nat) : Bool :=
  (match (s.tile e.team id).map Tile.st with
   | some .filling | some .draining | some .prov => false
   | _ => true) ||
  ((look s.teams e.team).bind fun x => x.due e.warp fun f => f.tile = some id).isSome

/-- R322, R188: does a token stand in a state that ends a `tkwait`. -/
def State.tokenSettled (s : State) (e : Env) (v : Word) : Bool :=
  match (look s.teams e.team).bind fun x => (x.current v).map fun k => (x, k) with
  | none => true
  | some (x, i, k) => k.done || (x.due e.warp fun f => f.token = some i).isSome

/-- R342, R343: do the phases that a split waits for stand complete, or is the barrier gone. -/
def State.barrierOpen (s : State) (e : Env) (lvl : Level) (id : Nat) (ps : List Nat) : Bool :=
  (e.barrierCause lvl id s).isSome || ps.all fun p => phaseDone (s.barrier e lvl id).phase p

/-- R347, R348: may the running strand go on at a queue. -/
def State.queueOpen (s : State) (e : Env) (q : Nat) (push : Bool) : Bool :=
  match s.queueSide e with
  | none => true
  | some (l, _) =>
    match s.queue l q with
    | some x => s.queueClosed l x push || s.queueGo x q push e.who
    | none => true

/-- R322: does the condition of the running split hold. -/
def State.met (s : State) (e : Env) : Wake → Bool
  | .score => e.sp.score.isEmpty
  | .scoreOf m => !e.sp.score.any fun x => x.mask &&& m ≠ 0
  | .joined | .clocks | .debug => false
  | .barrier lvl id ps _ => s.barrierOpen e lvl id ps
  | .queueRoom q => s.queueOpen e q true
  | .queueElement q => s.queueOpen e q false
  | .monitor => match e.sp.mon with | some m => m.hit | none => true
  | .predecessor => !s.waitsFor e
  | .tile id => s.tileSettled e id
  | .token v => s.tokenSettled e v
  | .tileEntry => s.tilesOn e.coreNo < 1024
  | .tokenEntry => s.tokensOn e.coreNo < 1024
  | .drained mark sys => s.drained e.agent e.who mark sys
  | .settled mark => s.settledBefore mark
  | .remoteWrites mark => !s.remoteWrites e mark
  | .sendRoom => s.sendUsed e.coreNo < 64
  | .shipResult _ => e.sp.shipDone
  | .registers n => n - s.warpCount e ≤ (s.teamOf e).pool && !s.claimBefore e
  | .serviceRing => s.serviceReady e.die
  | .served => true
  | .capture hk =>
    match look s.hists hk with
    | some h => h.capture.isNone
    | none => true
  | .contextGone c => !(s.ctx c).valid
  | .launchRoom c => (s.ctx c).queue.length < 64
  | .operation key =>
    !s.awaiting key && (match look s.copies key with | some c => c.status.isSome | none => true) &&
    (match look s.colls key with | some c => c.status.isSome | none => true)
  | .gang tag => s.gangDone tag e.who
  | .fault _ _ _ => false
  | .faultPlace d => (s.die d).waiters.length < 4096
  | .sints => s.sintsOf e.ctxNo < 64
  | .returned m => !s.awaitsPath e.who m
  | .loadDone key => (look s.loads key).isNone
  | .scoreRoom n => e.sp.score.length + n ≤ 32
  | .strong m => !s.strongOf e m
  | .acked lo hi => s.acknowledged e.agent lo hi
  | .half _ _ => true

/-- R322: a split whose condition holds is READY; an instruction that waited issues again. -/
def Split.awake (k : Split) (now : Nat) : Split :=
  { Split.go k k.pc now with park := if k.again then k.park else none }

/-- R430: what a split in `wfi` has been woken by is known when it goes on. -/
def Park.event (p : Park) : Park := if p.cond = .serviceRing then { p with cond := .served } else p

/-- R322, R382, R401: the running split wakes, or keeps a wake bit while it is stopped or its team is away. -/
def Env.wake (e : Env) (s : State) : State :=
  (s.bump.mapSplit e.who fun k => if k.stop || s.away e.who then { k with wake := true } else e.charge (k.awake s.nextKey)).imageDue e.who

/-- R322: does the running split wait. -/
def Env.waits (e : Env) : Bool := e.sp.st = .parked || e.sp.st = .interlock

/-- R322 -/
def execSplitWake (s : State) : Out :=
  match s.env with
  | none => .fault .noStrand
  | some e =>
    match e.sp.park with
    | some k =>
      if e.waits && s.met e k.cond then .next ((e.wake s).mapSplit e.who fun k => { k with park := k.park.map Park.event }) else .next s.bump
    | none => .next s.bump

/-- R286, R338, R430: the timeout of the running split's park has passed. -/
def wakeOnTime (c : Wake) (s : State) : Out :=
  match s.env with
  | none => .fault .noStrand
  | some e =>
    match e.sp.park with
    | some k => if e.waits && k.cond = c && k.left = some 0 then .next (e.wake s) else .next s.bump
    | none => .next s.bump

/-- R286 -/
def execMwaitTimeout (s : State) : Out := wakeOnTime .monitor s
/-- R338 -/
def execWaitExpiry (s : State) : Out := wakeOnTime .clocks s
/-- R430 -/
def execWfiTimeout (s : State) : Out := wakeOnTime .serviceRing s

/-- R287: a coarse monitor fires, written or not. -/
def execCoarseMonitorFire (s : State) : Out :=
  match s.env with
  | none => .fault .noStrand
  | some e =>
    .next (s.bump.mapSplit e.who fun k =>
      { k with mon := k.mon.map fun m => if m.coarse then { m with hit := true } else m })

/-! ### Late failures (R485) -/

/-- R485: the cause that a late failure raises. -/
def Late.cause : Late → Cause
  | .refused => .permission
  | _ => .dataError

/-- R485: a failed load leaves: it writes no register. -/
def State.dropLoad (s : State) (key : Nat) (l : LoadOp) : State :=
  { s with loads := unlist s.loads key, reads := keep s.reads fun _ u => u.load ≠ key }.mapStrand l.who fun st =>
    { st with splits := st.splits.map fun k =>
        (List.range l.w.regs).foldl (fun k j => k.scored (l.reg + j) l.mask) k }

/-- R485: the split that holds the failing thread now. -/
def Strand.holder (st : Strand) (t : Nat) : Nat :=
  ((List.range st.splits.length).find? fun i =>
    let k := st.split i
    k.exm.getLsbD t || k.stack.any fun e => (e.mask ||| e.pending).getLsbD t).getD 0

/-- R485: the actor of split n of a strand. -/
def splitOf (w : Who) (n : Nat) : Who :=
  match w with
  | .warp t i _ => .warp t i n
  | w => w

/-- R485: is a failed access the earliest of its strand. -/
def State.earliestFailed (s : State) (key : Nat) (w : Who) : Bool :=
  s.loads.all fun (k, l) => key ≤ k || l.failed.isNone || !sameStrand l.who w

/-- R485 -/
def execLateAccessFailure (k : Nat) (why : Late) (s : State) : Out :=
  match look s.loads k with
  | none => .next s.bump
  | some l =>
    match l.failed with
    | none => .next s.bump
    | some (t, c) =>
      if l.left ≠ 0 || c ≠ causeCode (Late.cause why) || !s.earliestFailed k l.who then .next s.bump
      else
        match s.strand? l.who with
        | none => .next { s.bump with loads := unlist s.loads k }
        | some st =>
          let n := st.holder t
          let s := s.bump.dropLoad k l
          .next (s.takeTrap (splitOf l.who n)
            { split := n, ecause := BitVec.ofNat 32 c, epc := l.pc, eaddr := ((l.eaddr.find? fun x => x.1 = t).map Prod.snd).getD 0, late := true })

/-! ### Held faults and service events (R417, R418) -/

/-- R417: the fault that has been held longest is written once the ring has room. -/
def execHeldFaultWrite (die : Nat) (s : State) : Out :=
  match (s.die die).entries.find? FaultEntry.held with
  | none => .next s.bump
  | some f =>
    match s.bump.writeFault die f with
    | (s, some f') =>
      .next (s.setDie die { s.die die with entries := (s.die die).entries.map fun x => if x.serial = f.serial then f' else x })
    | (_, none) => .next s.bump

/-- R418: the service event that has been held longest is written once the ring has room, or dropped where no ring takes it any more. -/
def execHeldServiceEventWrite (die : Nat) (s : State) : Out :=
  match (s.die die).heldSv with
  | [] => .next s.bump
  | e :: rest =>
    if !s.svUsable die then .next ((s.bump.setDie die { s.die die with heldSv := rest }).countService die)
    else
    match s.bump.writeService die e with
    | (s, true) => .next (s.setDie die { s.die die with heldSv := rest })
    | (_, false) => .next s.bump

/-! ### Instruction fetch (R31, R53 to R57, R262) -/

/-- R57: number of a fetch block of a device. -/
def blockNo (dev pa : Nat) : Nat := dev * 2 ^ 35 + pa / 32

def State.icache (s : State) (a : Agent) : Sparse (List Byte) :=
  match a with
  | .wide c => (s.core c).icache
  | .lat l => (s.lc l).icache
  | _ => []

def State.setIcache (s : State) (a : Agent) (t : Sparse (List Byte)) : State :=
  match a with
  | .wide c => s.setCore c { s.core c with icache := t }
  | .lat l => s.setLc l { s.lc l with icache := t }
  | _ => s

/-- R15, R57: a block comes into an instruction cache; that of a wide core holds 64 KiB, and which block gives way is open. -/
def State.fillIcache (s : State) (a : Agent) (n : Nat) (bs : List Byte) : State :=
  let t := s.icache a
  let full : Bool := match a with | .wide _ => 2048 ≤ t.length && (look t n).isNone | _ => false
  let t := if full then t.eraseIdx (Config.pick s.oracle % t.length) else t
  s.setIcache a (place t n bs)

/-- R284: the bytes with which a fetch fills: the RDC's where it holds them, else the home's; code of another device that
no RDC holds is outside the model, and free. -/
def State.codeBytes (s : State) (die : Nat) (p : Place) : State × List Byte :=
  let line := lineNo p.dev p.pa
  let rdc := look (s.die die).rdc line
  match rdc with
  | some l =>
    if l.valid &&& rangeMask (p.pa % 128) 32 = rangeMask (p.pa % 128) 32 then (s, lineData l.data (p.pa % 128) 32)
    else if p.dev = s.dev then s.homeRead p.pa 32
    else (s.spend 32, (List.range 32).map fun i => (Config.freeWord (s.oracle + i)).setWidth 8)
  | none =>
    if p.dev = s.dev then (if p.pa < hbmEnd then s.homeRead p.pa 32 else s.deviceRead p.pa 32)
    else (s.spend 32, (List.range 32).map fun i => (Config.freeWord (s.oracle + i)).setWidth 8)

/-- R57: the block that a fetch delivers: what the instruction cache holds, or what memory holds. -/
def State.fetchBlock (s : State) (a : Agent) (die : Nat) (p : Place) : State × List Byte :=
  let n := blockNo p.dev p.pa
  match look (s.icache a) n with
  | some bs => if Config.pick s.oracle % 2 = 0 then (s.spend 1, bs) else (s.spend 1).codeBytes die p
  | none => s.codeBytes die p

/-- R314, R320, R384: a split has its fetch block; one that was READY keeps its place on its lane. -/
def Split.fed (k : Split) (base : DWord) (bs : List Byte) (now : Nat) : Split :=
  { k with block := some { base := base, bytes := bs }, st := if k.st = .fetch then .ready else k.st,
           since := if k.st = .ready then k.since else now, stepped := false }

/-- R31, R54 step 1, R314: the fetch block of the running split arrives, or its fetch faults; a fault ends a step (R384). -/
def Env.fetch (e : Env) (s : State) : State :=
  let base := blockBase e.sp.pc
  let (s, sp) := e.space (s.mapSplit e.who fun k => { k with stepped := k.stepping })
  e.checked .exec (s.checkAll sp .exec [{ thread := Mask.lowest e.sp.exm, va := base.toNat, bytes := 32 }]) fun ps s =>
    match ps with
    | p :: _ =>
      if s.poisonedAt p then e.raise .dataError e.sp.pc s
      else
        let (s, bs) := s.fetchBlock e.agent e.die p.at_
        let s := s.fillIcache e.agent (blockNo p.at_.dev p.at_.pa) bs
        s.bump.mapSplit e.who fun k => k.fed base bs s.nextKey
    | [] => s

/-- R314 -/
def execInstructionFetch (s : State) : Out :=
  match s.env with
  | none => .fault .noStrand
  | some e => if e.sp.st = .fetch || e.sp.st = .ready then .next (e.fetch s) else .next s.bump

/-- R53: what stands at a split's PC in the fetch block that it has fetched. -/
def Split.fetched (k : Split) : Option Decoded :=
  match k.block with
  | none => none
  | some b =>
    if b.base = blockBase k.pc then some (decodeBytes (k.pc - b.base).toNat (b.bytes.drop (k.pc - b.base).toNat)) else none

/-- R53 to R55: the cause of a word that is no instruction, and its address. -/
def rejectCause (r : Reject) (pc : DWord) : Cause × DWord :=
  match r with
  | .crossing => (.crossing, blockBase pc + 32)
  | .badFill | .undefinedForm => (.length, pc)
  | .unlisted | .reserved => (.illegal, pc)

/-- R53 to R55 -/
def execNotAnInstruction (s : State) : Out :=
  match s.env with
  | none => .fault .noStrand
  | some e =>
    match e.sp.fetched with
    | some (.reject r) => .next (e.raise (rejectCause r e.sp.pc).1 (rejectCause r e.sp.pc).2 s)
    | _ => .next s.bump

end Sys2Proof.Machine
end

