-- ==== Sys2Proof/Machine/Zou.lean ====
section
/-! DEFINITION. The debug unit: comparators, stops and steps, debug splits, kills and PC samples
(R333, R380, R382, R384 to R387). -/

namespace Sys2Proof.Machine

/-! ### Comparators (R379, R380) -/

/-- R379: comparator n of the core of an actor. -/
def State.comparator (s : State) (w : Who) (n : Nat) : Watch :=
  match s.agentOf w with
  | .wide c => readOr {} (s.die (c / 64)).comps (16 * (c % 64) + n)
  | _ => {}

/-- R380: what a split is about to issue is a fill word. -/
def Split.atFill (k : Split) : Bool :=
  match k.fetched with
  | some (.instr .fillWord _) => true
  | _ => false

/-- R380: does a comparator fire on what a split is about to issue. -/
def State.comparatorFires (s : State) (w : Who) (n : Nat) : Bool :=
  match s.strand? w with
  | none => false
  | some st =>
    let k := st.split (splitNo w)
    let c := s.comparator w n
    n < 16 && (s.die (s.agentOf w).die).zctl.getLsbD 0 && c.ctl.getLsbD 31 && c.lo = k.pc && c.ctl.toNat % 65536 = (s.ctx (s.ctxOf w)).asid &&
    k.st = .ready && !k.stop && !k.passed.contains n && !k.again && k.fetched.isSome && !k.atFill

/-- R380 -/
def execPcComparatorHit (w : Who) (comparator : Nat) (s : State) : Out :=
  if !s.comparatorFires w comparator then .next s.bump
  else
    let pc := (((s.strand? w).getD {}).split (splitNo w)).pc
    let mode := (s.comparator w comparator).mode
    let n := s.nameOf w pc
    let s := s.bump.mapSplit w fun k => { k with passed := comparator :: k.passed }
    let s := s.debugReport (s.agentOf w).die { cause := 0x30, ctx := s.ctxOf w, mode := mode, site := n.site, seq := n.seq, team := n.team }
    if mode = 3 then .next s
    else .next ((s.mapStrand (trapOwner w) fun st => { st with epc := pc, ecause := 0x30 }).debugStop w mode)

/-! ### Stepping and resuming (R382, R384) -/

/-- R382, R387: a stopped split is released. -/
def State.letGo (s : State) (step : Bool) : Out :=
  match s.env with
  | none => .fault .noStrand
  | some e =>
    if !e.sp.stop then .next s.bump
    else .next (s.bump.mapSplit e.who fun k => e.charge { k with stop := false, stepping := step, stepped := false, wake := false })

/-- R384: a step whose instruction has parked. -/
def Split.stepWaits (k : Split) : Bool := k.stepping && k.stepped && !k.stop && k.st = .parked

/-- R384: a stopped split is released for one instruction; where the instruction of its step has parked, the debugger cancels,
which leaves the split parked and stopped. -/
def execZouStep (s : State) : Out :=
  match s.env with
  | none => .fault .noStrand
  | some e => if e.sp.stepWaits then .next (s.bump.mapSplit e.who fun k => k.stepDone true) else s.letGo true
/-- R382 -/
def execZouResume (s : State) : Out := s.letGo false

/-- R384: the debug service hears that a step has ended at an instruction. -/
def State.reportStep (s : State) (w : Who) (pc : DWord) : State :=
  let n := s.nameOf w pc
  (s.debugReport (s.agentOf w).die { cause := 0x32, ctx := s.ctxOf w, mode := 0, site := n.site, seq := n.seq, team := n.team }).count (s.agentOf w).die (s.ctxOf w) 0x0E 1

/-- R384: the split of an actor stops where its step has ended; where it has trapped, its handler image stops at its first
instruction. -/
def State.endStepOf (s : State) (w : Who) : State :=
  match w with
  | .warp t n j =>
    match (look s.teams t).bind fun x => x.warps[n]? with
    | none => s
    | some wp =>
      let k := wp.main.split j
      if !k.stepOver then s
      else
        match wp.handler with
        | some h => ((s.mapSplit w fun k => k.stepDone false).mapSplit (.handler t n) fun k => k.stepDone true).reportStep (.handler t n) (h.split 0).pc
        | none => (s.mapSplit w fun k => k.stepDone true).reportStep w k.pc
  | .lat lc th =>
    let x := (s.lc lc).thread th
    match x.handler with
    | some h =>
      if (x.main.split 0).stepOver || (h.split 0).stepOver then
        (s.setLc lc ((s.lc lc).setThread th
          { x with main := x.main.mapSplit 0 fun k => if k.stepOver then k.stepDone false else k,
                   handler := some (h.mapSplit 0 fun k => k.stepDone true) })).reportStep w (h.split 0).pc
      else s
    | none => if (x.main.split 0).stepOver then (s.mapSplit w fun k => k.stepDone true).reportStep w (x.main.split 0).pc else s
  | .handler _ _ =>
    match s.strand? w with
    | some st => if (st.split 0).stepOver then (s.mapSplit w fun k => k.stepDone true).reportStep w (st.split 0).pc else s
    | none => s

/-- R384: steps end at the boundary behind the instruction that they have issued: those of every split of its warp, as a
division or a `join` may leave them. -/
def State.endStep (s : State) (w : Who) : State :=
  match w with
  | .warp t n _ => (List.range 4).foldl (fun s j => s.endStepOf (.warp t n j)) s
  | _ => s.endStepOf w

/-! ### Debug splits (R385) -/

/-- R385: may thread t be detached from a split of a strand. -/
def Strand.detachable (st : Strand) (i t : Nat) : Bool :=
  (st.split i).exm.getLsbD t && (st.split i).stack.isEmpty && st.freeSplit.isSome

/-- R385: does a split hold a result of thread t, on which its detaching waits. -/
def Split.holdsResult (k : Split) (t : Nat) : Bool := k.score.any fun e => e.mask.getLsbD t

/-- R222: of a 16-byte access that is half made, what some threads still have to do. -/
def Park.cut (p : Park) (m : Mask) : Park :=
  match p.cond with
  | .half hi xs => { p with cond := .half hi (xs.filter fun x => m.getLsbD x.1) }
  | .scoreOf w => { p with cond := .scoreOf (w &&& m) }
  | .returned w => { p with cond := .returned (w &&& m) }
  | .strong w => { p with cond := .strong (w &&& m) }
  | _ => p

/-- R385: a split with some of its threads alone. -/
def Split.part (k : Split) (m : Mask) : Split :=
  { k with exm := k.exm &&& m, score := cutScore m k.score, ships := k.ships.filter fun x => m.getLsbD x.thread,
           park := k.park.map fun p => p.cut m }

/-- R385: the new split of a detached thread. A step of the old one is not its own; DEDUCED (log 140): where the old one waits within an
instruction, the new one issues that instruction again and waits by itself. -/
def Split.debugPart (k : Split) (t now : Nat) : Split :=
  let k := { k.part (1#32 <<< t) with mon := none, stop := k.stop || k.stepping, stepping := false, stepped := false }
  if k.again then { k with st := if k.st = .parked || k.st = .interlock then .ready else k.st, since := now } else k

/-- R385: a thread is detached into a split of its own; a split that is left without threads exits (R317). -/
def Strand.detach (st : Strand) (i t now : Nat) : Strand :=
  match st.freeSplit with
  | none => st
  | some j =>
    if !st.detachable i t then st
    else
      (st.mapSplit i fun k => Split.popEmpty now 1 (k.part (~~~ (1#32 <<< t)))).putSplit j ((st.split i).debugPart t now)

/-- R385: do two splits stand at one PC with equal join records. DEDUCED (log 140): one that waits within its instruction does not
stand at its PC, unless the other waits there for the same. -/
def Split.standWith (a b : Split) : Bool :=
  a.pc = b.pc && a.jrec = b.jrec && a.again = b.again && (a.park.map Park.cond = b.park.map Park.cond)

/-- R385: merges a debug split, which has no stacked arms, back. -/
def Strand.reattach (st : Strand) (i j : Nat) : Strand :=
  let a := st.split i
  let b := st.split j
  if i = j || a.exm = 0 || b.exm = 0 || !a.standWith b || !a.stack.isEmpty then st
  else (st.mapSplit j fun k => { k with
      exm := k.exm ||| a.exm, score := joinScores [k, a], ships := k.ships ++ a.ships, consumes := (k.consumes ++ a.consumes).eraseDups,
      acqAt := min k.acqAt a.acqAt }).mapSplit i fun _ => {}

/-- R385: a detaching waits until SCORE holds no result of the thread. -/
def execDebugSplitDetach (w : Who) (thread : Nat) (s : State) : Out :=
  match s.strand? w with
  | none => .next s.bump
  | some st =>
    if st.detachable (splitNo w) thread && (st.split (splitNo w)).holdsResult thread then
      .next { s.bump with inputs := s.inputs ++ [.debugSplitDetach w thread] }
    else .next (s.bump.mapStrand w fun st => st.detach (splitNo w) thread s.nextKey)
/-- R385 -/
def execDebugSplitReattach (w : Who) (into : Nat) (s : State) : Out := .next (s.bump.mapStrand w fun st => st.reattach (splitNo w) into)

/-- R333 -/
def execZouKill (w : Who) (threads : Mask) (s : State) : Out :=
  match w with
  | .warp t n _ | .handler t n => .next (s.bump.removeThreads t n threads)
  | .lat lc th =>
    if threads = 0 then .next s.bump
    else .next (s.bump.setLc lc ((s.lc lc).setThread th { (s.lc lc).thread th with active := false, handler := none, serving := none }))

/-! ### PC samples (R386) -/

/-- R386: is sampling on in a context's block. -/
def State.sampling (s : State) (c : Nat) : Bool := (s.ctx c).valid && ((s.homeRead (s.ctx c).cblk 1).2.getD 0 0).getLsbD 1

/-- R386: the warp at a place of a core. -/
def State.warpAt (s : State) (core lane place : Nat) : Option (Nat × Nat × Team × Warp) :=
  s.teams.findSome? fun (k, t) =>
    if t.core ≠ some core then none
    else (t.warps.zipIdx.find? fun p => p.1.lane = lane && p.1.place = place).map fun p => (k, p.2, t, p.1)

/-- R386: code and park reason of a split. -/
def Split.sampleState (k : Split) : Nat × Nat :=
  match k.st, k.stop with
  | .exited, _ => (7, 0)
  | .free, _ => (0, 0)
  | _, true => (6, 0)
  | .ready, _ => (1, 0)
  | .fetch, _ => (3, 0)
  | .interlock, _ => (4, 0)
  | .parked, _ => (5, (k.park.map Park.reason).getD 0)

/-- R386: the PC that a sample reports. -/
def Split.samplePc (k : Split) : DWord :=
  match k.st, k.park with
  | .parked, some p => if p.cond = .score && !k.again then p.site else k.pc
  | _, _ => k.pc

/-- R386, R402: the split at a place of a core, where it is of a sampling context; a handler image runs in its warp's place. -/
def State.sampled? (s : State) (core place : Nat) : Option (Nat × Who × Team × Split) :=
  match s.warpAt core (place / 16) (place / 4 % 4) with
  | none => none
  | some (t, w, x, wp) =>
    let k := (wp.handler.getD wp.main).splits.getD (place % 4) {}
    if k.st = .free || !s.sampling x.ctx then none
    else some (place, if wp.handler.isSome then .handler t w else .warp t w (place % 4), x, k)

/-- R386: what a sample of a split shows: state code, park reason and PC. How long an instruction occupies the lane is time, which is
free: the one that the split issued last on its lane may still occupy it. -/
def State.sampleView (s : State) (core place : Nat) (w : Who) (k : Split) : Nat × Nat × DWord :=
  match look (s.core core).lanes (place / 16) with
  | some (x, pc) =>
    if x = w && (k.st = .ready || k.st = .fetch) && !k.stop && Config.pick s.oracle % 2 = 0 then (2, 0, pc)
    else (k.sampleState.1, k.sampleState.2, k.samplePc)
  | none => (k.sampleState.1, k.sampleState.2, k.samplePc)

/-- R386: a record goes to the context's sample ring, or is counted as lost. -/
def State.writeSample (s : State) (core place : Nat) (x : Team) (w : Who) (k : Split) : State :=
  let c := s.ctx x.ctx
  let (code, reason, pc) := s.sampleView core place w k
  let s := s.spend 1
  let bytes := le 8 pc.toNat ++ le 4 (fields [(6, place % 4), (8, place / 4 % 4), (10, place / 16), (16, core)]) ++
    le 4 (fields [(0, code), (8, reason), (16, x.idx % 65536)]) ++ le 8 (s.core core).clk.toNat ++ le 4 (readOr 0 (s.core core).seqs x.ctx).toNat ++ le 4 0
  let (s, hd) := s.homeRead (c.cblk + 0x70) 4
  if (c.smtail + 2 ^ 32 - leNat hd) % 2 ^ 32 = c.smsize then
    (s.setCtx x.ctx { c with smlost := (c.smlost + 1) % 2 ^ 32 }).count (core / 64) x.ctx 0x0C 1
  else (s.homeWrite (c.smbase + 32 * (c.smtail % c.smsize)) bytes).setCtx x.ctx { c with smtail := (c.smtail + 1) % 2 ^ 32 }

/-- R379 SAMPINT: the interval in core clocks, a power of two from 256 to 2^24; another value acts as the next lower one. -/
def sampleInterval (v : Word) : Nat := if v.toNat < 256 then 256 else 2 ^ min 24 (Nat.log2 v.toNat)

/-- R386: is a core's next sample due. -/
def State.sampleDue (s : State) (core : Nat) : Bool :=
  let d := s.die (core / 64)
  d.zctl.getLsbD 0 && sampleInterval d.sampint ≤ ((s.core core).clk - (s.core core).sampled).toNat

/-- R386 -/
def execPcSample (core : Nat) (s : State) : Out :=
  let c := s.core core
  let s := s.bump.setCore core { c with sampled := c.clk }
  match ((List.range 1024).map fun i => (c.sampleAt + i) % 1024).findSome? (s.sampled? core) with
  | none => .next s
  | some (p, w, x, k) =>
    let s := (s.setCore core { s.core core with sampleAt := (p + 1) % 1024 }).writeSample core p x w k
    if k.st = .exited then .next (s.mapSplit w fun k => { k with st := .free }) else .next s

end Sys2Proof.Machine
end

