-- ==== Sys2Proof/Machine/Service.lean ====
section
/-! DEFINITION. Contexts, the host, management commands and starts (R391 to R393, R426, R437, R445, R449 to R453,
R455 to R458, R476 to R482). -/

namespace Sys2Proof.Machine

/-! ### Contexts (R391, R392) -/

/-- R391: a context's table entry. -/
def State.tableEntry (s : State) (c : Nat) : Nat := leNat (s.homeRead (s.hub.ctxbase + 16 * c) 16).2

/-- R391: V of a table entry is cleared. -/
def State.clearV (s : State) (c : Nat) : State :=
  s.homeWrite (s.hub.ctxbase + 16 * c) (le 1 (s.tableEntry c % 256 / 2 * 2))

/-- R392: the fields of a context block that break their layout. -/
def badBlock (bs : List Byte) : Bool :=
  let f (o n : Nat) : Nat := fieldAt bs o n
  f 0 4 / 2 ^ 13 ≠ 0 || f 0 4 / 128 % 2 ≠ 0 || f 4 4 / 2 ^ 16 ≠ 0 || f 8 8 % 4096 ≠ 0 || f 8 8 / 2 ^ 40 ≠ 0 || f 0x10 8 % 4 ≠ 0 ||
  f 0x20 4 = 0 || 200 < f 0x20 4 || 256 < f 0x24 4 || 10000 < f 0x28 4 || f 0x2C 4 / 2 ^ 16 ≠ 0 ||
  f 0x38 8 % 65536 ≠ 0 || f 0x40 8 % 65536 ≠ 0 || f 0x48 8 % 64 ≠ 0 || !powerOfTwoIn 16 65536 (f 0x50 4) ||
  f 0x60 8 % 32 ≠ 0 || !powerOfTwoIn 16 65536 (f 0x68 4) || f 0x78 8 ≠ 0 || (bs.drop 0xA0).take 0x60 ≠ List.replicate 0x60 0

/-- R391: does the ASID or the pool of a block meet that of another valid context. -/
def State.clashes (s : State) (c : Nat) (bs : List Byte) : Bool :=
  let asid := fieldAt bs 4 4
  let pool := fieldAt bs 0x38 8
  let size := fieldAt bs 0x40 8
  s.ctxs.any fun (k, x) => k ≠ c && x.valid && (x.asid = asid || (pool < x.pool + x.poolsz && x.pool < pool + size))

/-- R392: the context of a block. -/
def ctxOfBlock (cblk : Nat) (bs : List Byte) : Ctx :=
  let f (o n : Nat) : Nat := fieldAt bs o n
  let d (o : Nat) : DWord := BitVec.ofNat 64 (f o 8)
  let cctl := f 0 4
  { valid := true, cblk := cblk, priv := decide (cctl % 2 = 1), prio := cctl / 4 % 8, qperm := decide (cctl / 32 % 2 = 1),
    ten := BitVec.ofNat 5 (cctl / 256), asid := f 4 4, asidW := f 4 4, ptbase := f 8 8, ptbaseW := f 8 8, stvec := d 0x10, stvecW := d 0x10,
    seed := d 0x18, job := f 0x2C 4, sstk := d 0x30, pool := f 0x38 8, poolsz := f 0x40 8, evbase := f 0x48 8, evsize := f 0x50 4,
    evtail := f 0x54 4, evlost := f 0x5C 4, smbase := f 0x60 8, smsize := f 0x68 4, smtail := f 0x6C 4, smlost := f 0x74 4,
    shown := [(0x04, 4), (0x08, 8), (0x10, 8), (0x54, 4), (0x5C, 4), (0x6C, 4), (0x74, 4), (0x80, 32), (0x180, 128), (0x200, 1024)].map
      fun p => (p.1, (bs.drop p.1).take p.2) }

/-- R391, R418: what a host event about a rejected context holds beside its header is not given. DESIGN CHOICE (log 125): its service
event goes into the ring of the die that homes the block. -/
def State.rejectContext (s : State) (c cblk : Nat) : State :=
  (((s.clearV c).spend 17).hostEvent (s.hostWord (some c)) 5 [] ((List.range 16).flatMap fun i => le 4 (Config.freeWord (s.oracle + i)).toNat)).serviceEvent
    (homeDie cblk) { kind := 5, ctx := c, arg := Config.freeWord (s.oracle + 16) }

/-- R359: what an earlier context of this number has left in the registers of thread 0 is gone. -/
def LatThread.forget (h : LatThread) (c : Nat) : LatThread := if h.ctx = c && h.serving.isNone then { h with main := latStrand } else h

/-- R359, R378: nothing of an earlier context of this number is left in a core: a section's registers, a command counter. -/
def State.forgetContext (s : State) (c : Nat) : State :=
  { s with cores := mapVals s.cores fun _ x => { x with seqs := unlist x.seqs c },
           lcs := mapVals s.lcs fun _ x => { x with seqs := unlist x.seqs c, t0 := x.t0.forget c } }

/-- R391, R478: a store has set V of a context that does not exist. -/
def execContextCreate (ctx : Nat) (s : State) : Out :=
  let e := s.tableEntry ctx
  if (s.ctx ctx).valid || e % 2 = 0 || 64 ≤ ctx || s.hub.mode = .minimal then .next s.bump
  else
    let cblk := e / 4096 % 2 ^ 28 * 4096
    let (s, bs) := s.bump.homeRead cblk 0x600
    if badBlock bs || s.clashes ctx bs then .next (s.rejectContext ctx cblk)
    else .next { (s.forgetContext ctx).setCtx ctx (ctxOfBlock cblk bs) with hub := { s.hub with created := true } }

/-- R445: the entry of a job whose context has been killed while it was off. -/
def State.dropJob (s : State) (tag : Nat) : State :=
  match s.jobOf tag with
  | some (j, x) =>
    if x.st = .off || x.st = .stopping then s.discardJob j else s
  | none => s

/-- R391, R426, R445: V of a context is cleared once its end is complete; a store that clears it while the context holds
work acts as `ctxkill`, and ends a context without work at once. -/
def execContextTableClear (ctx : Nat) (s : State) : Out :=
  let x := s.ctx ctx
  if !x.valid then .next s.bump
  else if x.dying then .next ((({ s.bump with ctxs := unlist s.ctxs ctx }).clearV ctx).dropJob x.job)
  else if s.tableEntry ctx % 2 = 0 then
    .next (if s.holdsWork ctx then s.bump.killContext ctx 0 else { s.bump with ctxs := unlist s.ctxs ctx }.dropJob x.job)
  else .next s.bump

/-! ### The host (R449 to R453) -/

/-- R452 -/
def execLaunchDoorbell (ctx : Nat) (s : State) : Out := .next (s.bump.ringDoorbell ctx)

/-- R478: does the device work only as far as minimal mode allows. -/
def State.minimal (s : State) : Bool := s.hub.mode = .minimal

/-- R448, R449, R478: a store to BAR0, of 4 or 8 aligned bytes. -/
def execRegisterWrite (offset bytes : Nat) (value : DWord) (s : State) : Out :=
  if !(bytes = 4 || bytes = 8) || offset % bytes ≠ 0 || 0x2000000 ≤ offset then .next s.bump
  else .next (s.bump.deviceWrite (0xC000000000 + offset) (le bytes value.toNat))

/-- R450: a load of the host returns. -/
def State.hostGets (s : State) (bs : List Byte) : State := { s with hub := { s.hub with hostData := s.hub.hostData ++ [bs] } }

/-- R450: a load of the host from BAR0; what is not mapped there returns zero. -/
def State.hostRead (s : State) (off n : Nat) : State :=
  let (s, bs) := if off < 0x1400000 then s.deviceRead (0xC000000000 + off) n else (s, List.replicate n 0)
  s.hostGets bs

/-- R450, R225: the host loads or stores through BAR2, strong at system scope, at the home. -/
def execHostBar2Access (address : Nat) (access : HostAccess) (s : State) : Out :=
  let pa := s.hub.apert * 2 ^ 36 + address
  if s.minimal || 2 ^ 36 ≤ address then .next s.bump
  else
    match access with
    | .read n =>
      let (s, bs) := s.bump.homeRead pa n
      let (s, bs) := s.softBytes pa n bs
      .next (s.hostGets bs)
    | .write bs => if pa + bs.length ≤ hbmEnd then .next (s.bump.homeWrite pa bs) else .next s.bump

/-- R350, R453: a `sint .host` event is taken when its entry is written. -/
def State.eventTaken (s : State) (e : List Byte) : State :=
  let c := fieldAt e 0 4 / 2 ^ 13 % 64
  if fieldAt e 4 4 = 2 then s.setCtx c { s.ctx c with sints := (s.ctx c).sints - 1 } else s

/-- R450, R453: the event that has waited longest is written to the host's queue, and its vector signalled; of vectors there are 64. -/
def execHostEventWrite (s : State) : Out :=
  match s.hub.evWait with
  | [] => .next s.bump
  | e :: rest =>
    let h := s.hub
    let vector := h.evqcfg / 2 ^ 17 % 128
    if !s.evqOpen then .next s.bump
    else
      let s := s.bump.toHost (h.evqbase + 128 * (h.evqtail % (h.evqcfg % 65536))) e
      .next ({ s with hub := { s.hub with evWait := rest, evqtail := (h.evqtail + 1) % 2 ^ 32,
                                          signals := if vector < 64 then h.signals ++ [vector] else h.signals } }.eventTaken e)

/-- R450: lanes of Filair have failed. -/
def execFilairRetrain (s : State) : Out := .next (s.bump.linkHost 11 0 0 0 0 0)

/-- R451 -/
def execFilairDown (s : State) : Out := .next { s.bump with hub := { s.hub with filairDown := true } }

/-- R451: the link returns; a drop is reported, by an event whose SUB is not given. -/
def execFilairReturn (s : State) : Out :=
  let s' := { s.bump with hub := { s.hub with filairDown := false, filairDrop := false } }
  .next (if s.hub.filairDrop then (s'.spend 1).linkHost (Config.pick s.oracle % 256) 0 0 0 0 0 else s')

/-! ### Commands (R458, R476, R479, R481) -/

/-- R449, R476: the mailbox command ends. -/
def State.endCommand (s : State) (res : Word) : State := { s with hub := { s.hub with busy := false, mbres := (res, s.hub.mbres.2) } }

/-- R449: does the mailbox hold a command. -/
def State.commandIs (s : State) (n : Nat) : Bool := s.hub.busy && s.hub.mbcmd = n

/-- R457: the digest of a component that runs. -/
def State.digestOf (s : State) (k : Nat) : BitVec 384 := readOr (Config.bootDigest k) s.hub.images k

/-- R457: the history digest: each accepted image extends it. -/
def State.historyDigest (s : State) : BitVec 384 :=
  s.hub.history.foldl (fun h d => Config.sha384 (le 48 h.toNat ++ le 48 d.toNat)) Config.bootHistory

/-- R458: bytes +0x000 to +0x1FF of a report. -/
def State.reportBody (s : State) : List Byte :=
  le 4 1 ++ le 4 s.dev ++ le 4 Config.securityVersion.toNat ++
  le 4 (bit Config.debugUnlock 0 + bit s.hub.replreq 1 + s.fencedBits * 4) ++ le 32 s.hub.nonce ++ le 8 portPol ++ le 8 0 ++
  le 48 Config.identityDigest.toNat ++ (List.range 7).flatMap (fun k => le 48 (s.digestOf k).toNat) ++ le 48 s.historyDigest.toNat ++ le 16 0

/-- R458 -/
def State.attestation (s : State) : List Byte :=
  let b := s.reportBody
  b ++ (List.range 64).map (Config.ed25519 b) ++ (List.range 3309).map (Config.mlDsa65 b) ++ List.replicate 211 0

/-- R458: command 3. -/
def execAttest (s : State) : Out :=
  if s.commandIs 3 then
    .next ({ s.bump with hub := { s.hub with busy := false, report := s.attestation } }.toHost s.hub.mbaddr s.attestation)
  else .next s.bump

/-- R457, R479: command 4, with the image that stands at MBADDR. -/
def execReplaceFirmware (image : List Byte) (s : State) : Out :=
  let k := s.hub.mbarg
  if !s.commandIs 4 then .next s.bump
  else if s.minimal || 5 < k then .next (s.bump.endCommand 1)
  else if !Config.imageAccepted image then .next (s.bump.endCommand 2)
  else
    let d := Config.sha384 image
    .next ({ s.bump with hub := { s.hub with images := place s.hub.images (k + 1) d, history := s.hub.history ++ [d] } }.endCommand 0)

/-- R481: command 5. -/
def execFenceDie (s : State) : Out :=
  if !s.commandIs 5 then .next s.bump
  else if s.minimal || 3 < s.hub.mbarg then .next (s.bump.endCommand 1)
  else .next ((s.bump.fence s.hub.mbarg).endCommand 0)

/-! ### Starts (R477, R478) -/

/-- R477: the GiB of an address is marked clean. -/
def State.clean (s : State) (a : Nat) : Bool := (s.hub.cleanmap / 2 ^ (a / 2 ^ 30)).testBit 0

/-- R477: the hub die after a start; the sources are as they stand. -/
def State.startedHub (s : State) (cold : Bool) : Hub :=
  { cold := cold, mode := .running, filairDown := s.hub.filairDown, cut := s.hub.cut, hostOut := s.hub.hostOut, signals := s.hub.signals,
    hostData := s.hub.hostData,
    lasers := (mapVals s.hub.lasers fun _ l => { l with latched := false }).filter fun x => x.2 ≠ {} }

/-- R477: a start that has succeeded: every context, job and table is empty; memory that is not kept is zero. -/
def State.started (s : State) (cold : Bool) : State :=
  let kept (a : Nat) : Bool := !cold && s.clean a
  let s' : State :=
    { mem := keep s.mem fun a _ => kept a, poison := keep s.poison fun a _ => kept a, hub := s.startedHub cold, inputs := s.inputs, hostReads := s.hostReads,
      focus := s.focus, oracle := s.oracle, nextKey := s.nextKey + 1 }
  let s' := s'.hub.lasers.foldl (fun s (n, l) => if l.fault || l.removed then s.darken n true else s) s'
  s'.noteDegraded

/-- R478: a start that has failed at a step; nothing runs then, and memory is as far as the start had come. -/
def State.startFailed (s : State) (cold : Bool) (step : Nat) : State :=
  let h := { s.startedHub cold with cleanmap := s.hub.cleanmap }
  let h := if cold then { h with mode := .minimal, why := step }
    else if 2 ≤ s.hub.wfail then { h with mode := .starting, wfail := 0, cold := true }
    else { h with mode := .starting, wfail := s.hub.wfail + 1, cold := false }
  let gone : Bool := cold && 5 ≤ step
  { mem := if gone then [] else s.mem, poison := if gone then [] else s.poison, hub := h, inputs := s.inputs, hostReads := s.hostReads, focus := s.focus,
    oracle := s.oracle, nextKey := s.nextKey }

/-- R477, R478: one attempt of a start. -/
def State.startOnce (s : State) (cold : Bool) : StartOutcome → State
  | .good => s.started cold
  | .failed n => s.bump.startFailed cold n

/-- R476, R477: a start that the host or the mailbox asks for. -/
def execWarmStart (outcome : StartOutcome) (s : State) : Out := .next (s.startOnce false outcome)
/-- R477 -/
def execColdStart (outcome : StartOutcome) (s : State) : Out := .next (s.startOnce true outcome)

/-- R478: a failed warm start is tried again, as a cold one after the third failure. -/
def execStartRetry (outcome : StartOutcome) (s : State) : Out :=
  if s.hub.mode = .starting then .next (s.startOnce s.hub.cold outcome) else .next s.bump

/-! ### Spare channels (R480) -/

/-- R480: a channel's corrected-error rate is too high. -/
def execChannelSpare (stack channel : Nat) (s : State) : Out :=
  let h := s.hub
  if (look h.spares stack).isNone && (look h.sparing stack).isNone then .next { s.bump with hub := { h with sparing := place h.sparing stack channel } }
  else if look h.spares stack = some channel || look h.sparing stack = some channel then .next s.bump
  else .next ({ s.bump with hub := { h with noSpare := true } }).noteDegraded

/-- R480: the copy has ended. -/
def execSpareCopyEnd (stack : Nat) (s : State) : Out :=
  match look s.hub.sparing stack with
  | some c => .next { s.bump with hub := { s.hub with spares := place s.hub.spares stack c, sparing := unlist s.hub.sparing stack } }
  | none => .next s.bump

end Sys2Proof.Machine
end

