-- ==== Sys2Proof/Machine/Dispatch.lean ====
section
/-! DEFINITION. One arm per constructor: the meaning of each instruction and of each event. -/

namespace Sys2Proof.Machine

def exec (i : Instr) (s : State) : Host.Outcome State Fault Refusal :=
  match i with
  | .fillWord => Sys2Proof.Machine.execFillWord s
  | .add o => Sys2Proof.Machine.execAdd o s
  | .addc o => Sys2Proof.Machine.execAddc o s
  | .sub o => Sys2Proof.Machine.execSub o s
  | .subb o => Sys2Proof.Machine.execSubb o s
  | .mul o => Sys2Proof.Machine.execMul o s
  | .mulh o => Sys2Proof.Machine.execMulh o s
  | .mulw o => Sys2Proof.Machine.execMulw o s
  | .mad o => Sys2Proof.Machine.execMad o s
  | .div o => Sys2Proof.Machine.execDiv o s
  | .rem o => Sys2Proof.Machine.execRem o s
  | .neg o => Sys2Proof.Machine.execNeg o s
  | .abs o => Sys2Proof.Machine.execAbs o s
  | .min o => Sys2Proof.Machine.execMin o s
  | .max o => Sys2Proof.Machine.execMax o s
  | .and o => Sys2Proof.Machine.execAnd o s
  | .or o => Sys2Proof.Machine.execOr o s
  | .xor o => Sys2Proof.Machine.execXor o s
  | .andn o => Sys2Proof.Machine.execAndn o s
  | .orn o => Sys2Proof.Machine.execOrn o s
  | .not o => Sys2Proof.Machine.execNot o s
  | .shl o => Sys2Proof.Machine.execShl o s
  | .shr o => Sys2Proof.Machine.execShr o s
  | .sra o => Sys2Proof.Machine.execSra o s
  | .rot o => Sys2Proof.Machine.execRot o s
  | .clz o => Sys2Proof.Machine.execClz o s
  | .ctz o => Sys2Proof.Machine.execCtz o s
  | .popc o => Sys2Proof.Machine.execPopc o s
  | .brev o => Sys2Proof.Machine.execBrev o s
  | .bfx o => Sys2Proof.Machine.execBfx o s
  | .bfi o => Sys2Proof.Machine.execBfi o s
  | .sel o => Sys2Proof.Machine.execSel o s
  | .cmp o => Sys2Proof.Machine.execCmp o s
  | .lea o => Sys2Proof.Machine.execLea o s
  | .add64 o => Sys2Proof.Machine.execAdd64 o s
  | .sub64 o => Sys2Proof.Machine.execSub64 o s
  | .shl64 o => Sys2Proof.Machine.execShl64 o s
  | .shr64 o => Sys2Proof.Machine.execShr64 o s
  | .cmp64 o => Sys2Proof.Machine.execCmp64 o s
  | .mov o => Sys2Proof.Machine.execMov o s
  | .movw p d imm => Sys2Proof.Machine.execMovw p d imm s
  | .ldc o => Sys2Proof.Machine.execLdc o s
  | .srd p d n => Sys2Proof.Machine.execSrd p d n s
  | .swr p a ua n => Sys2Proof.Machine.execSwr p a ua n s
  | .fadd o => Sys2Proof.Machine.execFadd o s
  | .fsub o => Sys2Proof.Machine.execFsub o s
  | .fmul o => Sys2Proof.Machine.execFmul o s
  | .ffma o => Sys2Proof.Machine.execFfma o s
  | .fmin o => Sys2Proof.Machine.execFmin o s
  | .fmax o => Sys2Proof.Machine.execFmax o s
  | .fabs o => Sys2Proof.Machine.execFabs o s
  | .fneg o => Sys2Proof.Machine.execFneg o s
  | .fcmp o => Sys2Proof.Machine.execFcmp o s
  | .frcp o => Sys2Proof.Machine.execFrcp o s
  | .frsq o => Sys2Proof.Machine.execFrsq o s
  | .fsqrt o => Sys2Proof.Machine.execFsqrt o s
  | .fdiv o => Sys2Proof.Machine.execFdiv o s
  | .fex2 o => Sys2Proof.Machine.execFex2 o s
  | .flg2 o => Sys2Proof.Machine.execFlg2 o s
  | .fsin o => Sys2Proof.Machine.execFsin o s
  | .fcos o => Sys2Proof.Machine.execFcos o s
  | .ftanh o => Sys2Proof.Machine.execFtanh o s
  | .fclass o => Sys2Proof.Machine.execFclass o s
  | .frnd o => Sys2Proof.Machine.execFrnd o s
  | .fscale o => Sys2Proof.Machine.execFscale o s
  | .fdp2 o => Sys2Proof.Machine.execFdp2 o s
  | .cvt o => Sys2Proof.Machine.execCvt o s
  | .cvtsr o => Sys2Proof.Machine.execCvtsr o s
  | .qpk o => Sys2Proof.Machine.execQpk o s
  | .qupk o => Sys2Proof.Machine.execQupk o s
  | .shfl o => Sys2Proof.Machine.execShfl o s
  | .vote o => Sys2Proof.Machine.execVote o s
  | .bal o => Sys2Proof.Machine.execBal o s
  | .redw o => Sys2Proof.Machine.execRedw o s
  | .scanw o => Sys2Proof.Machine.execScanw o s
  | .bcast o => Sys2Proof.Machine.execBcast o s
  | .matchw o => Sys2Proof.Machine.execMatchw o s
  | .nop p => Sys2Proof.Machine.execNop p s
  | .braUniform p x => Sys2Proof.Machine.execBraUniform p x s
  | .braDivergent p x j => Sys2Proof.Machine.execBraDivergent p x j s
  | .brx p a ua => Sys2Proof.Machine.execBrx p a ua s
  | .call p x => Sys2Proof.Machine.execCall p x s
  | .calx p a ua => Sys2Proof.Machine.execCalx p a ua s
  | .ret p a ua => Sys2Proof.Machine.execRet p a ua s
  | .join p => Sys2Proof.Machine.execJoin p s
  | .exit p => Sys2Proof.Machine.execExit p s
  | .trap p code => Sys2Proof.Machine.execTrap p code s
  | .brk p tag => Sys2Proof.Machine.execBrk p tag s
  | .yieldw p => Sys2Proof.Machine.execYieldw p s
  | .wait p n => Sys2Proof.Machine.execWait p n s
  | .prog p n => Sys2Proof.Machine.execProg p n s
  | .ld o => Sys2Proof.Machine.execLd o s
  | .st o => Sys2Proof.Machine.execSt o s
  | .lds o => Sys2Proof.Machine.execLds o s
  | .sts o => Sys2Proof.Machine.execSts o s
  | .ldr o => Sys2Proof.Machine.execLdr o s
  | .str o => Sys2Proof.Machine.execStr o s
  | .atom o => Sys2Proof.Machine.execAtom o s
  | .red o => Sys2Proof.Machine.execRed o s
  | .cas o => Sys2Proof.Machine.execCas o s
  | .fence o => Sys2Proof.Machine.execFence o s
  | .flush o => Sys2Proof.Machine.execFlush o s
  | .inval o => Sys2Proof.Machine.execInval o s
  | .discard o => Sys2Proof.Machine.execDiscard o s
  | .pref o => Sys2Proof.Machine.execPref o s
  | .icinv o => Sys2Proof.Machine.execIcinv o s
  | .mon o => Sys2Proof.Machine.execMon o s
  | .mwait o => Sys2Proof.Machine.execMwait o s
  | .wcdrain o => Sys2Proof.Machine.execWcdrain o s
  | .pdwait o => Sys2Proof.Machine.execPdwait o s
  | .lnext o => Sys2Proof.Machine.execLnext o s
  | .cpmm o => Sys2Proof.Machine.execCpmm o s
  | .coll o => Sys2Proof.Machine.execColl o s
  | .tdset p a b => Sys2Proof.Machine.execTdset p a b s
  | .tdget p d b => Sys2Proof.Machine.execTdget p d b s
  | .tlset p a id => Sys2Proof.Machine.execTlset p a id s
  | .tlst p d b => Sys2Proof.Machine.execTlst p d b s
  | .tlwait p d b => Sys2Proof.Machine.execTlwait p d b s
  | .tlfree p b => Sys2Proof.Machine.execTlfree p b s
  | .vclaim p d b => Sys2Proof.Machine.execVclaim p d b s
  | .vrel p b => Sys2Proof.Machine.execVrel p b s
  | .cpin o => Sys2Proof.Machine.execCpin o s
  | .cpout o => Sys2Proof.Machine.execCpout o s
  | .gth o => Sys2Proof.Machine.execGth o s
  | .sct o => Sys2Proof.Machine.execSct o s
  | .opfence p => Sys2Proof.Machine.execOpfence p s
  | .post p d a sc => Sys2Proof.Machine.execPost p d a sc s
  | .tkwait p d a n => Sys2Proof.Machine.execTkwait p d a n s
  | .tktest p d a => Sys2Proof.Machine.execTktest p d a s
  | .tkfree p a => Sys2Proof.Machine.execTkfree p a s
  | .fcset p a desc => Sys2Proof.Machine.execFcset p a desc s
  | .fcpub p a b => Sys2Proof.Machine.execFcpub p a b s
  | .fcstat p d b => Sys2Proof.Machine.execFcstat p d b s
  | .bara p d id lvl rmask => Sys2Proof.Machine.execBara p d id lvl rmask s
  | .barw p d a => Sys2Proof.Machine.execBarw p d a s
  | .bars p d id lvl rmask => Sys2Proof.Machine.execBars p d id lvl rmask s
  | .qpush p d a q spm nb => Sys2Proof.Machine.execQpush p d a q spm nb s
  | .qpop p d a q spm nb => Sys2Proof.Machine.execQpop p d a q spm nb s
  | .rgive p n => Sys2Proof.Machine.execRgive p n s
  | .rclaim p d n nb => Sys2Proof.Machine.execRclaim p d n nb s
  | .sint p a svc => Sys2Proof.Machine.execSint p a svc s
  | .ship o => Sys2Proof.Machine.execShip o s
  | .sret p a => Sys2Proof.Machine.execSret p a s
  | .tlbinv p k a asid => Sys2Proof.Machine.execTlbinv p k a asid s
  | .replay p d a b => Sys2Proof.Machine.execReplay p d a b s
  | .ctxkill p a => Sys2Proof.Machine.execCtxkill p a s
  | .xrd p d c st => Sys2Proof.Machine.execXrd p d c st s
  | .xwr p a ua c st => Sys2Proof.Machine.execXwr p a ua c st s
  | .lnch p d a => Sys2Proof.Machine.execLnch p d a s
  | .gsave p d a => Sys2Proof.Machine.execGsave p d a s
  | .grest p d a => Sys2Proof.Machine.execGrest p d a s
  | .cntrd p d n ub => Sys2Proof.Machine.execCntrd p d n ub s
  | .trial p a ctx => Sys2Proof.Machine.execTrial p a ctx s
  | .wfi p d b => Sys2Proof.Machine.execWfi p d b s
  | .resultReturn => Sys2Proof.Machine.execResultReturn s
  | .lateAccessFailure k why => Sys2Proof.Machine.execLateAccessFailure k why s
  | .splitWake => Sys2Proof.Machine.execSplitWake s
  | .heldFaultWrite die => Sys2Proof.Machine.execHeldFaultWrite die s
  | .launchAccept ctx => Sys2Proof.Machine.execLaunchAccept ctx s
  | .teamPlacement die ctx => Sys2Proof.Machine.execTeamPlacement die ctx s
  | .scratchpadBlockConversion core blocks => Sys2Proof.Machine.execScratchpadBlockConversion core blocks s
  | .stealMessage thief => Sys2Proof.Machine.execStealMessage thief s
  | .stageReview die => Sys2Proof.Machine.execStageReview die s
  | .contextTurn die => Sys2Proof.Machine.execContextTurn die s
  | .frequencyStep core up => Sys2Proof.Machine.execFrequencyStep core up s
  | .copyComplete key stop => Sys2Proof.Machine.execCopyComplete key stop s
  | .taskIssue core => Sys2Proof.Machine.execTaskIssue core s
  | .taskComplete key stop => Sys2Proof.Machine.execTaskComplete key stop s
  | .cpmmComplete key stop => Sys2Proof.Machine.execCpmmComplete key stop s
  | .collectiveComplete key stop peers => Sys2Proof.Machine.execCollectiveComplete key stop peers s
  | .forecastPrediction check stop => Sys2Proof.Machine.execForecastPrediction check stop s
  | .forecastCapture hist stop => Sys2Proof.Machine.execForecastCapture hist stop s
  | .tceCheck check => Sys2Proof.Machine.execTceCheck check s
  | .homeWriteRequest k => Sys2Proof.Machine.execHomeWriteRequest k s
  | .invalidationAck k => Sys2Proof.Machine.execInvalidationAck k s
  | .homeRead k => Sys2Proof.Machine.execHomeRead k s
  | .invalidation k cache => Sys2Proof.Machine.execInvalidation k cache s
  | .sharerTimeout k => Sys2Proof.Machine.execSharerTimeout k s
  | .wcbAgeing core => Sys2Proof.Machine.execWcbAgeing core s
  | .writeAcknowledgement txn => Sys2Proof.Machine.execWriteAcknowledgement txn s
  | .remoteRequest r => Sys2Proof.Machine.execRemoteRequest r s
  | .coarseMonitorFire => Sys2Proof.Machine.execCoarseMonitorFire s
  | .mwaitTimeout => Sys2Proof.Machine.execMwaitTimeout s
  | .waitExpiry => Sys2Proof.Machine.execWaitExpiry s
  | .wfiTimeout => Sys2Proof.Machine.execWfiTimeout s
  | .shipRequest r => Sys2Proof.Machine.execShipRequest r s
  | .sectionStart lc => Sys2Proof.Machine.execSectionStart lc s
  | .sectionOverrun lc => Sys2Proof.Machine.execSectionOverrun lc s
  | .shipResult r => Sys2Proof.Machine.execShipResult r s
  | .jobBarrierArrival ctx id phase device => Sys2Proof.Machine.execJobBarrierArrival ctx id phase device s
  | .jobBarrierRelease ctx id phase status => Sys2Proof.Machine.execJobBarrierRelease ctx id phase status s
  | .stopMessage tag serial conductor => Sys2Proof.Machine.execStopMessage tag serial conductor s
  | .gangClose tag => Sys2Proof.Machine.execGangClose tag s
  | .sweepMarker port vc tag serial => Sys2Proof.Machine.execSweepMarker port vc tag serial s
  | .swept tag serial device => Sys2Proof.Machine.execSwept tag serial device s
  | .gangSwitchTimeout tag => Sys2Proof.Machine.execGangSwitchTimeout tag s
  | .lateFlit port vc flit => Sys2Proof.Machine.execLateFlit port vc flit s
  | .restoreMessage tag serial conductor => Sys2Proof.Machine.execRestoreMessage tag serial conductor s
  | .restored tag serial device => Sys2Proof.Machine.execRestored tag serial device s
  | .restoreTimeout tag => Sys2Proof.Machine.execRestoreTimeout tag s
  | .go tag serial => Sys2Proof.Machine.execGo tag serial s
  | .stay tag serial => Sys2Proof.Machine.execStay tag serial s
  | .reinjectEnd tag => Sys2Proof.Machine.execReinjectEnd tag s
  | .running tag serial device => Sys2Proof.Machine.execRunning tag serial device s
  | .jobAdmit entry => Sys2Proof.Machine.execJobAdmit entry s
  | .jobFree entry => Sys2Proof.Machine.execJobFree entry s
  | .flitReceive port bits => Sys2Proof.Machine.execFlitReceive port bits s
  | .nak port seq => Sys2Proof.Machine.execNak port seq s
  | .linkReplayTimeout port => Sys2Proof.Machine.execLinkReplayTimeout port s
  | .channelDip port channel => Sys2Proof.Machine.execChannelDip port channel s
  | .channelLossDecision port channel lost => Sys2Proof.Machine.execChannelLossDecision port channel lost s
  | .stripe port rxmap epoch seq => Sys2Proof.Machine.execStripe port rxmap epoch seq s
  | .channelRestore port channel => Sys2Proof.Machine.execChannelRestore port channel s
  | .stripeTimeout port => Sys2Proof.Machine.execStripeTimeout port s
  | .portTrain port ok peer peerPort => Sys2Proof.Machine.execPortTrain port ok peer peerPort s
  | .keyRefresh port transmit => Sys2Proof.Machine.execKeyRefresh port transmit s
  | .routeUpdate device port live => Sys2Proof.Machine.execRouteUpdate device port live s
  | .lossNotice txn => Sys2Proof.Machine.execLossNotice txn s
  | .requestTimeout txn => Sys2Proof.Machine.execRequestTimeout txn s
  | .deviceUnreachable device => Sys2Proof.Machine.execDeviceUnreachable device s
  | .deviceReachable device => Sys2Proof.Machine.execDeviceReachable device s
  | .laserFault source => Sys2Proof.Machine.execLaserFault source s
  | .laserRemoved source => Sys2Proof.Machine.execLaserRemoved source s
  | .laserReturn source => Sys2Proof.Machine.execLaserReturn source s
  | .portDisable port => Sys2Proof.Machine.execPortDisable port s
  | .portEnable port => Sys2Proof.Machine.execPortEnable port s
  | .contextCreate ctx => Sys2Proof.Machine.execContextCreate ctx s
  | .contextTableClear ctx => Sys2Proof.Machine.execContextTableClear ctx s
  | .launchDoorbell ctx => Sys2Proof.Machine.execLaunchDoorbell ctx s
  | .hostEventWrite => Sys2Proof.Machine.execHostEventWrite s
  | .hostBar2Access address access => Sys2Proof.Machine.execHostBar2Access address access s
  | .filairRetrain => Sys2Proof.Machine.execFilairRetrain s
  | .gangSave => Sys2Proof.Machine.execGangSave s
  | .gangRestore => Sys2Proof.Machine.execGangRestore s
  | .attest => Sys2Proof.Machine.execAttest s
  | .replaceFirmware image => Sys2Proof.Machine.execReplaceFirmware image s
  | .fenceDie => Sys2Proof.Machine.execFenceDie s
  | .warmStart outcome => Sys2Proof.Machine.execWarmStart outcome s
  | .coldStart outcome => Sys2Proof.Machine.execColdStart outcome s
  | .startRetry outcome => Sys2Proof.Machine.execStartRetry outcome s
  | .channelSpare stack channel => Sys2Proof.Machine.execChannelSpare stack channel s
  | .spareCopyEnd stack => Sys2Proof.Machine.execSpareCopyEnd stack s
  | .registerWrite offset bytes value => Sys2Proof.Machine.execRegisterWrite offset bytes value s
  | .pcComparatorHit w comparator => Sys2Proof.Machine.execPcComparatorHit w comparator s
  | .zouStep => Sys2Proof.Machine.execZouStep s
  | .zouResume => Sys2Proof.Machine.execZouResume s
  | .debugSplitDetach w thread => Sys2Proof.Machine.execDebugSplitDetach w thread s
  | .debugSplitReattach w into => Sys2Proof.Machine.execDebugSplitReattach w into s
  | .zouKill w threads => Sys2Proof.Machine.execZouKill w threads s
  | .pcSample core => Sys2Proof.Machine.execPcSample core s
  | .delayExchange => Sys2Proof.Machine.execDelayExchange s
  | .trialEnd ctx => Sys2Proof.Machine.execTrialEnd ctx s
  | .instructionFetch => Sys2Proof.Machine.execInstructionFetch s
  | .notAnInstruction => Sys2Proof.Machine.execNotAnInstruction s
  | .powerOn => Sys2Proof.Machine.execPowerOn s
  | .dieToDieLinkFailure a b => Sys2Proof.Machine.execDieToDieLinkFailure a b s
  | .filairDown => Sys2Proof.Machine.execFilairDown s
  | .filairReturn => Sys2Proof.Machine.execFilairReturn s
  | .heldServiceEventWrite die => Sys2Proof.Machine.execHeldServiceEventWrite die s
  | .channelSignalReturn port channel => Sys2Proof.Machine.execChannelSignalReturn port channel s

end Sys2Proof.Machine
end

