-- ==== Sys2Proof/Machine/Issue.lean ====
section
/-! DEFINITION. Whose turn is next: time, issue on a lane (R53, R54, R111, R314, R319, R320, R387, R389, R485) and
the choice among everything that may happen (R325). -/

namespace Sys2Proof.Machine

/-! ### Lane clocks (R111, R319) -/

/-- R111: lane clocks for each acting thread. DEDUCED (log 147): 'on f64' is the instruction's TY, that of a conversion's source or not. -/
def clocksPerThread : Instr → Nat
  | .div _ | .rem _ => 16
  | .frcp o | .fsqrt o | .fdiv o => match o.ty with | .f64 => 16 | .f16x2 | .bf16x2 => 8 | _ => 4
  | .frsq o | .fex2 o | .flg2 o | .fsin o | .fcos o | .ftanh o => match o.ty with | .f16x2 | .bf16x2 => 8 | _ => 4
  | .fadd o | .fsub o | .fmul o | .ffma o | .fmin o | .fmax o | .fabs o | .fneg o | .fcmp o | .fclass o | .frnd o
  | .fscale o | .fdp2 o | .cvt o | .cvtsr o | .qpk o | .qupk o => if o.ty = .f64 then 4 else 1
  | _ => 1

/-- R319: instructions that act once for each execution. -/
def actsOnce : Instr → Bool
  | .tdset .. | .tdget .. | .tlset .. | .tlst .. | .tlwait .. | .tlfree .. | .vclaim .. | .vrel .. | .cpin .. | .cpout ..
  | .gth .. | .sct .. | .opfence .. | .post .. | .tkwait .. | .tktest .. | .tkfree .. | .fcset .. | .fcpub .. | .fcstat ..
  | .bara .. | .barw .. | .bars .. | .qpush .. | .qpop .. | .rgive .. | .rclaim .. | .sint .. | .sret .. | .tlbinv ..
  | .replay .. | .ctxkill .. | .lnch .. | .gsave .. | .grest .. | .trial .. | .wfi .. | .cpmm .. | .coll .. => true
  | _ => false

/-- R319: lane clocks that an instruction occupies. -/
def laneClocks (i : Instr) (threads : Nat) : Nat :=
  if i = .fillWord then 0 else if threads = 0 || actsOnce i then 1 else clocksPerThread i * threads

/-! ### What issue counts (R384, R387, R389) -/

/-- R387: an instruction inside an experiment's range delays the other splits of its context on the die. -/
def State.charge (s : State) (w : Who) (k : Split) (clocks : Nat) : State :=
  let c := s.ctxOf w
  match s.agentOf w, (s.ctx c).trial with
  | .wide core, some t =>
    if t.lo ≤ k.pc && k.pc < t.hi then
      let d := clocks * t.s / 256
      let die := core / 64
      let t := { t with total := write 0 t.total die (readOr 0 t.total die + d), fresh := write 0 t.fresh die (readOr 0 t.fresh die + d) }
      (s.setCtx c { s.ctx c with trial := some t }).mapSplit w fun k => { k with paid := k.paid + d }
    else s
  | _, _ => s

/-- R386: an instruction occupies the lane of a wide-core warp. -/
def State.onLane (s : State) (w : Who) (pc : DWord) : State :=
  match w, s.agentOf w with
  | .warp t n _, .wide core | .handler t n, .wide core =>
    match (look s.teams t).bind fun x => x.warps[n]? with
    | some wp => s.setCore core { s.core core with lanes := place (s.core core).lanes wp.lane (w, pc) }
    | none => s
  | _, _ => s

/-- R319, R389: what issuing an instruction counts, by the threads that act; R384: a step has issued its instruction. DEDUCED (log 85): an
instruction that steps 7 to 9 of R54 stop has issued and counts, a word that is rejected counts nothing. -/
def State.counted (s : State) (w : Who) (k : Split) (i : Instr) : State :=
  let c := s.ctxOf w
  let d := (s.agentOf w).die
  let n := ((State.env { s with focus := w }).map fun e => Mask.size (e.exm (instrPre i))).getD 0
  let clocks := laneClocks i n
  let s := (((s.count d c 0x02 1).count d c 0x03 n).count d c 0x04 clocks).onLane w k.pc
  (s.charge w k clocks).mapSplit w fun k => { k with stepped := k.stepping }

/-- The state in which an instruction that a strand issues takes its effect: the strand is in focus, and the
instruction has been counted, once. -/
def State.issuing (s : State) (w : Who) (k : Split) (i : Instr) : State :=
  let s := { s with focus := w }
  if i = .fillWord then s else if k.again then s.mapSplit w fun k => { k with stepped := k.stepping } else s.counted w k i

/-- R384: a step that has issued its instruction ends behind it. -/
def ending (w : Who) : Out → Out
  | .next s => .next (s.endStep w)
  | r => r

/-! ### Turns -/

/-- R54, R314, R380, R485: a strand issues what it has fetched; a comparator fires first. -/
def issue (w : Who) (s : State) : Out :=
  match s.strand? w with
  | none => .fault .noStrand
  | some st =>
    let k := st.split (splitNo w)
    match k.fetched with
    | none => ending w (exec .instructionFetch { s with focus := w })
    | some d =>
      match (List.range 16).find? (s.comparatorFires w) with
      | some n => exec (.pcComparatorHit w n) s
      | none =>
        match d with
        | .instr i _ => ending w (exec i (s.issuing w k i))
        | .reject _ => ending w (exec .notAnInstruction ({ s with focus := w }.mapSplit w fun k => { k with stepped := k.stepping }))

/-- What another device, the host, a link or a die of this device may bring; anything else is no input. -/
def isInput : Instr → Bool
  | .remoteRequest .. | .shipRequest .. | .shipResult .. | .jobBarrierArrival .. | .jobBarrierRelease .. | .stopMessage ..
  | .sweepMarker .. | .swept .. | .lateFlit .. | .restoreMessage .. | .restored .. | .go .. | .stay .. | .running ..
  | .jobAdmit .. | .jobFree .. | .flitReceive .. | .nak .. | .channelDip .. | .stripe .. | .portTrain .. | .keyRefresh ..
  | .routeUpdate .. | .lossNotice .. | .laserFault .. | .laserRemoved .. | .laserReturn .. | .launchDoorbell ..
  | .hostBar2Access .. | .replaceFirmware .. | .warmStart .. | .coldStart .. | .channelSpare .. | .registerWrite ..
  | .debugSplitDetach .. | .debugSplitReattach .. | .zouKill .. | .dieToDieLinkFailure .. | .channelSignalReturn ..
  | .filairRetrain | .filairDown | .filairReturn | .powerOn | .writeAcknowledgement .. | .collectiveComplete ..
  | .copyComplete .. | .cpmmComplete .. | .forecastPrediction .. | .forecastCapture .. | .taskComplete .. => true
  | _ => false

/-- R17, R74: the next service that system software starts, where its thread is free and its context exists. -/
def State.nextService (s : State) : Option (Nat × Nat × DWord) :=
  s.services.find? fun (lc, c, _) => lc < 64 && !(s.lc lc).t1.active && (s.ctx c).valid

/-- R17, R74: system software starts a service on thread 1 of a latency core, in a context, at an entry; its first instruction
is a region entry. DESIGN CHOICE (log 102): `%sstat` is 0. -/
def State.startService (s : State) : State :=
  match s.nextService with
  | none => s
  | some (lc, c, entry) =>
    let st := { latStrand with regs := (s.lc lc).t1.main.regs, splits := [Split.go { exm := 1, fresh := true, rgn := entry } entry s.nextKey] }
    { s.setLc lc { s.lc lc with t1 := { main := st, ctx := c, active := true } } with services := s.services.erase (lc, c, entry) }

/-- One turn. -/
def runTurn (t : Turn) (s : State) : Out :=
  match t with
  | .issue w => issue w s
  | .about w i => ending w (exec i { s with focus := w })
  | .event i => exec i s
  | .input =>
    match s.inputs with
    | [] => .next s.bump
    | i :: rest => if isInput i then exec i { s with inputs := rest } else .next { s.bump with inputs := rest }
  | .router => .next (s.routerStep.getD s.bump)
  | .service => .next s.bump.startService
  | .farStop =>
    match s.farStops with
    | [] => .next s.bump
    | tag :: rest => .next ({ s.bump with farStops := rest }.farStop tag)
  | .hostRead =>
    match s.hostReads with
    | [] => .next s.bump
    | (off, n) :: rest => .next ({ s.bump with hostReads := rest }.hostRead off n)

/-! ### Time -/

/-- R286, R338, R430: a clock counter runs in a split that is not stopped and not displaced; that of `wfi` always runs. -/
def Split.tick (k : Split) (dt : Nat) (frozen : Bool) : Split :=
  if (k.stop || frozen) && k.park.map Park.cond ≠ some .serviceRing then k
  else { k with park := k.park.map fun p => { p with left := p.left.map (· - dt) } }

def Strand.tick (st : Strand) (dt : Nat) (frozen : Bool := false) : Strand := { st with splits := st.splits.map fun k => k.tick dt frozen }

/-- R402: the handler image runs in its warp's place. -/
def Warp.tick (w : Warp) (dt : Nat) (frozen : Bool := false) : Warp :=
  { w with main := w.main.tick dt (frozen || w.handler.isSome), handler := w.handler.map fun h => h.tick dt frozen }

/-- R387: clocks for which a READY split is held. -/
def Split.owes (k : Split) (total dt : Nat) : Nat := if k.st = .ready && !k.stop then min dt (total - k.paid) else 0

def Split.pay (k : Split) (total dt : Nat) : Split := { k with paid := k.paid + k.owes total dt }

def Strand.pay (st : Strand) (total dt : Nat) : Strand := { st with splits := st.splits.map fun k => k.pay total dt }

def Strand.owes (st : Strand) (total dt : Nat) : Nat := (st.splits.map fun k => k.owes total dt).sum

/-- R387: the delay total of a context on a core's die. -/
def Ctx.delay (x : Ctx) (core : Nat) : Nat :=
  match x.trial with
  | some t => readOr 0 t.total (core / 64)
  | none => 0

/-- R387, R389: a team's splits are held. -/
def State.payTeam (s : State) (t : Nat) (x : Team) (core dt : Nat) : State :=
  let total := (s.ctx x.ctx).delay core
  let owed := (x.warps.map fun w => w.main.owes total dt + match w.handler with | some h => h.owes total dt | none => 0).sum
  if owed = 0 then s
  else (s.mapTeam t fun x => { x with warps := x.warps.map fun w =>
      { w with main := w.main.pay total dt, handler := w.handler.map fun h => h.pay total dt } }).count (core / 64) x.ctx 0x0D owed

/-- R70, R234, R338, R386, R389: clocks pass on a wide core. -/
def State.tickCore (s : State) (c dt : Nat) : State :=
  let x := s.core c
  let s := s.setCore c { x with clk := x.clk + BitVec.ofNat 64 dt, wcb := mapVals x.wcb fun _ w => { w with age := w.age + dt } }
  let here := s.teams.filter fun (_, t) => t.core = some c
  let s := (here.map fun (_, t) => t.ctx).eraseDups.foldl (fun s n => s.count (c / 64) n 0x01 dt) s
  here.foldl (fun s (t, y) => (s.payTeam t y c dt).mapTeam t fun y => { y with warps := y.warps.map fun w => w.tick dt }) s

/-- R365, R377: a thread of a latency core; no stop counts against the watchdog of the section that it serves. -/
def LatThread.tick (h : LatThread) (dt : Nat) : LatThread :=
  { h with spent := if h.serving.isSome && !(h.main.split 0).stop then h.spent + dt else h.spent,
           main := h.main.tick dt h.handler.isSome, handler := h.handler.map fun st => st.tick dt }

/-- R389: matrix-engine clocks of a core's tasks. -/
def State.tickEngines (s : State) (c dt : Nat) : State :=
  (s.tasks.filter fun (_, k) => k.core = c && k.running).foldl (fun s (_, k) => s.count (c / 64) k.ctx 0x08 dt) s

def State.tickLc (s : State) (l dt : Nat) : State :=
  let x := s.lc l
  s.setLc l { x with clk := x.clk + BitVec.ofNat 64 dt, t0 := x.t0.tick dt, t1 := x.t1.tick dt }

/-- R387, R408, R430: clocks of a die; by them a team that is away waits in `wfi`. -/
def State.tickDie (s : State) (d dt : Nat) : State :=
  let s := s.setDie d { s.die d with clk := (s.die d).clk + BitVec.ofNat 64 dt }
  let s := { s with teams := mapVals s.teams fun _ x =>
      if x.core.isNone && x.die = d then { x with warps := x.warps.map fun (w : Warp) => w.tick dt true } else x }
  { s with ctxs := mapVals s.ctxs fun _ x =>
      { x with trial := x.trial.map fun (t : Experiment) => if t.die = d then { t with left := t.left - dt } else t } }

/-- Time passes between two steps: how much on each core and die is free (notes/assumptions/1.md). -/
def State.tick (s : State) : State :=
  let n := s.oracle
  let s := (List.range 256).foldl (fun s c => (s.tickCore c (Config.elapsed c n)).tickEngines c (Config.elapsed c n)) s
  let s := (List.range 64).foldl (fun s l => s.tickLc l (Config.elapsed (256 + l) n)) s
  ((List.range 4).foldl (fun s d => s.tickDie d (Config.elapsed (320 + d) n)) s).spend 1

/-! ### Issue on a lane (R320, R324, R387) -/

/-- A split that may issue: its lane, and its rank there. -/
structure Ready where
  who   : Who
  lane  : Nat
  since : Nat
  place : Nat
  split : Nat
  deriving DecidableEq, Repr

/-- R320: does a split of the same lane come first. -/
def Ready.before (a b : Ready) : Bool :=
  a.lane = b.lane && (a.since < b.since || (a.since = b.since && (a.place < b.place || (a.place = b.place && a.split < b.split))))

/-- R324, R387: may a split issue. -/
def Split.mayIssue (k : Split) (total : Nat) : Bool := k.st = .ready && !k.stop && total ≤ k.paid

/-- The splits of a strand that may issue. -/
def Strand.ready (st : Strand) (total : Nat) : List (Nat × Split) := st.splits.zipIdx.filterMap fun (k, i) => if k.mayIssue total then some (i, k) else none

/-- R402: the splits of a resident warp, or of its handler image, that may issue. -/
def Warp.ready (wp : Warp) (t w core total : Nat) : List Ready :=
  let lane := 64 * core + wp.lane
  match wp.handler with
  | some h => (h.ready total).map fun (i, k) => { who := .handler t w, lane := lane, since := k.since, place := wp.place, split := i }
  | none => (wp.main.ready total).map fun (i, k) => { who := .warp t w i, lane := lane, since := k.since, place := wp.place, split := i }

/-- The splits of wide cores that may issue. -/
def State.wideReady (s : State) : List Ready :=
  s.teams.flatMap fun (t, x) =>
    match x.core with
    | none => []
    | some c => x.warps.zipIdx.flatMap fun (wp, w) => wp.ready t w c ((s.ctx x.ctx).delay c)

/-- R320: on each lane, the one that has waited longest. -/
def firstOnLane (rs : List Ready) : List Who := (rs.filter fun r => !rs.any fun x => x.before r).map Ready.who

/-- R17: threads of latency cores that may issue. -/
def State.latReady (s : State) : List Who :=
  s.lcs.flatMap fun (l, x) =>
    [0, 1].filterMap fun th =>
      let h := x.thread th
      if h.active && !((h.handler.getD h.main).ready 0).isEmpty then some (Who.lat l th) else none

/-! ### What strands wait for -/

/-- Every split of a strand. -/
def splitsOf (st : Strand) (f : Nat → Who) : List (Who × Strand × Split) := st.splits.zipIdx.map fun (k, i) => (f i, st, k)

/-- Every split, with whether it is resident and not displaced. -/
def State.actors (s : State) : List (Bool × Who × Strand × Split) :=
  (s.teams.flatMap fun (t, x) => x.warps.zipIdx.flatMap fun (wp, w) =>
    ((splitsOf wp.main fun i => .warp t w i).map fun a => (x.core.isSome && wp.handler.isNone, a)) ++
    match wp.handler with
    | some h => (splitsOf h fun _ => .handler t w).map fun a => (x.core.isSome, a)
    | none => []) ++
  (s.lcs.flatMap fun (l, x) => [0, 1].flatMap fun th =>
    let h := x.thread th
    if h.active then (splitsOf (h.handler.getD h.main) fun _ => .lat l th).map fun a => (true, a) else [])

/-- R322: what may happen to one split on account of its park. -/
def State.parkTurns (s : State) (w : Who) (k : Split) : List Turn :=
  match ({ s with focus := w }).env, k.park with
  | some e, some p =>
    (if s.met e p.cond && !((k.stop || s.away w) && k.wake) then [Turn.about w .splitWake] else []) ++
    (if p.left = some 0 && !k.stop then
      match p.cond with
      | .monitor => [.about w .mwaitTimeout]
      | .clocks => [.about w .waitExpiry]
      | .serviceRing => [.about w .wfiTimeout]
      | _ => []
     else [])
  | _, _ => []

/-- What may happen to one split beside issue; the debugger steps or resumes a stopped one, and may cancel a step that
waits. -/
def State.splitTurns (s : State) (a : Bool × Who × Strand × Split) : List Turn :=
  let (here, w, st, k) := a
  (if k.st = .fetch && here then [Turn.about w .instructionFetch] else []) ++
  (if k.st = .parked || k.st = .interlock then s.parkTurns w k else []) ++
  (if splitNo w = 0 && !st.inbound.isEmpty then [.about w .resultReturn] else []) ++
  (if k.mon.any fun m => m.coarse && !m.hit then [.about w .coarseMonitorFire] else []) ++
  (if k.stop then [.about w .zouStep, .about w .zouResume] else []) ++
  (if k.stepWaits then [.about w .zouStep] else [])

/-! ### What the rest of the device may do -/

/-- Accesses and homes. -/
def State.memoryTurns (s : State) : List Instr :=
  (s.out.map fun (k, _) => .homeWriteRequest k) ++
  (s.held.flatMap fun (k, o) =>
    let deaf := o.awaits.filter fun c => !o.silent.contains c
    (deaf.map fun c => .invalidation k c) ++ (if deaf.isEmpty then [.invalidationAck k] else [.sharerTimeout k])) ++
  ((keep s.reads fun _ u => u.txn.isNone).map fun (k, _) => .homeRead k) ++
  (s.loads.filterMap fun (k, l) => l.failed.map fun f => .lateAccessFailure k (if f.2 = causeCode .permission then .refused else .dataError)) ++
  (s.cores.filterMap fun (c, x) => if someVal x.wcb fun _ w => s.wcbAged c w then some (.wcbAgeing c) else none) ++
  s.remote.map fun (t, _) => .requestTimeout t

/-- Copies, tasks, collectives and the forecast unit. -/
def State.engineTurns (s : State) : List Instr :=
  let n := Config.pick (s.oracle + 1)
  (s.copies.flatMap fun (k, c) => [Stop.none, .part n].map fun st => if c.kind = .cpmm then .cpmmComplete k st else .copyComplete k st) ++
  ((s.tasks.map fun (_, k) => k.core).eraseDups.map .taskIssue) ++
  ((keep s.tasks fun _ k => k.running).flatMap fun (k, _) => [.taskComplete k .none, .taskComplete k (.part n)]) ++
  (s.colls.flatMap fun (k, _) => [.collectiveComplete k .none [], .collectiveComplete k (.part n) []]) ++
  (s.checks.flatMap fun (k, _) => [.forecastPrediction k .none, .tceCheck k]) ++
  (keep s.hists fun _ h => h.capture.isSome).flatMap fun (k, _) => [.forecastCapture k .none, .forecastCapture k (.part n)]

/-- Shipped requests, sections and results. -/
def State.shipTurns (s : State) : List Instr :=
  (s.cores.filterMap fun (_, c) => (s.nextRequest c).map .shipRequest) ++
  (s.lcs.flatMap fun (l, x) =>
    (if x.t0.serving.isNone && !(x.homeq.isEmpty && x.doorq.isEmpty) then [.sectionStart l] else []) ++
    (if x.t0.serving.isSome then [.sectionOverrun l] else [])) ++
  s.results.map .shipResult ++
  s.remote.filterMap fun (_, x) => if x.sent then x.ship.map .shipRequest else none

/-- R309, R344: conversions that a placement waits for, of every core that takes a team of the band. -/
def State.conversions (s : State) (d : Nat) : List Instr :=
  let plans := s.ctxs.flatMap fun (c, _) =>
    if !s.mayRun c then []
    else ((s.swappedBands c).filterMap fun ts => State.plan d ts s) ++
      ((s.freshBands d c).findSome? fun (l, y, b) => s.planBand l y d b).toList ++ (s.planAtBarrier d c).toList
  plans.flatten.filterMap fun (_, c, n) => if n = 0 then none else some (.scratchpadBlockConversion c n)

/-- Launches, distributors and clocks. -/
def State.placeTurns (s : State) : List Instr :=
  (s.ctxs.filterMap fun (c, x) => if x.queue.isEmpty then none else some (.launchAccept c)) ++
  ((List.range 4).flatMap fun d =>
    (s.ctxs.filterMap fun (c, _) =>
      if (s.swappedBands c).isEmpty && (s.placingOrder c).isEmpty then none else some (.teamPlacement d c)) ++
    s.conversions d ++
    (if s.dry d then [.stealMessage d] else []) ++
    (if someVal s.launches fun _ l => 1 < l.record.stages.length then [.stageReview d] else []) ++
    if s.teams.isEmpty then [] else [.contextTurn d]) ++
  (s.cores.filterMap fun (c, x) => if x.spare.isEmpty then none else some (.scratchpadBlockConversion c 0)) ++
  ((s.teams.filterMap fun (_, t) => t.core).eraseDups.flatMap fun c => [.frequencyStep c true, .frequencyStep c false])

/-- R437 to R447: switches in progress. -/
def State.gangTurns (s : State) : List Instr :=
  s.hub.jobs.flatMap fun (_, j) =>
    (if j.st = .stopping then [.gangClose j.tag] else []) ++
    (if j.st = .restoring && j.going then [.reinjectEnd j.tag] else []) ++
    (if j.conducts then (if j.st = .restoring || j.went then [.restoreTimeout j.tag] else [.gangSwitchTimeout j.tag]) else [])

/-- How a start may end. -/
def startOutcomes : List StartOutcome := [.good, .failed 1, .failed 2, .failed 3, .failed 4, .failed 5]

/-- R449, R476: the command in the mailbox. -/
def State.commandTurns (s : State) : List Instr :=
  (if s.hub.mode = .starting then startOutcomes.map .startRetry else []) ++
  if !s.hub.busy then []
  else
    match s.hub.mbcmd with
    | 1 => [.gangSave]
    | 2 => [.gangRestore]
    | 3 => [.attest]
    | 5 => [.fenceDie]
    | 6 => startOutcomes.map .warmStart
    | 7 => startOutcomes.map .coldStart
    | _ => []

/-- R464 to R474: ports. -/
def State.portTurns (s : State) : List Instr :=
  (s.hub.ports.flatMap fun (p, x) =>
    (if x.unacked.isEmpty then [] else [.linkReplayTimeout p]) ++
    (if x.stripe.isSome then [.stripeTimeout p] else []) ++
    ((List.range 16).flatMap fun c =>
      (if x.dipped.getLsbD c then [.channelLossDecision p c true, .channelLossDecision p c false] else []) ++
      if x.back.getLsbD c then [.channelRestore p c] else []) ++
    (if x.disable then [.portDisable p] else [])) ++
  (((List.range 64).filter fun p => isPort p && !(s.port p).disable && (s.port p).st = 0).map .portEnable)

/-- R472: devices that this one has something to do with. -/
def State.devices (s : State) : List Nat :=
  ((s.hub.groups.flatMap fun (_, g) => s.members g) ++ (s.remote.map fun (p : Nat × RemoteOp) => p.2.dev) ++ s.hub.unreachable).eraseDups.filter (· ≠ s.dev)

/-- The hub die: contexts, events, devices, spares. -/
def State.hubTurns (s : State) : List Instr :=
  s.gangTurns ++ s.commandTurns ++ s.portTurns ++
  (s.devices.flatMap fun d => [.deviceUnreachable d, .deviceReachable d]) ++
  ((List.range 64).flatMap fun c =>
    if (s.ctx c).valid then (if (s.ctx c).dying || s.tableEntry c % 2 = 0 then [.contextTableClear c] else [])
    else if s.tableEntry c % 2 = 1 then [.contextCreate c] else []) ++
  (if s.hub.evWait.isEmpty then [] else [.hostEventWrite]) ++
  s.hub.sparing.map fun (k, _) => .spareCopyEnd k

/-- Faults and service events that wait, experiments and samples. -/
def State.serviceTurns (s : State) : List Instr :=
  (s.dies.flatMap fun (d, x) =>
    (if x.entries.any FaultEntry.held then [.heldFaultWrite d] else []) ++ if x.heldSv.isEmpty then [] else [.heldServiceEventWrite d]) ++
  (s.ctxs.filterMap fun (c, x) => if x.trial.any fun t => t.left = 0 then some (.trialEnd c) else none) ++
  (if someVal s.ctxs fun _ x => x.trial.any fun t => !t.fresh.isEmpty then [.delayExchange] else []) ++
  s.cores.filterMap fun (c, _) => if s.sampleDue c then some (.pcSample c) else none

/-- R365, R371: sections at their watchdog limit end before anything else happens; a `ret` in the same clock wins. -/
def State.overdueTurns (s : State) : List Turn :=
  s.lcs.flatMap fun (l, x) =>
    if !s.overdue l then []
    else .event (.sectionOverrun l) :: match (x.t0.main.split 0).fetched with
      | some (.instr (.ret _ _ _) _) => if x.t0.spent = s.watchdog x.t0.ctx && s.latReady.contains (.lat l 0) then [.issue (.lat l 0)] else []
      | _ => []

/-- R325: what may happen next. -/
def State.enabled (s : State) : List Turn :=
  if !s.overdueTurns.isEmpty then s.overdueTurns
  else
  (firstOnLane s.wideReady ++ s.latReady).map .issue ++ s.actors.flatMap s.splitTurns ++
  (s.memoryTurns ++ s.engineTurns ++ s.shipTurns ++ s.placeTurns ++ s.hubTurns ++ s.serviceTurns).map .event ++
  (if s.inputs.isEmpty then [] else [.input]) ++ (if s.routerStep.isSome then [.router] else []) ++
  (if s.nextService.isSome then [.service] else []) ++ (if s.farStops.isEmpty then [] else [.farStop]) ++
  if s.hostReads.isEmpty then [] else [.hostRead]

/-- R325: time passes, and the device chooses among what may happen; the choice is free. -/
def advance (s : State) : Out :=
  let s := s.observe.tick.settleGone.endLaunches.keepBlocks.keepImages
  let ts := s.enabled
  match ts[Config.pick s.oracle % ts.length]? with
  | none => .next s.bump
  | some t => runTurn t (s.spend 1)

/-! ### An instruction placed for the first fetch -/

/-- The strand that the first fetch needs where no program has been loaded: one warp of one team on wide core 0,
with the register count and the privilege that every instruction may need (notes/assumptions/2.md). -/
def loadedTeam : Team :=
  { core := some 0,
    warps := [{ main := { nreg := 128, live := 0xFFFFFFFF,
                          splits := [{ pc := 0x10000, exm := 0xFFFFFFFF, st := .ready, fresh := true }] } }] }

/-- A state in which the strand in focus exists. -/
def State.loaded (s : State) : State :=
  if (s.strand? s.focus).isSome then s
  else
    { s with focus := .warp s.nextKey 0 0, nextKey := s.nextKey + 1,
             teams := place s.teams s.nextKey loadedTeam,
             ctxs := write {} s.ctxs 0 { s.ctx 0 with valid := true, priv := true } }

/-- The fetch block with an instruction of up to 16 bytes at its start. -/
def blockWith (nbits w : Nat) : List Byte := leBytes 32 (w % 2 ^ nbits)

/-- Places an instruction where the split in focus fetches it: at the start of its fetch block. -/
def Split.withWord (k : Split) (nbits w : Nat) : Split :=
  { k with pc := blockBase k.pc, st := .ready, park := none, stop := false,
           block := some { base := blockBase k.pc, bytes := blockWith nbits w } }

end Sys2Proof.Machine
end

