-- ==== Sys2Proof/Machine/Step.lean ====
section
/-! DEFINITION. One step of the device. -/

namespace Sys2Proof.Machine

/-- One step: the turn that has been set, or one of the things that may happen next. -/
def step (s : State) : Host.Outcome State Fault Refusal :=
  match s.turn with
  | some t => runTurn t { s with turn := none }
  | none => advance s

/-- The state with an instruction placed where the strand in focus fetches next, and that strand's turn set
(notes/assumptions/2.md). -/
def State.withFetchWord (s : State) (nbits w : Nat) : State :=
  let s := s.loaded
  { s.mapSplit s.focus (fun k => k.withWord nbits w) with turn := some (.issue s.focus) }

end Sys2Proof.Machine
end

