-- ==== Sys2Proof/Safety.lean ====
section
/-! DEFINITION. What counts as a safe step, and the words in which claims are stated: how an instruction is entered,
what it leaves of the rest of the machine, and what it leaves of its own strand. -/

namespace Sys2Proof.Machine

/-- The machine goes on from a state. -/
def goesOn (s : State) : Prop := ∃ t, step s = .next t

/-- R217: the memory of a state has its canonical form. -/
def State.memoryWf (s : State) : Prop := Memory.wf s.mem = true

/-! ### The rest of the machine -/

/-- All of a state but one strand: without that strand, without the marks on tasks that hold its registers (R181), and
without the model's own counters. -/
def State.elsewhere (s : State) (w : Who) : State :=
  { s.mapStrand w fun _ => {} with tasks := mapVals s.tasks fun _ k => { k with spoiled := [] }, nextKey := 0, oracle := 0 }

/-- All of a strand but its registers, its flags and its splits. -/
def Strand.aside (st : Strand) : Strand := { st with regs := [], older := [], sstat := 0, splits := [] }

/-! ### How an instruction is entered -/

/-- The strand in focus enters an instruction: it exists and has the split, waits for nothing (R241, R242, R314), raises
none of the causes of R54 steps 6 to 9, and has entered the region where the instruction does (R52). The instruction
takes its effect in state `s'`, seen as `e`. -/
structure Enters (i : Instr) (s s' : State) (e : Env) : Prop where
  waits : ∃ e₀, s.env = some e₀ ∧ e₀.stall i s = none ∧ gate i e₀ = none
  entry : s' = s.enterRegion s.focus (instrPre i).re
  env   : s'.env = some e
  split : e.k < e.st.splits.length

/-- R40 to R43: source B can be read in state `s`, as the function `b` of the thread; `s'` is the state after the read,
which leaves the strand as it was. -/
structure Env.ReadsB (e : Env) (o : Alu) (wide : Bool) (s s' : State) (b : Nat → DWord) : Prop where
  value  : ∀ body, e.withB (e.exm o.p) o.b wide (widenOp o.ty) s body = body b s'
  strand : s'.strand? e.who = s.strand? e.who

/-! ### What an instruction leaves of its strand -/

/-- The registers of a strand after one word has been written in the threads of a mask. -/
def Env.withWord (e : Env) (m : Mask) (d : RegNo) (f : Nat → Word) (n u : Nat) : Word :=
  if d ≠ 0 ∧ n = d.toNat ∧ m.getLsbD u then f u else e.st.reg n u

/-- The registers of a strand after a pair has been written in the threads of a mask. -/
def Env.withPair (e : Env) (m : Mask) (d : RegNo) (f : Nat → DWord) (n u : Nat) : Word :=
  if d ≠ 0 ∧ m.getLsbD u ∧ n = d.toNat then (f u).extractLsb' 0 32
  else if d ≠ 0 ∧ m.getLsbD u ∧ n = d.toNat + 1 then (f u).extractLsb' 32 32
  else e.st.reg n u

/-- The registers of a strand after a word or a pair has been written in the threads of a mask. -/
def Env.withResult (e : Env) (m : Mask) (d : RegNo) (wide : Bool) (f : Nat → DWord) : Nat → Nat → Word :=
  if wide then e.withPair m d f else e.withWord m d fun u => lowWord (f u)

/-- Between states `s` and `t` the strand of `e` has gone on to `pc`, with registers and status register as given; all
else that the strand has, its other splits, all the rest of the machine and every byte of memory are as they were. -/
def Ran (e : Env) (s t : State) (pc : DWord) (regs : Nat → Nat → Word) (sstat : Word) : Prop :=
  ∃ st, t.strand? e.who = some st ∧
    (∀ n u, u < 32 → st.reg n u = regs n u) ∧ st.sstat = sstat ∧ st.aside = e.st.aside ∧
    (st.split e.k).pc = pc ∧ (st.split e.k).exm = e.sp.exm ∧ (∀ j, j ≠ e.k → st.split j = e.st.split j) ∧
    t.elsewhere e.who = s.elsewhere e.who ∧ ∀ a, byteAt t.mem a = byteAt s.mem a

/-- R321: between states `s` and `t` the strand of `e` has gone on to `pc`; results `rs`, each a register with its threads
and their values, are on their way, and SCORE holds them; all else is as it was, every byte of memory included. -/
def RanLater (e : Env) (s t : State) (pc : DWord) (rs : List (RegNo × Mask × (Nat → Word))) : Prop :=
  ∃ st, t.strand? e.who = some st ∧
    (∀ n u, u < 32 → st.reg n u = e.st.reg n u) ∧ st.sstat = e.st.sstat ∧
    st.inbound = e.st.inbound ++ rs.map (fun r => { reg := r.1.toNat, vals := (Mask.threads r.2.1).map fun u => (u, r.2.2 u) }) ∧
    (st.split e.k).score = e.sp.score ++ rs.map (fun r => { reg := r.1.toNat, mask := r.2.1 }) ∧
    { st.aside with inbound := e.st.inbound } = e.st.aside ∧
    (st.split e.k).pc = pc ∧ (st.split e.k).exm = e.sp.exm ∧ (∀ j, j ≠ e.k → st.split j = e.st.split j) ∧
    t.elsewhere e.who = s.elsewhere e.who ∧ ∀ a, byteAt t.mem a = byteAt s.mem a

/-- R36, R321: the results of a register or a pair; none for `v0` or without an acting thread. -/
def lateWords (m : Mask) (d : RegNo) (wide : Bool) (f : Nat → DWord) : List (RegNo × Mask × (Nat → Word)) :=
  if d = 0 ∨ m = 0 then []
  else (d, m, fun u => (f u).extractLsb' 0 32) :: if wide then [(d + 1, m, fun u => (f u).extractLsb' 32 32)] else []

/-- R10, R402: from state `s` the trap `tr` is taken; the model's own counters apart, nothing else happens. -/
def Traps (e : Env) (s t : State) (tr : Trap) : Prop :=
  ∃ n m, t = { ({ s with oracle := n } : State).takeTrap e.who tr with oracle := m }

/-- R402: the trap that the running instruction raises at its own address. -/
def Env.trapOf (e : Env) (c : Cause) (eaddr : DWord) (flags : Nat := 0) : Trap :=
  { split := e.k, ecause := ecauseOf c 0 flags, epc := e.sp.pc, eaddr := eaddr }

/-- An instruction of the INT, FLT or WARP group completes: wherever it enters and its source B can be read, it writes
`f` to register or pair D in the acting threads and goes on with the next instruction, and nothing else changes. -/
def Gives (i : Instr) (o : Alu) (wideB wideD : Bool) (f : Env → (Nat → DWord) → Nat → DWord) : Prop :=
  ∀ s s' s'' e b, Enters i s s' e → e.ReadsB o wideB s' s'' b →
    ∃ t, exec i s = .next t ∧ Ran e s'' t (e.next i) (e.withResult (e.exm o.p) o.d wideD (f e b)) e.st.sstat

/-- R113: an integer instruction completes with a function of its exact operands, clamped where SAT is 1. -/
def GivesInt (i : Instr) (o : Alu) (f : Int → Int → Int → Int) : Prop :=
  Gives i o o.ty.wide o.ty.wide fun e b u =>
    let x := f (readInt o.ty (e.srcA (e.exm o.p) o o.ty.wide u)) (readInt o.ty (b u)) (readInt o.ty ((e.reg o.c.toNat u).setWidth 64))
    placeInt o.ty (if o.sat then max (minInt o.ty) (min (maxInt o.ty) x) else x)

/-- An instruction completes with a function of its words A, B and C. -/
def GivesWord (i : Instr) (o : Alu) (f : Word → Word → Word → Word) : Prop :=
  Gives i o false false fun e b u =>
    (f (e.src (e.exm o.p) o.a o.ua u) ((b u).extractLsb' 0 32) (e.reg o.c.toNat u)).setWidth 64

/-- An instruction completes with a function of its pair A and its word B. -/
def GivesShift (i : Instr) (o : Alu) (f : DWord → Nat → DWord) : Prop :=
  Gives i o false true fun e b u => f (e.srcPair (e.exm o.p) o.a o.ua u) ((b u).extractLsb' 0 32).toNat

/-- R106 to R108: a floating-point instruction completes with results `r` of its threads: where none of the flags that
they raise is enabled, it writes its results, ORs the flags into FLG and goes on, and nothing else changes; where one is
enabled, it traps with the cause of R75, which names the enabled flags, and writes no result. -/
def FlagsResult (i : Instr) (o : Alu) (wideD : Bool) (s s'' : State) (e : Env) (r : Nat → DWord × Flags) : Prop :=
  let fl := orFlags ((Mask.threads (e.exm o.p)).map fun u => (r u).2)
  (fl &&& enables e.st.sstat = 0 → ∃ t, exec i s = .next t ∧
    Ran e s'' t (e.next i) (e.withResult (e.exm o.p) o.d wideD fun u => (r u).1) (e.st.sstat ||| fl.setWidth 32)) ∧
  (fl &&& enables e.st.sstat ≠ 0 → ∃ t a, exec i s = .next t ∧ Traps e s'' t (e.trapOf .float a (fl &&& enables e.st.sstat).toNat))

/-- A floating-point instruction completes with a function of its strand and source B. -/
def GivesFlags (i : Instr) (o : Alu) (wideB wideD : Bool) (f : Env → (Nat → DWord) → Nat → DWord × Flags) : Prop :=
  ∀ s s' s'' e b, Enters i s s' e → e.ReadsB o wideB s' s'' b → FlagsResult i o wideD s s'' e (f e b)

/-- R79, R126: a floating-point instruction completes element by element, each element with a code and flags. -/
def GivesCodes (i : Instr) (o : Alu) (f : Nat → Nat → Nat → Nat × Flags) : Prop :=
  GivesFlags i o o.ty.wide o.ty.wide fun e b u =>
    eachElement o.ty (e.srcA (e.exm o.p) o o.ty.wide u) (b u)
      (if o.ty.wide then e.pair o.c.toNat u else (e.reg o.c.toNat u).setWidth 64) f

/-- R126: a floating-point instruction completes with exact results, each rounded once. -/
def GivesFloat (i : Instr) (o : Alu) (f : Fp → Fp → Fp → Exact) : Prop :=
  let fmt := Ty.ieee o.ty
  GivesCodes i o fun a b c => fmt.deliver o.rm o.sat (f (fmt.value a) (fmt.value b) (fmt.value c))

/-! ### What control flow does -/

/-- Between states `s` and `t` only the splits and join records of the strand of `e` have changed: `st` is the strand
after it. -/
def KeepsRest (e : Env) (s t : State) (st : Strand) : Prop :=
  t.strand? e.who = some st ∧ (∀ n u, u < 32 → st.reg n u = e.st.reg n u) ∧ st.sstat = e.st.sstat ∧
  { st.aside with joins := e.st.joins } = e.st.aside ∧
  t.elsewhere e.who = s.elsewhere e.who ∧ ∀ a, byteAt t.mem a = byteAt s.mem a

/-- R322: between states `s` and `t` the split of `e` has parked at its instruction, which issues again once `cond` holds;
nothing else changes. -/
def Parks (e : Env) (s t : State) (reason : Nat) (cond : Wake) (left : Option Nat := none) : Prop :=
  ∃ st, KeepsRest e s t st ∧ st.joins = e.st.joins ∧
    st.split e.k = { e.sp with st := .parked, again := true, mark := none, park := some { reason := reason, cond := cond, left := left } } ∧
    ∀ j, j ≠ e.k → st.split j = e.st.split j

/-- R328: an instruction that has been entered goes to a target: a target with a set bit [1:0] or [63:57] traps and
changes no register; otherwise the split goes on there, with the link pair written where `link`. -/
def Jumps (e : Env) (i : Instr) (s s' : State) (m : Mask) (tgt : DWord) (link : Bool) : Prop :=
  (tgt.extractLsb' 0 2 ≠ 0#2 → ∃ t, exec i s = .next t ∧ Traps e s' t (e.trapOf .misaligned tgt)) ∧
  (tgt.extractLsb' 0 2 = 0#2 → tgt.extractLsb' 57 7 ≠ 0#7 → ∃ t, exec i s = .next t ∧ Traps e s' t (e.trapOf .permission tgt)) ∧
  (tgt.extractLsb' 0 2 = 0#2 → tgt.extractLsb' 57 7 = 0#7 →
    ∃ t, exec i s = .next t ∧ Ran e s' t tgt (if link then e.withPair m 126 fun _ => e.next i else e.st.reg) e.st.sstat)

/-- An instruction that has been entered goes on with the next one, and nothing else changes. -/
def PassesOn (e : Env) (i : Instr) (s s' : State) : Prop :=
  ∃ t, exec i s = .next t ∧ Ran e s' t (e.next i) e.st.reg e.st.sstat

/-! ### Accesses of memory -/

/-- R269, R270: in state `s` the accesses of the acting threads are checked: the outcome is `c`, in state `u`, and the
strand is as it was. -/
def Env.Checks (e : Env) (o : Mem) (indexed : Bool) (k : Kind) (s u : State) (c : Checked) : Prop :=
  (∃ v sp, e.space s = (v, sp) ∧ v.checkAll sp k (e.wants o indexed (e.exm o.p) o.w.bytes) = (u, c)) ∧
  u.strand? e.who = s.strand? e.who

/-- R270, R448: every access of the acting threads passes its checks; `ps` are the pieces, with the places where they lie. -/
def Env.Reaches (e : Env) (o : Mem) (indexed : Bool) (k : Kind) (s u : State) (ps : List Piece) : Prop :=
  e.Checks o indexed k s u (.ok ps) ∧ ∀ p ∈ ps, p.askew = false

/-- In state `t` the strand of `e` has gone on to `pc`; its registers, status and trap registers, and where its other splits
stand, are as they were. -/
def Advances (e : Env) (t : State) (pc : DWord) : Prop :=
  ∃ st, t.strand? e.who = some st ∧ (∀ n u, u < 32 → st.reg n u = e.st.reg n u) ∧ st.sstat = e.st.sstat ∧ st.live = e.st.live ∧
    st.nreg = e.st.nreg ∧ st.epc = e.st.epc ∧ st.ecause = e.st.ecause ∧ st.eaddr = e.st.eaddr ∧
    (st.split e.k).pc = pc ∧ (st.split e.k).exm = e.sp.exm ∧
    ∀ j, j ≠ e.k → (st.split j).pc = (e.st.split j).pc ∧ (st.split j).exm = (e.st.split j).exm

/-- A run of bytes that a mask and the data of a line hold. -/
def holdsBytes (mask : BitVec 128) (data : BitVec 1024) (pos : Nat) (bs : List Byte) : Prop :=
  ∀ (i : Nat) (b : Byte), bs[i]? = some b → mask.getLsbD (pos + i) = true ∧ dataByte data (pos + i) = b

/-- R270, R402, R417: what an access does whose checks fail: it traps, or parks on the fault that has been queued; no register
and no flag changes. -/
def Turned (e : Env) (i : Instr) (s u : State) (k : Kind) : Checked → Prop
  | .trap c a => ∃ t, exec i s = .next t ∧ Traps e u t (e.trapOf c a)
  | .queue va c l a => ∃ n, exec i s = .next { e.pageFault k va c l a u with oracle := n }
  | .ok _ => True

/-! ### Scratchpad accesses -/

/-- R36, R274: what part of a 16-byte scratchpad load brings: the words of 8 bytes of each of the accesses `xs`. -/
def halfWords (o : Mem) (s : State) (hi : Bool) (xs : List (Nat × Nat × Nat × Nat)) : List (RegNo × Mask × (Nat → Word)) :=
  if o.d = 0 then [] else (List.range 2).map fun j =>
    (BitVec.ofNat 7 (o.d.toNat + (if hi then 2 else 0) + j), Mask.ofTest (fun u => xs.any fun x => x.1 = u), fun u => accessWord .b64 o.sx
      (match xs.find? fun x => x.1 = u with | some x => s.spadRead x.2.1 (x.2.2.1 + if hi then 8 else 0) 8 | none => []) j)

/-- Between two states the scratchpads of teams have changed in the accesses `xs` alone, thread by thread: at `lo` from each offset on
they hold bytes given by `data`; no byte of memory has changed. -/
def PutsSpad (s t : State) (xs : List (Nat × Nat × Nat × Nat)) (lo : Nat) (data : Nat × Nat × Nat × Nat → List Byte) : Prop :=
  (∀ a, byteAt t.mem a = byteAt s.mem a) ∧
  ∀ (k : Nat) (y : Team), look t.teams k = some y → ∃ (y' : Team), look s.teams k = some y' ∧ ∀ off,
    readOr 0 y.spad off =
      (match xs.reverse.find? fun x => decide (x.2.1 = k) && decide (x.2.2.1 + lo ≤ off) && decide (off < x.2.2.1 + lo + (data x).length) with
       | some x => (data x).getD (off - (x.2.2.1 + lo)) 0
       | none => readOr 0 y'.spad off)

/-! ### Records and work for engines -/

/-- R159: in state `s` the record of `n` bytes at pair A can be read: its bytes are `bs`, in state `w`; the strand is as it
was. -/
def Env.ReadsRecord (e : Env) (m : Mask) (a : RegNo) (align n : Nat) (s w : State) (bs : List Byte) : Prop :=
  let addr := e.onePair m a
  let v := match e.agent with | .wide c => s.writeBackAll c e.releaser | _ => s
  m ≠ 0 ∧ addr.toNat % align = 0 ∧ e.sp.mark = none ∧ e.waitingOp = none ∧ v.drained e.agent e.who v.nextKey false = true ∧
  (∃ x sp u ps z got, e.space v = (x, sp) ∧ x.checkAll sp .read [{ thread := 0, va := addr.toNat, bytes := n }] = (u, .ok ps) ∧
    (∀ p ∈ ps, p.askew = false) ∧ (∀ p ∈ ps, u.poisonedAt p = false) ∧
    u.gatherAfter e.agent { key := u.nextKey, ctx := e.ctxNo, die := e.die, who := some e.who, site := e.sp.pc } ps = (z, some got) ∧
    w = { z with fetched := unlist z.fetched u.nextKey } ∧ bs = wantBytes got 0) ∧
  w.strand? e.who = s.strand? e.who

/-- R183: an operation with key `key` takes a token: none for D = `v0` and on a latency core, else entry `tok` with value
`v`; `u` is the state after it. -/
def Env.Takes (e : Env) (d : RegNo) (sc : Scope) (key : Nat) (s u : State) (tok : Option Nat) (v : Word) : Prop :=
  ((d = 0 ∨ e.lat = true) ∧ tok = none ∧ u = s) ∨
  (d ≠ 0 ∧ e.lat = false ∧ ∃ i, tok = some i ∧ s.newToken e.team e.warp sc key = (u, some (i, v)))

/-- In state `t` the strand of `e` has gone on to `pc`; only D has changed, where the operation has a token, whose value it
holds; every byte of memory is as in `s`. -/
def Hands (e : Env) (s t : State) (pc : DWord) (m : Mask) (d : RegNo) (tok : Option Nat) (v : Word) : Prop :=
  (∃ st, t.strand? e.who = some st ∧
    (∀ n u, u < 32 → st.reg n u = if tok = none then e.st.reg n u else e.withWord m d (fun _ => v) n u) ∧
    st.sstat = e.st.sstat ∧ (st.split e.k).pc = pc ∧ (st.split e.k).exm = e.sp.exm) ∧
  ∀ a, byteAt t.mem a = byteAt s.mem a

/-- In state `t` the strand of `e` has gone on to `pc` with registers `regs`; its status is as it was, and so is every byte of
the memory of `s`. -/
def Writes (e : Env) (s t : State) (pc : DWord) (regs : Nat → Nat → Word) : Prop :=
  (∃ st, t.strand? e.who = some st ∧ (∀ n u, u < 32 → st.reg n u = regs n u) ∧ st.sstat = e.st.sstat ∧
    (st.split e.k).pc = pc ∧ (st.split e.k).exm = e.sp.exm) ∧
  ∀ a, byteAt t.mem a = byteAt s.mem a

/-- The registers of a strand after consecutive words from D on, the same in each thread of a mask. -/
def Env.withList (e : Env) (m : Mask) (d : RegNo) (f : Nat → List Word) (n u : Nat) : Word :=
  if n ≠ 0 ∧ m.getLsbD u = true ∧ d.toNat ≤ n then (f u)[n - d.toNat]?.getD (e.st.reg n u) else e.st.reg n u

/-- R347: the range of a queue instruction's element can be reached: `ps` are its pieces in memory, none in scratchpad, of which
none has been accessed; `u` is the state after the checks. -/
def Env.ReachesElement (e : Env) (push spm : Bool) (addr : DWord) (n : Nat) (s u : State) (ps : List Piece) : Prop :=
  addr.toNat % 4 = 0 ∧ u.strand? e.who = s.strand? e.who ∧
  if spm then u = s ∧ ps = [] ∧ (s.ownSpad e).1.isSome = true ∧ addr.toNat + n ≤ (s.ownSpad e).2 ∧
    (push = true → s.tileOver e.team .prov addr.toNat n = false)
  else ∃ x sp, e.space s = (x, sp) ∧
    x.tryAll sp (if push then .read else .write)
      ((List.range (n / 4)).map fun j => { thread := Mask.lowest e.sp.exm, va := addr.toNat + 4 * j, bytes := 4 }) = (u, .ok ps) ∧
    ∀ p ∈ ps, p.askew = false

/-! ### Engines and homes -/

/-- No watch range of the device is set, and no latency core holds dirty bytes: a home then reads and writes memory alone. -/
def State.calm (s : State) : Prop := (∀ d, (s.die d).ranges = []) ∧ ∀ x ∈ s.lcs, ∀ l ∈ x.2.cache, l.2.dirty = 0

/-- R188, R225: in state `s` an engine of a die can read the accesses `ws` of a context, all at hand: `got` holds their pieces
and bytes, in state `z`. -/
def Fetches (s : State) (ctx die : Nat) (o : Origin) (ws : List Want) (z : State) (got : List (Piece × List Byte)) : Prop :=
  ∃ v sp w ps, s.engineSpace ctx die = (v, sp) ∧ v.reach sp .engineRead ws = (w, .ok ps) ∧ w.gather o ps = (z, some got)

/-- R188, R225: in state `s` an engine of a die can write the accesses `ws` of a context, all to memory of this device: `ps` are
their pieces, in state `w`. -/
def Fills (s : State) (ctx die : Nat) (ws : List Want) (w : State) (ps : List Piece) : Prop :=
  ∃ v sp, s.engineSpace ctx die = (v, sp) ∧ v.reach sp .engineWrite ws = (w, .ok ps) ∧ w.calm ∧
    ∀ p ∈ ps, p.at_.dev = w.dev ∧ p.at_.pa + p.bytes ≤ hbmEnd

/-- Between states `w` and `t` the bytes of pieces have been written: a byte outside every piece is as it was, and the bytes of
a single piece are those given for its access. -/
def Stored (w t : State) (ps : List Piece) (bytes : Nat → List Byte) : Prop :=
  (∀ a, (∀ p ∈ ps, a < p.at_.pa ∨ p.at_.pa + p.bytes ≤ a) → byteAt t.mem a = byteAt w.mem a) ∧
  ∀ p i b, ps = [p] → i < p.bytes → (bytes p.thread)[p.off + i]? = some b → byteAt t.mem (p.at_.pa + i) = b

/-- The location of a tile of a team holds bytes (R155). -/
def Team.holdsTile (x : Team) (sp : List Word) (bs : List Byte) : Prop :=
  ∀ (i : Nat) (b : Byte), bs[i]? = some b →
    if specLoc sp = 0 then look x.vat (16384 * specSlot sp + specOfs sp + i) = some b else readOr 0 x.spad (specOfs sp + i) = b

/-- R188: a copy of an engine has nothing left to wait for. -/
def State.copyRuns (s : State) (key : Nat) (c : CopyOp) : Prop :=
  c.deferred = false ∧ c.held = false ∧ c.status = none ∧ c.fault = none ∧ s.awaiting key = false ∧ s.inPlace c.ctx c.team = true ∧
  s.copiesAhead key c < 16 ∧ s.precedes c.agent c.who c.mark c.sc = true

/-- R256: may a copy make one of its accesses. -/
def State.copyParts (s : State) (key : Nat) (c : CopyOp) : Prop :=
  c.deferred = false ∧ c.held = false ∧ c.status = none ∧ c.fault = none ∧ s.inPlace c.ctx c.team = true ∧
  s.copiesAhead key c < 16 ∧ s.precedes c.agent c.who c.mark c.sc = true ∧ c.written = false

/-- R166, R168: `index` gives dimension 1 of each tile row of a tile copy, by its origin or by the list of indices, which a copy
engine reads first; it goes on in state `v`. -/
def State.copyIndex (s : State) (key : Nat) (c : CopyOp) (v : State) (index : Nat → Option Nat) : Prop :=
  ((c.kind = .cpin ∨ c.kind = .cpout) ∧ v = s.bump ∧ index = fun (r : Nat) => inside c.desc 1 (specOrigin c.spec 1 + r)) ∨
  ((c.kind = .gth ∨ c.kind = .sct) ∧ ∃ got, Fetches s.bump c.ctx c.die (c.origin key) [{ thread := 0, va := c.list.toNat, bytes := 4 * specRows c.spec }] v got ∧
    index = fun (r : Nat) => inside c.desc 1 ((leNat (((wantBytes got 0).drop (4 * r)).take 4) : Int) + c.bias))

/-- R168: the result words of a tile copy: how many indices lie outside the tensor. -/
def CopyOp.indexWords (c : CopyOp) (index : Nat → Option Nat) : List Word :=
  if c.kind = .gth ∨ c.kind = .sct then [BitVec.ofNat 32 ((List.range (specRows c.spec)).filter fun r => (index r).isNone).length] else []

/-- Only the model's counter of keys differs between two states. -/
def Idle (s t : State) : Prop := { t with nextKey := s.nextKey } = s

end Sys2Proof.Machine
end

