-- ==== Sys2Proof/Certificates/Slice0/Obligations.lean ====
section
/-! DEFINITION. The statements about the model, for the provers. -/

section Statements

open Sys2Proof Sys2Proof.Machine

/-! ### Chapters 2 and 3: instruction words -/

/-- R29, R32, R33: words written out from the manual's encodings are the instructions that the manual says they are: the two
`addc` and the `scanw` of its worked examples, a fill word, and header words put together from R33 and R73.

R53 to R55: words that are no instruction, in the order of R54: a length past the fetch block, a fill word with other
bits, an unlisted opcode, an undefined form, a reserved bit, an odd pair, and G = 0 with GN = 1. -/
def Obligations.DecodedAndRejectedWords : Prop :=
  (decodeWord 0 0x0008000030414010#128 = .instr (.addc { ty := .n32, d := 10, a := 4, b := .reg 6 false }) 8 ∧
  decodeWord 0 0x0008B00038518010#128 = .instr (.addc { ty := .n32, d := 12, a := 5, b := .reg 7 false, c := 11 }) 8 ∧
  decodeWord 0 0x002000000082A840#128 = .instr (.scanw { ty := .f32, d := 21, a := 8 }) 8 ∧
  decodeWord 28 0x3#128 = .instr .fillWord 4 ∧
  decodeWord 0 (BitVec.ofNat 128 (0x0A7 * 2 ^ 4)) = .instr (.exit {}) 8 ∧
  decodeWord 0 (BitVec.ofNat 128 (0x0A0 * 2 ^ 4 + 2 ^ 2 + 2 ^ 3 + 5 * 2 ^ 34 + 2 ^ 41)) = .instr (.nop { re := true, sw := true, g := 5, gn := true }) 8 ∧
  decodeWord 16 (BitVec.ofNat 128 (1 + 0x0A8 * 2 ^ 4 + 0x7F * 2 ^ 64)) = .instr (.trap {} 0x7F) 12 ∧
  decodeWord 8 (BitVec.ofNat 128 (2 + 0x027 * 2 ^ 4 + 6 * 2 ^ 13 + 0x0123456789ABCDEF * 2 ^ 64)) = .instr (.movw {} 6 0x0123456789ABCDEF) 16) ∧
  ((∀ off w, 32 < off + lenBytes (w.extractLsb' 0 2) → decodeWord off w = .reject .crossing) ∧
  (∀ off w, off + 4 ≤ 32 → w.extractLsb' 0 2 = 3#2 → w.extractLsb' 0 32 ≠ 3#32 → decodeWord off w = .reject .badFill) ∧
  (∀ off w, off + lenBytes (w.extractLsb' 0 2) ≤ 32 → w.extractLsb' 0 2 ≠ 3#2 → forms (w.extractLsb' 4 9) = [] →
    decodeWord off w = .reject .unlisted) ∧
  (∀ off w, off + lenBytes (w.extractLsb' 0 2) ≤ 32 → w.extractLsb' 0 2 ≠ 3#2 → forms (w.extractLsb' 4 9) ≠ [] →
    w.extractLsb' 0 2 ∉ forms (w.extractLsb' 4 9) → decodeWord off w = .reject .undefinedForm) ∧
  decodeWord 0 (BitVec.ofNat 128 (0x0A0 * 2 ^ 4 + 2 ^ 63)) = .reject .reserved ∧
  decodeWord 0 (BitVec.ofNat 128 (0x001 * 2 ^ 4 + 2 ^ 51 + 11 * 2 ^ 13)) = .reject .reserved ∧
  decodeWord 0 (BitVec.ofNat 128 (0x0A0 * 2 ^ 4 + 2 ^ 41)) = .reject .reserved)

/-- R30, R33, R73: every well-formed instruction, with every operand that its encoding admits, is read back from its word,
at every place of a fetch block that holds it whole. -/
def Obligations.DecodeEncode : Prop :=
  ∀ (i : Instr) (bytes : Nat) (w : BitVec 128), i.wellFormed = true → encode i = some (bytes, w) →
    ∀ off, off + bytes ≤ 32 → decodeWord off w = .instr i bytes

/-- R29, R31: the other direction: what the decoder reads from a word is well-formed, has the word's length, lies in the
fetch block, and is encoded as that word, up to the bits beyond its length. -/
def Obligations.EncodeDecode : Prop :=
  ∀ (off : Nat) (w : BitVec 128) (i : Instr) (bytes : Nat), decodeWord off w = .instr i bytes →
    off + bytes ≤ 32 ∧ (bytes = 4 ∨ bytes = 8 ∨ bytes = 12 ∨ bytes = 16) ∧
    ∃ v, encode i = some (bytes, v) ∧ v.toNat = w.toNat % 2 ^ (8 * bytes) ∧ (i ≠ .fillWord → i.wellFormed = true)

/-! ### Chapters 2, 3 and 16: steps, checks and traps -/

/-- R53, R54: a step at a strand whose turn it is runs the instruction that its fetched bytes hold: `exec` of that
instruction in the state `issuing`, in which the strand is in focus and the instruction has been counted; what follows an
instruction is only the end of a single step (R384). Without a fetched block the step fetches; where the bytes hold no
instruction it raises the cause of R53. -/
def Obligations.StepRunsDecoded : Prop :=
  ∀ (s : State) (w : Who) (st : Strand), s.turn = some (.issue w) → s.strand? w = some st →
    let k := st.split (splitNo w)
    let s₀ := { s with turn := none }
    (∀ b i n, k.block = some b → b.base = blockBase k.pc → decodeBytes (k.pc - b.base).toNat (b.bytes.drop (k.pc - b.base).toNat) = .instr i n →
      (∀ c < 16, s₀.comparatorFires w c = false) →
      step s = (match exec i (s₀.issuing w k i) with | .next t => .next (t.endStep w) | r => r) ∧
      (s₀.issuing w k i).focus = w ∧ (s₀.issuing w k i).mem = s.mem ∧
      ∃ st', (s₀.issuing w k i).strand? w = some st' ∧ st'.regs = st.regs ∧ (st'.split (splitNo w)).pc = k.pc ∧ (st'.split (splitNo w)).exm = k.exm) ∧
    (∀ b r, k.block = some b → b.base = blockBase k.pc → decodeBytes (k.pc - b.base).toNat (b.bytes.drop (k.pc - b.base).toNat) = .reject r →
      (∀ c < 16, s₀.comparatorFires w c = false) →
      step s = (match exec .notAnInstruction ({ s₀ with focus := w }.mapSplit w fun k => { k with stepped := k.stepping }) with
        | .next t => .next (t.endStep w) | x => x)) ∧
    ((∀ b, k.block = some b → b.base ≠ blockBase k.pc) →
      step s = (match exec .instructionFetch { s₀ with focus := w } with | .next t => .next (t.endStep w) | x => x))

/-- R17, R37, R54, R69, R73, R353, R403, R419: before its operands are looked at, an instruction that waits for nothing
raises the first of these causes that it meets: outside a handler image the handler's opcodes; a privileged opcode or
register without privilege; an opcode of wide cores on a latency core; a register at or above the count. It then does
nothing but take the trap, at its own address; it enters no region (R55).

R52: a region entry, which RE or the end of a region makes, sets `%rgn` to its address; other instructions leave it.
Registers, status, other splits, the rest of the machine but for consumed tokens, and memory stay as they are; where a region
starts again after a trap or a fault, consumed tokens stay too (R191). -/
def Obligations.GateChecksAndRegions : Prop :=
  (∀ (i : Instr) (s : State) (e : Env), i.raw.isSome = true → s.env = some e → e.stall i s = none →
    let raises (c : Cause) : Prop := exec i s = .next (s.takeTrap e.who (e.trapOf c e.sp.pc))
    let outside : Prop := handlerOnly i = true ∧ e.handler = false
    let forbidden : Prop := privOnly i = true ∧ e.priv = false ∧ ¬(e.handler = true ∧ handlerMay i = true)
    let wrongCore : Prop := wideOnly i = true ∧ e.lat = true
    (outside → raises (if e.priv then .illegal else .privileged)) ∧
    (¬outside → forbidden → raises .privileged) ∧
    (¬outside → ¬forbidden → wrongCore → (∀ o, i ≠ .ship o) ∨ e.serving = false → raises .coreKind) ∧
    (¬outside → ¬forbidden → wrongCore → (∃ o, i = .ship o) → e.serving = true → raises .nestedShip) ∧
    (¬outside → ¬forbidden → ¬wrongCore → (if e.lat then 128 else e.st.nreg) < regTop i → raises .beyondCount)) ∧
  (∀ (s : State) (w : Who) (re : Bool) (st : Strand), s.strand? w = some st → splitNo w < st.splits.length →
    let k := st.split (splitNo w)
    let t := s.enterRegion w re
    (re = false → k.fresh = false → t = s) ∧
    (k.redo = true → ∃ st', t.strand? w = some st' ∧ (st'.split (splitNo w)).consumes = k.consumes ∧ t.tasks = s.tasks ∧
      ∀ i x, look s.teams i = some x → ∃ y, look t.teams i = some y ∧ y.tokens = x.tokens) ∧
    ∃ st', t.strand? w = some st' ∧ (∀ n u, u < 32 → st'.reg n u = st.reg n u) ∧ st'.sstat = st.sstat ∧ st'.aside = st.aside ∧
      (re = true ∨ k.fresh = true → (st'.split (splitNo w)).rgn = k.pc ∧ (st'.split (splitNo w)).fresh = false) ∧
      (st'.split (splitNo w)).pc = k.pc ∧ (st'.split (splitNo w)).exm = k.exm ∧ (∀ j, j ≠ splitNo w → st'.split j = st.split j) ∧
      t.mem = s.mem ∧ t.ctxs = s.ctxs ∧ t.cores = s.cores ∧ t.dies = s.dies ∧ t.hub = s.hub)

/-- R402, R403, R406: a trap of a warp that has a handler. The trap registers and the return point are written, and the trapping split
forgets how far its instruction had come; the
handler image takes the warp's place: one split at STVEC with the trapping split's threads, whose next instruction is a
region entry, 128 registers that are zero but for v4 to v11, `%sstat` zero. A trap that comes while a handler runs waits. All
else is as it was, every byte of memory included. -/
def Obligations.TrapEntry : Prop :=
  ∀ (s : State) (k n j : Nat) (x : Team) (wp : Warp) (tr : Trap), look s.teams k = some x → x.warps[n]? = some wp →
    let t := s.takeTrap (.warp k n j) tr
    let sp := wp.main.split j
    let stvec := (s.ctx x.ctx).stvecW
    (∀ i, i ≠ k → look t.teams i = look s.teams i) ∧
    (wp.handler = none → stvec ≠ 0 → tr.ecause.toNat % 256 ≠ 0x09 →
      { t with teams := s.teams, nextKey := s.nextKey } = s ∧
      ∃ h : Strand, look t.teams k = some (x.mapWarp n fun wp =>
          { wp with main := ({ wp.main with epc := tr.epc, ecause := tr.ecause, eaddr := tr.eaddr } : Strand).mapSplit j Split.trapped, trapSplit := j,
                    rp := (if tr.after then tr.epc + BitVec.ofNat 64 tr.len else sp.rgn), handler := some h }) ∧
        h.nreg = 128 ∧ h.sstat = 0 ∧ h.live = sp.exm ∧
        (∃ k', h.splits = [k'] ∧ k'.pc = stvec ∧ k'.exm = sp.exm ∧ k'.fresh = true) ∧
        ∀ r u, u < 32 → h.reg r u =
          if sp.exm.getLsbD u then
            (match r with
             | 4 => tr.ecause | 5 => BitVec.ofNat 32 j
             | 6 => tr.epc.extractLsb' 0 32 | 7 => tr.epc.extractLsb' 32 32
             | 8 => tr.eaddr.extractLsb' 0 32 | 9 => tr.eaddr.extractLsb' 32 32
             | 10 => sp.rgn.extractLsb' 0 32 | 11 => sp.rgn.extractLsb' 32 32
             | _ => 0)
          else 0) ∧
    (wp.handler.isSome = true → { t with teams := s.teams, nextKey := s.nextKey } = s ∧
      look t.teams k = some (x.mapWarp n fun wp => { wp with main := { wp.main with traps := wp.main.traps ++ [tr] } }))

/-- R405: a trap of a warp without a handler, a `translation` trap, or a trap in a handler image is fatal: every thread of
the team is killed (its warps keep no live thread and no handler), and an event record of kind 1 with the cause, `%epc` and
`%eaddr` is written under the two-level name (that of the failed operation, where one has failed), flag [0] set for a trap in a handler image.

R77, R361, R366: a trap in a shipped section ends it: the section's thread is free again, a result of status 1 without
values leaves for the sender, and an event record of kind 2 holds the trap under the sender's name. (The section waits on no fault of the die.) -/
def Obligations.FatalAndSectionTraps : Prop :=
  ((∀ (s : State) (k : Nat) (x : Team), look (s.killTeam k).teams k = some x → ∀ wp ∈ x.warps, wp.main.live = 0 ∧ wp.handler = none) ∧
  ∀ (s : State) (k n j : Nat) (x : Team) (wp : Warp) (tr : Trap), look s.teams k = some x → x.warps[n]? = some wp →
    (wp.handler = none → (s.ctx x.ctx).stvecW = 0 ∨ tr.ecause.toNat % 256 = 0x09 →
      ∃ (die : Nat), s.takeTrap (.warp k n j) tr =
        ((s.bump.mapStrand (.warp k n j) fun st => { st with epc := tr.epc, ecause := tr.ecause, eaddr := tr.eaddr }).killTeam k).eventRecord
          x.ctx die 1 0 tr.ecause tr.epc tr.eaddr
          { site := (tr.made.map Prod.fst).getD tr.epc, seq := (tr.made.map Prod.snd).getD 0, team := BitVec.ofNat 32 x.idx,
            lid := ((look s.launches x.launch).map fun l => l.record.lid).getD 0 }) ∧
    (wp.handler.isSome = true →
      ∃ (die : Nat), s.takeTrap (.handler k n) tr = (s.bump.killTeam k).eventRecord x.ctx die 1 1 tr.ecause tr.epc tr.eaddr
        { site := (tr.made.map Prod.fst).getD tr.epc, seq := (tr.made.map Prod.snd).getD 0, team := BitVec.ofNat 32 x.idx,
          lid := ((look s.launches x.launch).map fun l => l.record.lid).getD 0 })) ∧
  (∀ (s : State) (l : Nat) (r : ShipReq) (tr : Trap), (s.lc l).t0.serving = some r →
    (∀ w ∈ (s.die (l / 16)).waiters, w.2 ≠ .split (.lat l 0)) →
    ∃ (u : State) (res : ShipRes), s.takeTrap (.lat l 0) tr = u.eventRecord (s.lc l).t0.ctx (l / 16) 2 0 tr.ecause tr.epc tr.eaddr
        { site := r.site, seq := r.seq, team := r.team, lid := r.lid } ∧
      u.results = s.results ++ [res] ∧ res.status = 1 ∧ res.res = [0, 0, 0, 0] ∧ res.ret = r.ret ∧ res.seq = r.seq ∧
      res.core = r.core ∧ res.thread = r.thread ∧ res.srcDev = r.srcDev ∧ res.key = r.key ∧ res.warp = r.warp ∧
      (u.lc l).t0.serving = none ∧ (u.lc l).t0.active = false ∧ (u.lc l).t0.spent = 0 ∧ u.mem = s.mem ∧ u.teams = s.teams)

/-- R408: an event record is written at the place of the ring that the tail names, and the tail advances; where the ring is
full, it is counted as lost. (The ring lies in HBM4.)

R416 to R418: entries that were held while their ring was full are written, the oldest first, once it has room: the record
stands at the place that the tail names, and the tail advances; a held event for which there is no ring any more is dropped. (The header and the ring lie in HBM4, apart from each other.) -/
def Obligations.EventAndHeldRecords : Prop :=
  (∀ (s : State) (c die kind flags : Nat) (ecause : Word) (epc eaddr : DWord) (nm : Name) (detail : Nat),
    let x := s.ctx c
    let t := s.eventRecord c die kind flags ecause epc eaddr nm detail
    let head := leNat (s.homeRead (x.cblk + 0x58) 4).2
    ((x.evtail + 2 ^ 32 - head) % 2 ^ 32 = x.evsize → (t.ctx c) = { x with evlost := (x.evlost + 1) % 2 ^ 32 }) ∧
    ((x.evtail + 2 ^ 32 - head) % 2 ^ 32 ≠ x.evsize →
      (t.ctx c) = { x with evtail := (x.evtail + 1) % 2 ^ 32 } ∧
      ∀ (i : Nat) (b : Byte), 0 < x.evsize → x.evbase + 64 * x.evsize ≤ hbmEnd → (le 4 (kind + flags * 2 ^ 16) ++ le 4 ecause.toNat ++ le 8 epc.toNat ++ le 8 eaddr.toNat ++ le 8 nm.site.toNat ++
          le 4 nm.seq.toNat ++ le 4 nm.team.toNat ++ le 8 (s.die die).clk.toNat ++ le 4 nm.lid.toNat ++ le 12 detail)[i]? = some b →
        byteAt t.mem (x.evbase + 64 * (x.evtail % x.evsize) + i) = b)) ∧
  ((∀ (s : State) (d : Nat) (f : FaultEntry), s.calm → (s.die d).entries.find? FaultEntry.held = some f →
    let b := (s.die d).fqbase.toNat
    let size := (s.fqWord d 0).2
    let tail := (s.fqWord d 4).2
    let head := (s.fqWord d 8).2
    ((tail + 2 ^ 32 - head) % 2 ^ 32 = size → ∃ t, exec (.heldFaultWrite d) s = .next t ∧ Idle s t) ∧
    ((tail + 2 ^ 32 - head) % 2 ^ 32 ≠ size → 0 < size → b + 64 + 64 * size ≤ hbmEnd →
      ∃ (t u : State), exec (.heldFaultWrite d) s = .next t ∧
        (∀ i x, ({ f with slot := tail % size, held := false } : FaultEntry).bytes[i]? = some x → byteAt u.mem (b + 64 + 64 * (tail % size) + i) = x) ∧
        bytesAt u.mem (b + 4) 4 = leBytes 4 (tail + 1) ∧
        (∀ a, (a < b + 64 + 64 * (tail % size) ∨ b + 64 + 64 * (tail % size) + 64 ≤ a) → (a < b + 4 ∨ b + 8 ≤ a) → byteAt u.mem a = byteAt s.mem a) ∧
        t.mem = (u.serviceEvent d { kind := 1, ctx := f.ctx, arg := BitVec.ofNat 32 f.serial, site := f.site, seq := f.seq, team := f.team }).mem ∧
        (t.die d).entries = (s.die d).entries.map fun x => if x.serial = f.serial then { f with slot := tail % size, held := false } else x)) ∧
  ∀ (s : State) (d : Nat) (ev : SvEvent) (rest : List SvEvent), s.calm → (s.die d).heldSv = ev :: rest →
    let b := (s.die d).fqbase.toNat
    let base := (s.fqDword d 0x10).2
    let size := (s.fqWord d 0x18).2
    let tail := (s.fqWord d 0x1C).2
    let head := (s.fqWord d 0x20).2
    (s.svUsable d = false → ∃ t, exec (.heldServiceEventWrite d) s = .next t ∧ (t.die d).heldSv = rest) ∧
    (s.svUsable d = true → (tail + 2 ^ 32 - head) % 2 ^ 32 = size → ∃ t, exec (.heldServiceEventWrite d) s = .next t ∧ Idle s t) ∧
    (s.svUsable d = true → (tail + 2 ^ 32 - head) % 2 ^ 32 ≠ size → 0 < size → b + 0x28 ≤ hbmEnd → base + 32 * size ≤ hbmEnd → b + 0x28 ≤ base ∨ base + 32 * size ≤ b →
      ∃ t, exec (.heldServiceEventWrite d) s = .next t ∧ (t.die d).heldSv = rest ∧
        (∀ i x, ev.bytes[i]? = some x → byteAt t.mem (base + 32 * (tail % size) + i) = x) ∧ bytesAt t.mem (b + 0x1C) 4 = leBytes 4 (tail + 1) ∧
        ∀ a, (a < base + 32 * (tail % size) ∨ base + 32 * (tail % size) + 32 ≤ a) → (a < b + 0x1C ∨ b + 0x20 ≤ a) → byteAt t.mem a = byteAt s.mem a))

/-- R404, R406, R421: `sret`. At a target with a set bit [1:0] or [63:57] the trap is fatal; otherwise the trapped split goes
on there, at RP where A is 0, as a region entry where the target is its region entry or A is not 0; the handler is gone, or
starts again for the trap that has waited longest. -/
def Obligations.HandlerReturn : Prop :=
  ∀ (p : Pre) (a : RegNo) (s s' : State) (e : Env) (k n : Nat) (x : Team) (wp : Warp), Enters (.sret p a) s s' e →
    e.who = .handler k n → look s'.teams k = some x → x.warps[n]? = some wp → e.acc = [] → e.exm p ≠ 0 →
    let tgt : DWord := if a = 0 then wp.rp else e.pair a.toNat (Mask.lowest (e.exm p))
    (tgt.extractLsb' 0 2 ≠ 0#2 → exec (.sret p a) s = .next (s'.takeTrap e.who (e.trapOf .misaligned tgt))) ∧
    (tgt.extractLsb' 0 2 = 0#2 → tgt.extractLsb' 57 7 ≠ 0#7 → exec (.sret p a) s = .next (s'.takeTrap e.who (e.trapOf .permission tgt))) ∧
    (tgt.extractLsb' 0 2 = 0#2 → tgt.extractLsb' 57 7 = 0#7 → wp.trapSplit < wp.main.splits.length →
      (wp.main.split wp.trapSplit).exm ≠ 0 → wp.main.traps = [] →
      ∃ (t : State) (y : Team) (wp' : Warp), exec (.sret p a) s = .next t ∧ look t.teams k = some y ∧ y.warps[n]? = some wp' ∧ wp'.handler = none ∧
        (wp'.main.split wp.trapSplit).pc = tgt ∧
        (wp'.main.split wp.trapSplit).fresh = (decide (a ≠ 0) || decide (tgt = (wp.main.split wp.trapSplit).rgn)) ∧
        (∀ j, j ≠ wp.trapSplit → wp'.main.split j = wp.main.split j) ∧ wp'.main.regs = wp.main.regs ∧ wp'.main.sstat = wp.main.sstat ∧
        (∀ b, byteAt t.mem b = byteAt s'.mem b) ∧ t.ctxs = s'.ctxs ∧ t.dies = s'.dies ∧ t.hub = s'.hub)

/-- R31, R53 to R57, R314: fetch. A fetch whose access passes delivers the block's bytes, which lie in memory where no cache
holds them, and the split is READY; one whose checks fail traps or queues its fault. Words that are no instruction raise
`illegal length or fill`, `instruction crosses fetch block` or `illegal instruction`. No register changes.

R286, R322, R338, R401, R430, R485: what a strand waits for. A split whose condition holds, or whose timeout has passed, wakes at
its instruction, and one that is stopped or whose team is away keeps a wake bit; one whose condition does not hold goes on waiting. A load that has failed leaves
SCORE and traps in the split that holds its thread, at its own address, with nothing written. -/
def Obligations.FetchingAndWaking : Prop :=
  ((∀ (s : State) (e : Env) (v : State) (sp : Space) (u : State) (c : Checked), s.env = some e → e.k < e.st.splits.length → e.sp.st = .fetch ∨ e.sp.st = .ready →
    let s₁ := s.mapSplit e.who fun k => { k with stepped := k.stepping }
    e.space s₁ = (v, sp) → v.checkAll sp .exec [{ thread := Mask.lowest e.sp.exm, va := (blockBase e.sp.pc).toNat, bytes := 32 }] = (u, c) →
    u.strand? e.who = s₁.strand? e.who →
    Turned e .instructionFetch s u .exec c ∧
    ∀ p, c = .ok [p] → p.askew = false → u.poisonedAt p = false →
      ∃ (t : State) (st : Strand) (b : FetchBlock), exec .instructionFetch s = .next t ∧ t.strand? e.who = some st ∧ (st.split e.k).block = some b ∧
        b.base = blockBase e.sp.pc ∧ (st.split e.k).st = .ready ∧ (st.split e.k).pc = e.sp.pc ∧ (∀ n r, r < 32 → st.reg n r = e.st.reg n r) ∧ st.sstat = e.st.sstat ∧
        (p.at_.dev = u.dev → p.at_.pa < hbmEnd → look (u.icache e.agent) (blockNo p.at_.dev p.at_.pa) = none → look (u.die e.die).rdc (lineNo p.at_.dev p.at_.pa) = none →
          b.bytes = (u.homeRead p.at_.pa 32).2)) ∧
  ∀ (s : State) (e : Env) (r : Reject), s.env = some e → e.sp.fetched = some (.reject r) →
    ∃ t, exec .notAnInstruction s = .next t ∧
      Traps e s t (match r with
        | .crossing => e.trapOf .crossing (blockBase e.sp.pc + 32)
        | .badFill | .undefinedForm => e.trapOf .length e.sp.pc
        | .unlisted | .reserved => e.trapOf .illegal e.sp.pc)) ∧
  ((∀ (s : State) (e : Env) (k : Park), s.env = some e → e.k < e.st.splits.length → e.sp.park = some k → e.sp.st = .parked ∨ e.sp.st = .interlock →
    (s.met e k.cond = false → ∃ t, exec .splitWake s = .next t ∧ Idle s t) ∧
    ∀ i : Instr,
      let park : Park := if i = .splitWake then k.event else k
      (i = .splitWake ∧ s.met e k.cond = true) ∨ (i = .mwaitTimeout ∧ k.cond = .monitor ∧ k.left = some 0) ∨
        (i = .waitExpiry ∧ k.cond = .clocks ∧ k.left = some 0) ∨ (i = .wfiTimeout ∧ k.cond = .serviceRing ∧ k.left = some 0) →
      ∃ (t : State) (st : Strand), exec i s = .next t ∧ t.strand? e.who = some st ∧ st.joins = e.st.joins ∧ (∀ j, j ≠ e.k → st.split j = e.st.split j) ∧
        (∀ n r, r < 32 → st.reg n r = e.st.reg n r) ∧ t.mem = s.mem ∧ (s.away e.who = false → KeepsRest e s t st) ∧
        (e.sp.stop = true ∨ s.away e.who = true → st.split e.k = { e.sp with wake := true, park := some park }) ∧
        (e.sp.stop = false → s.away e.who = false → (st.split e.k).pc = e.sp.pc ∧ (st.split e.k).exm = e.sp.exm ∧ (st.split e.k).score = e.sp.score ∧ (st.split e.k).mon = e.sp.mon ∧
          ((st.split e.k).st = .ready ∨ (st.split e.k).st = .fetch) ∧ (st.split e.k).again = e.sp.again ∧
          (st.split e.k).park = if e.sp.again then some park else none)) ∧
  ∀ (s : State) (key : Nat) (why : Late) (l : LoadOp) (n c : Nat) (st : Strand), look s.loads key = some l → l.failed = some (n, c) → l.left = 0 →
    c = (match why with | .refused => 0x0A | _ => 0x0C) → s.earliestFailed key l.who = true → s.strand? l.who = some st →
    ∃ (u : State) (st' : Strand), exec (.lateAccessFailure key why) s = .next (u.takeTrap (splitOf l.who (st.holder n))
        { split := st.holder n, ecause := BitVec.ofNat 32 c, epc := l.pc, eaddr := ((l.eaddr.find? fun x => x.1 = n).map Prod.snd).getD 0, late := true }) ∧
      look u.loads key = none ∧ (∀ x ∈ u.reads, x.2.load ≠ key) ∧ u.strand? l.who = some st' ∧ st'.regs = st.regs ∧ st'.sstat = st.sstat ∧ st'.inbound = st.inbound ∧
      (∀ j < st.splits.length, (st'.split j).pc = (st.split j).pc ∧ (st'.split j).exm = (st.split j).exm ∧
        ∀ x ∈ (st'.split j).score, ∀ i < l.w.regs, x.reg = l.reg + i → x.mask &&& l.mask = 0) ∧ u.mem = s.mem)

/-! ### Chapter 4: integer arithmetic -/

/-- R109: an integer is placed in a register or a pair so that it reads back under its type as itself where it fits,
and modulo 2^n otherwise. -/
def Obligations.PlacedIntegers : Prop :=
  ∀ (ty : Ty) (x : Int), ty ∈ [Ty.i32, .n32, .i64, .n64, .i16, .n16, .i8, .n8] →
    (minInt ty ≤ x → x ≤ maxInt ty → readInt ty (placeInt ty x) = x) ∧
    (readInt ty (placeInt ty x) - x) % 2 ^ Ty.bits ty = 0 ∧
    minInt ty ≤ readInt ty (placeInt ty x) ∧ readInt ty (placeInt ty x) ≤ maxInt ty

/-- R113: the ten instructions compute on exact integers, clamp where SAT is 1 and wrap where it is 0. -/
def Obligations.Arithmetic : Prop :=
  ∀ o : Alu,
    GivesInt (.add o) o (fun a b _ => a + b) ∧ GivesInt (.sub o) o (fun a b _ => a - b) ∧ GivesInt (.mul o) o (fun a b _ => a * b) ∧
    GivesInt (.mad o) o (fun a b c => a * b + c) ∧ GivesInt (.neg o) o (fun a _ _ => -a) ∧ GivesInt (.abs o) o (fun a _ _ => |a|) ∧
    GivesInt (.min o) o (fun a b _ => min a b) ∧ GivesInt (.max o) o (fun a b _ => max a b) ∧
    GivesInt (.add64 o) o (fun a b _ => a + b) ∧ GivesInt (.sub64 o) o (fun a b _ => a - b)

/-- R114, R115: products of double width, and sums and differences with a carry. The pair's low word comes first in
`withResult`: bits [31:0] go to D and bits [63:32] to D + 1. -/
def Obligations.ProductsAndCarries : Prop :=
  ∀ o : Alu,
    Gives (.mulh o) o false false (fun e b u => BitVec.ofInt 64 (readInt o.ty ((e.src (e.exm o.p) o.a o.ua u).setWidth 64) *
      readInt o.ty (((b u).extractLsb' 0 32).setWidth 64) / 2 ^ 32)) ∧
    Gives (.mulw o) o false true (fun e b u => BitVec.ofInt 64 (readInt o.ty ((e.src (e.exm o.p) o.a o.ua u).setWidth 64) *
      readInt o.ty (((b u).extractLsb' 0 32).setWidth 64))) ∧
    Gives (.addc o) o false true (fun e b u =>
      let x := (e.src (e.exm o.p) o.a o.ua u).toNat + ((b u).extractLsb' 0 32).toNat + (e.reg o.c.toNat u).toNat % 2
      BitVec.ofNat 64 ((if 2 ^ 32 ≤ x then 1 else 0) * 2 ^ 32 + x % 2 ^ 32)) ∧
    Gives (.subb o) o false true (fun e b u =>
      let x : Int := ((e.src (e.exm o.p) o.a o.ua u).toNat : Int) - ((b u).extractLsb' 0 32).toNat - ((e.reg o.c.toNat u).toNat % 2 : Nat)
      BitVec.ofInt 64 ((if x < 0 then 1 else 0) * 2 ^ 32 + x % 2 ^ 32))

/-- R116: a quotient truncated toward zero and its remainder, where no acting thread divides by zero; and the trap
where one does. The address that this trap records is left open by the manual (log 41). -/
def Obligations.Division : Prop :=
  ∀ (o : Alu) (s s' s'' : State) (e : Env) (b : Nat → DWord), e.ReadsB o false s' s'' b →
    let A (u : Nat) := readInt o.ty ((e.src (e.exm o.p) o.a o.ua u).setWidth 64)
    let B (u : Nat) := readInt o.ty (b u)
    (Enters (.div o) s s' e →
      ((∀ u, u < 32 → (e.exm o.p).getLsbD u → (b u).extractLsb' 0 32 ≠ 0#32) → ∃ t, exec (.div o) s = .next t ∧
        Ran e s'' t (e.next (.div o)) (e.withWord (e.exm o.p) o.d fun u => lowWord (placeInt o.ty ((A u).tdiv (B u)))) e.st.sstat) ∧
      (∀ u, u < 32 → (e.exm o.p).getLsbD u → (b u).extractLsb' 0 32 = 0#32 → ∃ t a, exec (.div o) s = .next t ∧
        Traps e s'' t (e.trapOf .divZero a))) ∧
    (Enters (.rem o) s s' e →
      ((∀ u, u < 32 → (e.exm o.p).getLsbD u → (b u).extractLsb' 0 32 ≠ 0#32) → ∃ t, exec (.rem o) s = .next t ∧
        Ran e s'' t (e.next (.rem o))
          (e.withWord (e.exm o.p) o.d fun u => lowWord (placeInt o.ty (A u - B u * (A u).tdiv (B u)))) e.st.sstat) ∧
      (∀ u, u < 32 → (e.exm o.p).getLsbD u → (b u).extractLsb' 0 32 = 0#32 → ∃ t a, exec (.rem o) s = .next t ∧
        Traps e s'' t (e.trapOf .divZero a)))

/-- R117: bitwise logic, shifts and rotation.

R118: counts of zero and one bits, reversal, and fields of pos = min(B[7:0], 32) and len = min(B[15:8], 32 − pos). -/
def Obligations.LogicShiftsAndFields : Prop :=
  (∀ o : Alu,
    GivesWord (.and o) o (fun a b _ => a &&& b) ∧ GivesWord (.or o) o (fun a b _ => a ||| b) ∧ GivesWord (.xor o) o (fun a b _ => a ^^^ b) ∧ GivesWord (.andn o) o (fun a b _ => a &&& ~~~ b) ∧
    GivesWord (.orn o) o (fun a b _ => a ||| ~~~ b) ∧ GivesWord (.not o) o (fun a _ _ => ~~~ a) ∧
    GivesWord (.shl o) o (fun a n _ => if n.toNat < 32 then a <<< n.toNat else 0) ∧
    GivesWord (.shr o) o (fun a n _ => if n.toNat < 32 then a >>> n.toNat else 0) ∧
    GivesWord (.sra o) o (fun a n _ => if n.toNat < 32 then a.sshiftRight n.toNat else if a.getLsbD 31 then 0xFFFFFFFF else 0) ∧
    GivesWord (.rot o) o (fun a n _ => a.rotateLeft (n.toNat % 32)) ∧
    GivesShift (.shl64 o) o (fun a n => if n < 64 then a <<< n else 0) ∧
    (o.ty = .n64 → GivesShift (.shr64 o) o (fun a n => if n < 64 then a >>> n else 0)) ∧
    (o.ty = .i64 → GivesShift (.shr64 o) o (fun a n =>
      if n < 64 then a.sshiftRight n else if a.getLsbD 63 then 0xFFFFFFFFFFFFFFFF else 0))) ∧
  (∃ clz ctz popc brev : Word → Word, ∃ bfx : Ty → Word → Word → Word, ∃ bfi : Word → Word → Word → Word,
    (∀ o : Alu, GivesWord (.clz o) o (fun a _ _ => clz a) ∧ GivesWord (.ctz o) o (fun a _ _ => ctz a) ∧ GivesWord (.popc o) o (fun a _ _ => popc a) ∧
      GivesWord (.brev o) o (fun a _ _ => brev a) ∧ GivesWord (.bfx o) o (fun a b _ => bfx o.ty a b) ∧ GivesWord (.bfi o) o bfi) ∧
    clz 0 = 32 ∧ ctz 0 = 32 ∧
    (∀ a : Word, a ≠ 0 → (clz a).toNat < 32 ∧ a.getLsbD (31 - (clz a).toNat) ∧ ∀ j, 31 - (clz a).toNat < j → a.getLsbD j = false) ∧
    (∀ a : Word, a ≠ 0 → (ctz a).toNat < 32 ∧ a.getLsbD (ctz a).toNat ∧ ∀ j, j < (ctz a).toNat → a.getLsbD j = false) ∧
    (∀ a : Word, (popc a).toNat = ((List.range 32).filter fun j => a.getLsbD j).length) ∧
    (∀ (a : Word) j, j < 32 → (brev a).getLsbD (31 - j) = a.getLsbD j) ∧
    (∀ (ty : Ty) (a b : Word) j, j < 32 →
      let pos := min (b.toNat % 256) 32
      let len := min (b.toNat / 256 % 256) (32 - pos)
      (bfx ty a b).getLsbD j = if j < len then a.getLsbD (pos + j) else (ty = .i32 && 0 < len && a.getLsbD (pos + len - 1))) ∧
    (∀ (a b c : Word) j, j < 32 →
      let pos := min (b.toNat % 256) 32
      let len := min (b.toNat / 256 % 256) (32 - pos)
      (bfi a b c).getLsbD j = if pos ≤ j ∧ j < pos + len then c.getLsbD (j - pos) else a.getLsbD j))

/-- R119 to R122: selection, compares, address arithmetic and moves. -/
def Obligations.SelectCompareMove : Prop :=
  ∀ o : Alu,
    (o.sub = 0 → Gives (.sel o) o o.ty.wide o.ty.wide fun e b u =>
      if (e.reg o.c.toNat u).getLsbD u then e.srcA (e.exm o.p) o o.ty.wide u else b u) ∧
    (o.sub = 1 → Gives (.sel o) o o.ty.wide o.ty.wide fun e b u =>
      if e.reg o.c.toNat u ≠ 0 then e.srcA (e.exm o.p) o o.ty.wide u else b u) ∧
    (∀ i, i = Instr.cmp o ∨ i = Instr.cmp64 o → Gives i o o.ty.wide false fun e b u =>
      let passes (u : Nat) : Bool := (e.exm o.p).getLsbD u &&
        (let x := readInt o.ty (e.srcA (e.exm o.p) o o.ty.wide u)
         let y := readInt o.ty (b u)
         match o.sub.toNat with
         | 0 => x = y | 1 => x ≠ y | 2 => x < y | 3 => x ≤ y | 4 => x > y | 5 => x ≥ y | 6 => true | _ => false)
      if o.pt then (if passes u then 1 else 0) else (Mask.ofTest passes).setWidth 64) ∧
    Gives (.lea o) o false true (fun e b u =>
      e.srcPair (e.exm o.p) o.a o.ua u +
        (if o.ty = .i32 then ((b u).extractLsb' 0 32).signExtend 64 else ((b u).extractLsb' 0 32).setWidth 64) <<< (o.c.toNat % 8)) ∧
    ((∃ r u, o.b = .reg r u) → Gives (.mov o) o o.ty.wide o.ty.wide fun e _ u => e.srcA (e.exm o.p) o o.ty.wide u) ∧
    ((∀ r u, o.b ≠ .reg r u) → Gives (.mov o) o o.ty.wide o.ty.wide fun _ b u => b u) ∧
    ∀ (p : Pre) (d : RegNo) (imm : DWord) (s s' : State) (e : Env), Enters (.movw p d imm) s s' e →
      ∃ t, exec (.movw p d imm) s = .next t ∧ Ran e s' t (e.next (.movw p d imm)) (e.withPair (e.exm p) d fun _ => imm) e.st.sstat

/-- R40 to R43: source B as a register, an immediate and a constant-window reference; the traps of the last.

R123: the lowest-numbered failing thread decides how `ldc` traps: on an index past the window, on an absent window, on an
odd index of a pair, or on what the translation of its address gives; with no acting thread it goes on and reads nothing;
and where every check passes, its words are on their way to D, SCORE holds them, and it goes on. -/
def Obligations.SourceBAndConstants : Prop :=
  (∀ (e : Env) (o : Alu) (s : State),
    (∀ r u, o.b = .reg r u →
      e.ReadsB o false s s (fun t => (e.reg r.toNat (if u then Mask.lowest (e.exm o.p) else t)).setWidth 64) ∧
      e.ReadsB o true s s (fun t => e.pair r.toNat (if u then Mask.lowest (e.exm o.p) else t))) ∧
    (∀ x, o.b = .imm x →
      e.ReadsB o false s s (fun _ => x.setWidth 64) ∧
      (o.ty = .i64 → e.ReadsB o true s s fun _ => x.signExtend 64) ∧ (o.ty = .n64 → e.ReadsB o true s s fun _ => x.setWidth 64)) ∧
    (∀ w off wide body, o.b = .const w off → e.exm o.p ≠ 0 →
      let addr := s.window e w.toNat + BitVec.ofNat 64 (4 * off.toNat)
      let read := e.withB (e.exm o.p) o.b wide (widenOp o.ty) s body
      (s.window e w.toNat = 0 → read = s.takeTrap e.who (e.trapOf .permission (BitVec.ofNat 64 (4 * off.toNat)))) ∧
      (s.window e w.toNat ≠ 0 → wide = true → off.toNat % 2 = 1 → read = s.takeTrap e.who (e.trapOf .misaligned addr)))) ∧
  (∀ (o : Alu) (w : BitVec 3) (off : BitVec 17) (s s' : State) (e : Env), o.b = .const w off → (o.ty.wide → o.d.toNat % 2 = 0) → Enters (.ldc o) s s' e →
    let m := e.exm o.p
    let idx (u : Nat) := off.toNat + (e.src m o.a o.ua u).toNat
    let addr (u : Nat) : DWord := s'.window e w.toNat + BitVec.ofNat 64 (4 * idx u)
    let cause (u : Nat) : Option Cause :=
      if 2 ^ 17 ≤ idx u then some .permission
      else if s'.window e w.toNat = 0 then some .permission
      else if o.ty.wide && idx u % 2 = 1 then some .misaligned else none
    let want (n : Nat) : List Want := ((Mask.threads m).filter fun u => u < n).flatMap fun u =>
      (if o.ty.wide then [0, 4] else [0]).map fun d => { thread := u, va := ((addr u).toNat + d) % 2 ^ 64, bytes := 4 }
    ∀ s₁ sp s₂ got, e.space s' = (s₁, sp) →
    (∀ u c, u < 32 → m.getLsbD u → cause u = some c → (∀ v, v < u → m.getLsbD v → cause v = none) →
      s₁.checkThreads sp .read false (want u) = (s₂, got) → (∀ ps, got = .ok ps → ∀ p ∈ ps, p.askew = false) →
      Turned e (.ldc o) s s₂ .read got ∧ ((∃ ps, got = .ok ps) → ∃ t, exec (.ldc o) s = .next t ∧ Traps e s₁ t (e.trapOf c (addr u)))) ∧
    ((∀ u, u < 32 → m.getLsbD u → cause u = none) → s₁.checkThreads sp .read true (want 32) = (s₂, got) →
      Turned e (.ldc o) s s₂ .read got ∧ ∀ ps, got = .ok ps → (∀ p ∈ ps, p.askew = false ∧ s₂.poisonedAt p = false) →
      ∃ t st, exec (.ldc o) s = .next t ∧ t.strand? e.who = some st ∧ (st.split e.k).exm = e.sp.exm ∧
        (∀ n u, u < 32 → st.reg n u = e.st.reg n u) ∧ st.sstat = e.st.sstat ∧
        (st.inbound = e.st.inbound ++
          (if o.d = 0 ∨ m = 0 then [] else
            let vs := (s₂.constWords (((s₂.launchOf e).map Launch.born).getD 0) ps).2
            let n := if o.ty.wide then 2 else 1
            (List.range n).map fun j => { reg := o.d.toNat + j, vals := (Mask.threads m).map fun u => (u, vs.getD (n * ((Mask.threads m).idxOf u) + j) 0) })) ∧
        (st.split e.k).pc = e.next (.ldc o) ∧ ∀ a, byteAt t.mem a = byteAt s₂.mem a))

/-! ### Chapter 4: floating point -/

/-- R126, R130: the instructions whose result is an exact value, of the numbers that the codes mean, rounded once under RM
with SAT. What the exact values are for special operands says `SpecialOperands`. -/
def Obligations.FloatResults : Prop :=
  ∀ o : Alu,
    GivesFloat (.fadd o) o (fun a b _ => addExact o.rm a b) ∧ GivesFloat (.fsub o) o (fun a b _ => addExact o.rm a b.negate) ∧
    GivesFloat (.fmul o) o (fun a b _ => mulExact a b) ∧ GivesFloat (.ffma o) o (fun a b c => fmaExact o.rm a b c) ∧
    GivesFloat (.fdiv o) o (fun a b _ => divExact a b) ∧ GivesFloat (.fsqrt o) o (fun a _ _ => sqrtExact a) ∧
    GivesFloat (.frcp o) o (fun a _ _ => divExact (.fin false 1 0) a) ∧ GivesFloat (.frsq o) o (fun a _ _ => rsqrtExact a) ∧
    GivesFloat (.fex2 o) o (fun a _ _ => exp2Exact a) ∧ GivesFloat (.flg2 o) o (fun a _ _ => log2Exact a) ∧
    GivesFloat (.fsin o) o (fun a _ _ => sinExact a) ∧ GivesFloat (.fcos o) o (fun a _ _ => cosExact a) ∧
    GivesFloat (.ftanh o) o (fun a _ _ => tanhExact a)

/-- R83, R130: results with special operands, for every format and rounding mode: the default NaN for a NaN operand, with
invalid for a signalling one; the invalid operations; division of a finite nonzero value by zero; and the rows of R130.

R127 to R129, R131 to R134: the instructions that choose, compare, classify, round to integers, scale and sum products. -/
def Obligations.SpecialOperandsAndChoices : Prop :=
  (∀ (rm : Rm) (x : Fp) (s n k : Bool) (m : Nat) (e : Int),
    let nan (y : Exact) (fl : Flags) : Prop := ∀ (f : Ieee) (sat : Bool), f.deliver rm sat y = (f.nanCode, fl)
    let quiet : Flags := if s then fInvalid else 0
    ((∀ fs, x = .nan fs → fs = false) →
      nan (addExact rm (.nan s) x) quiet ∧ nan (addExact rm x (.nan s)) quiet ∧ nan (mulExact (.nan s) x) quiet ∧
      nan (mulExact x (.nan s)) quiet ∧ nan (divExact (.nan s) x) quiet ∧ nan (divExact x (.nan s)) quiet ∧
      nan (fmaExact rm (.nan s) x x) quiet) ∧
    nan (sqrtExact (.nan s)) quiet ∧ nan (rsqrtExact (.nan s)) quiet ∧ nan (exp2Exact (.nan s)) quiet ∧
    nan (log2Exact (.nan s)) quiet ∧ nan (sinExact (.nan s)) quiet ∧ nan (cosExact (.nan s)) quiet ∧ nan (tanhExact (.nan s)) quiet ∧
    nan (addExact rm (.inf n) (.inf !n)) fInvalid ∧ nan (mulExact (.fin k 0 e) (.inf n)) fInvalid ∧
    nan (mulExact (.inf n) (.fin k 0 e)) fInvalid ∧ nan (divExact (.fin n 0 e) (.fin k 0 e)) fInvalid ∧
    nan (divExact (.inf n) (.inf k)) fInvalid ∧ (m ≠ 0 → nan (sqrtExact (.fin true m e)) fInvalid) ∧ nan (sqrtExact (.inf true)) fInvalid ∧
    (m ≠ 0 → divExact (.fin n m e) (.fin k 0 e) = .inf (n != k) fDivZero) ∧
    sqrtExact (.fin true 0 e) = .zero true ∧ addExact rm (.fin n 0 e) (.fin n 0 e) = .zero n ∧
    (m ≠ 0 → addExact rm (.fin n m e) (.fin (!n) m e) = .zero (rm = .rd)) ∧
    -- the rows of R130
    (m ≠ 0 → nan (rsqrtExact (.fin true m e)) fInvalid ∧ nan (log2Exact (.fin true m e)) fInvalid) ∧
    nan (rsqrtExact (.inf true)) fInvalid ∧ nan (log2Exact (.inf true)) fInvalid ∧
    nan (sinExact (.inf n)) fInvalid ∧ nan (cosExact (.inf n)) fInvalid ∧
    rsqrtExact (.fin n 0 e) = .inf n fDivZero ∧ log2Exact (.fin n 0 e) = .inf true fDivZero ∧
    rsqrtExact (.inf false) = .zero false ∧ exp2Exact (.inf true) = .zero false ∧ exp2Exact (.inf false) = .inf false 0 ∧
    log2Exact (.inf false) = .inf false 0 ∧ sinExact (.fin n 0 e) = .zero n ∧ tanhExact (.fin n 0 e) = .zero n ∧
    (∀ (f : Ieee) (sat : Bool), f ∈ [f32, f16, bf16, f64] →
      f.deliver rm sat (exp2Exact (.fin n 0 e)) = (f.bias * 2 ^ f.fbits, 0) ∧ f.deliver rm sat (cosExact (.fin n 0 e)) = (f.bias * 2 ^ f.fbits, 0) ∧
      f.deliver rm sat (tanhExact (.inf n)) = ((if n then f.signBit else 0) + f.bias * 2 ^ f.fbits, 0))) ∧
  (∀ o : Alu,
    let fmt := Ty.ieee o.ty
    let first (v : DWord) : Fp := fmt.value ((elements o.ty v).getD 0 0)
    (∀ least i, (least = true ∧ i = Instr.fmin o) ∨ (least = false ∧ i = Instr.fmax o) → GivesCodes i o fun a b _ =>
      let x := fmt.value a
      let y := fmt.value b
      (if x.isNan && y.isNan then fmt.nanCode else if x.isNan then b else if y.isNan then a
       else if compareFp x y = .lt then (if least then a else b) else if compareFp x y = .gt then (if least then b else a)
       else if x.neg || !y.neg then (if least then a else b) else if least then b else a,
       if x = .nan true ∨ y = .nan true then fInvalid else 0)) ∧
    GivesCodes (.fabs o) o (fun a _ _ => (a % fmt.signBit, 0)) ∧ GivesCodes (.fneg o) o (fun a _ _ => (a ^^^ fmt.signBit, 0)) ∧
    GivesFlags (.fcmp o) o o.ty.wide false (fun e b u =>
      let x (u : Nat) := first (e.srcA (e.exm o.p) o o.ty.wide u)
      let y (u : Nat) := first (b u)
      let c := Cond.ofCode o.sub
      let passes (u : Nat) : Bool := (e.exm o.p).getLsbD u && floatCond c (x u) (y u)
      (if o.pt then (if passes u then 1 else 0) else (Mask.ofTest passes).setWidth 64, compareFlags c (x u) (y u))) ∧
    Gives (.fclass o) o false false (fun e _ u =>
      BitVec.ofNat 64 (2 ^ match first (e.srcA (e.exm o.p) o o.ty.wide u) with
        | .nan true => 0 | .nan false => 1 | .inf true => 2 | .inf false => 9
        | .fin true m _ => if m = 0 then 5 else if m < 2 ^ fmt.fbits then 4 else 3
        | .fin false m _ => if m = 0 then 6 else if m < 2 ^ fmt.fbits then 7 else 8)) ∧
    GivesCodes (.frnd o) o (fun a _ _ => fmt.deliver .rn false (match (fmt.value a).exact with
      | .num x => if (x.roundAt o.rm 0).1 = 0 then .zero x.neg else .num { neg := x.neg, m := (x.roundAt o.rm 0).1, e := 0 }
      | r => r)) ∧
    GivesFlags (.fscale o) o false o.ty.wide (fun e b u =>
      let k := ((b u).extractLsb' 0 32).toInt
      perElement ((elements o.ty (e.srcA (e.exm o.p) o o.ty.wide u)).map fun a =>
        fmt.deliver o.rm o.sat (match (fmt.value a).exact with | .num x => .num { x with e := x.e + max (-8192) (min 8192 k) } | r => r))) ∧
    GivesFlags (.fdp2 o) o false false (fun e b u =>
      let val (v : DWord) (k : Nat) : Fp := fmt.value ((elements o.ty v).getD k 0)
      let a := e.srcA (e.exm o.p) o false u
      perElement [f32.deliver o.rm o.sat (sumExact o.rm
        [(mulExact (val a 0) (val (b u) 0)).value, (mulExact (val a 1) (val (b u) 1)).value, f32.value (e.reg o.c.toNat u).toNat])]))

/-- R84, R85: an exact result that a code means is delivered as that code without a flag; a result beyond the largest
magnitude is delivered by the table of R85, with overflow and inexact, and as the largest magnitude under SAT. -/
def Obligations.RoundingEnds : Prop :=
  ∀ (f : Ieee) (rm : Rm) (x : Real_), f ∈ [f32, f16, bf16, f64] →
    (∀ c sat, c < 2 * f.signBit → (f.value c).isNan = false → (sat = true → c % f.signBit ≠ f.infCode) →
      f.deliver rm sat (f.value c).exact = (c, 0)) ∧
    (x.m ≠ 0 → (f.bias : Int) + 1 ≤ x.top →
      let sign := if x.neg then f.signBit else 0
      (f.round rm false x).1 = sign + (match rm, x.neg with
        | .rn, _ | .rd, true | .ru, false => f.infCode
        | .rz, _ | .rd, false | .ru, true => f.infCode - 1) ∧
      (f.round rm true x).1 = sign + (f.infCode - 1) ∧ ∀ sat, (f.round rm sat x).2 = fOverflow ||| fInexact)

/-- R135, R136: conversions; the packed forms of R135, and the stochastic narrow ones of R136. -/
def Obligations.Conversions : Prop :=
  ∀ o : Alu,
    let src := Ty.ofCode o.sub
    (src.packed = false → o.ty.packed = false → GivesFlags (.cvt o) o false o.ty.wide fun e _ u =>
      convert src o.ty o.rm o.sat .flush (e.srcA (e.exm o.p) o src.wide u)) ∧
    (src.packed = true → o.ty.packed = true → GivesFlags (.cvt o) o false o.ty.wide fun e _ u =>
      perElement ((elements src (e.srcA (e.exm o.p) o false u)).map fun c => (Ty.ieee o.ty).deliver o.rm o.sat ((Ty.ieee src).value c).exact)) ∧
    (src = .f32 → o.ty.packed = true → GivesFlags (.cvt o) o false o.ty.wide fun e b u =>
      perElement ([(e.src (e.exm o.p) o.a o.ua u).toNat, (b u).toNat % 2 ^ 32].map fun c =>
        (Ty.ieee o.ty).deliver o.rm o.sat (f32.value c).exact)) ∧
    (src.packed = true → o.ty = .f32 → GivesFlags (.cvt o) o false false fun e _ u =>
      perElement [f32.deliver o.rm o.sat ((Ty.ieee src).value ((elements src (e.srcA (e.exm o.p) o false u)).getD (o.c.toNat % 2) 0)).exact]) ∧
    ∀ s s' s'' e b x, Enters (.cvtsr o) s s' e → e.ReadsB o false s' s'' b → (e.lat = false → look s''.teams e.team = some x) →
      FlagsResult (.cvtsr o) o false s s'' e fun u =>
        convert src o.ty o.rm o.sat (.chance (randomOf (e.ctx.seed ^^^ (e.sp.pc <<< 32) ^^^ BitVec.ofNat 64
          (if e.lat then 0 else ((x.idx * 32 + e.warp) * 32 + u) % 2 ^ 32)))) (e.srcA (e.exm o.p) o src.wide u)

/-- R94, R95, R137, R138: `qpk` forms one block of the threads' elements, its scale byte and their flags; `qupk` gives each
thread the value of its code. A block with a NaN raises the flags of all its elements: the model's reading (log 20). -/
def Obligations.QuadBlocks : Prop :=
  ∀ (o : Alu) (s s' s'' : State) (e : Env) (b : Nat → DWord), e.ReadsB o false s' s'' b →
    let m := e.exm o.p
    let sb := (b (Mask.lowest m)).toNat % 256
    (Enters (.qpk o) s s' e → o.d ≠ 0 → o.d.toNat % 4 = 0 → (o.c.toNat < o.d.toNat ∨ o.d.toNat + 3 < o.c.toNat) →
      let x (u : Nat) := f32.value (e.reg o.a.toNat u).toNat
      let made (u : Nat) := quadCode (sb / 64) (sb % 64) o.rm .flush (x u).exact
      let nan : Bool := (Mask.threads m).any fun u => (x u).isNan
      let zero : Bool := sb % 64 = 63 || nan
      let code (u : Nat) : Nat := if !zero && m.getLsbD u then (made u).1 else 0
      let word (k : Nat) : Word := BitVec.ofNat 32 (code (8 * k) + code (8 * k + 1) * 16 + code (8 * k + 2) * 16 ^ 2 + code (8 * k + 3) * 16 ^ 3 +
        code (8 * k + 4) * 16 ^ 4 + code (8 * k + 5) * 16 ^ 5 + code (8 * k + 6) * 16 ^ 6 + code (8 * k + 7) * 16 ^ 7)
      let fl : Flags := if sb % 64 = 63 then 0 else orFlags ((Mask.threads m).map fun u => (made u).2)
      (fl &&& enables e.st.sstat = 0 → ∃ t, exec (.qpk o) s = .next t ∧
        Ran e s'' t (e.next (.qpk o)) (fun n u =>
          if m.getLsbD u ∧ o.d.toNat ≤ n ∧ n ≤ o.d.toNat + 3 then word (n - o.d.toNat)
          else if m.getLsbD u ∧ o.c ≠ 0 ∧ n = o.c.toNat then BitVec.ofNat 32 (if zero then sb / 64 * 64 + 63 else sb)
          else e.st.reg n u) (e.st.sstat ||| fl.setWidth 32)) ∧
      (fl &&& enables e.st.sstat ≠ 0 → ∃ t a, exec (.qpk o) s = .next t ∧
        Traps e s'' t (e.trapOf .float a (fl &&& enables e.st.sstat).toNat))) ∧
    (Enters (.qupk o) s s' e → ∃ t, exec (.qupk o) s = .next t ∧
      Ran e s'' t (e.next (.qupk o)) (e.withWord m o.d fun u =>
        let c := (e.reg (o.a.toNat + u / 8) (Mask.lowest m)).toNat / 16 ^ (u % 8) % 16
        BitVec.ofNat 32 (f32.deliver .rn false (quadValue sb c).exact).1) e.st.sstat)

/-! ### Chapter 4: the warp group -/

/-- R142 to R145: values exchanged between the acting threads. -/
def Obligations.WarpExchange : Prop :=
  ∀ o : Alu,
    let mask (e : Env) (p : Nat → Bool) : Mask := Mask.ofTest fun u => (e.exm o.p).getLsbD u && p u
    (∀ s s' s'' e b, Enters (.shfl o) s s' e → e.ReadsB o false s' s'' b → o.d.toNat % 2 = 0 ∨ o.ty.wide = false →
      ∃ t, exec (.shfl o) s = .next t ∧ RanLater e s'' t (e.next (.shfl o)) (lateWords (e.exm o.p) o.d o.ty.wide fun u =>
        let n := ((b u).extractLsb' 0 32).toNat
        let from_ : Option Nat := match o.sub.toNat with
          | 0 => some (n % 32)
          | 1 => if n ≤ u then some (u - n) else none
          | 2 => if u + n ≤ 31 then some (u + n) else none
          | _ => some (u ^^^ (n % 32))
        e.srcA (e.exm o.p) o o.ty.wide (match from_ with
          | some v => if v < 32 ∧ (e.exm o.p).getLsbD v then v else u
          | none => u))) ∧
    Gives (.vote o) o false false (fun e _ _ =>
      let vs := (Mask.threads (e.exm o.p)).map fun u => e.src (e.exm o.p) o.a o.ua u
      if (match o.sub.toNat with
        | 0 => vs.all (· ≠ 0)
        | 1 => vs.any (· ≠ 0)
        | _ => vs.all fun v => vs.all fun w => v = w) then 1 else 0) ∧
    Gives (.bal o) o false false (fun e _ _ => (mask e fun u => e.src (e.exm o.p) o.a o.ua u ≠ 0).setWidth 64) ∧
    Gives (.bcast o) o false o.ty.wide (fun e b _ =>
      let v := ((b (Mask.lowest (e.exm o.p))).extractLsb' 0 32).toNat % 32
      e.srcA (e.exm o.p) o o.ty.wide (if (e.exm o.p).getLsbD v then v else Mask.lowest (e.exm o.p))) ∧
    Gives (.matchw o) o false o.ty.wide (fun e _ u =>
      (mask e fun v => e.srcA (e.exm o.p) o o.ty.wide v = e.srcA (e.exm o.p) o o.ty.wide u).setWidth 64)

/-- R144: reductions over all acting threads and scans over those up to each thread (before it where SUB[3] is 1), for
integers: the sum clamped under SAT or wrapped, the least, the greatest, and the bitwise combinations.

R127, R134, R144: reductions and scans of floating-point values: the exact sum rounded once, or the least or greatest
as `fmin` and `fmax` choose, with flags and traps as in the FLT group. -/
def Obligations.WarpReductions : Prop :=
  (∀ o : Alu, Ty.isFloat o.ty = false →
    let fold (vs : List DWord) : DWord :=
      let xs := vs.map (readInt o.ty)
      match o.sub.toNat % 8 with
      | 0 => placeInt o.ty (if o.sat then max (minInt o.ty) (min (maxInt o.ty) xs.sum) else xs.sum)
      | 1 => placeInt o.ty (xs.foldr min (maxInt o.ty))
      | 2 => placeInt o.ty (xs.foldr max (minInt o.ty))
      | 3 => vs.foldr (· &&& ·) (BitVec.allOnes 64)
      | 4 => vs.foldr (· ||| ·) 0
      | _ => vs.foldr (· ^^^ ·) 0
    Gives (.redw o) o false o.ty.wide (fun e _ _ =>
      fold ((Mask.threads (e.exm o.p)).map fun u => e.srcA (e.exm o.p) o o.ty.wide u)) ∧
    Gives (.scanw o) o false o.ty.wide (fun e _ u =>
      fold (((Mask.threads (e.exm o.p)).filter fun v => v < u || (v = u && o.sub.toNat < 8)).map fun v => e.srcA (e.exm o.p) o o.ty.wide v))) ∧
  (∀ o : Alu, o.ty = .f32 ∨ o.ty = .f64 →
    let f := Ty.ieee o.ty
    let fold (vs : List DWord) : DWord × Flags :=
      let cs := vs.map fun v => (elements o.ty v).getD 0 0
      match o.sub.toNat % 8 with
      | 0 => if cs = [] then (0, 0) else perElement [f.deliver o.rm false (sumExact o.rm (cs.map f.value))]
      | 1 => perElement [leastCode f true cs]
      | _ => perElement [leastCode f false cs]
    GivesFlags (.redw o) o false o.ty.wide (fun e _ _ =>
      fold ((Mask.threads (e.exm o.p)).map fun u => e.srcA (e.exm o.p) o o.ty.wide u)) ∧
    GivesFlags (.scanw o) o false o.ty.wide (fun e _ u =>
      fold (((Mask.threads (e.exm o.p)).filter fun v => v < u || (v = u && o.sub.toNat < 8)).map fun v => e.srcA (e.exm o.p) o o.ty.wide v)))

/-! ### Chapter 12: control flow -/

/-- R32, R336, R337, R338, R339: a fill word, `nop`, `yield`, `wait` and `prog`. They change no register, flag or byte of
memory. With the switch marker a split that holds outstanding results parks at the next instruction (R51). `wait` parks its
split until the count of clocks has passed. `prog` adds one to one progress counter of the context, whatever the number of
threads.

R334, R335: `trap` raises `explicit trap` with its code, at its own address, and returns behind itself; `brk` goes on
behind itself and, where no debugger holds the context, an event record of kind 3 holds its tag; where one does, the debug
service takes a report and the warp stops in MODE 0. -/
def Obligations.GoesOnAndTraps : Prop :=
  ((∀ (s : State) (e : Env), s.env = some e → e.k < e.st.splits.length → ∃ t, exec .fillWord s = .next t ∧ Ran e s t (e.sp.pc + 4) e.st.reg e.st.sstat) ∧
  (∀ (i : Instr) (p : Pre), i = .nop p ∨ i = .yieldw p → ∀ s s' e, Enters i s s' e →
    ∃ t, exec i s = .next t ∧ Ran e s' t (e.next i) e.st.reg e.st.sstat ∧
      ∀ st, t.strand? e.who = some st → ((st.split e.k).st = .parked ↔ p.sw = true ∧ e.sp.score ≠ [])) ∧
  (∀ (p : Pre) (n : Sys2Proof.Num) s s' e, Enters (.wait p n) s s' e →
    (e.exm p = 0 ∨ e.num (e.exm p) n = 0 ∨ e.timedOut = true → PassesOn e (.wait p n) s s') ∧
    (e.exm p ≠ 0 → e.num (e.exm p) n ≠ 0 → e.sp.again = false →
      ∃ t, exec (.wait p n) s = .next t ∧ Parks e s' t 11 .clocks (some (e.num (e.exm p) n).toNat))) ∧
  ∀ (p : Pre) (n : Sys2Proof.Num) s s' e, Enters (.prog p n) s s' e →
    (e.exm p = 0 → PassesOn e (.prog p n) s s') ∧
    (e.exm p ≠ 0 → ∃ t, exec (.prog p n) s = .next t ∧
      Ran e { s' with ctxs := t.ctxs } t (e.next (.prog p n)) e.st.reg e.st.sstat ∧
      (∀ c, c ≠ e.ctxNo → t.ctx c = s'.ctx c) ∧ (∀ x, { t.ctx e.ctxNo with prog := x } = { s'.ctx e.ctxNo with prog := x }) ∧
      ∀ k, readOr 0 (t.ctx e.ctxNo).prog k =
        if k = (e.num (e.exm p) n).toNat % 16 then readOr 0 (s'.ctx e.ctxNo).prog k + 1 else readOr 0 (s'.ctx e.ctxNo).prog k)) ∧
  ((∀ (p : Pre) (code : Byte) s s' e, Enters (.trap p code) s s' e →
    (e.exm p = 0 → PassesOn e (.trap p code) s s') ∧
    (e.exm p ≠ 0 → ∃ t, exec (.trap p code) s = .next t ∧ Traps e s' t
      { split := e.k, ecause := 0x40 + (code.setWidth 32 <<< 8), epc := e.sp.pc, eaddr := e.sp.pc, after := true, len := 12 })) ∧
  ∀ (p : Pre) (tag : BitVec 7) s s' e, Enters (.brk p tag) s s' e → e.acc = [] →
    (e.exm p = 0 → PassesOn e (.brk p tag) s s') ∧
    (e.exm p ≠ 0 → ∃ u, Ran e s' u (e.next (.brk p tag)) e.st.reg e.st.sstat ∧
      (u.debugged e.ctxNo = false →
        exec (.brk p tag) s = .next (u.eventRecord e.ctxNo e.die 3 0 0x30 e.sp.pc 0 (s'.nameOf e.who e.sp.pc) tag.toNat)) ∧
      (u.debugged e.ctxNo = true → ∃ r : DebugReport, exec (.brk p tag) s = .next ((u.debugReport e.die r).debugStop e.who 0) ∧
        r.cause = 0x30 ∧ r.ctx = e.ctxNo ∧ r.mode = 0 ∧ r.tag = tag.toNat ∧ r.site = (s'.nameOf e.who e.sp.pc).site ∧
        r.seq = (s'.nameOf e.who e.sp.pc).seq ∧ r.team = (s'.nameOf e.who e.sp.pc).team)))

/-- R328, R330: the uniform branches `bra`, `brx`, `call`, `calx` and `ret`. Without an acting thread the split goes on; a
guard that only some threads pass, or different pairs in the threads, trap; otherwise the target decides (`Jumps`), and the
calls write the address of the next instruction to the link pair. `ret` at the return pair of a shipped section ends the
section with status 0 and the values of `v4` to `v7`. -/
def Obligations.Branches : Prop :=
  (∀ (p : Pre) (x : Word) (i : Instr) (link : Bool), (i = .braUniform p x ∧ link = false) ∨ (i = .call p x ∧ link = true) →
    ∀ s s' e, Enters i s s' e →
      (e.exm p = 0 → PassesOn e i s s') ∧
      (e.exm p ≠ 0 → e.exm p ≠ e.sp.exm → ∃ t a, exec i s = .next t ∧ Traps e s' t (e.trapOf .divergent a)) ∧
      (e.exm p ≠ 0 → e.exm p = e.sp.exm → Jumps e i s s' (e.exm p) (e.sp.pc + x.signExtend 64) link)) ∧
  (∀ (p : Pre) (a : RegNo) (ua : Bool) (i : Instr) (link ret : Bool),
    (i = .brx p a ua ∧ link = false ∧ ret = false) ∨ (i = .calx p a ua ∧ link = true ∧ ret = false) ∨ (i = .ret p a ua ∧ link = false ∧ ret = true) →
    ∀ s s' e, Enters i s s' e →
      let tgt := e.pair a.toNat (Mask.lowest (e.exm p))
      let same : Prop := ua = true ∨ ∀ u < 32, (e.exm p).getLsbD u = true → e.pair a.toNat u = tgt
      (e.exm p = 0 → PassesOn e i s s') ∧
      (e.exm p ≠ 0 → e.exm p ≠ e.sp.exm ∨ ¬same → ∃ t v, exec i s = .next t ∧ Traps e s' t (e.trapOf .divergent v)) ∧
      (e.exm p ≠ 0 → e.exm p = e.sp.exm → same → ¬(ret = true ∧ e.serving = true ∧ tgt = 0xFFFFFFFFFFFFFFFC) → Jumps e i s s' (e.exm p) tgt link)) ∧
  ∀ (p : Pre) (a : RegNo) s s' e (l : Nat) (r : ShipReq), Enters (.ret p a true) s s' e → e.who = .lat l 0 → (s'.lc l).t0.serving = some r →
    (∀ w ∈ (s'.die (l / 16)).waiters, w.2 ≠ .split (.lat l 0)) →
    e.exm p ≠ 0 → e.exm p = e.sp.exm → e.pair a.toNat (Mask.lowest (e.exm p)) = 0xFFFFFFFFFFFFFFFC →
    ∃ (t : State) (res : ShipRes), exec (.ret p a true) s = .next t ∧ t.results = s'.results ++ [res] ∧ res.status = 0 ∧ res.seq = r.seq ∧
      res.res = [(s'.lc l).t0.main.reg 4 0, (s'.lc l).t0.main.reg 5 0, (s'.lc l).t0.main.reg 6 0, (s'.lc l).t0.main.reg 7 0] ∧
      (t.lc l).t0.serving = none ∧ (t.lc l).t0.active = false ∧ t.mem = s'.mem ∧ t.teams = s'.teams ∧ t.ctxs = s'.ctxs

/-- R315, R329: the divergent `bra` with target T and join J. Where all or none of the threads take it, no division happens.
In a warp with a free split number, the lowest such number `n` goes on at T with the taken threads, the old split at the next
instruction with the others, both under one new join record. With four splits, or in a handler image, the split takes the
branch and keeps the others on its stack; at depth 16 it traps. A bad target or join traps. -/
def Obligations.DivergentBranch : Prop :=
  ∀ (p : Pre) (x j : Word) s s' e, Enters (.braDivergent p x j) s s' e →
    let i : Instr := .braDivergent p x j
    let m := e.exm p
    let tgt := e.sp.pc + x.signExtend 64
    let join := e.sp.pc + j.signExtend 64
    let good (a : DWord) : Prop := a.extractLsb' 0 2 = 0#2 ∧ a.extractLsb' 57 7 = 0#7
    (m = 0 → PassesOn e i s s') ∧
    (m ≠ 0 → ¬good tgt → ∃ t c, exec i s = .next t ∧ Traps e s' t (e.trapOf c tgt) ∧ (c = .misaligned ∨ c = .permission)) ∧
    (m ≠ 0 → good tgt → ¬good join → ∃ t c, exec i s = .next t ∧ Traps e s' t (e.trapOf c join) ∧ (c = .misaligned ∨ c = .permission)) ∧
    (m ≠ 0 → good tgt → good join → m = e.sp.exm → ∃ t, exec i s = .next t ∧ Ran e s' t tgt e.st.reg e.st.sstat) ∧
    (∀ (k w q n : Nat), m ≠ 0 → good tgt → good join → m ≠ e.sp.exm → e.who = .warp k w q → n < 4 → n ≠ e.k →
      (e.st.split n).st = .free ∨ (e.st.split n).st = .exited →
      (∀ n' < n, (e.st.split n').st ≠ .free ∧ (e.st.split n').st ≠ .exited) → (e.st.split e.k).st ≠ .free → (e.st.split e.k).st ≠ .exited → n ≤ e.st.splits.length →
      ∃ (t : State) (st : Strand) (key : Nat), exec i s = .next t ∧ KeepsRest e s' t st ∧
        (st.split n).pc = tgt ∧ (st.split n).exm = m ∧ (st.split n).stack = e.sp.stack ∧ (st.split n).jrec = key :: e.sp.jrec ∧
        (st.split n).mon = none ∧ (st.split n).score = cutScore m e.sp.score ∧
        (st.split e.k).pc = e.next i ∧ (st.split e.k).exm = e.sp.exm &&& ~~~ m ∧ (st.split e.k).stack = e.sp.stack ∧
        (st.split e.k).jrec = key :: e.sp.jrec ∧ (st.split e.k).score = cutScore (e.sp.exm &&& ~~~ m) e.sp.score ∧
        look st.joins key = some { joinAt := join, depth := e.sp.stack.length, expected := e.sp.exm } ∧
        (∀ q, q ≠ key → look st.joins q = look e.st.joins q) ∧ ∀ q, q ≠ n → q ≠ e.k → st.split q = e.st.split q) ∧
    (m ≠ 0 → good tgt → good join → m ≠ e.sp.exm →
      (∀ k w q, e.who = .warp k w q → ∀ n < 4, (e.st.split n).st ≠ .free ∧ (e.st.split n).st ≠ .exited) →
      (16 ≤ e.sp.stack.length → ∃ t a, exec i s = .next t ∧ Traps e s' t (e.trapOf .joinOverflow a)) ∧
      (e.sp.stack.length < 16 → ∃ (t : State) (st : Strand), exec i s = .next t ∧ KeepsRest e s' t st ∧ st.joins = e.st.joins ∧
        (st.split e.k).pc = tgt ∧ (st.split e.k).exm = m ∧ (st.split e.k).jrec = e.sp.jrec ∧
        (st.split e.k).stack = { pc := e.next i, mask := e.sp.exm &&& ~~~ m, joinAt := join } :: e.sp.stack ∧
        ∀ q, q ≠ e.k → st.split q = e.st.split q))

/-- R316, R331: `join`. At the join of the top of its stack the split runs the other arm, or goes on with the threads of both.
Under an innermost record that names this join at this depth it waits, until every expected live thread has arrived; then the
splits of the record merge into the lowest of them, after the join. Elsewhere `join` passes on. -/
def Obligations.Join : Prop :=
  ∀ (p : Pre) s s' e, Enters (.join p) s s' e →
    let i : Instr := .join p
    (∀ top rest, e.sp.stack = top :: rest → top.joinAt = e.sp.pc → top.mask ≠ 0 →
      ∃ (t : State) (st : Strand), exec i s = .next t ∧ KeepsRest e s' t st ∧ st.joins = e.st.joins ∧
        (st.split e.k).pc = top.pc ∧ (st.split e.k).exm = top.mask ∧ (st.split e.k).jrec = e.sp.jrec ∧
        (st.split e.k).stack = { top with mask := 0, pending := top.pending ||| e.sp.exm } :: rest ∧
        ∀ q, q ≠ e.k → st.split q = e.st.split q) ∧
    (∀ top rest, e.sp.stack = top :: rest → top.joinAt = e.sp.pc → top.mask = 0 →
      ∃ (t : State) (st : Strand), exec i s = .next t ∧ KeepsRest e s' t st ∧ st.joins = e.st.joins ∧
        (st.split e.k).pc = e.next i ∧ (st.split e.k).exm = top.pending ||| e.sp.exm ∧ (st.split e.k).stack = rest ∧
        ∀ q, q ≠ e.k → st.split q = e.st.split q) ∧
    (∀ key jrec (r : JoinRec), (∀ top rest, e.sp.stack = top :: rest → top.joinAt ≠ e.sp.pc) → e.sp.jrec = key :: jrec → look e.st.joins key = some r →
      r.joinAt = e.sp.pc → r.depth = e.sp.stack.length →
      (r.arrived ||| e.sp.exm ≠ r.expected &&& e.st.live →
        ∃ (t : State) (st : Strand), exec i s = .next t ∧ KeepsRest e s' t st ∧
          look st.joins key = some { r with arrived := r.arrived ||| e.sp.exm, sw := r.sw || p.sw } ∧
          (st.split e.k).st = .parked ∧ (st.split e.k).park = some { reason := 2, cond := .joined } ∧ (st.split e.k).pc = e.sp.pc ∧
          (st.split e.k).exm = e.sp.exm ∧ ∀ q, q ≠ e.k → st.split q = e.st.split q) ∧
      (r.arrived ||| e.sp.exm = r.expected &&& e.st.live →
        ∃ (t : State) (st : Strand) (low : Nat), exec i s = .next t ∧ KeepsRest e s' t st ∧ look st.joins key = none ∧
          (∀ q, q ≠ key → look st.joins q = look e.st.joins q) ∧
          (st.split low).exm = r.arrived ||| e.sp.exm ∧ (st.split low).pc = e.sp.pc + 8 ∧ (st.split low).mon = none ∧
          (low ≤ e.k ∧ (low < e.k → (e.st.split low).jrec.head? = some key ∧ st.split e.k = {})) ∧
          (∀ q, q ≠ low → q ≠ e.k → ((e.st.split q).jrec.head? ≠ some key ∨ (e.st.split q).st = .free ∨ (e.st.split q).st = .exited) →
            st.split q = e.st.split q) ∧
          ∀ q, q ≠ low → q ≠ e.k → (e.st.split q).jrec.head? = some key → (e.st.split q).st ≠ .free → (e.st.split q).st ≠ .exited → st.split q = {})) ∧
    ((∀ top rest, e.sp.stack = top :: rest → top.joinAt ≠ e.sp.pc) → e.sp.jrec = [] → PassesOn e i s s')

/-- R332, R317: `exit` without an undelivered fault or an outstanding result, once the release of device scope has been
performed: the acting threads leave `%live` and every mask of the warp; the registers stay. Where no barrier of the job is in
use every byte of memory stays. While a result is outstanding it parks; a deferred fault traps and nothing exits. -/
def Obligations.Exit : Prop :=
  ∀ (p : Pre) s s' e (k n q : Nat) (x : Team) (wp : Warp), Enters (.exit p) s s' e → e.who = .warp k n q → look s'.teams k = some x →
    x.warps[n]? = some wp →
    (e.exm p = 0 → PassesOn e (.exit p) s s') ∧
    (e.exm p ≠ 0 → (∃ d ∈ x.deferred, d.warp = none ∨ d.warp = some n) →
      ∃ t d, d ∈ x.deferred ∧ exec (.exit p) s = .next t ∧ Traps e (s'.settleDeferred k d) t { e.trapOf .engine d.va with made := some (d.site, d.seq) }) ∧
    (e.exm p ≠ 0 → x.deferred = [] → (∃ r ∈ e.sp.score, r.mask &&& e.exm p ≠ 0) →
      ∃ t, exec (.exit p) s = .next t ∧ Parks e s' t 1 (.scoreOf (e.exm p))) ∧
    (e.exm p ≠ 0 → x.deferred = [] → (∀ r ∈ e.sp.score, r.mask &&& e.exm p = 0) → e.sp.mark = none →
      let u := s'.release e.agent .dev e.releaser
      u.drained e.agent e.who u.nextKey false = true →
      ∃ t, exec (.exit p) s = .next t ∧
        ((s'.ctx x.ctx).jobBars = [] → ∀ a, byteAt t.mem a = byteAt u.mem a) ∧
        ∀ y, look t.teams k = some y → y.launch = x.launch →
          ∃ wp', y.warps[n]? = some wp' ∧ wp'.main.live = wp.main.live &&& ~~~ (e.exm p) ∧ wp'.main.regs = wp.main.regs ∧
            wp'.main.sstat = wp.main.sstat ∧
            ∀ j, (wp'.main.split j).st ≠ .free → (wp'.main.split j).st ≠ .exited → (wp'.main.split j).exm &&& e.exm p = 0)

/-! ### Chapters 8 to 10: memory -/

/-- R269, R270, R273, R321: `ld`. Without an acting thread it passes on; a failing check turns it away. Otherwise it goes on
and changes no register at once; without LAST every byte of memory is as it was. Each single-copy atomic part of a thread's
bytes (R222) that misses in the caches of its agent, or goes to the home by its type, has a read of exactly these bytes on its
way there, and SCORE holds the registers; a load whose every part hits has its words, with the sign or zero extension of R273,
on their way at once. A load of bytes that the Z4 keeps for itself returns free words (R8, R193, R301, R393). -/
def Obligations.Loads : Prop :=
  ∀ (o : Mem) s s' e, Enters (.ld o) s s' e →
    let i : Instr := .ld o
    let m := e.exm o.p
    (m = 0 → PassesOn e i s s') ∧
    (∀ u c, m ≠ 0 → e.Checks o true .read s' u c → Turned e i s u .read c) ∧
    (∀ u ps, m ≠ 0 → e.Reaches o true .read s' u ps →
      (ps.any (orderedAt u.dev) = true → e.sp.mark = none ∧ u.drained e.agent e.who u.nextKey false = true) →
      (∀ p ∈ ps, p.at_.dev ≠ u.dev ∨ p.at_.pa < hbmEnd) →
      (∃ t, exec i s = .next t ∧ Advances e t (e.next i) ∧ (o.last = false → ∀ a, byteAt t.mem a = byteAt u.mem a)) ∧
      ((∀ p ∈ ps, u.ownsPiece e.ctxNo p = true) → acquireScope o = none → o.d.toNat + o.w.regs ≤ 128 → m &&& ~~~ e.st.live = 0 →
        look u.loads u.nextKey = none → ∃ (t : State) (f : Nat → Nat → Word), exec i s = .next t ∧
          RanLater e u t (e.next i) (if o.d = 0 then [] else (List.range o.w.regs).map fun j => (BitVec.ofNat 7 (o.d.toNat + j), m, f j))) ∧
      (∀ p line pos n off, p ∈ ps → (line, pos, n, off) ∈ p.units o.w.bytes → u.ownsPiece e.ctxNo p = false →
        loadType u.dev o p.at_ = .uc ∨ u.hit e.agent e.ctx.asid line pos n = none →
        ∃ (t : State) (k : Nat) (r : ReadUnit) (l : LoadOp) (st : Strand), exec i s = .next t ∧ look t.reads k = some r ∧ r.load = u.nextKey ∧ r.line = line ∧
          r.pos = pos ∧ r.bytes = n ∧ r.off = p.off + off ∧ r.thread = p.thread ∧ r.who = e.who ∧ r.agent = e.agent ∧ r.ord = o.ord ∧ r.sc = o.sc ∧
          r.rt = loadType u.dev o p.at_ ∧ look t.loads u.nextKey = some l ∧
          l.who = e.who ∧ l.reg = o.d.toNat ∧ l.w = o.w ∧ l.sx = o.sx ∧ l.mask = m ∧ l.left ≠ 0 ∧ l.acq = acquireScope o ∧
          t.strand? e.who = some st ∧ st.inbound = e.st.inbound ∧
          (o.d ≠ 0 → (st.split e.k).score = e.sp.score ++ (List.range o.w.regs).map fun j => { reg := o.d.toNat + j, mask := m })) ∧
      ∀ p bs, ps = [p] → u.ownsPiece e.ctxNo p = false → p.off = 0 → p.bytes = o.w.bytes → p.thread < 32 → m = BitVec.ofNat 32 (2 ^ p.thread) →
        e.st.live.getLsbD p.thread = true → p.at_.dev = u.dev → o.last = false → o.d ≠ 0 → o.d.toNat + o.w.regs ≤ 128 →
        look u.loads u.nextKey = none → o.ord = .rlx → loadType u.dev o p.at_ ≠ .uc → bs.length = o.w.bytes →
        (∀ x ∈ p.units o.w.bytes, u.hit e.agent e.ctx.asid x.1 x.2.1 x.2.2.1 = some ((bs.drop x.2.2.2).take x.2.2.1)) →
        ∃ (t : State) (st : Strand), exec i s = .next t ∧
          (loadType u.dev o p.at_ ≠ .si →
            RanLater e u t (e.next i) ((List.range o.w.regs).map fun j => (BitVec.ofNat 7 (o.d.toNat + j), m, fun _ => accessWord o.w o.sx bs j))) ∧
          t.strand? e.who = some st ∧ st.inbound = e.st.inbound ++ (List.range o.w.regs).map fun j =>
            { reg := o.d.toNat + j, vals := (Mask.threads m).map fun v => (v, accessWord o.w o.sx bs j) })

/-- R240, R241, R270, R271, R273: `st`. It writes no register. On memory it changes no byte at once outside the lines of the
addresses that its threads' operands give; on a wide core no byte at all: the bytes stored, the low bytes of the data registers,
stand in the issuing core's L1 line (`cb`), in a write on its way home (`uc`, `si`, `wt`, strong stores, and a line that another
one has displaced, R218), or in the write-combining buffer or a packet (another device); on a latency core a displaced line's
dirty bytes come to memory, and a store follows the core's own earlier write of the line to the home (R241). A releasing store
waits for what it releases. -/
def Obligations.Stores : Prop :=
  ∀ (o : Mem) s s' e, Enters (.st o) s s' e →
    let i : Instr := .st o
    let m := e.exm o.p
    (m = 0 → PassesOn e i s s') ∧
    (∀ u c, m ≠ 0 → e.Checks o true .write s' u c → Turned e i s u .write c) ∧
    (∀ u ps, m ≠ 0 → e.Reaches o true .write s' u ps → (∀ p ∈ ps, p.at_.dev ≠ u.dev ∨ p.at_.pa < hbmEnd) →
      let rel := decide (o.ord = .rel) && decide (o.sc ≠ .team)
      let so := ps.any (orderedAt u.dev)
      let far := ps.any fun p => decide (p.at_.dev ≠ u.dev)
      let v := if rel then u.release e.agent o.sc e.releaser else u
      (so = true ∨ (rel = true ∧ (far = true ∨ o.sc = .sys)) →
        e.sp.mark = none ∧ v.drained e.agent e.who v.nextKey (rel && decide (o.sc = .sys)) = true) →
      ∃ t, exec i s = .next t ∧ Advances e t (e.next i) ∧
        (∀ a, (∀ p ∈ ps, ∀ x ∈ p.units o.w.bytes, linePa x.1 ≠ a / 128 * 128) → byteAt t.mem a = byteAt u.mem a ∨
          ∃ x ∈ u.lcs, ∃ l ∈ x.2.cache, linePa l.1 = a / 128 * 128 ∧ l.2.dirty.getLsbD (a % 128) = true ∧ byteAt t.mem a = dataByte l.2.data (a % 128)) ∧
        (∀ c, e.agent = .wide c → ∀ a, byteAt t.mem a = byteAt u.mem a) ∧
        (∀ p line pos n off, p ∈ ps → (line, pos, n, off) ∈ p.units o.w.bytes → p.at_.dev = u.dev →
          storeType o p.at_ = .uc ∨ (storeType o p.at_ ≠ .cb ∧ ∃ c, e.agent = .wide c) →
          ∃ (k : Nat) (op : WriteOp), look t.out k = some op ∧ op.agent = e.agent ∧ op.line = line ∧ op.atomic = none ∧ op.mask = rangeMask pos n ∧
            holdsBytes op.mask op.data pos ((((e.storeData o o.d p.thread).drop p.off).take p.bytes).drop off |>.take n)) ∧
        ∀ p line pos n off, ps = [p] → (line, pos, n, off) ∈ p.units o.w.bytes →
          let bs := (((e.storeData o o.d p.thread).drop p.off).take p.bytes).drop off |>.take n
          (∀ c, e.agent = .wide c → p.at_.dev = u.dev → storeType o p.at_ = .cb → (∃ (l : Line), look (t.core c).l1 line = some l ∧
            holdsBytes l.dirty l.data pos bs ∧ holdsBytes l.valid l.data pos bs) ∨
            ∃ (k : Nat) (op : WriteOp), look t.out k = some op ∧ op.agent = e.agent ∧ op.line = line ∧ op.atomic = none ∧ holdsBytes op.mask op.data pos bs) ∧
          (∀ c, e.agent = .lat c → p.at_.dev = u.dev → storeType o p.at_ ≠ .uc →
            (∃ (l : Line), look (t.lc c).cache line = some l ∧ holdsBytes l.dirty l.data pos bs ∧ holdsBytes l.valid l.data pos bs) ∨
            ((u.out ≠ [] ∨ u.held ≠ [] ∨ u.remote ≠ []) ∧ ∃ (k : Nat) (op : WriteOp), look t.out k = some op ∧ op.agent = e.agent ∧ op.line = line ∧
              op.atomic = none ∧ holdsBytes op.mask op.data pos bs) ∨
            ∀ (i : Nat) (b : Byte), bs[i]? = some b → byteAt t.mem (linePa line + pos + i) = b) ∧
          (p.at_.dev ≠ u.dev → (∃ (c : Nat) (w : Wcb), e.agent = .wide c ∧ look (t.core c).wcb line = some w ∧ holdsBytes w.mask w.data pos bs) ∨
            ∃ (k : Nat) (r : RemoteOp), look t.remote k = some r ∧ r.agent = e.agent ∧ r.line = line ∧ r.type = 2 ∧ holdsBytes r.mask r.data pos bs))

/-- R215, R216, R222, R249, R269, R274: `lds`, `ldr`, `sts` and `str`. A failing check of the offsets raises its cause at the first
such thread; a load of a byte of a PROV tile raises `speculative data used`; a load waits for earlier strong accesses of its threads.
Otherwise a load has the words of the bytes at its threads' offsets on their way, and a store replaces exactly the bytes at its
threads' offsets, in ascending thread order. Accesses of 16 bytes are made in their two halves, the second with the next issue. No
register, no flag and no byte of global memory changes. -/
def Obligations.Scratchpad : Prop :=
  (∀ (o : Mem) (i : Instr) (acc : Env → State → List SpadAt),
    (i = .lds o ∧ acc = fun e s => e.ownAccesses o s) ∨ (i = .ldr o ∧ acc = fun e s => e.bandAccesses o s) → ∀ s s' e, Enters i s s' e →
      (∀ hi ys, e.halfDone = some (hi, ys) → o.w = .b128 → o.ord ≠ .acq → o.d.toNat + 4 ≤ 128 → (∀ y ∈ ys, y.1 < 32) → ys ≠ [] →
        ∃ t, exec i s = .next t ∧ RanLater e s' t (e.next i) (halfWords o s' hi ys)) ∧
      (e.halfDone = none →
      let xs := acc e s'
      (∀ c a, spadCheck o.w.bytes xs = some (c, a) → ∃ t, exec i s = .next t ∧ Traps e s' t (e.trapOf c a)) ∧
      (spadCheck o.w.bytes xs = none → ∀ x, xs.find? (fun x => s'.tileOver (x.team.getD 0) .prov x.off o.w.bytes) = some x →
        ∃ t, exec i s = .next t ∧ Traps e s' t (e.trapOf .speculation (BitVec.ofNat 64 x.off))) ∧
      (spadCheck o.w.bytes xs = none → xs.find? (fun x => s'.tileOver (x.team.getD 0) .prov x.off o.w.bytes) = none → s'.strongOf e (e.exm o.p) = true →
        ∃ t st, exec i s = .next t ∧ KeepsRest e s' t st ∧ (st.split e.k).pc = e.sp.pc ∧ (st.split e.k).st = .interlock ∧ (st.split e.k).again = true) ∧
      (spadCheck o.w.bytes xs = none → xs.find? (fun x => s'.tileOver (x.team.getD 0) .prov x.off o.w.bytes) = none → s'.strongOf e (e.exm o.p) = false →
        o.w ≠ .b128 ∨ e.exm o.p = 0 → ∃ t, exec i s = .next t ∧ Advances e t (e.next i) ∧ ∀ a, byteAt t.mem a = byteAt s'.mem a) ∧
      (spadCheck o.w.bytes xs = none → xs.find? (fun x => s'.tileOver (x.team.getD 0) .prov x.off o.w.bytes) = none → s'.strongOf e (e.exm o.p) = false →
        o.w = .b128 → e.exm o.p ≠ 0 → o.d.toNat + 4 ≤ 128 → ∃ (t : State) (st : Strand) (hi : Bool),
          let ys := spadWork xs fun _ => []
          let rs := halfWords o s' hi ys
          exec i s = .next t ∧ t.strand? e.who = some st ∧ (∀ n u, u < 32 → st.reg n u = e.st.reg n u) ∧ st.sstat = e.st.sstat ∧
          st.inbound = e.st.inbound ++ rs.map (fun r => { reg := r.1.toNat, vals := (Mask.threads r.2.1).map fun u => (u, r.2.2 u) }) ∧
          (st.split e.k).pc = e.sp.pc ∧ (st.split e.k).st = .interlock ∧ (st.split e.k).again = true ∧
          (st.split e.k).park.map Park.cond = some (.half (!hi) ys) ∧ ∀ a, byteAt t.mem a = byteAt s'.mem a) ∧
      (spadCheck o.w.bytes xs = none → xs.find? (fun x => s'.tileOver (x.team.getD 0) .prov x.off o.w.bytes) = none → s'.strongOf e (e.exm o.p) = false →
        o.w ≠ .b128 → o.ord ≠ .acq → e.exm o.p ≠ 0 → o.d.toNat + o.w.regs ≤ 128 →
        ∃ t, exec i s = .next t ∧ RanLater e s' t (e.next i) (if o.d = 0 then [] else (List.range o.w.regs).map fun j =>
          (BitVec.ofNat 7 (o.d.toNat + j), e.exm o.p, fun u => accessWord o.w o.sx
            (match xs.find? fun x => x.thread = u with | some x => s'.spadRead (x.team.getD 0) x.off o.w.bytes | none => []) j))))) ∧
  ∀ (o : Mem) (i : Instr) (acc : Env → State → List SpadAt),
    (i = .sts o ∧ acc = fun e s => e.ownAccesses o s) ∨ (i = .str o ∧ acc = fun e s => e.bandAccesses o s) → ∀ s s' e, Enters i s s' e →
      (∀ hi ys, e.halfDone = some (hi, ys) → o.w = .b128 → ∃ t, exec i s = .next t ∧ Advances e t (e.next i) ∧
        PutsSpad s' t ys (if hi then 8 else 0) fun y => ((leBytes 16 y.2.2.2).drop (if hi then 8 else 0)).take 8) ∧
      (e.halfDone = none →
      let xs := acc e s'
      let ys := spadWork xs fun u => e.storeData o o.d u
      (∀ c a, spadCheck o.w.bytes xs = some (c, a) → ∃ t, exec i s = .next t ∧ Traps e s' t (e.trapOf c a)) ∧
      (spadCheck o.w.bytes xs = none →
        (o.ord = .rel → e.exm o.p ≠ 0 →
          e.sp.mark = none ∧ (s'.release e.agent o.sc e.releaser).drained e.agent e.who (s'.release e.agent o.sc e.releaser).nextKey false = true) →
        (o.w ≠ .b128 ∨ e.exm o.p = 0 → ∃ t, exec i s = .next t ∧ Advances e t (e.next i) ∧ PutsSpad s' t ys 0 fun y => e.storeData o o.d y.1) ∧
        (o.w = .b128 → e.exm o.p ≠ 0 → ∃ (t : State) (st : Strand) (hi : Bool), exec i s = .next t ∧ t.strand? e.who = some st ∧
          (∀ n u, u < 32 → st.reg n u = e.st.reg n u) ∧ st.sstat = e.st.sstat ∧ (st.split e.k).pc = e.sp.pc ∧ (st.split e.k).st = .interlock ∧
          (st.split e.k).again = true ∧ (st.split e.k).park.map Park.cond = some (.half (!hi) ys) ∧
          PutsSpad s' t ys (if hi then 8 else 0) fun y => ((e.storeData o o.d y.1).drop (if hi then 8 else 0)).take 8)))

/-- R50, R222, R270, R276, R277: `atom`, `red` and `cas`. A misaligned address or a failing check turns the instruction away.
Otherwise it goes on, changes no register and no byte of memory at once, and the operations of its threads are on their way to
the home in thread order, each with its operands; `atom` and `cas` have a load that waits for the old values. (A releasing
one of system scope, or to another device or an SO page, waits first for what it releases, but a `cas` to this device, which may
fail, does so on its way; every access to an SO page waits for the thread's earlier ones.)

R276, R50: what an atomic writes at its home. -/
def Obligations.Atomics : Prop :=
  (∀ (o : Mem) (i : Instr) (op : Nat) (value : Bool),
    (i = .atom o ∧ op = o.c.toNat % 16 ∧ value = true) ∨ (i = .red o ∧ op = o.c.toNat % 16 ∧ value = false) ∨ (i = .cas o ∧ op = 13 ∧ value = true) →
    ∀ s s' e, Enters i s s' e →
      let m := e.exm o.p
      let aligned : Prop := ∀ u < 32, m.getLsbD u = true → (e.address o false m u).toNat % o.w.bytes = 0
      (m = 0 → PassesOn e i s s') ∧
      (¬aligned → ∃ t u, exec i s = .next t ∧ Traps e s' t (e.trapOf .misaligned (e.address o false m u)) ∧
        m.getLsbD u = true ∧ (e.address o false m u).toNat % o.w.bytes ≠ 0) ∧
      (∀ u c, m ≠ 0 → aligned → e.Checks o false .atomic s' u c → Turned e i s u .atomic c) ∧
      (∀ (u : State) (ps : List Piece), m ≠ 0 → aligned → e.Reaches o false .atomic s' u ps →
        let so := ps.any fun p => decide (p.at_.ord = 1)
        let far := ps.any fun p => decide (p.at_.dev ≠ u.dev)
        let rel := (decide (o.ord = .rel) || decide (o.ord = .ar)) && decide (o.sc ≠ .team)
        let v := if rel then u.release e.agent o.sc e.releaser else u
        (so = true ∨ (rel = true ∧ (far = true ∨ (o.sc = .sys ∧ op ≠ 13))) →
          e.sp.mark = none ∧ v.drained e.agent e.who v.nextKey (rel && decide (o.sc = .sys) && (far || decide (op ≠ 13))) = true) →
        ∃ t, exec i s = .next t ∧ Advances e t (e.next i) ∧ (∀ a, byteAt t.mem a = byteAt u.mem a) ∧
          ∀ (n : Nat) (p : Piece), ps[n]? = some p → ∃ (k : Nat) (w : WriteOp), look t.out k = some w ∧ w.agent = e.agent ∧
            w.line = lineNo p.at_.dev p.at_.pa ∧
            ∃ (a : AtomicOp), w.atomic = some a ∧ a.op = op ∧ a.bytes = p.bytes ∧ a.pa = p.at_.pa ∧ a.thread = p.thread ∧
              a.operand = e.atomicOperand o m (if op = 13 then o.c else o.b) (if op = 13 then false else o.ub) p.thread ∧
              a.compare = e.atomicOperand o m o.b o.ub p.thread ∧ (a.load.isSome = value) ∧
              w.ord = o.ord ∧ w.sc = o.sc ∧ ∀ key, a.load = some key → ∃ (l : LoadOp), look t.loads key = some l ∧ l.who = e.who ∧ l.reg = o.d.toNat ∧ l.w = o.w ∧ l.mask = m ∧ l.left = ps.length)) ∧
  (∀ (old b : Nat), old < 2 ^ 32 → b < 2 ^ 32 →
    let signed (x : Nat) : Int := (BitVec.ofNat 32 x).toInt
    atomicResult 0 4 old b = (old + b) % 2 ^ 32 ∧
    (signed old ≤ signed b → atomicResult 1 4 old b = old ∧ atomicResult 2 4 old b = b) ∧
    (signed b ≤ signed old → atomicResult 1 4 old b = b ∧ atomicResult 2 4 old b = old) ∧
    atomicResult 3 4 old b = (BitVec.ofNat 32 old &&& BitVec.ofNat 32 b).toNat ∧
    atomicResult 4 4 old b = (BitVec.ofNat 32 old ||| BitVec.ofNat 32 b).toNat ∧
    atomicResult 5 4 old b = (BitVec.ofNat 32 old ^^^ BitVec.ofNat 32 b).toNat ∧
    atomicResult 6 4 old b = b ∧
    (atomicResult 7 4 old b = if b ≤ old then 0 else old + 1) ∧
    (atomicResult 8 4 old b = if old = 0 ∨ b < old then b else old - 1) ∧
    ∀ a : AtomicOp, a.op = 13 → a.written old = if old = a.compare.toNat % 2 ^ (8 * a.bytes) then some (a.operand.toNat % 2 ^ (8 * a.bytes)) else none)

/-- R218, R221, R224, R225, R240, R276: a write or an atomic at its home. It waits while an earlier request goes first. A line
that no tracked cache holds is written at once: the masked bytes take the data, or the word of the atomic what it writes, and
every other byte stays (what an atomic finds of bytes that are the Z4's own is open, R393); where a tracked cache holds the line, the write is held until each of them has dropped the line and
answered. A line of another device leaves as a packet. (No watch range, trace or error meets the line.)

R219, R225, R236, R321: a read at its home. It waits while an earlier request goes first; a read of a line
of this device without an error, one without a fill or one of a wide core whose die holds no copy of the line, returns exactly the bytes of memory, dirty bytes of latency cores recalled first; its load,
where it was the last, has its words on their way. A line of another device is asked for by a packet. A result that returns is
written to its register in its threads, and only there, and leaves SCORE. -/
def Obligations.HomeAccesses : Prop :=
  ((∀ (s : State) (k : Nat), (look s.out k = none ∨ ∃ op, look s.out k = some op ∧ s.mayPerform k op = false) → exec (.homeWriteRequest k) s = .next s.bump) ∧
  (∀ (s : State) (k : Nat) (op : WriteOp), look s.out k = some op → s.mayPerform k op = true → lineDev op.line = s.dev → s.sharers op.line = [] →
    (∀ d, (s.die d).ranges = []) →
    ∃ t, exec (.homeWriteRequest k) s = .next t ∧
      (op.atomic = none → t.out = unlist s.out k ∧ ∀ a, byteAt t.mem a =
        if linePa op.line ≤ a ∧ op.mask.getLsbD (a - linePa op.line) = true then dataByte op.data (a - linePa op.line) else byteAt s.mem a) ∧
      (∀ x, op.atomic = some x → s.poisoned x.pa x.bytes = false → s.fencedAt x.pa = false → s.ownedByZ4 x.pa x.bytes = false → x.pa / 128 < 2 ^ 33 → x.pa % 128 + x.bytes ≤ 128 → x.load = none →
        ∀ a, byteAt t.mem a =
          match x.written (leNat (bytesAt s.mem x.pa x.bytes)) with
          | some v => if x.pa ≤ a ∧ a < x.pa + x.bytes then (leBytes x.bytes v).getD (a - x.pa) 0 else byteAt s.mem a
          | none => byteAt s.mem a)) ∧
  (∀ (s : State) (k : Nat) (op : WriteOp), look s.out k = some op → s.mayPerform k op = true → lineDev op.line = s.dev → s.sharers op.line ≠ [] →
    ∃ t, exec (.homeWriteRequest k) s = .next t ∧ look t.held k = some { op with awaits := s.sharers op.line, silent := [] } ∧
      ∀ a, linePa op.line ≠ a / 128 * 128 → byteAt t.mem a = byteAt s.mem a) ∧
  (∀ (s : State) (k : Nat) (op : WriteOp), look s.out k = some op → s.mayPerform k op = true → lineDev op.line ≠ s.dev →
    ∃ (t : State) (r : RemoteOp), exec (.homeWriteRequest k) s = .next t ∧ look t.remote s.txn = some r ∧ r.dev = lineDev op.line ∧ r.line = op.line ∧ r.type = 3 ∧
      r.atomic = op.atomic ∧ r.mask = op.mask ∧ r.ord = op.ord ∧ r.sc = op.sc ∧ t.mem = s.mem) ∧
  (∀ (s : State) (k cache : Nat) (op : WriteOp), look s.held k = some op → cache ∈ op.awaits → cache ∉ op.silent →
    ∃ t, exec (.invalidation k cache) s = .next t ∧ look t.held k = some { op with silent := op.silent ++ [cache] } ∧
      (cache < 4 → look (t.die cache).rdc op.line = none) ∧ (4 ≤ cache → look (t.lc (cache - 4)).cache op.line = none) ∧
      ∀ a, linePa op.line ≠ a / 128 * 128 → byteAt t.mem a = byteAt s.mem a) ∧
  ∀ (s : State) (k : Nat) (op : WriteOp), look s.held k = some op → (∀ c ∈ op.awaits, c ∈ op.silent) → s.mayPerform k op = true → s.sharers op.line = [] → op.atomic = none →
    (∀ d, (s.die d).ranges = []) →
    ∃ t, exec (.invalidationAck k) s = .next t ∧ t.held = unlist s.held k ∧ ∀ a, byteAt t.mem a =
      if linePa op.line ≤ a ∧ op.mask.getLsbD (a - linePa op.line) = true then dataByte op.data (a - linePa op.line) else byteAt s.mem a) ∧
  ((∀ (s : State) (k : Nat), (look s.reads k = none ∨ ∃ u, look s.reads k = some u ∧ (u.txn.isSome = true ∨ s.mayRead k u = false)) →
    exec (.homeRead k) s = .next s.bump) ∧
  (∀ (s : State) (k : Nat) (u : ReadUnit) (l : LoadOp) (st : Strand), look s.reads k = some u → u.txn = none → s.mayRead k u = true →
    lineDev u.line = s.dev → u.fill = none ∨ ((∃ c, u.agent = .wide c) ∧ look (s.die u.agent.die).rdc u.line = none) → u.bytes ≠ 0 → u.pos + u.bytes ≤ 128 → s.poisoned (linePa u.line + u.pos) u.bytes = false → s.fencedAt (linePa u.line) = false →
    (∀ d, (s.die d).ranges = []) → look s.loads u.load = some l → l.left = 1 → l.failed = none → l.acq = none → l.reg ≠ 0 → l.bytes = [] →
    u.off = 0 → u.bytes = l.w.bytes → s.strand? l.who = some st → (∀ v < 32, l.mask.getLsbD v = true → v = u.thread ∧ st.live.getLsbD v = true) →
    ∃ (t : State) (st' : Strand), exec (.homeRead k) s = .next t ∧ t.mem = (s.homeRead (linePa u.line) 128).1.mem ∧ look t.reads k = none ∧ look t.loads u.load = none ∧
      t.strand? l.who = some st' ∧ st'.regs = st.regs ∧ st'.sstat = st.sstat ∧
      st'.inbound = st.inbound ++ (List.range l.w.regs).map fun j =>
        { reg := l.reg + j, vals := (Mask.threads l.mask).map fun v => (v, accessWord l.w l.sx (bytesAt t.mem (linePa u.line + u.pos) u.bytes) j) }) ∧
  (∀ (s : State) (k : Nat) (u : ReadUnit), look s.reads k = some u → u.txn = none → s.mayRead k u = true → lineDev u.line ≠ s.dev → u.fill ≠ some true →
    ∃ (t : State) (r : RemoteOp), exec (.homeRead k) s = .next t ∧ look t.remote s.txn = some r ∧ r.dev = lineDev u.line ∧ r.line = u.line ∧ r.type = 1 ∧ r.read = some k ∧ t.mem = s.mem) ∧
  ∀ (s : State) (st : Strand), s.strand? s.focus = some st → st.inbound ≠ [] →
    ∃ (t : State) (st' : Strand) (n : Nat) (r : Inbound), exec .resultReturn s = .next t ∧ st.inbound[n]? = some r ∧ t.strand? s.focus = some st' ∧
      st'.inbound = st.inbound.eraseIdx n ∧ st'.sstat = st.sstat ∧
      t.elsewhere s.focus = s.elsewhere s.focus ∧ (∀ a, byteAt t.mem a = byteAt s.mem a) ∧
      ((∀ x ∈ r.vals, x.1 < 32) → ∀ q u, u < 32 → st'.reg q u =
        if q = r.reg ∧ q ≠ 0 then (match r.vals.reverse.find? fun x => x.1 = u with | some x => x.2 | none => st.reg q u) else st.reg q u) ∧
      ∀ j, (st'.split j).pc = (st.split j).pc ∧ (st'.split j).exm = (st.split j).exm ∧
        ∀ x ∈ (st'.split j).score, x.reg = r.reg → ∀ v ∈ r.vals, v.1 < 32 → x.mask.getLsbD v.1 = false)

/-- R223, R234, R242, R278, R288, R289, R290: `fence`, `wcdrain`, `pdwait` and `lnext`. They write no register and change no byte of
memory. A releasing fence of die scope or wider leaves no dirty byte in the core's L1 but on UO pages, and goes on once the
earlier writes of its agent are acknowledged; an acquiring one waits for the earlier atomics and strong loads of its threads, and
without a release half for their earlier loads; at die or device scope it leaves no line there but `si` lines of other devices and
UO lines, and it goes on once the write-backs of what it drops are acknowledged. `wcdrain` waits for the remote stores of its context, `pdwait` for its predecessor; `lnext` marks
its warp. -/
def Obligations.FencesAndDrains : Prop :=
  (∀ (i : Instr) (o : Mem), i = .fence o ∨ i = .wcdrain o ∨ i = .pdwait o ∨ i = .lnext o → ∀ s s' e, Enters i s s' e → e.exm o.p = 0 → PassesOn e i s s') ∧
  (∀ (o : Mem) s s' e, Enters (.fence o) s s' e → e.exm o.p ≠ 0 →
    let m := e.exm o.p
    let rel := decide (o.ord ≠ .acq)
    let acq := decide (o.ord = .acq) || decide (o.ord = .ar)
    let v := if rel then s'.release e.agent o.sc e.releaser else s'
    let w := if acq then v.acquire e.agent e.ctx.asid o.sc e.releaser else v
    let dropped (t : State) : Prop := ∀ c, e.agent = .wide c → o.sc ≠ .team → ∀ line l, look (t.core c).l1 line = some l →
      l.uo = true ∨ ((rel = true → acq = false → l.dirty = 0) ∧ (acq = true → o.sc ≠ .sys → l.si = true ∧ lineDev line ≠ s'.dev))
    let waits (t : State) : Prop := exec (.fence o) s = .next t ∧ (∀ a, byteAt t.mem a = byteAt s'.mem a) ∧ ∃ st, t.strand? e.who = some st ∧
      (st.split e.k).st = .interlock ∧ (st.split e.k).again = true ∧ (st.split e.k).pc = e.sp.pc ∧ st.regs = e.st.regs
    (e.dropped = true → PassesOn e (.fence o) s s') ∧
    (e.dropped = false → (acq = true ∧ s'.strongOf e m = true) ∨ (o.ord = .acq ∧ s'.awaitsPath e.who m = true) → ∃ t, waits t ∧ t.core = s'.core) ∧
    (e.dropped = false → (acq = true → s'.strongOf e m = false) → (rel = false → s'.awaitsPath e.who m = false) →
      (rel = true → e.sp.mark = none ∧ v.drained e.agent e.who v.nextKey (decide (o.sc = .sys)) = true) →
      ((acq = true → w.acknowledged e.agent v.nextKey w.nextKey = true) →
        ∃ t, exec (.fence o) s = .next t ∧ Advances e t (e.next (.fence o)) ∧ (∀ a, byteAt t.mem a = byteAt s'.mem a) ∧ dropped t) ∧
      (acq = true → w.acknowledged e.agent v.nextKey w.nextKey = false →
        ∃ t st, waits t ∧ dropped t ∧ t.strand? e.who = some st ∧ (st.split e.k).park.map Park.cond = some (.acked v.nextKey w.nextKey))) ∧
    (e.dropped = false → (acq = true → s'.strongOf e m = false) → rel = true → e.sp.mark = none →
      v.drained e.agent e.who v.nextKey (decide (o.sc = .sys)) = false →
      ∃ t st, waits t ∧ t.strand? e.who = some st ∧ (st.split e.k).mark = some v.nextKey)) ∧
  (∀ (o : Mem) s s' e mark, Enters (.wcdrain o) s s' e → e.exm o.p ≠ 0 →
    let open_ : Prop := ∃ x ∈ s'.remote, x.2.born < mark ∧ x.2.wcb = true ∧ x.2.agent = e.agent ∧ e.ctxNo ∈ x.2.storers ∧ (e.lat = true → x.2.who = some e.who)
    (e.sp.again = true ∧ ∃ k, e.sp.park = some k ∧ k.cond = .remoteWrites mark) ∨
      (e.sp.again = false ∧ mark = s'.nextKey ∧ ∀ c, e.agent = .wide c → ∀ x ∈ (s'.core c).wcb, e.ctxNo ∉ x.2.ctxs) →
    (¬open_ → PassesOn e (.wcdrain o) s s') ∧
    (open_ → ∃ t st, exec (.wcdrain o) s = .next t ∧ KeepsRest e s' t st ∧
      (st.split e.k).st = .parked ∧ (st.split e.k).pc = e.sp.pc ∧ (st.split e.k).park = some { reason := 10, cond := .remoteWrites mark })) ∧
  (∀ (o : Mem) s s' e, Enters (.pdwait o) s s' e → e.exm o.p ≠ 0 →
    (s'.waitsFor e = true → ∃ t, exec (.pdwait o) s = .next t ∧ Parks e s' t 6 .predecessor) ∧
    (s'.waitsFor e = false → ∃ t, exec (.pdwait o) s = .next t ∧ Advances e t (e.next (.pdwait o)) ∧ ∀ a, byteAt t.mem a = byteAt s'.mem a)) ∧
  ∀ (o : Mem) s s' e (k n j : Nat) (x : Team) (wp : Warp), Enters (.lnext o) s s' e → e.exm o.p ≠ 0 → e.who = .warp k n j → look s'.teams k = some x →
    x.warps[n]? = some wp →
    ∃ t y wp', exec (.lnext o) s = .next t ∧ Advances e t (e.next (.lnext o)) ∧ (∀ a, byteAt t.mem a = byteAt s'.mem a) ∧
      look t.teams k = some y ∧ y.warps[n]? = some wp' ∧ wp'.lnext = true

/-- R279 to R284: `flush`, `inval`, `discard`, `pref` and `icinv`, on the lines `ls` that the present pages of the ranges
cover; an address with one of the bits [63:57] set raises `permission` (R269). They write no register; on a wide core they change
no byte of memory, and elsewhere none outside those lines. After
`flush` (of a scope beyond the team), `inval` and `discard` the issuing agent holds none of the lines; a page that does not grant
W turns `discard` away; `icinv` empties the instruction cache of its core and its split's fetched block. -/
def Obligations.CacheMaintenance : Prop :=
  (∀ (i : Instr) (o : Mem), i = .flush o ∨ i = .inval o ∨ i = .discard o ∨ i = .pref o → ∀ s s' e n, Enters i s s' e → e.beyond o = some n →
    (e.exm o.p).getLsbD n = true ∧ 2 ^ 57 ≤ (e.address o false (e.exm o.p) n).toNat ∧
    ∃ t, exec i s = .next t ∧ Traps e s' t (e.trapOf .permission (e.address o false (e.exm o.p) n))) ∧
  (∀ (o : Mem) s s' e u ls, Enters (.flush o) s s' e → e.beyond o = none → e.overLines o .read coveredLines s' = (u, ls) → u.strand? e.who = s'.strand? e.who →
    let v := if o.sc = .team then u else ls.foldl (fun (s : State) (x : Nat × Place) =>
      let s := s.cleanLine e.agent x.1
      if o.sc = .sys then s.clearWay e.agent x.1 else s) u
    (e.exm o.p ≠ 0 → e.sp.mark = none ∧ v.drained e.agent e.who v.nextKey (decide (o.sc = .sys)) = true) →
    ∃ t, exec (.flush o) s = .next t ∧ Advances e t (e.next (.flush o)) ∧
      (∀ a, (∀ x ∈ ls, linePa x.1 ≠ a / 128 * 128) → byteAt t.mem a = byteAt u.mem a) ∧
      ∀ c, e.agent = .wide c → (∀ a, byteAt t.mem a = byteAt u.mem a) ∧ (o.sc ≠ .team → ∀ x ∈ ls, look (t.core c).l1 x.1 = none)) ∧
  (∀ (i : Instr) (o : Mem) s s' e u ls, i = .inval o ∨ i = .pref o → Enters i s s' e → e.beyond o = none → e.overLines o .read coveredLines s' = (u, ls) →
    u.strand? e.who = s'.strand? e.who →
    ∃ t, exec i s = .next t ∧ Advances e t (e.next i) ∧
      (∀ a, (∀ x ∈ ls, linePa x.1 ≠ a / 128 * 128) → byteAt t.mem a = byteAt u.mem a) ∧
      ∀ c, e.agent = .wide c → (∀ a, byteAt t.mem a = byteAt u.mem a) ∧ (i = .inval o → ∀ x ∈ ls, look (t.core c).l1 x.1 = none)) ∧
  (∀ (o : Mem) s s' e, Enters (.discard o) s s' e → e.beyond o = none →
    let v := (e.space s').1
    let sp := (e.space s').2
    let range (s : State) (n : Nat) : State × List (Place × Nat × Trans) := s.discardRange sp (e.address o false (e.exm o.p) n).toNat (e.src (e.exm o.p) o.b o.ub n).toNat
    let denied (n : Nat) : Bool := (range v n).2.any fun x => decide (x.2.2 = .denied)
    (∀ n, (Mask.threads (e.exm o.p)).find? denied = some n → ∃ t, exec (.discard o) s = .next t ∧ Traps e v t (e.trapOf .permission (e.address o false (e.exm o.p) n))) ∧
    ((Mask.threads (e.exm o.p)).find? denied = none →
      ∀ u ls, (Mask.threads (e.exm o.p)).foldl (fun (acc : State × List (Nat × Place)) n => ((range acc.1 n).1, acc.2 ++ wholeLines (range acc.1 n).2)) (v, []) = (u, ls) →
        u.strand? e.who = s'.strand? e.who →
        ∃ t, exec (.discard o) s = .next t ∧ Advances e t (e.next (.discard o)) ∧ (∀ a, byteAt t.mem a = byteAt u.mem a) ∧
          ∀ c, e.agent = .wide c → ∀ x ∈ ls, look (t.core c).l1 x.1 = none)) ∧
  ∀ (o : Mem) s s' e c, Enters (.icinv o) s s' e → e.agent = .wide c →
    (e.exm o.p = 0 → PassesOn e (.icinv o) s s') ∧
    (e.exm o.p ≠ 0 → e.sp.mark = none →
      let w := s'.writeBackEvery c e.releaser
      let v := if o.sc = .sys then w.sendWcbs c (fun _ _ => true) else w
      v.drained e.agent e.who v.nextKey (decide (o.sc = .sys)) = true →
      ∃ t st, exec (.icinv o) s = .next t ∧ Advances e t (e.next (.icinv o)) ∧ (∀ a, byteAt t.mem a = byteAt s'.mem a) ∧ (t.core c).icache = [] ∧
        t.strand? e.who = some st ∧ (st.split e.k).block = none ∧ (st.split e.k).st ≠ .ready)

/-- R269, R285, R286, R287: `mon` and `mwait`. `mon` checks the address bits of every acting thread and arms the split's monitor on the line of the lowest thread's address; a line of
another device gives a coarse one. `mwait` returns 2 without a monitor, 1 once the line has been written, 0 at its timeout, and
disarms the monitor; otherwise it parks. A coarse monitor may fire at any time, an exact one does not by itself. -/
def Obligations.Monitors : Prop :=
  (∀ (i : Instr) (o : Mem), i = .mon o ∨ i = .mwait o → ∀ s s' e, Enters i s s' e → e.exm o.p = 0 → PassesOn e i s s') ∧
  (∀ (o : Mem) s s' e n, Enters (.mon o) s s' e → e.beyond o = some n →
    (e.exm o.p).getLsbD n = true ∧ 2 ^ 57 ≤ (e.address o false (e.exm o.p) n).toNat ∧
    ∃ t, exec (.mon o) s = .next t ∧ Traps e s' t (e.trapOf .permission (e.address o false (e.exm o.p) n))) ∧
  (∀ (o : Mem) s s' e v sp u c, Enters (.mon o) s s' e → e.exm o.p ≠ 0 → e.beyond o = none → e.space s' = (v, sp) →
    v.checkAll sp .read [{ thread := Mask.lowest (e.exm o.p), va := (e.address o false (e.exm o.p) (Mask.lowest (e.exm o.p))).toNat, bytes := 1 }] = (u, c) →
    u.strand? e.who = s'.strand? e.who → Turned e (.mon o) s u .read c ∧ ∀ p ps, c = .ok (p :: ps) → (∀ q ∈ p :: ps, q.askew = false) →
    ∃ (t : State) (st : Strand) (x : Bool), exec (.mon o) s = .next t ∧ KeepsRest e u t st ∧ (st.split e.k).pc = e.next (.mon o) ∧
      (st.split e.k).mon = some { line := lineNo p.at_.dev p.at_.pa, coarse := x, hit := false } ∧ (p.at_.dev ≠ u.dev → x = true) ∧
      ∀ j, j ≠ e.k → st.split j = e.st.split j) ∧
  (∀ (o : Mem) s s' e, Enters (.mwait o) s s' e → e.exm o.p ≠ 0 →
    let n := (match o.x with | some x => x | none => e.one (e.exm o.p) o.b).toNat
    (∀ r : Word, (e.sp.mon = none ∧ r = 2) ∨ (∃ mon, e.sp.mon = some mon ∧ mon.hit = true ∧ r = 1) ∨
        (∃ mon, e.sp.mon = some mon ∧ mon.hit = false ∧ (n = 0 ∨ e.timedOut = true) ∧ r = 0) →
      ∃ t, exec (.mwait o) s = .next t ∧ Ran e s' t (e.next (.mwait o)) (e.withWord (e.exm o.p) o.d fun _ => r) e.st.sstat ∧
        ∀ st, t.strand? e.who = some st → (st.split e.k).mon = none) ∧
    (∀ mon, e.sp.mon = some mon → mon.hit = false → n ≠ 0 → e.sp.again = false →
      ∃ t, exec (.mwait o) s = .next t ∧ Parks e s' t 5 .monitor (if n = 2 ^ 32 - 1 then none else some n))) ∧
  ∀ (s : State) (e : Env), s.env = some e → e.k < e.st.splits.length →
    ∃ (t : State) (st : Strand), exec .coarseMonitorFire s = .next t ∧ KeepsRest e s t st ∧
      (∀ mon, e.sp.mon = some mon → (st.split e.k).mon = some { mon with hit := mon.hit || mon.coarse }) ∧ (e.sp.mon = none → (st.split e.k).mon = none) ∧
      ∀ j, j ≠ e.k → st.split j = e.st.split j

/-- R228, R233, R234, R454, R470, R471: packets and losses. A request of another device without a grant is answered with
`permission` and changes nothing; a granted write to memory without a sharer's dirty bytes writes exactly its masked bytes. An
acknowledgement ends its request, and the RDC of the die that wrote holds the line no more (R246); a request that is lost or times
out ends, and the event of R471 reports a store. WCB entries past their age leave. Sharers that do not answer fence their dies. -/
def Obligations.RemoteTraffic : Prop :=
  (∀ (s : State) (r : RemoteReq) (ty : Nat), (ty = if r.write then 5 else if r.atomic.isSome || r.isCas then 6 else 4) → r.tag = 0 →
    exec (.remoteRequest r) s = .next (s.bump.respond r ty 0x0A 0 [])) ∧
  (∀ (s : State) (r : RemoteReq), r.write = true → r.atomic = none → r.isCas = false → s.fencedAt r.pa = false → r.pa < hbmEnd → r.pa % 128 = 0 →
    s.grantedTo r.tag (r.pa + (maskPlaces r.mask).headD 0) ((maskPlaces r.mask).getLastD 0 + 1 - (maskPlaces r.mask).headD 0) false true = true →
    (∀ d, (s.die d).ranges = []) → (∀ x ∈ s.lcs, ∀ l, look x.2.cache (lineNo s.dev r.pa) = some l → l.dirty = 0) →
    ∃ t, exec (.remoteRequest r) s = .next t ∧ ∀ a, byteAt t.mem a =
      if r.pa ≤ a ∧ r.mask.getLsbD (a - r.pa) = true then dataByte (dataOf r.data) (a - r.pa) else byteAt s.mem a) ∧
  (∀ (s : State) (txn : Nat) (r : RemoteOp), look s.remote txn = some r → r.type = 2 →
    ∃ t, exec (.writeAcknowledgement txn) s = .next t ∧ look t.remote txn = none ∧ (∀ k, k ≠ txn → (look t.remote k).isSome = (look s.remote k).isSome) ∧
      (lineDev r.line ≠ s.dev → look (t.die r.agent.die).rdc r.line = none) ∧ t.teams = s.teams ∧ t.mem = s.mem) ∧
  (∀ (s : State) (txn : Nat) (r : RemoteOp) (i : Instr), look s.remote txn = some r → (i = .lossNotice txn ∨ (i = .requestTimeout txn ∧ s.mayRun r.ctx = true)) →
    ∃ t, exec i s = .next t ∧ (r.read = none → r.copy = none → r.ship = none → r.atomic = none → look t.remote txn = none ∧
      ∃ u : State, t = r.storers.foldl (fun v c => v.linkContext c 8 0 0 r.dev (BitVec.ofNat 64 (fields [(0, linePa r.line), (40, r.dev)]))) (u.linkHost 8 0 0 r.dev 1 0) ∧
        u.mem = s.mem ∧ u.teams = s.teams ∧ u.remote = unlist s.remote txn)) ∧
  (∀ (s : State) (core : Nat), ∃ t, exec (.wcbAgeing core) s = .next t ∧
    ∀ line w, look (t.core core).wcb line = some w → ∀ c ∈ w.ctxs, w.age < s.wcbLimit core c) ∧
  ∀ (s : State) (k cache : Nat) (op : WriteOp), look s.held k = some op → cache ∈ op.awaits → cache ∉ op.silent →
    ∃ t, exec (.sharerTimeout k) s = .next t ∧ (t.die (if cache < 4 then cache else (cache - 4) / 16)).fenced = true

/-! ### Chapters 6 and 7: tiles, engines and forecasts -/

/-- R151, R152, R159 to R162: descriptors and vat slots. `tdset` sets a descriptor of the context to the record that it reads, or
traps where the record is no descriptor; `tdget` reads the 16 words of one. `vclaim` gives the team its slot numbers, or answers
0 where too few slots are free; `vrel` releases them. Every byte of memory stays. -/
def Obligations.DescriptorsAndSlots : Prop :=
  (∀ (p : Pre) (a b : RegNo) s s' e (w : State) (bs : List Byte), Enters (.tdset p a b) s s' e → e.ReadsRecord (e.exm p) a 64 64 s' w bs →
    let n := (e.one (e.exm p) b).toNat % 256
    (descValid (recordWords bs) = false → ∃ t, exec (.tdset p a b) s = .next t ∧ Traps e w t (e.trapOf .tileState (e.onePair (e.exm p) a))) ∧
    (descValid (recordWords bs) = true → w.provBound e.ctxNo n = false →
      ∃ t, exec (.tdset p a b) s = .next t ∧ Writes e w t (e.next (.tdset p a b)) e.st.reg ∧
        (∀ k, t.desc e.ctxNo k = if k = n then some (recordWords bs) else w.desc e.ctxNo k) ∧ ∀ c, c ≠ e.ctxNo → t.ctx c = w.ctx c)) ∧
  (∀ (p : Pre) (d b : RegNo) s s' e, Enters (.tdget p d b) s s' e →
    ∃ t, exec (.tdget p d b) s = .next t ∧ Ran e s' t (e.next (.tdget p d b))
      (e.withList (e.exm p) d fun _ => (s'.desc e.ctxNo ((e.one (e.exm p) b).toNat % 256)).getD (List.replicate 16 0)) e.st.sstat) ∧
  (∀ (p : Pre) (d b : RegNo) s s' e (x : Team), Enters (.vclaim p d b) s s' e → look s'.teams e.team = some x → (∃ c, x.core = some c) → e.exm p ≠ 0 →
    let n0 := (e.one (e.exm p) b).toNat % 64
    let n := (e.one (e.exm p) b).toNat / 256 % 128
    let held (k : Nat) : Bool := (look x.held k).isSome
    (n = 0 ∨ 64 < n0 + n → ∃ t v, exec (.vclaim p d b) s = .next t ∧ Traps e s' t (e.trapOf .vatSlot v)) ∧
    (n ≠ 0 → n0 + n ≤ 64 → (∀ k < n, held (n0 + k) = true) →
      ∃ t, exec (.vclaim p d b) s = .next t ∧ Ran e s' t (e.next (.vclaim p d b)) (e.withWord (e.exm p) d fun _ => 1) e.st.sstat) ∧
    (n ≠ 0 → n0 + n ≤ 64 → (∃ k < n, held (n0 + k) = true) → (∃ k < n, held (n0 + k) = false) →
      ∃ t v, exec (.vclaim p d b) s = .next t ∧ Traps e s' t (e.trapOf .vatSlot v)) ∧
    (n ≠ 0 → n0 + n ≤ 64 → (∀ k < n, held (n0 + k) = false) →
      ((s'.openSlots (x.core.getD 0)).length < n →
        ∃ t, exec (.vclaim p d b) s = .next t ∧ Ran e s' t (e.next (.vclaim p d b)) (e.withWord (e.exm p) d fun _ => 0) e.st.sstat) ∧
      (n ≤ (s'.openSlots (x.core.getD 0)).length →
        ∃ (t : State) (y : Team), exec (.vclaim p d b) s = .next t ∧ Writes e s' t (e.next (.vclaim p d b)) (e.withWord (e.exm p) d fun _ => 1) ∧
          look t.teams e.team = some y ∧ ∀ k, (look y.held k).isSome = (held k || (decide (n0 ≤ k) && decide (k < n0 + n)))))) ∧
  ∀ (p : Pre) (b : RegNo) s s' e (x : Team), Enters (.vrel p b) s s' e → look s'.teams e.team = some x → e.exm p ≠ 0 →
    let n0 := (e.one (e.exm p) b).toNat % 64
    let n := (e.one (e.exm p) b).toNat / 256 % 128
    (n = 0 ∨ 64 < n0 + n ∨ (∃ k < n, (look x.held (n0 + k)).isSome = true ∧ x.backs (n0 + k) = true) →
      ∃ t v, exec (.vrel p b) s = .next t ∧ Traps e s' t (e.trapOf .vatSlot v)) ∧
    (n ≠ 0 → n0 + n ≤ 64 → (∀ k < n, (look x.held (n0 + k)).isSome = true → x.backs (n0 + k) = false) →
      ∃ (t : State) (y : Team), exec (.vrel p b) s = .next t ∧ Writes e s' t (e.next (.vrel p b)) e.st.reg ∧ look t.teams e.team = some y ∧
        (∀ k, n0 ≤ k → k < n0 + n → (look x.held k).isSome = true → look y.held k = none) ∧
        ∀ k, (k < n0 ∨ n0 + n ≤ k) → (look x.held k).isSome = true → (look y.held k).isSome = true)

/-- R154 to R156, R163 to R165, R187, R188: tiles. `tlset` binds a tile of the team in state EMPTY to a specification whose
checks pass, traps where they fail, and changes nothing where the tile has this binding; a forecastable one waits for a
capture, and becomes PROV where its version is the next one (R196); `tlst` and `tlwait` answer the state
word, `tlwait` once the tile is settled; `tlfree` unbinds an idle tile. Every byte of memory stays. -/
def Obligations.Tiles : Prop :=
  (∀ (p : Pre) (a : RegNo) (id : Sys2Proof.Num) s s' e (x : Team), Enters (.tlset p a id) s s' e → look s'.teams e.team = some x → e.exm p ≠ 0 →
    let n := (e.num (e.exm p) id).toNat % 256
    let sp := (List.range 8).map fun k => e.reg (a.toNat + k) (Mask.lowest (e.exm p))
    let d := (s'.desc e.ctxNo (specDesc sp)).getD []
    let h (d : List Word) : Hist := (s'.histKey e.ctxNo (descHist d)).1.hist (s'.histKey e.ctxNo (descHist d)).2
    let next (d : List Word) : Prop := descFc d = true ∧ specVer sp = (h d).vlast + 1 ∧ versionsNeeded (descPol d) ≤ (h d).nhist
    (e.fromCapture = false → bindingOk d sp x.spadBytes = false → ∃ t, exec (.tlset p a id) s = .next t ∧ Traps e s' t (e.trapOf .tileState 0)) ∧
    (e.fromCapture = false → bindingOk d sp x.spadBytes = true → specLoc sp = 0 → (look x.held (specSlot sp)) = none →
      ∃ t, exec (.tlset p a id) s = .next t ∧ Traps e s' t (e.trapOf .vatSlot 0)) ∧
    (e.fromCapture = false → bindingOk d sp x.spadBytes = true → (specLoc sp = 0 → (look x.held (specSlot sp)).isSome = true) →
      (∀ k, look x.tiles n = some k → k.spec = sp → (∀ v, k.due = some v → v.1 ≠ e.who) → PassesOn e (.tlset p a id) s s') ∧
      (∀ k, look x.tiles n = some k → k.spec ≠ sp → k.st ≠ .empty → ∃ t, exec (.tlset p a id) s = .next t ∧ Traps e s' t (e.trapOf .tileState 0)) ∧
      (look x.tiles n = none → 1024 ≤ s'.tilesOn (x.core.getD 0) → ∃ t, exec (.tlset p a id) s = .next t ∧ Parks e s' t 10 .tileEntry) ∧
      ((∃ k, look x.tiles n = some k ∧ k.spec ≠ sp ∧ k.st = .empty) ∨ (look x.tiles n = none ∧ s'.tilesOn (x.core.getD 0) < 1024) →
        (descFc d = false ∨ s'.capturing e.ctxNo (descHist d) = none →
          ∃ (t : State) (y : Team) (k : Tile), exec (.tlset p a id) s = .next t ∧ Writes e s' t (e.next (.tlset p a id)) e.st.reg ∧
            look t.teams e.team = some y ∧ look y.tiles n = some k ∧ k.spec = sp ∧ k.fc = descFc d ∧ k.due = none ∧
            k.pins = ((look x.tiles n).map Tile.pins).getD [] ∧ (next d → k.st = .prov) ∧ (¬next d → k.st = .empty) ∧
            ∀ q, q ≠ n → look y.tiles q = look x.tiles q) ∧
        ∀ hk, descFc d = true → s'.capturing e.ctxNo (descHist d) = some hk →
          ∃ (t : State) (st : Strand) (y : Team) (k : Tile), exec (.tlset p a id) s = .next t ∧ t.strand? e.who = some st ∧ (st.split e.k).st = .parked ∧
            (st.split e.k).pc = e.sp.pc ∧ (st.split e.k).park = some { reason := 14, cond := .capture hk } ∧
            look t.teams e.team = some y ∧ look y.tiles n = some k ∧ k.spec = sp ∧ k.st = .empty ∧ k.due = some (e.who, d) ∧ t.mem = s'.mem)) ∧
    ∀ k d, e.fromCapture = true → look x.tiles n = some k → k.spec = sp → k.due = some (e.who, d) → descFc d = true → s'.capturing e.ctxNo (descHist d) = none →
      ∃ (t : State) (y : Team) (k' : Tile), exec (.tlset p a id) s = .next t ∧ Writes e s' t (e.next (.tlset p a id)) e.st.reg ∧
        look t.teams e.team = some y ∧ look y.tiles n = some k' ∧ k'.spec = sp ∧ k'.due = none ∧ k'.pins = k.pins ∧
        k'.st = (if k.st = .empty ∧ next d then .prov else k.st) ∧ ∀ q, q ≠ n → look y.tiles q = look x.tiles q) ∧
  (∀ (p : Pre) (d b : RegNo) s s' e, Enters (.tlst p d b) s s' e → e.exm p ≠ 0 →
    ∃ t, exec (.tlst p d b) s = .next t ∧
      Writes e s' t (e.next (.tlst p d b)) (e.withWord (e.exm p) d fun _ => stateWord (s'.tile e.team ((e.one (e.exm p) b).toNat % 256)))) ∧
  (∀ (p : Pre) (d b : RegNo) s s' e (x : Team), Enters (.tlwait p d b) s s' e → look s'.teams e.team = some x → e.exm p ≠ 0 →
    let id := (e.one (e.exm p) b).toNat % 256
    let busy : Prop := ∃ k, look x.tiles id = some k ∧ (k.st = .filling ∨ k.st = .draining ∨ k.st = .prov)
    (∀ f ∈ x.deferred, f.tile ≠ some id) →
    (busy → ∃ t, exec (.tlwait p d b) s = .next t ∧ Parks e s' t 7 (.tile id)) ∧
    (¬busy → ∃ t, exec (.tlwait p d b) s = .next t ∧ Writes e s' t (e.next (.tlwait p d b)) (e.withWord (e.exm p) d fun _ => stateWord (look x.tiles id)))) ∧
  ∀ (p : Pre) (b : RegNo) s s' e (x : Team), Enters (.tlfree p b) s s' e → look s'.teams e.team = some x → e.exm p ≠ 0 →
    let id := (e.one (e.exm p) b).toNat % 256
    (look x.tiles id = none → PassesOn e (.tlfree p b) s s') ∧
    ∀ k, look x.tiles id = some k →
      let idle : Prop := (k.st = .empty ∨ k.st = .ready) ∧ k.pins = []
      (idle → ∃ (t : State) (y : Team), exec (.tlfree p b) s = .next t ∧ Writes e s' t (e.next (.tlfree p b)) e.st.reg ∧ look t.teams e.team = some y ∧
        look y.tiles id = none ∧ ∀ q, q ≠ id → look y.tiles q = look x.tiles q) ∧
      (¬idle → ∃ t v, exec (.tlfree p b) s = .next t ∧ Traps e s' t (e.trapOf .tileState v))

/-- R166 to R168, R170 to R173, R180, R183, R291 to R293, R296: work for engines. `cpin`, `cpout`, `gth` and `sct` hand a copy of
the moved binding to a copy engine and take the tile to FILLING or DRAINING (a `cpout` of a PROV tile waits for its check);
`post` hands over the task of a record that passes its checks, and traps otherwise; `cpmm` and `coll` hand over a copy of memory
and a collective. D takes the token, and no other register and no byte of memory changes. `opfence` parks while results are
outstanding; afterwards no value that its warp's threads replaced can be seen by later work. -/
def Obligations.EngineWork : Prop :=
  (∀ (o : Copy) (i : Instr) (kind : CopyKind), (i = .cpin o ∧ kind = .cpin) ∨ (i = .cpout o ∧ kind = .cpout) ∨ (i = .gth o ∧ kind = .gth) ∨ (i = .sct o ∧ kind = .sct) →
    ∀ s s' e (x : Team) (k : Tile) (u : State) (tok : Option Nat) (v : Word), Enters i s s' e → e.exm o.p ≠ 0 →
      let id := (e.one (e.exm o.p) o.b).toNat % 256
      let fills := decide (kind = .cpin) || decide (kind = .gth)
      let indexed := decide (kind = .gth) || decide (kind = .sct)
      let d := (s'.desc e.ctxNo (specDesc k.spec)).getD []
      let sp := movedSpec k.spec o.d0 (if indexed then 0 else o.d1)
      look s'.teams e.team = some x → look x.tiles id = some k → (indexed = true → (e.onePair (e.exm o.p) o.a).toNat % 4 = 0) →
      (k.st = (if fills then .empty else .ready) ∧ k.pins = [] ∨ k.st = .prov ∧ kind = .cpout) →
      (specLoc k.spec = 0 → (look x.held (specSlot k.spec)).isSome = true) → (o.edge = false → outside d sp (!indexed) = false) →
      e.Takes o.d o.sc s'.nextKey s'.bump u tok v →
      ∃ (t : State) (op : CopyOp) (y : Team) (k' : Tile), exec i s = .next t ∧ Hands e s' t (e.next i) (e.exm o.p) o.d tok v ∧
        look t.copies s'.nextKey = some op ∧ op.kind = kind ∧ op.ctx = e.ctxNo ∧ op.team = some e.team ∧ op.tile = id ∧ op.spec = sp ∧ op.desc = d ∧
        op.token = tok ∧ op.list = e.onePair (e.exm o.p) o.a ∧ op.bias = o.d1.toInt ∧ op.edge = o.edge ∧ op.held = decide (k.st = .prov) ∧
        look t.teams e.team = some y ∧ look y.tiles id = some k' ∧ k'.spec = sp ∧
        k'.st = (if k.st = .prov then .prov else if fills then .filling else .draining)) ∧
  (∀ (p : Pre) (d a : RegNo) (sc : Scope) s s' e, Enters (.post p d a sc) s s' e → e.exm p = 0 → PassesOn e (.post p d a sc) s s') ∧
  (∀ (p : Pre) (d a : RegNo) (sc : Scope) s s' e (w : State) (bs : List Byte) (x : Team), Enters (.post p d a sc) s s' e →
    e.ReadsRecord (e.exm p) a 64 64 s' w bs → look w.teams e.team = some x →
    (∀ c, w.recordCause e.ctxNo x (recordWords bs) = some c →
      ∃ t, exec (.post p d a sc) s = .next t ∧ Traps e w t (e.trapOf c (e.onePair (e.exm p) a))) ∧
    (w.recordCause e.ctxNo x (recordWords bs) = none → ∀ u tok v, e.Takes d sc w.nextKey w.bump u tok v →
      ∃ (t : State) (k : Task), exec (.post p d a sc) s = .next t ∧ Hands e w t (e.next (.post p d a sc)) (e.exm p) d tok v ∧
        look t.tasks w.nextKey = some k ∧ k.record = recordWords bs ∧ k.team = e.team ∧ k.ctx = e.ctxNo ∧ k.warp = e.warp ∧ k.token = tok ∧
        k.deps = recDeps (recordWords bs) ∧ k.running = false)) ∧
  (∀ (o : Cpmm) s s' e (u : State) (tok : Option Nat) (v : Word), Enters (.cpmm o) s s' e → e.exm o.p ≠ 0 → e.sp.again = false →
    let src := e.onePair (e.exm o.p) o.a
    let dst := e.onePair (e.exm o.p) o.b
    (∀ a, beyondSpace o.len.toNat src dst = some a → ∃ t, exec (.cpmm o) s = .next t ∧ Traps e s' t (e.trapOf .permission a)) ∧
    (beyondSpace o.len.toNat src dst = none → o.len ≠ 0 → e.lat = false → e.Takes o.d o.sc s'.nextKey s'.bump u tok v →
      ∃ (t : State) (op : CopyOp), exec (.cpmm o) s = .next t ∧ Hands e s' t (e.next (.cpmm o)) (e.exm o.p) o.d tok v ∧
        look t.copies s'.nextKey = some op ∧ op.kind = .cpmm ∧ op.list = src ∧ op.dst = dst ∧ op.len = o.len.toNat ∧ op.token = tok) ∧
    (o.len = 0 → (e.lat = false → e.Takes o.d o.sc s'.nextKey s'.bump u tok v →
        ∃ t, exec (.cpmm o) s = .next t ∧ Hands e s' t (e.next (.cpmm o)) (e.exm o.p) o.d tok v ∧ look t.copies s'.nextKey = look s'.copies s'.nextKey) ∧
      (e.lat = true → ∃ t, exec (.cpmm o) s = .next t ∧ Writes e s' t (e.next (.cpmm o)) (e.withWord (e.exm o.p) o.d fun _ => 0)))) ∧
  (∀ (o : Coll) s s' e (g : Group) (u : State) (tok : Option Nat) (v : Word), Enters (.coll o) s s' e → e.exm o.p ≠ 0 → e.sp.again = false →
    let send := e.onePair (e.exm o.p) o.a
    let recv := e.onePair (e.exm o.p) o.b
    (s'.groupHere o.group.toNat = none → ∃ t, exec (.coll o) s = .next t ∧ Traps e s' t (e.trapOf .permission 0)) ∧
    (s'.groupHere o.group.toNat = some g → g.n ≤ o.root.toNat → ∃ t, exec (.coll o) s = .next t ∧ Traps e s' t (e.trapOf .illegal e.sp.pc)) ∧
    (s'.groupHere o.group.toNat = some g → o.root.toNat < g.n → send.toNat % elemBytes o.ty = 0 → recv.toNat % elemBytes o.ty = 0 → e.lat = false →
      e.Takes o.d o.sc s'.nextKey s'.bump u tok v →
      ∃ (t : State) (op : CollOpn), exec (.coll o) s = .next t ∧ Hands e s' t (e.next (.coll o)) (e.exm o.p) o.d tok v ∧
        look t.colls s'.nextKey = some op ∧ op.group = o.group.toNat ∧ op.n = g.n ∧ op.rank = g.rank ∧ op.send = send ∧ op.recv = recv ∧
        op.count = o.count.toNat ∧ op.root = o.root.toNat ∧ op.ty = o.ty ∧ op.op = o.op ∧ op.kind = o.kind ∧
        op.number = readOr 0 s'.collSeq o.group.toNat ∧ readOr 0 t.collSeq o.group.toNat = readOr 0 s'.collSeq o.group.toNat + 1)) ∧
  (∀ (i : Instr) (p : Pre) (d : RegNo) (key : Nat) (v : Word), (∃ o : Cpmm, i = .cpmm o ∧ p = o.p ∧ d = o.d) ∨ (∃ o : Coll, i = .coll o ∧ p = o.p ∧ d = o.d) →
    ∀ s s' e k, Enters i s s' e → e.exm p ≠ 0 → e.lat = true → e.sp.again = true → e.sp.park = some k → k.cond = .operation key →
      (∀ o, i = .cpmm o → ∃ c, look s'.copies key = some c ∧ c.status = some v) → (∀ o, i = .coll o → ∃ c, look s'.colls key = some c ∧ c.status = some v) →
      ∃ t, exec i s = .next t ∧ Writes e s' t (e.next i) (e.withWord (e.exm p) d fun _ => v)) ∧
  ∀ (p : Pre) s s' e k n j (x : Team) (wp : Warp), Enters (.opfence p) s s' e → e.exm p ≠ 0 → e.who = .warp k n j → look s'.teams k = some x → x.warps[n]? = some wp →
    (e.sp.score ≠ [] → ∃ t, exec (.opfence p) s = .next t ∧ Parks e s' t 1 .score) ∧
    (e.sp.score = [] → ∃ (t : State) (y : Team) (wp' : Warp), exec (.opfence p) s = .next t ∧ Writes e s' t (e.next (.opfence p)) e.st.reg ∧
      look t.teams k = some y ∧ y.warps[n]? = some wp' ∧ (∀ q ∈ wp'.main.older, e.sp.exm.getLsbD (q.1 % 32) = false) ∧
      y.spad = x.spad ∧ ∀ q ∈ y.spadOlder, q.1 = n → e.sp.exm.getLsbD q.2.1 = false)

/-- R183 to R188, R209 to R211: tokens and forecast histories. `tkwait` writes status and result words of a complete token and
parks on one that is not; both deliver a deferred fault of the token, under the name of its operation (R27, R188); `tktest` answers
whether it is complete; both and `tkfree` trap on a token that is not current. `fcset` sets a history to a version, clears its counters
and writes the header of the area (R193); `fcpub` of the newest version passes on, any but the next one traps, and the next one is
captured first; an issuer learns how its own capture ended, also where another one has begun since. Both wait while a capture runs, and
go on with the descriptor that they have read (R147). `fcstat` reads the four counters. -/
def Obligations.TokensAndForecasts : Prop :=
  (∀ (i : Instr) (p : Pre) (a : RegNo), (∃ d n, i = .tkwait p d a n) ∨ (∃ d, i = .tktest p d a) ∨ i = .tkfree p a →
    ∀ s s' e (x : Team), Enters i s s' e → e.exm p ≠ 0 → look s'.teams e.team = some x → x.current (e.one (e.exm p) a) = none →
      ∃ t, exec i s = .next t ∧ Traps e s' t (e.trapOf .invalidToken ((e.one (e.exm p) a).setWidth 64))) ∧
  (∀ (p : Pre) (d a : RegNo) (n : BitVec 3) s s' e (x : Team) (i : Nat) (k : Token), Enters (.tkwait p d a n) s s' e → e.exm p ≠ 0 →
    look s'.teams e.team = some x → x.current (e.one (e.exm p) a) = some (i, k) → (∀ f ∈ x.deferred, f.token ≠ some i) →
    (k.done = false → ∃ t, exec (.tkwait p d a n) s = .next t ∧ Parks e s' t 8 (.token (e.one (e.exm p) a))) ∧
    (k.done = true → ∃ (t : State) (st : Strand), exec (.tkwait p d a n) s = .next t ∧
      Writes e s' t (e.next (.tkwait p d a n)) (e.withList (e.exm p) d fun u => (List.range (n.toNat + 1)).map fun j => (k.wordsFor u).getD j 0) ∧
      t.strand? e.who = some st ∧ e.one (e.exm p) a ∈ (st.split e.k).consumes)) ∧
  (∀ (ins : Instr) (p : Pre) (d a : RegNo) (n : BitVec 3) s s' e (x : Team) (i : Nat) (k : Token) (f : Deferred), ins = .tkwait p d a n ∨ ins = .tktest p d a →
    Enters ins s s' e → e.exm p ≠ 0 → look s'.teams e.team = some x → x.current (e.one (e.exm p) a) = some (i, k) →
    x.due e.warp (fun f => decide (f.token = some i)) = some f →
    ∃ t, exec ins s = .next t ∧ Traps e (s'.settleDeferred e.team f) t { e.trapOf .engine f.va with made := some (f.site, f.seq) }) ∧
  (∀ (p : Pre) (d a : RegNo) s s' e (x : Team) (i : Nat) (k : Token), Enters (.tktest p d a) s s' e → e.exm p ≠ 0 →
    look s'.teams e.team = some x → x.current (e.one (e.exm p) a) = some (i, k) → (∀ f ∈ x.deferred, f.token ≠ some i) →
    ∃ t, exec (.tktest p d a) s = .next t ∧ Writes e s' t (e.next (.tktest p d a)) (e.withWord (e.exm p) d fun _ => if k.done then 1 else 0)) ∧
  (∀ (p : Pre) (a : RegNo) s s' e (x : Team) (i : Nat) (k : Token), Enters (.tkfree p a) s s' e → e.exm p ≠ 0 →
    look s'.teams e.team = some x → x.current (e.one (e.exm p) a) = some (i, k) →
    ∃ (t : State) (st : Strand), exec (.tkfree p a) s = .next t ∧ Writes e s' t (e.next (.tkfree p a)) e.st.reg ∧
      t.strand? e.who = some st ∧ e.one (e.exm p) a ∈ (st.split e.k).consumes) ∧
  (∀ (p : Pre) (a : RegNo) (n : Sys2Proof.Num) s s' e, Enters (.fcset p a n) s s' e → e.exm p ≠ 0 →
    let own := if e.fromCapture = true ∧ e.sp.keptDesc ≠ [] then some e.sp.keptDesc else s'.forecastDesc e.ctxNo ((e.num (e.exm p) n).toNat % 256)
    (own = none → ∃ t, exec (.fcset p a n) s = .next t ∧ Traps e s' t (e.trapOf .tileState 0)) ∧
    (∀ d u hk, own = some d → s'.histKey e.ctxNo (descHist d) = (u, hk) →
      ((u.hist hk).capture.isSome = true → ∃ (t : State) (st : Strand), exec (.fcset p a n) s = .next t ∧ KeepsRest e u t st ∧
        (st.split e.k).st = .parked ∧ (st.split e.k).pc = e.sp.pc ∧ (st.split e.k).park = some { reason := 14, cond := .capture hk } ∧
        (st.split e.k).keptDesc = d) ∧
      ((u.hist hk).capture = none → u.provOn e.ctxNo (descHist d) = true → ∃ t, exec (.fcset p a n) s = .next t ∧ Traps e u t (e.trapOf .speculation 0))) ∧
    ∀ d u hk, own = some d → s'.histKey e.ctxNo (descHist d) = (u, hk) →
      (u.hist hk).capture = none → u.provOn e.ctxNo (descHist d) = false →
      let v := u.setHist hk { u.hist hk with vlast := e.one (e.exm p) a, nhist := 0, commits := 0, squashes := 0, cascSum := 0, cascMax := 0 }
      ∃ t, exec (.fcset p a n) s = .next t ∧
        ∀ w ps, Fills v (v.hist hk).ctx e.die [{ thread := 0, va := (v.hist hk).base, bytes := 64 }] w ps →
          Advances e t (e.next (.fcset p a n)) ∧ t.hist hk = v.hist hk ∧ Stored w t ps fun _ => (v.hist hk).header) ∧
  (∀ (p : Pre) (a b : RegNo) s s' e d u hk, Enters (.fcpub p a b) s s' e → e.exm p ≠ 0 → e.sp.again = false →
    s'.forecastDesc e.ctxNo ((e.one (e.exm p) b).toNat % 256) = some d → s'.histKey e.ctxNo (descHist d) = (u, hk) → (u.hist hk).capture.isSome = true →
    ∃ (t : State) (st : Strand), exec (.fcpub p a b) s = .next t ∧ KeepsRest e u t st ∧ (st.split e.k).st = .parked ∧ (st.split e.k).pc = e.sp.pc ∧
      (st.split e.k).park = some { reason := 14, cond := .capture hk } ∧ (st.split e.k).keptDesc = d) ∧
  (∀ (p : Pre) (a b : RegNo) s s' e, Enters (.fcpub p a b) s s' e → e.exm p ≠ 0 → e.sp.again = false →
    ∀ d u hk, s'.forecastDesc e.ctxNo ((e.one (e.exm p) b).toNat % 256) = some d → s'.histKey e.ctxNo (descHist d) = (u, hk) → (u.hist hk).capture = none →
      let v := e.one (e.exm p) a
      (v = (u.hist hk).vlast → 1 ≤ (u.hist hk).nhist → ∃ t, exec (.fcpub p a b) s = .next t ∧ Writes e s' t (e.next (.fcpub p a b)) e.st.reg) ∧
      (v ≠ (u.hist hk).vlast → v ≠ (u.hist hk).vlast + 1 → 1 ≤ (u.hist hk).nhist → ∃ t x, exec (.fcpub p a b) s = .next t ∧ Traps e u t (e.trapOf .tileState x)) ∧
      (v = (u.hist hk).vlast + 1 ∨ (u.hist hk).nhist = 0 → v ≠ (u.hist hk).vlast ∨ (u.hist hk).nhist = 0 →
        ∃ (t : State) (st : Strand), exec (.fcpub p a b) s = .next t ∧ t.strand? e.who = some st ∧ (st.split e.k).st = .parked ∧ (st.split e.k).pc = e.sp.pc ∧
          (t.hist hk).capture = some (v, (e.one (e.exm p) b).toNat % 256) ∧ (t.hist hk).captor = some e.who ∧ (t.hist hk).desc = d ∧
          ∀ c, byteAt t.mem c = byteAt s'.mem c)) ∧
  (∀ (p : Pre) (a b : RegNo) s s' e k hk h, Enters (.fcpub p a b) s s' e → e.exm p ≠ 0 → e.sp.again = true → e.sp.park = some k → k.cond = .capture hk →
    look s'.hists hk = some h → h.captor = some e.who → h.done = some true →
    ∃ t, exec (.fcpub p a b) s = .next t ∧ Writes e s' t (e.next (.fcpub p a b)) e.st.reg ∧ t.hist hk = { h with captor := none, done := none }) ∧
  (∀ (p : Pre) (a b : RegNo) s s' e k hk h, Enters (.fcpub p a b) s s' e → e.exm p ≠ 0 → e.sp.again = true → e.sp.park = some k → k.cond = .capture hk →
    look s'.hists hk = some h → h.captor = some e.who → h.done = some false → h.failCause ≠ 0 →
    ∃ t, exec (.fcpub p a b) s = .next t ∧
      Traps e (s'.setHist hk { h with captor := none, done := none }) t { e.trapOf (captureCause h.failCause) h.failVa with made := some (h.site, h.seq) }) ∧
  (∀ (p : Pre) (a b : RegNo) s s' e k hk h r, Enters (.fcpub p a b) s s' e → e.exm p ≠ 0 → e.sp.again = true → e.sp.park = some k → k.cond = .capture hk →
    look s'.hists hk = some h → h.captor ≠ some e.who → (h.ended.find? fun r => r.who = e.who) = some r →
    (r.good = true → ∃ t, exec (.fcpub p a b) s = .next t ∧ Writes e s' t (e.next (.fcpub p a b)) e.st.reg) ∧
    (r.good = false → r.cause ≠ 0 → ∃ t, exec (.fcpub p a b) s = .next t ∧
      Traps e (s'.setHist hk { h with ended := h.ended.filter fun r => r.who ≠ e.who }) t { e.trapOf (captureCause r.cause) r.va with made := some (r.site, r.seq) })) ∧
  ∀ (p : Pre) (d b : RegNo) s s' e, Enters (.fcstat p d b) s s' e →
    ∃ t, exec (.fcstat p d b) s = .next t ∧ Ran e s' t (e.next (.fcstat p d b)) (e.withList (e.exm p) d fun _ =>
      match (s'.forecastDesc e.ctxNo ((e.one (e.exm p) b).toNat % 256)).bind fun x => s'.hist? e.ctxNo (descHist x) with
      | some (_, h) => [h.commits, h.squashes, h.cascSum, h.cascMax]
      | none => [0, 0, 0, 0]) e.st.sstat

/-- R166 to R169, R188, R189, R291: copies at work. A copy waits until nothing goes before it. `cpin` and `gth` fill the tile with
the bytes that memory holds, zero codes beside them, and leave it READY; `cpout` and `sct` drain the tile's bytes to memory and leave
it EMPTY; `cpmm` moves bytes from its source to its destination. Each completes its token. No byte outside the accesses' pieces
changes. A copy may make its accesses one by one (R256). One that has lost a packet takes a deferred fault.

R293 to R296, R454, R471: collectives at work. A collective reads its send buffer and sends it to the other members; it waits for
theirs, which come as packets. Where they agree, the receive buffer takes the result of its kind over the send buffers in rank order,
and where one does not, it ends with status 2 and writes nothing; where a member is lost, it ends with status 3 and what its receive
buffer then holds is open. A member that has lost a request of its own counts as lost itself; a refused access fails it. -/
def Obligations.CopiesAndCollectivesAtWork : Prop :=
  ((∀ (s : State) (key : Nat) (c : CopyOp) (i : Instr), (i = .copyComplete key .none ∧ c.kind ≠ .cpmm) ∨ (i = .cpmmComplete key .none ∧ c.kind = .cpmm) →
    look s.copies key = some c → ¬s.copyRuns key c → ∃ t, exec i s = .next t ∧ Idle s t) ∧
  (∀ (s : State) (key : Nat) (c : CopyOp) (i : Instr) (va : DWord), (i = .copyComplete key (.lost va) ∧ c.kind ≠ .cpmm) ∨ (i = .cpmmComplete key (.lost va) ∧ c.kind = .cpmm) →
    look s.copies key = some c → c.deferred = false → c.status = none →
    ∃ t, exec i s = .next t ∧ t.mem = s.mem ∧
      (c.team = none → look t.copies key = some { c with status := some 1 }) ∧
      ∀ k x, c.team = some k → look s.teams k = some x → (∃ w ∈ x.warps, w.main.live ≠ 0) →
        ∃ y, look t.teams k = some y ∧ y.tiles = x.tiles ∧ y.tokens = x.tokens ∧
          y.deferred = x.deferred ++ [{ warp := some c.warp, op := key, token := c.token, tile := if c.kind = .cpmm then none else some c.tile, va := va, site := c.site, seq := c.seq }]) ∧
  (∀ (s : State) (key : Nat) (c : CopyOp) k x (tl : Tile) (v z : State) got index, look s.copies key = some c → s.copyRuns key c → c.written = false →
    c.team = some k → look s.teams k = some x → look x.tiles c.tile = some tl → tl.op = some key → tl.raced = [] → (∃ w ∈ x.warps, w.main.live ≠ 0) →
    s.copyIndex key c v index → c.kind = .cpin ∨ c.kind = .gth →
    (let rows := rowsInside c.desc c.spec index
     Fetches v c.ctx c.die (c.origin key) (rowWants c.desc c.spec rows ++ scaleWants c.desc c.spec rows) z got) →
    ∃ (t : State) (y : Team) (tl' : Tile), exec (.copyComplete key .none) s = .next t ∧ (∀ a, byteAt t.mem a = byteAt z.mem a) ∧ look t.copies key = none ∧
      look t.teams k = some y ∧ look y.tiles c.tile = some tl' ∧ tl'.st = .ready ∧ tl'.op = none ∧ tl'.spec = tl.spec ∧
      y.holdsTile c.spec (fillTile c.desc c.spec (wantBytes got)) ∧
      ∀ i q, c.token = some i → look x.tokens i = some q → q.freed = false →
        look y.tokens i = some { q with done := true, status := 0, words := c.indexWords index, op := none }) ∧
  (∀ (s : State) (key : Nat) (c : CopyOp) k x (tl : Tile) (v w : State) ps index, look s.copies key = some c → s.copyRuns key c → c.written = false → c.done = [] →
    c.team = some k → look s.teams k = some x → look x.tiles c.tile = some tl → tl.op = some key → specLoc c.spec = 0 → (∃ w ∈ x.warps, w.main.live ≠ 0) →
    s.copyIndex key c v index → c.kind = .cpout ∨ c.kind = .sct →
    (let rows := rowsInside c.desc c.spec index
     Fills (v.spend 1048576) c.ctx c.die (rowWants c.desc c.spec rows ++ scaleWants c.desc c.spec rows) w ps) →
    ∃ (t : State) (y : Team) (tl' : Tile) (free : Nat → Word), exec (.copyComplete key .none) s = .next t ∧ look t.copies key = none ∧
      look t.teams k = some y ∧ look y.tiles c.tile = some tl' ∧ tl'.st = .empty ∧ tl'.op = none ∧
      Stored w t ps (drainTile c.desc c.spec (x.tileBytes [] c.spec (tileBytes (descFmt c.desc) c.spec) 0) free) ∧
      ∀ i q, c.token = some i → look x.tokens i = some q → q.freed = false →
        look y.tokens i = some { q with done := true, status := 0, words := c.indexWords index, op := none }) ∧
  (∀ (s : State) (key n : Nat) (c : CopyOp) (i : Instr), (i = .copyComplete key (.part n) ∧ c.kind ≠ .cpmm) ∨ (i = .cpmmComplete key (.part n) ∧ c.kind = .cpmm) →
    look s.copies key = some c → (∃ t, exec i s = .next t) ∧ (¬s.copyParts key c → ∃ t, exec i s = .next t ∧ Idle s t)) ∧
  ∀ (s : State) (key : Nat) (c : CopyOp) k x (z w : State) got ps, look s.copies key = some c → s.copyRuns key c → c.written = false → c.done = [] → c.kind = .cpmm →
    c.team = some k → look s.teams k = some x → (∃ w ∈ x.warps, w.main.live ≠ 0) →
    Fetches s.bump c.ctx c.die (c.origin key) [{ thread := 0, va := c.list.toNat, bytes := c.len }] z got →
    Fills z c.ctx c.die [{ thread := 0, va := c.dst.toNat, bytes := c.len }] w ps →
    ∃ (t : State) (y : Team), exec (.cpmmComplete key .none) s = .next t ∧ look t.copies key = none ∧ look t.teams k = some y ∧ Stored w t ps (wantBytes got) ∧
      ∀ i q, c.token = some i → look x.tokens i = some q → q.freed = false →
        look y.tokens i = some { q with done := true, status := 0, words := [BitVec.ofNat 32 c.len], op := none }) ∧
  ((∀ (s : State) (key : Nat) (c : CollOpn) (stop : Stop) (peers : List CollPart), look s.colls key = some c →
    let part : Prop := ∃ n, stop = .part n
    (c.deferred = true ∨ c.status.isSome = true ∨
      ((stop = .none ∨ part) ∧ (c.fault.isSome = true ∨ s.inPlace c.ctx c.team = false ∨ s.precedes c.agent c.who c.mark c.sc = false)) ∨
      (stop = .none ∧ s.awaiting key = true) ∨ (part ∧ c.written.isSome = true) ∨
      ((stop = .none ∨ part) ∧ c.written = none ∧ c.own.isSome = true ∧ (∀ p ∈ peers ++ s.collected c, p.alive = true ∧ p.agree = true) ∧
        allPeers c (peers ++ s.collected c) = false)) →
    ∃ t, exec (.collectiveComplete key stop peers) s = .next t ∧ Idle s t) ∧
  ∀ (s : State) (key : Nat) (c : CollOpn) (peers : List CollPart), look s.colls key = some c → c.deferred = false → c.status = none → c.team = none →
    let all := peers ++ s.collected c
    (c.fault = none → s.awaiting key = false → s.inPlace c.ctx c.team = true → s.precedes c.agent c.who c.mark c.sc = true → c.written = none → c.done = [] →
      (c.own = none → (∀ p ∈ all, p.alive = true) → ∀ (z : State) got,
        Fetches s.bump c.ctx c.agent.die (c.origin key)
          [{ thread := 0, va := c.send.toNat, bytes := sendBytes c.kind c.count (elemBytes c.ty) c.n (c.rank = c.root) }] z got →
        ∃ t, exec (.collectiveComplete key .none peers) s = .next t ∧ look t.colls key = some { c with own := some (wantBytes got 0) } ∧
          t.mem = z.mem ∧ t.hub = (z.sendColl c (wantBytes got 0) false).hub) ∧
      (∀ own, c.own = some own → (∀ p ∈ all, p.alive = true) → (∃ p ∈ all, p.agree = false) →
        ∃ t, exec (.collectiveComplete key .none peers) s = .next t ∧ look t.colls key = some { c with status := some 2 } ∧ t.mem = s.mem) ∧
      (∀ own, c.own = some own → allPeers c all = true → (∀ p ∈ all, p.alive = true ∧ p.agree = true) → ∀ (w : State) ps,
        Fills s.bump c.ctx c.agent.die [{ thread := 0, va := c.recv.toNat, bytes := recvBytes c.kind c.count (elemBytes c.ty) c.n }] w ps →
        (c.recv.toNat + recvBytes c.kind c.count (elemBytes c.ty) c.n ≤ c.send.toNat ∨
          c.send.toNat + sendBytes c.kind c.count (elemBytes c.ty) c.n (c.rank = c.root) ≤ c.recv.toNat) →
        ∃ t, exec (.collectiveComplete key .none peers) s = .next t ∧ look t.colls key = some { c with status := some 0 } ∧
          Stored w t ps fun _ => collectiveResult c (rankParts c own all)) ∧
      ((∃ p ∈ all, p.alive = false) → ∀ (w : State) ps,
        Fills s.bump c.ctx c.agent.die [{ thread := 0, va := c.recv.toNat, bytes := recvBytes c.kind c.count (elemBytes c.ty) c.n }] w ps →
        ∃ t, exec (.collectiveComplete key .none peers) s = .next t ∧ look t.colls key = some { c with status := some 3 } ∧
          ∀ a, (∀ p ∈ ps, a < p.at_.pa ∨ p.at_.pa + p.bytes ≤ a) → byteAt t.mem a = byteAt w.mem a)) ∧
    (∀ va, ∃ t, exec (.collectiveComplete key (.lost va) peers) s = .next t ∧ look t.colls key = some { c with written := none } ∧ t.mem = s.mem ∧
      (c.rank < c.n → ∃ p ∈ t.collected { c with written := none }, p.alive = false)) ∧
    ∀ va cause level, ∃ t, exec (.collectiveComplete key (.fault va cause level) peers) s = .next t ∧ look t.colls key = some { c with status := some 1 } ∧
      t.mem = s.mem)

/-- R174 to R178, R188, R201, R204: tasks at work. The scheduler issues the first task that may issue to a free engine. A task without
checks completes with its result: a matrix task in the 64 accumulators, another in its output tile, which becomes READY; its
token completes. A task with checks ends and its output becomes PROV. A task of which an access fails leaves its accumulators as
they were when it issued, and its fault is deferred; one whose access meets a recoverable fault starts again (R189). Bytes of an
output may come one by one.

R193 to R206, R210: forecasts at work. A prediction is written into its tile, an error leaves the tile EMPTY; a write into
scratchpad that meets a recoverable fault waits for its replay (R197). A capture publishes its version. A check whose version is published passes, and its tile is READY, or fails, and the real data stands in
the tile; four of a die are made at a time, in the order of R198. What the units hold then stands in the history area too (R193).
Without other tasks of the team nothing else of it changes. -/
def Obligations.TasksAndForecastsAtWork : Prop :=
  ((∀ (s : State) (core : Nat), s.nextTask core = none → ∃ t, exec (.taskIssue core) s = .next t ∧ Idle s t) ∧
  (∀ (s : State) (core key n : Nat) (k : Task), s.nextTask core = some (key, k, n) →
    ∃ (t : State) (k' : Task), exec (.taskIssue core) s = .next t ∧ { t with tasks := s.tasks, nextKey := s.nextKey, oracle := s.oracle } = s ∧
      look t.tasks key = some k' ∧ k'.running = true ∧ k'.engine = n ∧ k'.core = core ∧ n < 2 ∧ k'.record = k.record ∧ k'.token = k.token ∧
      ∀ j, j ≠ key → look t.tasks j = look s.tasks j) ∧
  ∀ (s : State) (key : Nat) (k : Task) (x : Team) (stop : Stop), look s.tasks key = some k → look s.teams k.team = some x → (∃ w ∈ x.warps, w.main.live ≠ 0) →
    (k.running = false → ∃ t, exec (.taskComplete key stop) s = .next t ∧ Idle s t) ∧
    (∀ va, k.running = true → ∃ (t : State) (y : Team) (k' : Task), exec (.taskComplete key (.lost va)) s = .next t ∧ t.mem = s.mem ∧
      look t.tasks key = some k' ∧ k'.running = false ∧ k'.deferred = true ∧ look t.teams k.team = some y ∧
      y.tokens = x.tokens ∧ y.tiles = x.tiles ∧ y.spad = x.spad ∧ y.vat = x.vat ∧
      y.deferred = x.deferred ++ [{ warp := some k.warp, op := key, token := k.token, tile := if recAcc k.record then none else some (recTo k.record), va := va, site := k.site, seq := k.seq }] ∧
      (k.spoiled = [] → recAcc k.record = false → y.warps = x.warps) ∧
      (k.spoiled = [] → recAcc k.record = true → ∀ wp, x.warps[recAw k.record]? = some wp → ∃ wp', y.warps[recAw k.record]? = some wp' ∧
        ∀ r u, u < 32 → r ≠ 0 → wp'.main.reg r u =
          if recAb k.record ≤ r then
            (match k.shadow.reverse.find? fun q => decide (q.1 = 32 * (r - recAb k.record) + u) with | some q => q.2 | none => wp.main.reg r u)
          else wp.main.reg r u)) ∧
    (∀ n, k.running = true → ∃ t, exec (.taskComplete key (.part n)) s = .next t ∧ t.mem = s.mem ∧ t.tasks = s.tasks) ∧
    (∀ va c l, k.running = true → ∃ (t : State) (k' : Task), exec (.taskComplete key (.fault va c l)) s = .next t ∧ look t.tasks key = some k' ∧
      k'.running = false ∧ k'.started = false ∧ k'.record = k.record ∧ k'.token = k.token) ∧
    (k.running = true → k.sets = [] → k.spoiled = [] → s.copies = [] →
      ∃ (t : State) (y : Team), exec (.taskComplete key .none) s = .next t ∧ t.mem = s.mem ∧ look t.tasks key = none ∧ look t.teams k.team = some y ∧
        (∀ i q, k.token = some i → look x.tokens i = some q → q.freed = false → look y.tokens i = some { q with done := true, status := 0, words := [], op := none } ∧
          (recAcc k.record = true → { warp := recAw k.record, base := recAb k.record, token := some (i, q.gen), seen := none } ∈ y.accs)) ∧
        (recAcc k.record = true → ∀ wp, x.warps[recAw k.record]? = some wp →
          ∃ wp', y.warps[recAw k.record]? = some wp' ∧ wp'.main.sstat = wp.main.sstat ∧ wp'.main.splits = wp.main.splits ∧
            ∀ r u, u < 32 → r ≠ 0 → wp'.main.reg r u =
              if recAb k.record ≤ r ∧ r < recAb k.record + 64
              then (look (s.compute k x).1 (32 * (r - recAb k.record) + u)).getD (wp.main.reg r u) else wp.main.reg r u) ∧
        (recAcc k.record = false → ∀ tl, look x.tiles (recTo k.record) = some tl → tl.op = some key → tl.raced = [] →
          ∃ tl', look y.tiles (recTo k.record) = some tl' ∧ tl'.st = .ready ∧ tl'.op = none ∧ tl'.spec = tl.spec ∧ y.holdsTile tl.spec (s.compute k x).2)) ∧
    (k.running = true → k.sets ≠ [] → recAcc k.record = false →
      ∃ (t : State) (y : Team) (k' : Task), exec (.taskComplete key .none) s = .next t ∧ t.mem = s.mem ∧ look t.tasks key = some k' ∧ k'.ended = true ∧ k'.running = false ∧
        look t.teams k.team = some y ∧ y.tokens = x.tokens ∧
        ∀ tl, look x.tiles (recTo k.record) = some tl → ∃ tl', look y.tiles (recTo k.record) = some tl' ∧ tl'.st = .prov ∧ tl'.sets = k.sets)) ∧
  ((∀ (s : State) (key : Nat) (c : Check) (x : Team) (tl : Tile), look s.checks key = some c → look s.teams c.team = some x → look x.tiles c.tile = some tl →
    (c.gone = true → ∃ t, exec (.forecastPrediction key .none) s = .next t ∧ t.checks = unlist s.checks key ∧ t.teams = s.teams ∧ t.mem = s.mem) ∧
    (c.gone = false → c.written = true ∨ c.fault.isSome = true ∨ s.inPlace c.ctx none = false → ∃ t, exec (.forecastPrediction key .none) s = .next t ∧ Idle s t) ∧
    (∀ va, c.gone = false → c.written = false → c.fault = none → s.inPlace c.ctx none = true → (∃ w ∈ x.warps, w.main.live ≠ 0) →
      ∃ (t : State) (y : Team) (tl' : Tile), exec (.forecastPrediction key (.lost va)) s = .next t ∧ look t.checks key = none ∧ look t.teams c.team = some y ∧
        look y.tiles c.tile = some tl' ∧ tl'.st = .empty ∧ y.deferred = x.deferred ++ [{ warp := none, op := key, tile := some c.tile, va := va, site := c.site, seq := c.seq }]) ∧
    (∀ va cause level, c.gone = false → c.written = false → c.fault = none → s.inPlace c.ctx none = true →
      (specLoc tl.spec = 0 → ∃ t, exec (.forecastPrediction key (.fault va cause level)) s = .next t ∧ Idle s t) ∧
      (specLoc tl.spec ≠ 0 → ∃ (t : State) (f : Option (Nat × Nat × Nat)), exec (.forecastPrediction key (.fault va cause level)) s = .next t ∧
        look t.checks key = some { c with fault := f } ∧ ∀ x, f = some x → x.1 = s.teamDie c.team ∧ x.2.2 = va.toNat)) ∧
    (∀ (u : State) v sp ps, c.gone = false → c.written = false → c.fault = none → s.inPlace c.ctx none = true → tl.raced = [] →
      s.bump.engineSpace c.ctx (s.teamDie c.team) = (v, sp) →
      v.reach sp .engineRead ((predictionPlanes c.desc (s.hist c.hist).vlast.toNat).flatMap fun p => planeWants c.desc tl.spec p) = (u, .ok ps) →
      ∃ (t : State) (y : Team), exec (.forecastPrediction key .none) s = .next t ∧ look t.checks key = some { c with written := true } ∧
        look t.teams c.team = some y ∧ look y.tiles c.tile = some tl ∧ (∀ a, byteAt t.mem a = byteAt u.mem a) ∧
        (let h := s.hist c.hist
         y.holdsTile tl.spec (forecastTile c.desc tl.spec fun n =>
          predictCode c.desc (planeCode c.desc (h.plane (h.vlast.toNat % 2)) n) (planeCode c.desc (h.plane ((h.vlast.toNat + 1) % 2)) n))))) ∧
  (∀ (s : State) (hk : Nat) (h : Hist) (v : Word) (n : Nat) (w : Who), look s.hists hk = some h → h.capture = some (v, n) → h.captor = some w →
    (h.fault.isSome = true ∨ s.inPlace h.ctx none = false ∨ s.awaiting hk = true ∨ s.precedes (s.agentOf w) w h.mark .dev = false ∨ s.planesFree hk h v = false → ∃ t, exec (.forecastCapture hk .none) s = .next t ∧ Idle s t) ∧
    (∀ va k m j x, w = .warp k m j → look s.teams k = some x → (∃ w ∈ x.warps, w.main.live ≠ 0) →
      ∃ (t : State) (y : Team) (h' : Hist) (op : Nat), exec (.forecastCapture hk (.lost va)) s = .next t ∧ look t.hists hk = some h' ∧ h'.capture = none ∧ h'.done = some false ∧
        h'.vlast = h.vlast ∧ h'.nhist = min h.nhist 1 ∧ look t.teams k = some y ∧
        y.deferred = x.deferred ++ [{ warp := some m, op := op, va := va, site := h.site, seq := h.seq }] ∧
        ∃ r : State, r.mem = s.mem ∧ r.hist hk = h' ∧ t.mem = (r.mirror hk (s.agentOf w).die []).mem) ∧
    (∀ (u z : State) c₁ sp ps qs got, s.calm → h.fault = none → s.inPlace h.ctx none = true → s.awaiting hk = false → s.planesFree hk h v = true → s.precedes (s.agentOf w) w h.mark .dev = true →
      s.bump.engineSpace h.ctx (s.agentOf w).die = (c₁, sp) →
      (∃ c₂, c₁.reach sp .engineRead ((allRows h.desc).map fun x => { thread := x.row, va := x.addr h.desc % 2 ^ 64, bytes := descSize h.desc 0 * histWidth h.desc }) = (c₂, .ok ps) ∧
        c₂.reach sp .engineWrite [{ thread := 0, va := planeAddr h.desc (v.toNat % 2) 0, bytes := planeBytes h.desc }] = (u, .ok qs)) →
      u.gather { key := hk, ctx := h.ctx, die := (s.agentOf w).die, who := some w, site := h.site, seq := h.seq, team := (s.nameOf w h.site).team } ps = (z, some got) →
      ∃ (t : State) (h' : Hist), exec (.forecastCapture hk .none) s = .next t ∧ look t.hists hk = some h' ∧ h'.vlast = v ∧ h'.nhist = min (h.nhist + 1) 2 ∧ h'.capture = none ∧
        h'.done = some true ∧ h'.plane (v.toNat % 2) = densePlane h.desc (h.plane (v.toNat % 2)) (wantBytes got) ∧
        h'.plane ((v.toNat + 1) % 2) = h.plane ((v.toNat + 1) % 2) ∧
        (∀ key c, look s.checks key = some c → c.hist = hk → c.ver = v → ∃ n, look t.checks key = some { c with ready := some n }) ∧
        ∃ r : State, r.mem = z.mem ∧ r.hist hk = h' ∧ t = r.mirror hk (s.agentOf w).die [(v.toNat % 2, planeBytes h.desc)])) ∧
  ∀ (s : State) (key : Nat) (c : Check) (x : Team) (tl : Tile), look s.checks key = some c → look s.teams c.team = some x → look x.tiles c.tile = some tl →
    (c.gone = false → c.written = false ∨ c.ready = none ∨ s.inPlace c.ctx none = false ∨ 4 ≤ s.checksAhead key c → ∃ t, exec (.tceCheck key) s = .next t ∧ Idle s t) ∧
    (c.gone = false → c.written = true → c.ready.isSome = true → s.inPlace c.ctx none = true → s.checksAhead key c < 4 → s.calm → s.tasks = [] → s.copies = [] → specLoc tl.spec = 0 →
      ∃ (t : State) (y : Team) (tl' : Tile) (h' : Hist), exec (.tceCheck key) s = .next t ∧ look t.checks key = none ∧ look t.teams c.team = some y ∧
        look y.tiles c.tile = some tl' ∧ tl'.st = .ready ∧ tl'.spec = tl.spec ∧ look t.hists c.hist = some h' ∧ y.tokens = x.tokens ∧
        (∀ (n : Nat) (wp : Warp), x.warps[n]? = some wp → ∃ wp' : Warp, y.warps[n]? = some wp' ∧ wp'.main.regs = wp.main.regs ∧ wp'.main.sstat = wp.main.sstat) ∧
        (∃ r : State, r.mem = s.mem ∧ r.hist c.hist = h' ∧ t.mem = (r.mirror c.hist (s.teamDie c.team) []).mem) ∧
        (let f := descFmt c.desc
         let plane := (s.hist c.hist).plane (c.ver.toNat % 2)
         (tilePasses c.desc tl.spec (gridOf f tl.spec (x.tileBytes [] tl.spec (tileBytes f tl.spec) 0)) plane = true →
           h'.commits = (s.hist c.hist).commits + 1 ∧ h'.squashes = (s.hist c.hist).squashes ∧ y.vat = x.vat) ∧
         (tilePasses c.desc tl.spec (gridOf f tl.spec (x.tileBytes [] tl.spec (tileBytes f tl.spec) 0)) plane = false →
           h'.squashes = (s.hist c.hist).squashes + 1 ∧ h'.commits = (s.hist c.hist).commits ∧ y.holdsTile tl.spec (forecastTile c.desc tl.spec (planeCode c.desc plane))))))

/-! ### Chapters 11 and 16: launches, residence and distributors -/

/-- R299 to R303: acceptance. The record at the head of a context's queue leaves it, unless eight launches of the context have been
accepted; a valid record without tables becomes an accepted launch with its fields, and an invalid one starts none.

R303 to R310, R312, R313, R323, R344, R395, R398 to R400: residence. A distributor of a job that may run creates the teams of a band
on cores of its own die, or resumes a swapped-out band there; it creates none while it waits for room in the image pool. A new team's warps start at its stage's entry with registers of zero. Stage reviews and context turns
only take teams off cores, whole bands at instruction boundaries; a context turn takes as many bands as leave the waiting context
room, all of contexts that wait themselves and whose own turn is over. L1 blocks pass to scratchpad, never more than 16 of the
24, and what no longer fits leaves the L1; blocks that no team holds pass back. A clock rises only with a gated lane. A dry
distributor takes chunks over. None of these events writes memory. -/
def Obligations.LaunchesAndResidence : Prop :=
  ((∀ (s : State) (c : Nat), ((s.ctx c).queue = [] ∨ 8 ≤ s.accepted c ∨ (s.ctx c).valid = false ∨ (s.ctx c).dying = true) →
    ∃ t, exec (.launchAccept c) s = .next t ∧ Idle s t) ∧
  ∀ (s : State) (c : Nat) (q : Queued) (rest : List Queued), (s.ctx c).queue = q :: rest → s.accepted c < 8 → (s.ctx c).valid = true → (s.ctx c).dying = false →
    let bs := q.bytes
    let u := s.bump.setCtx c { s.ctx c with queue := rest }
    (∀ off, u.badRecord c bs = some off →
      ∃ t, exec (.launchAccept c) s = .next t ∧ (t.ctx c).queue = rest ∧ t.launches = s.launches) ∧
    (u.badRecord c bs = none → fieldAt bs 0x30 8 = 0 → fieldAt bs 0x38 8 = 0 →
      ∃ (t : State) (l : Launch), exec (.launchAccept c) s = .next t ∧ (t.ctx c).queue = rest ∧ look t.launches u.nextKey = some l ∧
        (∀ k, k ≠ u.nextKey → look t.launches k = look s.launches k) ∧ l.ctx = c ∧ l.placed = [] ∧ l.pred = s.predecessor c (BitVec.ofNat 32 (fieldAt bs 0x24 4)) ∧
        l.record.tmx = fieldAt bs 0x08 4 ∧ l.record.tmy = fieldAt bs 0x0C 4 ∧ l.record.tmz = fieldAt bs 0x10 4 ∧
        l.record.regs = fieldAt bs 0x14 4 / 256 % 256 ∧ l.record.band = fieldAt bs 0x14 4 % 32 ∧ l.record.spad = fieldAt bs 0x18 4 ∧
        l.record.lid = BitVec.ofNat 32 (fieldAt bs 0x20 4) ∧ l.record.queues = [] ∧
        (∀ a, byteAt t.mem a = byteAt s.mem a) ∧ t.teams = s.teams)) ∧
  ((∀ (s : State) (d c : Nat), (s.mayRun c = false ∨ (s.die d).fenced = true) → ∃ t, exec (.teamPlacement d c) s = .next t ∧ Idle s t) ∧
  (∀ (s : State) (d c : Nat), s.mayRun c = true → (s.die d).fenced = false →
    ∃ t, exec (.teamPlacement d c) s = .next t ∧ t.mem = s.mem ∧
      (∀ k y, look t.teams k = some y → look s.teams k = none → ∃ n, y.core = some n ∧ n / 64 = d ∧ y.die = d ∧ y.ctx = c) ∧
      (s.waitsForPool d c = true → ∀ k y, look t.teams k = some y → (look s.teams k).isSome = true) ∧
      ((s.teams.map Prod.fst).Nodup → (s.launches.map Prod.fst).Nodup → (∀ x ∈ s.teams, x.1 < s.nextKey) → ∀ (k : Nat) (x : Team), look s.teams k = some x → x.core.isSome = true →
        ∃ y : Team, look t.teams k = some y ∧ (y.core = x.core ∨ y.core = none ∧ ∃ l : Launch, look s.launches x.launch = some l ∧ x.onLaunchBarrier l = true))) ∧
  (∀ (s : State) (l : Nat) (x : Launch) (d b i : Nat),
    let y := s.newTeam l x d (b * x.record.band + i)
    y.launch = l ∧ y.ctx = x.ctx ∧ y.idx = b * x.record.band + i ∧ (i < x.record.band → y.band = b ∧ y.brank = i) ∧
    ∀ wp ∈ y.warps, wp.main.nreg = x.record.regs ∧ wp.main.live = 0xFFFFFFFF ∧ wp.handler = none ∧ (∀ r u, wp.main.reg r u = 0) ∧
      wp.main.sstat = (s.ctx x.ctx).ten.setWidth 32 <<< 8 ∧
      ∃ k, wp.main.splits = [k] ∧ k.exm = 0xFFFFFFFF ∧ k.fresh = true ∧ ∃ g ∈ x.record.stages ++ [{ entry := 0, teams := 0, roles := [] }], k.pc = g.entry) ∧
  (∀ (s : State) (d : Nat) (i : Instr), i = .stageReview d ∨ i = .contextTurn d →
    ∃ t, exec i s = .next t ∧ t.mem = s.mem ∧
      ∀ (k : Nat) (x : Team), look s.teams k = some x → ∃ y : Team, look t.teams k = some y ∧ (y.core = x.core ∨ y.core = none) ∧ y.idx = x.idx ∧ y.spad = x.spad ∧ y.vat = x.vat ∧
        ∀ (n : Nat) (w : Warp), x.warps[n]? = some w → ∃ w' : Warp, y.warps[n]? = some w' ∧ w'.main.regs = w.main.regs ∧ w'.main.sstat = w.main.sstat ∧ w'.main.live = w.main.live) ∧
  (∀ (s : State) (d : Nat), ((List.range 64).map fun i => ((s.die d).turn + i) % 64).find? (s.waitsOn d) = none →
    ∃ t, exec (.contextTurn d) s = .next t ∧ Idle s t) ∧
  (∀ (s : State) (d c : Nat), ((List.range 64).map fun i => ((s.die d).turn + i) % 64).find? (s.waitsOn d) = some c →
    (State.roomBy d c ((s.victims d c).flatMap (s.teamsOn d)) s.bump = none → ∃ t, exec (.contextTurn d) s = .next t ∧ Idle s t) ∧
    ∀ u, State.roomBy d c ((s.victims d c).flatMap (s.teamsOn d)) s.bump = some u →
      u.canPlan d c = true ∧
      ((s.teams.map Prod.fst).Nodup → ∀ k x y, look s.teams k = some x → x.core.isSome = true → look u.teams k = some y → y.core = none →
        ∃ v x', v ≠ c ∧ s.waitsOn d v = true ∧ (s.die d).turnRuns v = false ∧ x' ∈ s.teamsOn d v ∧ x'.launch = x.launch ∧ x'.band = x.band) ∧
      ∃ t, exec (.contextTurn d) s = .next t ∧ t.teams = u.teams ∧ (t.die d).turn = (c + 1) % 64 ∧
        (c, 0, (s.die d).clk.toNat + ((s.ctx c).prio + 1) * s.slice c) ∈ (t.die d).holders) ∧
  (∀ (s : State) (n : Nat), ∃ t, exec (.scratchpadBlockConversion n 0) s = .next t ∧ t.core n = { s.core n with spare := [] } ∧
    (∀ k, k ≠ n → t.core k = s.core k) ∧ { t with cores := s.cores, nextKey := s.nextKey } = s) ∧
  (∀ (s : State) (n b : Nat), 1 ≤ b → (s.core n).blocks.length + (s.core n).spare.length ≤ 16 →
    ∃ t, exec (.scratchpadBlockConversion n b) s = .next t ∧ t.mem = s.mem ∧ (t.core n).blocks = (s.core n).blocks ∧
      (t.core n).spare.length = (s.core n).spare.length + min b (s.core n).convertible ∧ (t.core n).blocks.length + (t.core n).spare.length ≤ 16 ∧
      (t.core n).l1.length ≤ (24 - ((t.core n).blocks.length + (t.core n).spare.length)) * 256) ∧
  (∀ (s : State), ∃ t, exec .powerOn s = .next t ∧ { t with cores := s.cores, nextKey := s.nextKey } = s ∧
    ∀ n, t.core n = { s.core n with blocks := [], spare := [] }) ∧
  (∀ (s : State) (d : Nat), (s.dry d = false → ∃ t, exec (.stealMessage d) s = .next t ∧ Idle s t) ∧
    (s.dry d = true → ∃ t, exec (.stealMessage d) s = .next t ∧ { t with launches := s.launches, nextKey := s.nextKey } = s ∧
      ∀ l c x, (l, c) ∈ s.stolenChunks (s.victim d) → look s.launches l = some x →
        ∃ y, look t.launches l = some y ∧ look y.stolen c = some (d + 1) ∧ y.record = x.record ∧ y.placed = x.placed)) ∧
  ∀ (s : State) (n : Nat) (up : Bool),
    (up = true → s.gatedLane n = false → ∃ t, exec (.frequencyStep n up) s = .next t ∧ Idle s t) ∧
    (up = false ∨ s.gatedLane n = true → ∃ t, exec (.frequencyStep n up) s = .next t ∧
      t.core n = { s.core n with mhz := if up then min 2700 ((s.core n).mhz + 25) else max 2400 ((s.core n).mhz - 25) } ∧
      (∀ k, k ≠ n → t.core k = s.core k) ∧ { t with cores := s.cores, nextKey := s.nextKey } = s))

/-! ### Chapters 12 and 13: synchronisation and shipping -/

/-- R341 to R343: `bara`, `barw` and `bars`. An ID beyond the level's limit raises `illegal instruction`, a job barrier without a
group entry `permission`. A thread that is two phases ahead waits. `bara` gives each thread the ticket of the phase in which it
arrives, adds one to its count, and completes the phase in which every participant has arrived; `barw` and `bars` wait for
the phases and answer their status. -/
def Obligations.Barriers : Prop :=
  (∀ (i : Instr) (p : Pre) (lvl : Level) (id : Sys2Proof.Num), (∃ d r, i = .bara p d id lvl r) ∨ (∃ d r, i = .bars p d id lvl r) →
    ∀ s s' e, Enters i s s' e → e.exm p ≠ 0 → e.sp.again = false →
      let n := (e.num (e.exm p) id).toNat % 64
      (idLimit lvl ≤ n → ∃ t, exec i s = .next t ∧ Traps e s' t (e.trapOf .illegal e.sp.pc)) ∧
      (n < idLimit lvl → lvl = .job → s'.groupHere n = none → ∃ t, exec i s = .next t ∧ Traps e s' t (e.trapOf .permission 0)) ∧
      (n < idLimit lvl → (lvl = .job → (s'.groupHere n).isSome = true) →
        (∃ a ∈ s'.arrivals e (e.exm p) lvl n, (s'.barrier e lvl n).phase + 2 ≤ a) →
        ∃ t ps, exec i s = .next t ∧ Parks e s' t 3 (.barrier lvl n ps false))) ∧
  (∀ (p : Pre) (d : RegNo) (id : Sys2Proof.Num) (lvl : Level) (r : Byte) s s' e (x : Team), Enters (.bara p d id lvl r) s s' e → e.exm p ≠ 0 →
    let n := (e.num (e.exm p) id).toNat % 64
    n < idLimit lvl → (lvl = .job → (s'.groupHere n).isSome = true) → look s'.teams e.team = some x →
    (∀ a ∈ s'.arrivals e (e.exm p) lvl n, a < (s'.barrier e lvl n).phase + 2) →
    let v := s'.release e.agent (levelScope lvl) e.releaser
    e.sp.mark = none → v.drained e.agent e.who v.nextKey (decide (lvl = .job)) = true →
    let b := (Mask.threads (e.exm p)).foldl (fun b u => b.arrive (s'.barrierNo e lvl u) r) (s'.barrier e lvl n)
    ∃ (t : State) (st : Strand), exec (.bara p d id lvl r) s = .next t ∧ t.strand? e.who = some st ∧ st.sstat = e.st.sstat ∧
      (st.split e.k).pc = e.next (.bara p d id lvl r) ∧
      (∀ q u, u < 32 → st.reg q u = e.withWord (e.exm p) d
        (fun u => BitVec.ofNat 32 (readOr 0 (s'.barrier e lvl n).counts (s'.barrierNo e lvl u) % 2 ^ 24 * 256 + levelCode lvl * 64 + n)) q u) ∧
      ((s'.ctx x.ctx).jobBars = [] → lvl ≠ .job → ∀ a, byteAt t.mem a = byteAt s'.mem a) ∧
      (lvl = .team → t.barrier e lvl n = b.settle x.threads ∧ ∀ m, m ≠ n → t.barrier e .team m = (s'.barrier e .team m).settle x.threads)) ∧
  (∀ (p : Pre) (d a : RegNo) s s' e, Enters (.barw p d a) s s' e → e.exm p ≠ 0 →
    let k := (e.one (e.exm p) a).toNat
    let lvl := levelOf (k / 64 % 4)
    let b := s'.barrier e lvl (k % 64)
    k % 64 < idLimit lvl → (lvl = .job → (s'.groupHere (k % 64)).isSome = true) →
    ((∀ u < 32, (e.exm p).getLsbD u = true → phaseDone b.phase ((e.reg a.toNat u).toNat / 256) = true) →
      ∃ t, exec (.barw p d a) s = .next t ∧ Writes e s' t (e.next (.barw p d a)) (e.withWord (e.exm p) d fun u => b.status ((e.reg a.toNat u).toNat / 256))) ∧
    ((∃ u < 32, (e.exm p).getLsbD u = true ∧ phaseDone b.phase ((e.reg a.toNat u).toNat / 256) = false) →
      ∃ t ps, exec (.barw p d a) s = .next t ∧ Parks e s' t 3 (.barrier lvl (k % 64) ps false))) ∧
  ∀ (p : Pre) (d : RegNo) (id : Sys2Proof.Num) (lvl : Level) (r : Byte) s s' e k l m ps, Enters (.bars p d id lvl r) s s' e → e.exm p ≠ 0 →
    e.sp.again = true → e.sp.park = some k → k.cond = .barrier l m ps true →
    let n := (e.num (e.exm p) id).toNat % 64
    let b := s'.barrier e lvl n
    let phase (u : Nat) : Nat := readOr 0 b.counts (s'.barrierNo e lvl u) - 1
    (∀ u < 32, (e.exm p).getLsbD u = true → phaseDone b.phase (phase u) = true) →
    ∃ t, exec (.bars p d id lvl r) s = .next t ∧ Writes e s' t (e.next (.bars p d id lvl r)) (e.withWord (e.exm p) d fun u => b.status (phase u))

/-- R301, R311, R347 to R350: stage queues, the register pool and software interrupts. A team of a stage that is no producer
(consumer) traps; a closed queue answers 1; a full (empty) one answers 2 with NB and parks without; otherwise `qpush` appends
the element and `qpop` takes the oldest. `rgive` and `rclaim` move registers between the warp and the pool of its team. `sint`
hands an event to the host or the service of its die once its release has been performed. -/
def Obligations.QueuesAndPool : Prop :=
  (∀ (i : Instr) (p : Pre) (d a : RegNo) (q : BitVec 4) (spm nb push : Bool), (i = .qpush p d a q spm nb ∧ push = true) ∨ (i = .qpop p d a q spm nb ∧ push = false) →
    ∀ s s' e, Enters i s s' e →
      (e.sp.exm = 0 → PassesOn e i s s') ∧
      (e.sp.exm ≠ 0 → s'.farSender e = false → (∀ l st x, s'.queueSide e = some (l, st) → s'.queue l q.toNat = some x → (if push then x.prod else x.cons).getLsbD st = false) →
        ∃ t, exec i s = .next t ∧ Traps e s' t (e.trapOf .permission 0)) ∧
      ∀ l st x u ps, e.sp.exm ≠ 0 → s'.queueSide e = some (l, st) → s'.queue l q.toNat = some x → (if push then x.prod else x.cons).getLsbD st = true →
        e.waitingOp = none → e.ReachesElement push spm (e.elementAt a spm) x.elem s' u ps →
        let waited := e.hasQueued q.toNat push
        let v := if push = true ∧ waited = false then u.release e.agent .dev e.releaser else u
        (waited = false → (push = true ∨ ps.any (orderedAt u.dev) = true) → e.sp.mark = none ∧ v.drained e.agent e.who v.nextKey false = true) →
        let z := e.touchElement push ps v
        (v.queueClosed l x push = true → ∃ t, exec i s = .next t ∧ Writes e v t (e.next i) (e.withWord e.sp.exm d fun _ => 1)) ∧
        (v.queueClosed l x push = false → v.queueGo x q.toNat push e.who = false →
          (nb = true → ∃ t, exec i s = .next t ∧ Writes e v t (e.next i) (e.withWord e.sp.exm d fun _ => 2)) ∧
          (nb = false → ∃ (t : State) (st : Strand), exec i s = .next t ∧ t.strand? e.who = some st ∧ (st.split e.k).st = .parked ∧ st.regs = e.st.regs ∧
            (st.split e.k).park = some { reason := 4, cond := if push then .queueRoom q.toNat else .queueElement q.toNat } ∧
            ∀ c, byteAt t.mem c = byteAt v.mem c)) ∧
        (push = true → v.queueClosed l x push = false → v.queueGo x q.toNat push e.who = true → ∀ k, ps.find? (fun k => v.poisonedAt k) = some k →
          ∃ t, exec i s = .next t ∧ Traps e v t (e.trapOf .dataError (BitVec.ofNat 64 k.va))) ∧
        (push = true → v.queueClosed l x push = false → v.queueGo x q.toNat push e.who = true → (∀ k ∈ ps, v.poisonedAt k = false) → ∀ w bs,
          (spm = true → w = z.1 ∧ bs = z.1.spadRead e.team (e.elementAt a spm).toNat x.elem) → (spm = false → z.1.elementRead e v.nextKey z.2 = (w, some bs)) →
          w.strand? e.who = s'.strand? e.who → w.queue l q.toNat = some x →
          ∃ (t : State) (x' : Queue), exec i s = .next t ∧ Writes e w t (e.next i) (e.withWord e.sp.exm d fun _ => 0) ∧ t.queue l q.toNat = some x' ∧
            x'.items = x.items ++ [recordWords bs] ∧ x'.head = x.head) ∧
        (push = false → v.queueClosed l x push = false → v.queueGo x q.toNat push e.who = true → v.slotPoisoned e x = false → x.spoiled = false →
          (∀ p ∈ z.2, p.at_.dev ≠ z.1.dev ∨ p.at_.pa < hbmEnd) → z.1.strand? e.who = s'.strand? e.who → z.1.queue l q.toNat = some x →
          ∃ (t : State) (x' : Queue) (st : Strand), exec i s = .next t ∧ t.queue l q.toNat = some x' ∧ x'.items = x.items.tail ∧ x'.head = x.head + 1 ∧
            t.strand? e.who = some st ∧ (∀ n u, u < 32 → st.reg n u = e.withWord e.sp.exm d (fun _ => 0) n u) ∧ st.sstat = e.st.sstat ∧ (st.split e.k).pc = e.next i ∧
            (spm = true → (∀ c, byteAt t.mem c = byteAt z.1.mem c) ∧ ∀ y y', look s'.teams e.team = some y → look t.teams e.team = some y' → ∀ off,
              readOr 0 y'.spad off = (((x.items.headD []).flatMap fun w => le 4 w.toNat)[off - (e.elementAt a spm).toNat]?.bind fun b =>
                if (e.elementAt a spm).toNat ≤ off then some b else none).getD (readOr 0 y.spad off)))) ∧
  (∀ (p : Pre) (n : Sys2Proof.Num) s s' e (x : Team) k w j, Enters (.rgive p n) s s' e → e.sp.exm ≠ 0 → e.who = .warp k w j → look s'.teams k = some x →
    let c := (e.num e.sp.exm n).toNat % 256
    (countOk c = false ∨ e.st.nreg < c → ∃ t, exec (.rgive p n) s = .next t ∧ Traps e s' t (e.trapOf .illegal e.sp.pc)) ∧
    (countOk c = true → c ≤ e.st.nreg → s'.taskHolds e c = false ∨ c = e.st.nreg → e.sp.score ≠ [] → ∃ t, exec (.rgive p n) s = .next t ∧ Parks e s' t 1 .score) ∧
    (countOk c = true → c ≤ e.st.nreg → s'.taskHolds e c = false ∨ c = e.st.nreg → e.sp.score = [] →
      ∃ (t : State) (st : Strand) (y : Team), exec (.rgive p n) s = .next t ∧ t.strand? e.who = some st ∧ st.nreg = c ∧ (st.split e.k).pc = e.next (.rgive p n) ∧
        (∀ r u, u < 32 → st.reg r u = if r < c then e.st.reg r u else 0) ∧ st.sstat = e.st.sstat ∧ look t.teams k = some y ∧ y.pool = x.pool + (e.st.nreg - c) ∧
        ∀ a, byteAt t.mem a = byteAt s'.mem a)) ∧
  (∀ (p : Pre) (d : RegNo) (n : Sys2Proof.Num) (nb : Bool) s s' e (x : Team) k w j, Enters (.rclaim p d n nb) s s' e → e.sp.exm ≠ 0 → e.who = .warp k w j →
    look s'.teams k = some x →
    let c := (e.num e.sp.exm n).toNat % 256
    (countOk c = false ∨ c < e.st.nreg → ∃ t, exec (.rclaim p d n nb) s = .next t ∧ Traps e s' t (e.trapOf .illegal e.sp.pc)) ∧
    (countOk c = true → e.st.nreg ≤ c → (d ≠ 0 → d.toNat < e.st.nreg) →
      (c = e.st.nreg → ∃ t, exec (.rclaim p d n nb) s = .next t ∧ Writes e s' t (e.next (.rclaim p d n nb)) (e.withWord e.sp.exm d fun _ => 1)) ∧
      (e.st.nreg < c → x.pool < c - e.st.nreg ∨ s'.claimBefore e = true → nb = true →
        ∃ t, exec (.rclaim p d n nb) s = .next t ∧ Writes e s' t (e.next (.rclaim p d n nb)) (e.withWord e.sp.exm d fun _ => 0)) ∧
      (e.st.nreg < c → x.pool < c - e.st.nreg ∨ s'.claimBefore e = true → nb = false →
        ∃ (t : State) (st : Strand), exec (.rclaim p d n nb) s = .next t ∧ t.strand? e.who = some st ∧ (st.split e.k).st = .parked ∧
          (st.split e.k).park = some { reason := 13, cond := .registers c } ∧ st.regs = e.st.regs ∧ st.nreg = e.st.nreg) ∧
      (e.st.nreg < c → c - e.st.nreg ≤ x.pool → s'.claimBefore e = false →
        ∃ (t : State) (st : Strand) (y : Team), exec (.rclaim p d n nb) s = .next t ∧
          Writes e s' t (e.next (.rclaim p d n nb)) (fun r u => if e.st.nreg ≤ r then 0 else e.withWord e.sp.exm d (fun _ => 1) r u) ∧
          t.strand? e.who = some st ∧ st.nreg = c ∧ look t.teams k = some y ∧ y.pool + (c - e.st.nreg) = x.pool))) ∧
  ∀ (p : Pre) (a : RegNo) (svc : Bool) s s' e, Enters (.sint p a svc) s s' e → e.sp.exm ≠ 0 → e.sp.mark = none →
    let v := s'.release e.agent (if svc then .dev else .sys) e.releaser
    v.drained e.agent e.who v.nextKey (!svc) = true →
    (64 ≤ v.sintsOf e.ctxNo → ∃ t, exec (.sint p a svc) s = .next t ∧ Parks e v t 10 .sints) ∧
    (v.sintsOf e.ctxNo < 64 → ∃ t, exec (.sint p a svc) s = .next t ∧ Advances e t (e.next (.sint p a svc)) ∧
      (svc = false → (∀ c, byteAt t.mem c = byteAt v.mem c) ∧ (v.hub.evWait.length < 256 →
        (∃ x, t.hub.evWait = v.hub.evWait ++ [x]) ∧ (t.ctx e.ctxNo).sints = (v.ctx e.ctxNo).sints + 1)))

/-- R352 to R370: `ship`, its requests, sections and results. A bad entry traps. A form with a token goes on with its token in D;
one without parks until every request has its result, and then writes results and status. A request that leaves the send
buffer stands in the queue of its lock's home; the first that may be served starts a section at its entry in thread 0, with its
arguments in `v4` on, its stack pair and the return pair of R68; a section beyond its watchdog ends with status 2; a result
reaches its sender after the section's writes. -/
def Obligations.Shipping : Prop :=
  (∀ (o : Ship) s s' e, Enters (.ship o) s s' e → e.sp.ships = [] →
    let entry := e.sp.pc + o.x.signExtend 64
    (e.exm o.p = 0 → PassesOn e (.ship o) s s') ∧
    (e.exm o.p ≠ 0 → entry.extractLsb' 0 2 ≠ 0#2 → ∃ t, exec (.ship o) s = .next t ∧ Traps e s' t (e.trapOf .misaligned entry)) ∧
    (e.exm o.p ≠ 0 → entry.extractLsb' 0 2 = 0#2 → entry.extractLsb' 57 7 = 0#7 → ∀ x sp u ps c, e.agent = .wide c → e.space s' = (x, sp) →
      x.checkAll sp .lock ((Mask.threads (e.exm o.p)).map fun n => { thread := n, va := (e.srcPair (e.exm o.p) o.a o.ua n).toNat, bytes := 1 }) = (u, .ok ps) →
      u.strand? e.who = s'.strand? e.who → u.shipRoom e o ps.length = true → e.sp.mark = none →
      let far := ps.any fun p => decide (p.at_.dev ≠ u.dev)
      let v := u.release e.agent (if far then .sys else .dev) e.releaser
      v.drained e.agent e.who v.nextKey far = true →
      ∃ (t : State) (st : Strand) (rs : List ShipReq), exec (.ship o) s = .next t ∧ t.strand? e.who = some st ∧ (∀ a, byteAt t.mem a = byteAt u.mem a) ∧
        (t.core c).sendq = (v.core c).sendq ++ rs ∧ rs.map ShipReq.thread = ps.map Piece.thread ∧ rs.map ShipReq.pa = ps.map (fun p => p.at_.pa) ∧
        (∀ r ∈ rs, r.entry = entry ∧ r.ctx = e.ctxNo ∧ r.token = o.token ∧ r.site = e.sp.pc ∧ r.args = e.shipArgs o (e.exm o.p) r.thread) ∧
        (o.token = true → o.d = 0 → (st.split e.k).pc = e.next (.ship o) ∧ ∀ n u, u < 32 → st.reg n u = e.st.reg n u) ∧
        (o.token = true → o.d ≠ 0 → (v.newToken e.team e.warp (if far then .sys else .dev) v.nextKey).2.isSome = true →
          (st.split e.k).pc = e.next (.ship o) ∧ ∃ i w, (v.newToken e.team e.warp (if far then .sys else .dev) v.nextKey).2 = some (i, w) ∧
            ∀ n u, u < 32 → st.reg n u = e.withWord (e.exm o.p) o.d (fun _ => w) n u) ∧
        (o.token = false → (st.split e.k).st = .parked ∧ (st.split e.k).pc = e.sp.pc ∧ st.regs = e.st.regs ∧
          (st.split e.k).ships.map ShipWait.seq = rs.map ShipReq.seq ∧ ∀ x ∈ (st.split e.k).ships, x.res = none))) ∧
  (∀ (o : Ship) s s' e w status res, Enters (.ship o) s s' e → e.sp.ships = [w] → w.res = some (status :: res) → w.thread < 32 → e.sp.exm.getLsbD w.thread = true →
    ∃ t, exec (.ship o) s = .next t ∧ Writes e s' t (e.next (.ship o)) fun n u =>
      if u = w.thread ∧ n = o.c.toNat ∧ o.c ≠ 0 then status
      else if u = w.thread ∧ n ≠ 0 ∧ o.d.toNat ≤ n ∧ n < o.d.toNat + o.nres.toNat then res.getD (n - o.d.toNat) 0 else e.st.reg n u) ∧
  (∀ (s : State) (r : ShipReq), r.srcDev = s.dev → r.dev = s.dev → (s.core r.core).sendq.head? = some r → s.servable r = true → (s.sectionCtx r).isSome = true →
    (s.die (lockHome r.pa / 16)).fenced = false → s.homeRoom (lockHome r.pa) r = true →
    ∃ t, exec (.shipRequest r) s = .next t ∧ (t.core r.core).sendq = (s.core r.core).sendq.tail ∧
      (t.lc (lockHome r.pa)).homeq = (s.lc (lockHome r.pa)).homeq ++ [r] ∧ t.mem = s.mem ∧ t.teams = s.teams) ∧
  (∀ (s : State) (l : Nat) (r : ShipReq) (c : Nat), (s.lc l).t0.serving = none → (s.lc l).homeq.find? s.servable = some r → (s.lc l).doorq = [] →
    (s.die (l / 16)).fenced = false → s.sectionCtx r = some c →
    ∃ (t : State) (k : Split), exec (.sectionStart l) s = .next t ∧ (t.lc l).t0.serving = some r ∧ (t.lc l).t0.ctx = c ∧ (t.lc l).t0.active = true ∧
      (t.lc l).homeq = (s.lc l).homeq.erase r ∧ (t.lc l).t0.main.splits = [k] ∧ k.pc = r.entry ∧ k.exm = 1 ∧ (t.lc l).t0.main.nreg = 128 ∧
      (∀ n < 8, (t.lc l).t0.main.reg (4 + n) 0 = r.args.getD n 0) ∧
      (t.lc l).t0.main.reg 126 0 = 0xFFFFFFFC ∧ (t.lc l).t0.main.reg 127 0 = 0xFFFFFFFF ∧ (t.lc l).t1 = (s.lc l).t1 ∧ t.mem = s.mem) ∧
  (∀ (s : State) (l : Nat) (r : ShipReq), (s.lc l).t0.serving = some r → s.watchdog (s.lc l).t0.ctx ≤ (s.lc l).t0.spent →
    (∀ w ∈ (s.die (l / 16)).waiters, w.2 ≠ .split (.lat l 0)) →
    ∃ (t : State) (res : ShipRes), exec (.sectionOverrun l) s = .next t ∧ t.results = s.results ++ [res] ∧ res.status = 2 ∧ res.seq = r.seq ∧
      (t.lc l).t0.serving = none) ∧
  ∀ (s : State) (r : ShipRes), r ∈ s.results → s.drained (.lat r.home) (.lat r.home 0) r.mark (decide (r.srcDev ≠ s.dev)) = true → r.srcDev = s.dev →
    ∃ t, exec (.shipResult r) s = .next t ∧ t.results = s.results.erase r ∧ t.mem = s.mem ∧
      ∀ x wp k, r.ret.toNat / 1024 = 0 → look s.teams r.key = some x → x.warps[r.warp]? = some wp →
        ∃ y wp', look t.teams r.key = some y ∧ y.warps[r.warp]? = some wp' ∧ wp'.main.regs = wp.main.regs ∧
          (k < wp.main.splits.length → (wp'.main.split k).ships = answer (wp.main.split k).ships r)

/-! ### Chapters 15 to 18: special registers, the SYS group and experiments -/

/-- R69 to R72, R124, R389, R394: special registers. `srd` gives each acting thread the register's value, the clock and the
counters as variable-latency results, and a read of `%clk` latches its high word; nothing else changes. `swr` puts the word A of
the lowest acting thread into the register, whose reserved bits stay zero; no general register and no byte of memory changes. -/
def Obligations.SpecialRegisters : Prop :=
  (∀ (p : Pre) (d : RegNo) (n : BitVec 12) s s' e, Enters (.srd p d n) s s' e →
    (variableSpecial n.toNat = false →
      ∃ t, exec (.srd p d n) s = .next t ∧ Ran e s' t (e.next (.srd p d n)) (e.withWord (e.exm p) d (s'.special e n.toNat)) e.st.sstat) ∧
    (variableSpecial n.toNat = true → n ≠ 0x010 →
      ∃ t, exec (.srd p d n) s = .next t ∧
        RanLater e s' t (e.next (.srd p d n)) (lateWords (e.exm p) d false fun u => (s'.special e n.toNat u).setWidth 64)) ∧
    (∀ c, n = 0x010 → e.agent = .wide c →
      ∃ (t : State) (st : Strand), exec (.srd p d n) s = .next t ∧ t.strand? e.who = some st ∧ (st.split e.k).pc = e.next (.srd p d n) ∧
        (∀ u < 32, readOr 0 st.clkh u = if (e.exm p).getLsbD u then (s'.core c).clk.extractLsb' 32 32 else readOr 0 e.st.clkh u) ∧
        RanLater { e with st := { e.st with clkh := st.clkh } } s' t (e.next (.srd p d n)) (lateWords (e.exm p) d false fun _ => (s'.core c).clk))) ∧
  (∀ (s : State) (e : Env) (u : Nat), e.lat = true →
    (∀ n, n ≤ 0x008 ∨ n = 0x013 → s.special e n u = 0) ∧ s.special e 0x00C u = 1 ∧ s.special e 0x00D u = 1 ∧ s.special e 0x00F u = 128 ∧
    ∀ l, e.agent = .lat l → s.special e 0x009 u = BitVec.ofNat 32 (256 + l)) ∧
  (∀ (s : State) (e : Env) (u : Nat) (x : Team), e.lat = false → look s.teams e.team = some x →
    s.special e 0x000 u = BitVec.ofNat 32 u ∧ s.special e 0x001 u = BitVec.ofNat 32 e.warp ∧ s.special e 0x005 u = BitVec.ofNat 32 x.band ∧
    s.special e 0x006 u = BitVec.ofNat 32 x.brank ∧ s.special e 0x007 u = BitVec.ofNat 32 x.stage ∧
    ∀ l, look s.launches x.launch = some l →
      s.special e 0x002 u = BitVec.ofNat 32 (x.idx % l.record.tmx) ∧ s.special e 0x003 u = BitVec.ofNat 32 (x.idx / l.record.tmx % l.record.tmy) ∧
      s.special e 0x004 u = BitVec.ofNat 32 (x.idx / (l.record.tmx * l.record.tmy)) ∧
      s.special e 0x013 u = BitVec.ofNat 32 (l.record.tmx * l.record.tmy * l.record.tmz)) ∧
  (∀ (s : State) (e : Env) (u : Nat), (e.lat = false → s.special e 0x00C u = e.sp.exm ∧ s.special e 0x00F u = BitVec.ofNat 32 e.st.nreg) ∧
    s.special e 0x00E u = e.sp.rgn.extractLsb' 0 32 ∧ s.special e 0x012 u = BitVec.ofNat 32 e.ctxNo ∧ s.special e 0x10C u = e.st.sstat ∧
    s.special e 0x011 u = readOr 0 e.st.clkh u ∧ ∀ n < 128, s.special e (0x200 + n) u = (readOr 0 e.ctx.cnt n).extractLsb' 0 32) ∧
  ∀ (p : Pre) (a : RegNo) (ua : Bool) (n : BitVec 12) s s' e, Enters (.swr p a ua n) s s' e →
    let i := Instr.swr p a ua n
    let v := e.one (e.exm p) a
    (e.exm p = 0 → PassesOn e i s s') ∧
    (e.exm p ≠ 0 →
      (n = 0x10C → ∃ t, exec i s = .next t ∧ Ran e s' t (e.next i) e.st.reg (v &&& 0x1F1F)) ∧
      (∀ k j w, (e.who = .warp k w j ∨ e.who = .handler k w) → 0x100 ≤ n.toNat → n.toNat ≤ 0x104 →
        ∃ (t : State) (m m' : Strand), exec i s = .next t ∧ s'.strand? (.warp k w j) = some m ∧ t.strand? (.warp k w j) = some m' ∧
          m'.epc = (if n = 0x100 then m.epc.extractLsb' 32 32 ++ v else if n = 0x101 then v ++ m.epc.extractLsb' 0 32 else m.epc) ∧
          m'.ecause = (if n = 0x102 then v &&& 0x1FFFFF else m.ecause) ∧
          m'.eaddr = (if n = 0x103 then m.eaddr.extractLsb' 32 32 ++ v else if n = 0x104 then v ++ m.eaddr.extractLsb' 0 32 else m.eaddr) ∧
          (∀ r u, u < 32 → m'.reg r u = m.reg r u) ∧ m'.sstat = m.sstat ∧ Writes e s' t (e.next i) e.st.reg ∧ t.ctxs = s'.ctxs ∧ t.dies = s'.dies ∧ t.cores = s'.cores) ∧
      ((0x105 ≤ n.toNat ∧ n.toNat ≤ 0x107) ∨ n = 0x10A ∨ n = 0x10B ∨ (0x200 ≤ n.toNat ∧ n.toNat < 0x280) →
        ∃ t, exec i s = .next t ∧ Writes e s' t (e.next i) e.st.reg ∧ (∀ c, c ≠ e.ctxNo → t.ctx c = s'.ctx c) ∧
          (let x := s'.ctx e.ctxNo
           let y := t.ctx e.ctxNo
           y.asidW = (if n = 0x105 then v.toNat % 2 ^ 16 else x.asidW) ∧
           y.ptbaseW = (if n = 0x106 then x.ptbaseW / 2 ^ 32 * 2 ^ 32 + v.toNat / 4096 * 4096
             else if n = 0x107 then v.toNat % 2 ^ 8 * 2 ^ 32 + x.ptbaseW % 2 ^ 32 else x.ptbaseW) ∧
           y.stvecW = (if n = 0x10A then x.stvecW.extractLsb' 32 32 ++ v else if n = 0x10B then v ++ x.stvecW.extractLsb' 0 32 else x.stvecW) ∧
           (∀ k, readOr 0 y.cnt k = if n.toNat = 0x200 + k then v.setWidth 64 else readOr 0 x.cnt k) ∧
           y.asid = x.asid ∧ y.ptbase = x.ptbase ∧ y.stvec = x.stvec)) ∧
      (n = 0x108 ∨ n = 0x109 →
        ∃ t, exec i s = .next t ∧ Writes e s' t (e.next i) e.st.reg ∧ t.ctxs = s'.ctxs ∧ (∀ d, d ≠ e.die → t.die d = s'.die d) ∧
          t.die e.die = { s'.die e.die with fqbase :=
            (if n = 0x108 then (s'.die e.die).fqbase.extractLsb' 32 32 ++ v else v ++ (s'.die e.die).fqbase.extractLsb' 0 32) &&& 0xFFFFFFFFC0#64 }))

/-- R420, R422 to R424, R426: `xrd` and `xwr` read and write the trapped warp's registers; `tlbinv` drops the entries of its kind
from every TLB of the device, brings written address-space registers into use for `.all`, and ends once earlier accesses have
been performed; `replay`, once its release has been performed, closes the entry of its serial and counts its waiters, whose splits go
back to their region's entry, or have WAKE set while they are away; `ctxkill` ends a
context, and its split parks until the context is gone. -/
def Obligations.SystemInstructions : Prop :=
  (∀ (i : Instr) (p : Pre), ((∃ k a n, i = .tlbinv p k a n) ∨ (∃ d a b, i = .replay p d a b) ∨ (∃ a, i = .ctxkill p a) ∨ (∃ d a, i = .lnch p d a) ∨
      (∃ a c, i = .trial p a c) ∨ (∃ d b, i = .wfi p d b) ∨ (∃ d a, i = .gsave p d a) ∨ ∃ d a, i = .grest p d a) →
    ∀ s s' e, Enters i s s' e → e.exm p = 0 → PassesOn e i s s') ∧
  (∀ (p : Pre) (d : RegNo) (c : BitVec 7) (stat : Bool) s s' e, Enters (.xrd p d c stat) s s' e →
    ∃ t f, exec (.xrd p d c stat) s = .next t ∧ Writes e s' t (e.next (.xrd p d c stat)) (e.withWord (e.exm p) d f) ∧
      ∀ u, (stat = true → f u = (s'.trapped e.who).sstat) ∧ (stat = false → (s'.trapped e.who).nreg ≤ c.toNat → f u = 0) ∧
        (stat = false → c.toNat < (s'.trapped e.who).nreg → s'.heldTrapped e c.toNat = false → f u = (s'.trapped e.who).reg c.toNat u)) ∧
  (∀ (p : Pre) (a : RegNo) (ua : Bool) (c : BitVec 7) (stat : Bool) s s' e k w, Enters (.xwr p a ua c stat) s s' e → e.who = .handler k w → e.exm p ≠ 0 →
    let x := s'.trapped e.who
    ∃ t, exec (.xwr p a ua c stat) s = .next t ∧ Writes e s' t (e.next (.xwr p a ua c stat)) e.st.reg ∧
      (t.trapped e.who).sstat = (if stat then e.one (e.exm p) a &&& 0x1F1F else x.sstat) ∧ (t.trapped e.who).nreg = x.nreg ∧ (t.trapped e.who).splits = x.splits ∧
      ∀ n u, u < 32 → (t.trapped e.who).reg n u =
        if stat = false ∧ n = c.toNat ∧ c ≠ 0 ∧ c.toNat < x.nreg ∧ (e.exm p).getLsbD u = true then e.src (e.exm p) a ua u else x.reg n u) ∧
  (∀ (p : Pre) (k : TlbKind) (a : RegNo) (asid : Sys2Proof.Num) s s' e, Enters (.tlbinv p k a asid) s s' e → e.exm p ≠ 0 →
    let i := Instr.tlbinv p k a asid
    let n := (e.num (e.exm p) asid).toNat % 65536
    let va := (e.onePair (e.exm p) a).toNat
    (∀ mark, e.settling = some mark → s'.settledBefore mark = true → PassesOn e i s s') ∧
    (e.settling = none → e.sp.mark = none →
      (let v := s'.release e.agent .dev e.releaser
       v.drained e.agent e.who v.nextKey false = true →
       ∃ (t : State) (st : Strand), exec i s = .next t ∧ t.strand? e.who = some st ∧ (∀ r u, u < 32 → st.reg r u = e.st.reg r u) ∧ st.sstat = e.st.sstat ∧
        ((st.split e.k).pc = e.next i ∨ ((st.split e.k).pc = e.sp.pc ∧ (st.split e.k).st = .interlock)) ∧
        (∀ c x, x ∈ (t.core c).tlb ↔ x ∈ (s'.core c).tlb ∧ x.dropped k n va = false) ∧
        (∀ d x, x ∈ (t.die d).tlb ↔ x ∈ (s'.die d).tlb ∧ x.dropped k n va = false) ∧
        (∀ d x, x ∈ (t.die d).tables → x.dropped k n va = false) ∧
        (∀ c, (t.ctx c).asid = (if k = .all then (s'.ctx c).asidW else (s'.ctx c).asid) ∧
          (t.ctx c).ptbase = (if k = .all then (s'.ctx c).ptbaseW else (s'.ctx c).ptbase)) ∧
        ∀ b, byteAt t.mem b = byteAt s'.mem b))) ∧
  (∀ (p : Pre) (d a b : RegNo) s s' e, Enters (.replay p d a b) s s' e → e.exm p ≠ 0 →
    let i := Instr.replay p d a b
    let ser := (e.one (e.exm p) a).toNat
    let status := e.one (e.exm p) b
    let v := s'.release e.agent .dev e.releaser
    let ws := (v.die e.die).waiters.filter fun w => w.1 = ser
    (status ≠ 1 → status ≠ 2 → ∃ t, exec i s = .next t ∧ Traps e s' t (e.trapOf .illegal e.sp.pc)) ∧
    (status = 1 ∨ status = 2 → e.sp.mark = none → v.drained e.agent e.who v.nextKey false = true → (∀ x ∈ (v.die e.die).entries, x.serial ≠ ser) →
      ∃ t, exec i s = .next t ∧ RanLater e v t (e.next i) (lateWords (e.exm p) d false fun _ => 0)) ∧
    (status = 1 → e.sp.mark = none → v.drained e.agent e.who v.nextKey false = true → (∃ x ∈ (v.die e.die).entries, x.serial = ser) →
      (∀ w ∈ ws, w.2 ≠ .split e.who) →
      ∃ (t : State) (st : Strand), exec i s = .next t ∧ t.strand? e.who = some st ∧ (st.split e.k).pc = e.next i ∧
        (∀ r u, u < 32 → st.reg r u = e.st.reg r u) ∧ st.sstat = e.st.sstat ∧ (∀ x, byteAt t.mem x = byteAt v.mem x) ∧
        (t.die e.die).entries = (v.die e.die).entries.filter (fun x => x.serial ≠ ser) ∧
        (t.die e.die).waiters = (v.die e.die).waiters.filter (fun x => x.1 ≠ ser) ∧
        (d ≠ 0 → ∃ r ∈ st.inbound, r.reg = d.toNat ∧ ∀ u < 32, (e.exm p).getLsbD u = true → (u, BitVec.ofNat 32 ws.length) ∈ r.vals) ∧
        ∀ k n j m va, (ser, Waiter.split (.warp k n j)) ∈ (v.die e.die).waiters → v.strand? (.warp k n j) = some m → j < m.splits.length →
          (m.split j).park.map Park.cond = some (.fault e.die ser va) →
          ∃ m', t.strand? (.warp k n j) = some m' ∧
            if v.away (.warp k n j) = true then (m'.split j).wake = true ∧ (m'.split j).st = (m.split j).st ∧ (m'.split j).pc = (m.split j).pc
            else (m'.split j).pc = (m.split j).rgn ∧ (m'.split j).fresh = true ∧ (m'.split j).st ≠ .parked)) ∧
  ∀ (p : Pre) (a : RegNo) s s' e, Enters (.ctxkill p a) s s' e → e.exm p ≠ 0 →
    let i := Instr.ctxkill p a
    let c := (e.one (e.exm p) a).toNat % 64
    ((s'.ctx c).valid = false → PassesOn e i s s') ∧
    (e.sp.again = false → (s'.ctx c).dying = true → PassesOn e i s s') ∧
    (e.sp.again = true → e.sp.park.map Park.cond = some (.contextGone c) → (s'.ctx c).valid = true → (s'.ctx c).dying = true →
      ∃ t, exec i s = .next t ∧ Parks e s' t 15 (.contextGone c)) ∧
    (e.sp.again = false → (s'.ctx c).valid = true → (s'.ctx c).dying = false →
      ∃ t, exec i s = .next t ∧ (∀ x ∈ t.teams, x.2.ctx ≠ c) ∧ (∀ x ∈ t.launches, x.2.ctx ≠ c) ∧ (∀ x ∈ t.copies, x.2.ctx ≠ c) ∧
        (∀ x ∈ t.tasks, x.2.ctx ≠ c) ∧ (∀ x ∈ t.colls, x.2.ctx ≠ c) ∧ (t.ctx c).queue = [] ∧ (t.ctx c).dying = true ∧ .contextTableClear c ∈ t.inputs)

/-- R427 to R430, R387, R447: `lnch` queues its record once its release has been performed, or answers why it does not; `cntrd` gives the counter; `trial` starts an
experiment on a range, or ends the running one; `wfi` answers 1 for an event, also one that has woken it, and 0 for its timeout;
`gsave` and `grest` answer 1 or 2 where the switch cannot start, and otherwise start it and park until it ends. `delayExchange` adds the other dies'
increments and `trialEnd` ends an experiment whose duration has passed. -/
def Obligations.LaunchesAndExperiments : Prop :=
  (∀ (p : Pre) (d a : RegNo) s s' e (w : State) (bs : List Byte), Enters (.lnch p d a) s s' e → e.ReadsRecord (e.exm p) a 64 128 s' w bs →
    let i := Instr.lnch p d a
    let c := recordCtx bs
    let x := w.ctx c
    let gives (v : Word) (t : State) : Prop := exec i s = .next t ∧ Writes e w t (e.next i) (e.withWord (e.exm p) d fun _ => v)
    (x.valid = false ∨ x.dying = true → ∃ t, gives 1 t ∧ t.ctxs = w.ctxs) ∧
    (x.valid = true → x.dying = false → w.lidKnown c (recordLid bs) = true → ∃ t, gives 2 t ∧ t.ctxs = w.ctxs) ∧
    (x.valid = true → x.dying = false → w.lidKnown c (recordLid bs) = false → 64 ≤ x.queue.length → ∃ t, exec i s = .next t ∧ Parks e w t 10 (.launchRoom c)) ∧
    (x.valid = true → x.dying = false → w.lidKnown c (recordLid bs) = false → x.queue.length < 64 → e.sp.mark = none →
      let v := w.release e.agent .dev e.releaser
      v.drained e.agent e.who v.nextKey false = true →
      ∃ t, exec i s = .next t ∧ Writes e v t (e.next i) (e.withWord (e.exm p) d fun _ => 0) ∧
        t.ctx c = { x with queue := x.queue ++ [{ addr := e.onePair (e.exm p) a, bytes := bs, host := false }] } ∧ ∀ k, k ≠ c → t.ctx k = w.ctx k)) ∧
  (∀ (p : Pre) (d : RegNo) (n : Sys2Proof.Num) (ub : Bool) s s' e, Enters (.cntrd p d n ub) s s' e →
    ∃ t, exec (.cntrd p d n ub) s = .next t ∧ RanLater e s' t (e.next (.cntrd p d n ub)) (lateWords (e.exm p) d true fun u =>
      readOr 0 (s'.ctx e.ctxNo).cnt ((match n with | .reg r => (e.src (e.exm p) r ub u).toNat | .imm x => x.toNat) % 128))) ∧
  (∀ (p : Pre) (a : RegNo) (cn : Option Sys2Proof.Num) s s' e (w : State) (bs : List Byte), Enters (.trial p a cn) s s' e → e.ReadsRecord (e.exm p) a 8 32 s' w bs →
    let i := Instr.trial p a cn
    let c := match cn with | some n => (e.num (e.exm p) n).toNat % 64 | none => e.ctxNo
    let lo := leNat (bs.take 8)
    let hi := leNat ((bs.drop 8).take 8)
    let sp := leNat ((bs.drop 16).take 4)
    let dur := leNat ((bs.drop 20).take 4)
    (hi ≤ lo ∨ 256 < sp ∨ leNat ((bs.drop 24).take 8) ≠ 0 → ∃ t, exec i s = .next t ∧ Traps e w t (e.trapOf .illegal (e.onePair (e.exm p) a))) ∧
    (lo < hi → sp ≤ 256 → leNat ((bs.drop 24).take 8) = 0 → (w.ctx c).trial = none →
      (dur = 0 → ∃ t, exec i s = .next t ∧ Writes e w t (e.next i) e.st.reg ∧ t.ctxs = w.ctxs) ∧
      (dur ≠ 0 → (w.ctx c).valid = true →
        ∃ (t : State) (x : Experiment), exec i s = .next t ∧ Writes e w t (e.next i) e.st.reg ∧ (t.ctx c).trial = some x ∧ x.lo.toNat = lo ∧ x.hi.toNat = hi ∧
          x.s = sp ∧ x.dur = dur ∧ x.left = dur ∧ x.die = e.die ∧ (∀ k, k ≠ c → t.ctx k = w.ctx k)))) ∧
  (∀ (p : Pre) (d b : RegNo) s s' e, Enters (.wfi p d b) s s' e → e.exm p ≠ 0 →
    let i := Instr.wfi p d b
    let n := (e.one (e.exm p) b).toNat
    (e.served = true ∨ s'.serviceReady e.die = true → ∃ t, exec i s = .next t ∧ Ran e s' t (e.next i) (e.withWord (e.exm p) d fun _ => 1) e.st.sstat) ∧
    (e.served = false → s'.serviceReady e.die = false → n = 0 ∨ e.timedOut = true →
      ∃ t, exec i s = .next t ∧ Ran e s' t (e.next i) (e.withWord (e.exm p) d fun _ => 0) e.st.sstat) ∧
    (s'.serviceReady e.die = false → n ≠ 0 → e.sp.again = false →
      ∃ t, exec i s = .next t ∧ Parks e s' t 15 .serviceRing (if n = 2 ^ 32 - 1 then none else some n))) ∧
  (∀ (i : Instr) (p : Pre) (d a : RegNo) (off : Bool), (i = .gsave p d a ∧ off = true) ∨ (i = .grest p d a ∧ off = false) →
    ∀ s s' e, Enters i s s' e → e.exm p ≠ 0 →
      let tag := (e.one (e.exm p) a).toNat % 2 ^ 16
      let gives (v : Word × Word) : Prop := ∃ t, exec i s = .next t ∧ Writes e s' t (e.next i) (e.withPair (e.exm p) d fun _ => v.2 ++ v.1)
      let bars (j : Nat) (x : Job) (v : Word) : Prop :=
        (((off = true ∧ e.ctx.job = tag) ∨ s'.jobMembers x = none) ∧ v = 1) ∨
        (¬((off = true ∧ e.ctx.job = tag) ∨ s'.jobMembers x = none) ∧ x.st ≠ (if off then .run else .off) ∧ v = 2)
      (e.sp.again = false → s'.jobOf tag = none → ∃ v, gives (1, v)) ∧
      (∀ j x v, e.sp.again = false → s'.jobOf tag = some (j, x) → bars j x v → gives (v, BitVec.ofNat 32 x.serial)) ∧
      (∀ j x, e.sp.again = false → s'.jobOf tag = some (j, x) → (∀ v, ¬bars j x v) →
        ∃ (t : State) (st : Strand), exec i s = .next t ∧ t.strand? e.who = some st ∧ st.regs = e.st.regs ∧ (st.split e.k).st = .parked ∧
          (st.split e.k).park = some { reason := 15, cond := .gang tag } ∧ (t.job j).cond = true ∧ (t.job j).serial = (x.serial + 1) % 2 ^ 32 ∧
          (t.job j).st = (if off then .stopping else .restoring) ∧ (t.job j).conductor = s'.dev ∧
          ((s'.die e.agent.die).fqbase = 0 → ∀ b, byteAt t.mem b = byteAt s'.mem b)) ∧
      (∀ j x v, e.sp.again = true → e.sp.park.map Park.cond = some (.gang tag) → s'.jobOf tag = some (j, x) →
        (x.results.find? fun r => r.1 = e.who) = some (e.who, v) → gives v) ∧
      (e.sp.again = true → e.sp.park.map Park.cond = some (.gang tag) → s'.jobOf tag = none → gives (3, s'.lastSerial tag)) ∧
      ∀ j x, e.sp.again = true → e.sp.park.map Park.cond = some (.gang tag) → s'.jobOf tag = some (j, x) → (∀ r ∈ x.results, r.1 ≠ e.who) →
        ∃ t, exec i s = .next t ∧ Parks e s' t 15 (.gang tag)) ∧
  (∀ s : State, ∃ t, exec .delayExchange s = .next t ∧ { t with ctxs := s.ctxs, nextKey := s.nextKey } = s ∧
    ∀ c, (t.ctx c).prog = (s.ctx c).prog ∧ ((t.ctx c).trial.isSome = (s.ctx c).trial.isSome) ∧
      ∀ x, (s.ctx c).trial = some x → ∃ y, (t.ctx c).trial = some y ∧ y.fresh = [] ∧ y.lo = x.lo ∧ y.hi = x.hi ∧ y.left = x.left ∧
        ∀ d < 4, readOr 0 y.total d + readOr 0 x.fresh d = readOr 0 x.total d + (((List.range 4).map fun k => readOr 0 x.fresh k).sum)) ∧
  ∀ (s : State) (c : Nat) (x : Experiment), (s.ctx c).trial = some x → x.left = 0 →
    ∃ t, exec (.trialEnd c) s = .next t ∧ (t.ctx c).trial = none ∧
      (t.ctx c).trials = (s.ctx c).trials ++ [{ lo := x.lo, hi := x.hi, s := x.s, dur := x.dur, total := readOr 0 x.total x.die, prog0 := x.prog0, prog1 := (s.ctx c).prog }]

/-! ### Chapter 18: gang switch and job barriers -/

/-- R437, R439, R440, R445, R447: taking a job off. The host's command starts a switch, or ends at once with status 1 or 2. A stop
message finds the entry RUN and makes it STOPPING, and no team of the job stays on a core; once its agents are
quiet the router closes: what it holds of the job is saved, and markers go out. A device that has closed and has every marker is OFF and reports it; the conductor ends the
switch with status 0 once every member has reported, or with status 3 and the silent members after its time. -/
def Obligations.GangOff : Prop :=
  (∀ (s : State) (i : Instr) (off : Bool), (i = .gangSave ∧ off = true) ∨ (i = .gangRestore ∧ off = false) →
    (s.hub.busy = false ∨ s.hub.mbcmd ≠ (if off then 1 else 2) → ∃ t, exec i s = .next t ∧ Idle s t) ∧
    (s.hub.busy = true → s.hub.mbcmd = (if off then 1 else 2) → s.jobOf (s.hub.mbarg % 2 ^ 16) = none →
      ∃ t v, exec i s = .next t ∧ t.hub = { s.hub with mbres := (1, v), busy := false } ∧ t.mem = s.mem) ∧
    ∀ j x, s.hub.busy = true → s.hub.mbcmd = (if off then 1 else 2) → s.jobOf (s.hub.mbarg % 2 ^ 16) = some (j, x) → x.mailbox = false →
      (s.jobMembers x = none → ∃ t, exec i s = .next t ∧ t.hub = { s.hub with mbres := (1, BitVec.ofNat 32 x.serial), busy := false }) ∧
      ((s.jobMembers x).isSome = true → x.st ≠ (if off then .run else .off) →
        ∃ t, exec i s = .next t ∧ t.hub = { s.hub with mbres := (2, BitVec.ofNat 32 x.serial), busy := false }) ∧
      ((s.jobMembers x).isSome = true → x.st = (if off then .run else .off) →
        ∃ t, exec i s = .next t ∧ ((s.die 0).fqbase = 0 → t.mem = s.mem ∧ t.teams = s.teams) ∧ (t.job j).cond = true ∧ (t.job j).mailbox = true ∧ (t.job j).serial = (x.serial + 1) % 2 ^ 32 ∧
          (t.job j).st = (if off then .stopping else .restoring) ∧ (∀ k, k ≠ j → t.job k = s.job k) ∧
          ∀ ms d, s.jobMembers x = some ms → d ∈ ms → d ≠ s.dev →
            (d, if off then .stop (s.hub.mbarg % 2 ^ 16) ((x.serial + 1) % 2 ^ 32) else .restore (s.hub.mbarg % 2 ^ 16) ((x.serial + 1) % 2 ^ 32)) ∈ t.hub.outbox)) ∧
  (∀ (s : State) (tag serial d : Nat), s.jobOf tag = none → ∀ i ∈ [Instr.stopMessage tag serial d, .gangClose tag, .sweepMarker 0 0 tag serial, .swept tag serial d,
      .gangSwitchTimeout tag, .restored tag serial d, .restoreTimeout tag, .go tag serial, .stay tag serial, .reinjectEnd tag, .running tag serial d],
    ∃ t, exec i s = .next t ∧ Idle s t) ∧
  (∀ (s : State) (tag serial d j : Nat) (x : Job), s.jobOf tag = some (j, x) → s.job j = x → x.st = .run →
    ∃ t, exec (.stopMessage tag serial d) s = .next t ∧ t.mem = s.mem ∧ (t.job j).st = .stopping ∧ (t.job j).serial = serial ∧ (t.job j).conductor = d ∧
      (t.job j).closed = false ∧ (t.job j).marks = [] ∧ ∀ k y z, look s.teams k = some y → look t.teams k = some z →
        (z.core = y.core ∨ z.core = none) ∧ ((s.ctx y.ctx).valid = true → (s.ctx y.ctx).job = tag → z.core = none)) ∧
  (∀ (s : State) (tag j : Nat) (x : Job), s.jobOf tag = some (j, x) → s.job j = x → x.st = .stopping → x.closed = false →
    (s.quiet tag = true → (s.ctxs.all fun y => y.2.job ≠ tag) = true → s.bufferedOf tag = [] → s.allMarked x = false →
      ∃ t, exec (.gangClose tag) s = .next t ∧ (t.job j).closed = true ∧ (t.job j).st = .stopping ∧ t.mem = s.mem ∧
        ∀ p d q ms, s.jobMembers x = some ms → (p, d, q) ∈ s.memberPorts ms → ∀ v < 16,
          { flit := newFlit (fields [(0, x.tag), (16, x.serial), (53, 5)]) 11 3 s.dev d 0 v, from_ := 64, out := p } ∈ t.hub.buffers) ∧
    (s.quiet tag = false → s.ctxs = [] → ∃ t, exec (.gangClose tag) s = .next t ∧ Idle s t)) ∧
  (∀ (s : State) (port vc tag serial j : Nat) (x : Job), s.jobOf tag = some (j, x) → s.job j = x →
    (s.jobMembers x = none → ∃ t, exec (.sweepMarker port vc tag serial) s = .next t ∧ Idle s t) ∧
    ((s.jobMembers x).isSome = true → x.st = .stopping → x.serial = serial → x.closed = false →
      ∃ t, exec (.sweepMarker port vc tag serial) s = .next t ∧ t.job j = { x with marks := x.marks ++ [(port, vc)] } ∧ t.mem = s.mem) ∧
    ((s.jobMembers x).isSome = true → x.st = .stopping → x.serial = serial → x.closed = true → x.sweptHere = false → x.conductor < 8192 → x.conductor ≠ s.dev →
      s.allMarked { x with marks := x.marks ++ [(port, vc)] } = true →
      ∃ t, exec (.sweepMarker port vc tag serial) s = .next t ∧ (t.job j).st = .off ∧ x.swept ≤ (t.job j).saved ∧ (t.job j).sweptHere = true ∧
        ((∀ p ∈ s.hub.partials, p.tag ≠ x.tag) → (t.job j).saved = x.swept ∧ t.mem = s.mem) ∧
        (x.conductor, Message.swept x.tag serial) ∈ t.hub.outbox)) ∧
  ∀ (s : State) (tag serial d j : Nat) (x : Job) (ms : List Nat), s.jobOf tag = some (j, x) → s.job j = x → s.jobMembers x = some ms → x.conducts = true → x.serial = serial →
    x.st = .stopping ∨ x.st = .off → x.mailbox = false →
    ((∀ m ∈ ms, m ∈ x.heard ∨ m = d) → ∃ t, exec (.swept tag serial d) s = .next t ∧ t.mem = s.mem ∧ (t.job j).cond = false ∧ (t.job j).st = x.st ∧
      ∀ w, x.issuer = some w → (w, 0, BitVec.ofNat 32 serial) ∈ (t.job j).results) ∧
    ((∃ m ∈ ms, m ∉ x.heard ∧ m ≠ d) → d ∉ x.heard → ∃ t, exec (.swept tag serial d) s = .next t ∧ t.job j = { x with heard := x.heard ++ [d] }) ∧
    ((∃ m ∈ ms, m ∉ x.heard) → ∃ t, exec (.gangSwitchTimeout tag) s = .next t ∧ t.mem = s.mem ∧ (t.job j).cond = false ∧
      (∀ w, x.issuer = some w → (w, 3, BitVec.ofNat 32 serial) ∈ (t.job j).results) ∧ (t.job j).failcnt = (ms.filter fun m => !x.heard.contains m).length)

/-- R437, R442 to R445: bringing a job back. A restore message finds the entry OFF, makes it RESTORING and is answered; any other
state is answered with the word to stay off. With every member's answer the word to go is given, and the records wait for re-injection;
when they are gone the entry is RUN, the conductor hears of it, and ends the switch with status 0 once it has heard of all. The word to stay, or the
end of the time, leaves the entry OFF. A late flit is kept as the next late record. An entry that is FREE or OFF may be admitted, one
that is OFF may be freed.

R343 to R345, R472: job barriers between devices. An arrival of the standing phase is noted once; a release of the standing phase
completes it here with its status. Messages wait while the context's job is off; those of another phase, of a context that is not valid or of a group that does not list
this device change nothing. -/
def Obligations.GangBackAndJobBarriers : Prop :=
  ((∀ (s : State) (tag serial d : Nat), d ≠ s.dev →
    (s.jobOf tag = none → ∃ t, exec (.restoreMessage tag serial d) s = .next t ∧ (d, Message.stay tag serial) ∈ t.hub.outbox ∧ t.hub.jobs = s.hub.jobs) ∧
    ∀ j x, s.jobOf tag = some (j, x) →
      (x.st = .off → ∃ t, exec (.restoreMessage tag serial d) s = .next t ∧ (d, Message.restored tag serial) ∈ t.hub.outbox ∧ t.mem = s.mem ∧
        t.job j = { x with st := .restoring, serial := serial, conductor := d, restored := true, latedrop := 0 }) ∧
      (x.st = .run ∨ x.st = .stopping → ∃ t, exec (.restoreMessage tag serial d) s = .next t ∧ (d, Message.stay tag serial) ∈ t.hub.outbox ∧ t.hub.jobs = s.hub.jobs)) ∧
  (∀ (s : State) (tag serial d j : Nat) (x : Job) (ms : List Nat), s.jobOf tag = some (j, x) → s.jobMembers x = some ms → x.conducts = true → x.serial = serial → x.st = .restoring →
    (x.went = true → ∃ t, exec (.restored tag serial d) s = .next t ∧ Idle s t) ∧
    (x.went = false → (∀ m ∈ ms, m ∈ x.heard ∨ m = d) →
      ∃ t, exec (.restored tag serial d) s = .next t ∧ (t.job j).heard = [] ∧ (t.job j).went = true ∧ t.mem = s.mem ∧ ∀ m ∈ ms, m ≠ s.dev → (m, Message.go tag serial) ∈ t.hub.outbox) ∧
    (x.went = false → (∃ m ∈ ms, m ∉ x.heard ∧ m ≠ d) → d ∉ x.heard → ∃ t, exec (.restored tag serial d) s = .next t ∧ t.job j = { x with heard := x.heard ++ [d] })) ∧
  (∀ (s : State) (tag serial j : Nat) (x : Job), s.jobOf tag = some (j, x) → s.job j = x → x.st = .restoring → x.serial = serial → x.going = false →
    (∃ (t : State) (hs : List Held), exec (.go tag serial) s = .next t ∧ (t.job j).going = true ∧ (t.job j).dropped = [] ∧ t.mem = s.mem ∧ look t.hub.replays j = some hs ∧
      (x.dropped = [] → hs = s.recordsOf x)) ∧
    (x.went = false → ∃ t, exec (.stay tag serial) s = .next t ∧ t.mem = s.mem ∧ (t.job j).st = .off) ∧
    (x.conducts = true → x.went = false → x.mailbox = false → ∃ t, exec (.restoreTimeout tag) s = .next t ∧ t.mem = s.mem ∧ (t.job j).st = .off ∧ (t.job j).cond = false ∧
      ∀ w, x.issuer = some w → (w, 3, BitVec.ofNat 32 serial) ∈ (t.job j).results) ∧
    (x.went = true → ∀ i ∈ [Instr.stay tag serial, .restoreTimeout tag], ∃ t, exec i s = .next t ∧ Idle s t)) ∧
  (∀ (s : State) (tag j : Nat) (x : Job), s.jobOf tag = some (j, x) → x.st = .restoring → x.going = true → x.conductor ≠ s.dev →
    (readOr [] s.hub.replays j ≠ [] → ∃ t, exec (.reinjectEnd tag) s = .next t ∧ Idle s t) ∧
    (readOr [] s.hub.replays j = [] → ∃ t, exec (.reinjectEnd tag) s = .next t ∧ t.mem = s.mem ∧
      t.job j = { x with st := .run, saved := 0, latecnt := 0, going := false, restored := false, dropped := [] } ∧ (x.conductor, Message.running tag x.serial) ∈ t.hub.outbox)) ∧
  (∀ (s : State) (tag serial d j : Nat) (x : Job) (ms : List Nat), s.jobOf tag = some (j, x) → s.job j = x → s.jobMembers x = some ms → x.conducts = true → x.serial = serial →
    x.st = .restoring ∨ x.st = .run → x.mailbox = false → (x.went = false → ∃ t, exec (.running tag serial d) s = .next t ∧ Idle s t) ∧
    (x.went = true → (∀ m ∈ ms, m ∈ x.heard ∨ m = d) →
      ∃ t, exec (.running tag serial d) s = .next t ∧ t.mem = s.mem ∧ (t.job j).cond = false ∧ ∀ w, x.issuer = some w → (w, 0, BitVec.ofNat 32 serial) ∈ (t.job j).results)) ∧
  (∀ (s : State) (port vc : Nat) (f : Flit), s.isLate port vc f.tag.toNat = false → ∃ t, exec (.lateFlit port vc f) s = .next t ∧ Idle s t) ∧
  (∀ (s : State) (port vc j : Nat) (f : Flit) (x : Job), s.calm → s.isLate port vc f.tag.toNat = true → s.jobOf f.tag.toNat = some (j, x) → x.latecnt < x.latesz →
    x.late + 64 * x.latesz ≤ hbmEnd →
    ∃ t, exec (.lateFlit port vc f) s = .next t ∧ (t.job j).latecnt = x.latecnt + 1 ∧
      ∀ a, (a < x.late + 64 * x.latecnt ∨ x.late + 64 * x.latecnt + 64 ≤ a) → byteAt t.mem a = byteAt s.mem a) ∧
  ∀ (s : State) (j : Nat),
    (∃ t, exec (.jobAdmit j) s = .next t ∧ { t with hub := s.hub, nextKey := s.nextKey } = s ∧ (∀ k, k ≠ j → t.job k = s.job k) ∧
      t.job j = if (s.job j).st = .free ∨ (s.job j).st = .off then { s.job j with st := .run } else s.job j) ∧
    ∃ t, exec (.jobFree j) s = .next t ∧ t.mem = s.mem ∧ t.teams = s.teams ∧ (∀ k, k ≠ j → t.job k = s.job k) ∧
      t.job j = if (s.job j).st = .off then { s.job j with st := .free, saved := 0, latecnt := 0, dropped := [] } else s.job j) ∧
  ((∀ (s : State) (c id phase d : Nat) (i : Instr), i = .jobBarrierArrival c id phase d ∨ i = .jobBarrierRelease c id phase d →
    (s.barrierWaits c = true → ∃ t, exec i s = .next t ∧ Idle { s with inputs := s.inputs ++ [i] } t) ∧
    (s.barrierWaits c = false → ((s.ctx c).valid = false ∨ s.groupHere id = none ∨ (readOr {} (s.ctx c).jobBars id).phase % 2 ^ 24 ≠ phase) →
      ∃ t, exec i s = .next t ∧ Idle s t)) ∧
  (∀ (s : State) (c id phase d : Nat) (g : Group), s.barrierWaits c = false → (s.ctx c).valid = true → s.groupHere id = some g →
    let b := readOr {} (s.ctx c).jobBars id
    b.phase % 2 ^ 24 = phase → d ∉ b.devs → (∃ m ∈ s.members g, m ≠ d ∧ m ∉ b.devs) → (∀ m ∈ s.members g, m / 32 = s.dev / 32) → b.cur = none → (∀ k, k ≠ id → look (s.ctx c).jobBars k = none) →
    (s.members g).head? = some s.dev →
    ∃ t, exec (.jobBarrierArrival c id phase d) s = .next t ∧ look (t.ctx c).jobBars id = some { b with devs := b.devs ++ [d] } ∧ ∀ a, byteAt t.mem a = byteAt s.mem a) ∧
  ∀ (s : State) (c id phase status : Nat) (g : Group), s.barrierWaits c = false → (s.ctx c).valid = true → s.groupHere id = some g →
    let b := readOr {} (s.ctx c).jobBars id
    b.phase % 2 ^ 24 = phase → b.cur = none → b.next = none → (∀ k, k ≠ id → look (s.ctx c).jobBars k = none) → (s.members g).head? ≠ some s.dev →
    leaderOf (s.members g) s.dev ≠ s.dev →
    ∃ (t : State) (b' : Barrier), exec (.jobBarrierRelease c id phase status) s = .next t ∧ look (t.ctx c).jobBars id = some b' ∧ b'.phase = b.phase + 1 ∧ b'.devs = [] ∧
      b'.counts = b.counts ∧ (status = 0 → b'.failed = b.failed) ∧ (status ≠ 0 → b'.failed = b.phase :: b.failed) ∧ ∀ a, byteAt t.mem a = byteAt s.mem a)

/-! ### Chapters 19 to 21: the fabric, the host and starts -/

/-- R461, R464 to R468: links. A flit that a port accepts is the one with the SEQ expected: it advances EXPECT and goes to the router; a
bad flit, or one ahead of the expected SEQ, changes only counters and the NAK, and a repeated one is discarded. A NAK or a silence replays what is not acknowledged. A
channel dips, and is lost or comes through; a loss leads to a restripe, whose answer forms the map of the live
channels and replays, while one for a returned channel does not; a flit of a job that has its whole share stands upstream; the rest of a
packet that was partly sent on a failed port is discarded; a returned channel is taken back; a STRIPE without an answer fails the port.

R20, R456, R463, R472 to R475, R480, R481: ports, routes, lasers and spares. A port trains with its peer; a disabled port without traffic goes down and an enabled one
trains. Live links of others are noted; a device without a route is unreachable until a route returns. A laser that fails or is removed darkens its channels until it
returns. A failed link between dies is bypassed. A channel with many errors is copied to the stack's spare, if it has one. -/
def Obligations.LinksAndPorts : Prop :=
  ((∀ (s : State) (p : Nat) (bits : BitVec 384),
    let x := s.port p
    let f := flitOf (leBytes 48 bits.toNat)
    (x.operates = false → ∃ t, exec (.flitReceive p bits) s = .next t ∧ Idle s t) ∧
    (x.operates = true → badFlit bits.toNat f = true → ∃ t, exec (.flitReceive p bits) s = .next t ∧ t.hub.buffers = s.hub.buffers ∧ t.mem = s.mem ∧
      t.port p = if x.dipped = 0 then { x with nak := some x.expect, crc := (x.crc + 1) % 2 ^ 32 } else { x with heldNak := some x.expect, crc := (x.crc + 1) % 2 ^ 32 }) ∧
    (x.operates = true → badFlit bits.toNat f = false → f.av = false → f.type ≠ 0 → f.seq.toNat ≠ x.expect →
      ∃ t, exec (.flitReceive p bits) s = .next t ∧ t.hub.buffers = s.hub.buffers ∧ t.mem = s.mem ∧
        t.port p = if (x.expect + 4096 - f.seq.toNat) % 4096 ≤ 2048 then x else if x.dipped = 0 then { x with nak := some x.expect } else { x with heldNak := some x.expect }) ∧
    (x.operates = true → badFlit bits.toNat f = false → f.av = false → f.type ≠ 0 → f.type ≠ 11 → f.seq.toNat = x.expect → x.stripe = none → s.jobOf f.tag.toNat = none →
      f.pos = 0 ∨ f.pos = 3 ∨ readOr 0x7F x.follow (followKey f) ≠ 0x7E →
      ∃ t, exec (.flitReceive p bits) s = .next t ∧ (t.port p).expect = (x.expect + 1) % 4096 ∧ (t.port p).nak = none ∧ t.mem = s.mem ∧
        t.hub.jobs = s.hub.jobs ∧ (t.port p).unacked = x.unacked ∧
        ∃ h : Held, t.hub.buffers = s.hub.buffers ++ [h] ∧ h.from_ = p ∧ h.flit = f) ∧
    (x.operates = true → badFlit bits.toNat f = false → f.av = false → f.type ≠ 0 → f.type ≠ 11 → f.seq.toNat = x.expect → x.stripe = none → s.jobOf f.tag.toNat = none →
      f.pos = 1 ∨ f.pos = 2 → readOr 0x7F x.follow (followKey f) = 0x7E →
      ∃ t, exec (.flitReceive p bits) s = .next t ∧ (t.port p).expect = (x.expect + 1) % 4096 ∧ t.hub.buffers = s.hub.buffers ∧ t.mem = s.mem) ∧
    (x.operates = true → badFlit bits.toNat f = false → f.av = false → f.type ≠ 0 → f.type ≠ 11 → f.seq.toNat = x.expect → s.shareFull f.tag.toNat = true →
      s.isLate p f.vc.toNat f.tag.toNat = false → ∃ t, exec (.flitReceive p bits) s = .next t ∧ Idle s t)) ∧
  (∀ (s : State) (p seq : Nat) (i : Instr), i = .nak p seq ∨ i = .linkReplayTimeout p → (s.port p).operates = false → ∃ t, exec i s = .next t ∧ Idle s t) ∧
  (∀ (s : State) (p seq : Nat), (s.port p).operates = true → (s.port p).tries < 7 → (s.port p).unacked ≠ [] →
    (∃ t, exec (.nak p seq) s = .next t ∧ t.mem = s.mem ∧ (t.port p).unacked = ((s.port p).acked seq).unacked ∧
      (t.port p).replayed = ((s.port p).replayed + ((s.port p).acked seq).unacked.length) % 2 ^ 32) ∧
    ∃ t, exec (.linkReplayTimeout p) s = .next t ∧ { t with hub := s.hub, nextKey := s.nextKey } = s ∧
      t.port p = { s.port p with replayed := ((s.port p).replayed + (s.port p).unacked.length) % 2 ^ 32, tries := (s.port p).tries + 1 }) ∧
  (∀ (s : State) (p c : Nat), c < 16 →
    let x := s.port p
    let bit := (1#16 <<< c)
    (x.operates = true → x.rx.getLsbD c = true → ∃ t, exec (.channelDip p c) s = .next t ∧ t.port p = { x with dipped := x.dipped ||| bit } ∧ t.mem = s.mem) ∧
    (x.rx.getLsbD c = false → x.lost.getLsbD c = true → ∃ t, exec (.channelDip p c) s = .next t ∧ t.port p = { x with back := x.back &&& ~~~bit } ∧ t.mem = s.mem) ∧
    (x.operates = true → x.dipped.getLsbD c = true →
      (∃ t, exec (.channelLossDecision p c false) s = .next t ∧ t.mem = s.mem ∧
        t.port p = if x.dipped &&& ~~~bit = 0 ∧ x.heldNak.isSome = true then { x with dipped := 0, nak := x.heldNak, heldNak := none }
          else { x with dipped := x.dipped &&& ~~~bit }) ∧
      (fullMap p &&& ~~~(x.lost ||| bit) ≠ 0 →
        ∃ t, exec (.channelLossDecision p c true) s = .next t ∧ (t.port p).st = 3 ∧ (t.port p).lost = x.lost ||| bit ∧ (t.port p).epoch = (x.epoch + 1) % 256 ∧
          (t.port p).stripe = some (fullMap p &&& ~~~(x.lost ||| bit)).toNat ∧ t.mem = s.mem)) ∧
    (x.lost.getLsbD c = true → ∃ t, exec (.channelSignalReturn p c) s = .next t ∧ t.port p = { x with back := x.back ||| bit } ∧ t.mem = s.mem) ∧
    (x.st = 2 → x.lost.getLsbD c = true → x.back.getLsbD c = true →
      ∃ t, exec (.channelRestore p c) s = .next t ∧ (t.port p).st = 3 ∧ (t.port p).lost = x.lost &&& ~~~bit ∧
        (t.port p).stripe = some (fullMap p &&& ~~~(x.lost &&& ~~~bit)).toNat ∧ t.mem = s.mem)) ∧
  (∀ (s : State) (p m epoch seq : Nat), (s.port p).operates = true →
    let live := BitVec.ofNat 16 m &&& ~~~(s.port p).dark &&& fullMap p
    let wider : Prop := (s.port p).told &&& ~~~(BitVec.ofNat 16 m &&& fullMap p) = 0 ∧ (s.port p).told ≠ BitVec.ofNat 16 m &&& fullMap p
    live ≠ 0 → s.ctxs = [] →
    ∃ t, exec (.stripe p m epoch seq) s = .next t ∧ (t.port p).epoch = epoch % 256 ∧ t.mem = s.mem ∧
      (wider → (t.port p).unacked = (s.port p).unacked ∧ (t.port p).replayed = (s.port p).replayed % 2 ^ 32) ∧
      (¬wider → (t.port p).unacked = ((s.port p).acked seq).unacked ∧
        (t.port p).replayed = ((s.port p).replayed + ((s.port p).acked seq).unacked.length) % 2 ^ 32) ∧
      (∀ c < 16, (t.port p).tx.getLsbD c = true → live.getLsbD c = true) ∧
      ((List.range 16).filter (t.port p).tx.getLsbD).length = inUse live) ∧
  (∀ (s : State) (p : Nat), (s.port p).stripe = none → ∃ t, exec (.stripeTimeout p) s = .next t ∧ Idle s t) ∧
  ∀ (s : State) (p : Nat), (s.port p).stripe.isSome = true → s.ctxs = [] →
    ∃ t, exec (.stripeTimeout p) s = .next t ∧ ((∀ x ∈ s.hub.jobs, x.2.st ≠ .stopping) → t.mem = s.mem) ∧ (t.port p).st = 4 ∧ (t.port p).unacked = [] ∧ (t.port p).tx = 0 ∧ ∀ h ∈ t.hub.buffers, h.out ≠ p ∨ h.out = 0x7F) ∧
  ((∀ (s : State) (p d q : Nat), s.hub.mode ≠ .minimal → isPort p = true → portUnused p = false → (s.port p).disable = false → (s.port p).operates = false → fullMap p &&& ~~~(s.port p).dark ≠ 0 → s.ctxs = [] →
    ∃ t, exec (.portTrain p true d q) s = .next t ∧ t.mem = s.mem ∧ (t.port p).st = 2 ∧ (t.port p).peer = some (d, q) ∧ (t.port p).lost = 0 ∧ (t.port p).rx = fullMap p ∧
      ∀ c < 16, (t.port p).tx.getLsbD c = true → (s.port p).dark.getLsbD c = false) ∧
  (∀ (s : State) (p : Nat),
    let x := s.port p
    (x.disable = true → x.operates = true → x.unacked = [] → (∀ h ∈ s.hub.buffers, h.out ≠ p) → ∃ t, exec (.portDisable p) s = .next t ∧ t.port p = { x with st := 0 } ∧ t.mem = s.mem) ∧
    (s.hub.mode ≠ .minimal → x.disable = false → x.st = 0 → isPort p = true → portUnused p = false → ∃ t, exec (.portEnable p) s = .next t ∧ t.port p = { x with st := 1 } ∧ t.mem = s.mem) ∧
    (portUnused p = true ∨ s.hub.mode = .minimal → x.operates = false → (∃ t, exec (.portEnable p) s = .next t ∧ Idle s t) ∧ ∀ ok d q, ∃ t, exec (.portTrain p ok d q) s = .next t ∧ Idle s t) ∧
    (32 ≤ p → x.operates = true →
      (∃ t, exec (.keyRefresh p true) s = .next t ∧ (portPolicy p = 1 → t.port p = { x with txKey := !x.txKey }) ∧ (portPolicy p ≠ 1 → t.port p = x) ∧ t.mem = s.mem) ∧
      ∃ t, exec (.keyRefresh p false) s = .next t ∧ (portPolicy p = 1 → t.port p = { x with rxKey := !x.rxKey }) ∧ (portPolicy p ≠ 1 → t.port p = x) ∧ t.mem = s.mem)) ∧
  (∀ (s : State) (d p : Nat) (live : Bool), ∃ t, exec (.routeUpdate d p live) s = .next t ∧ { t with hub := { t.hub with links := s.hub.links }, nextKey := s.nextKey } = s ∧
    ((d, p) ∈ t.hub.links ↔ live = true) ∧ ∀ l, l ≠ (d, p) → (l ∈ t.hub.links ↔ l ∈ s.hub.links)) ∧
  (∀ (s : State) (d : Nat),
    ((s.routeTo s.dev d).isSome = true ∨ d ∈ s.hub.unreachable → ∃ t, exec (.deviceUnreachable d) s = .next t ∧ Idle s t) ∧
    (s.routeTo s.dev d = none → d ∉ s.hub.unreachable → s.remote = [] → s.ctxs = [] →
      ∃ t, exec (.deviceUnreachable d) s = .next t ∧ t.hub.unreachable = s.hub.unreachable ++ [d] ∧ (∀ m ∈ t.hub.outbox, m.1 ≠ d) ∧ t.mem = s.mem) ∧
    ((s.routeTo s.dev d).isSome = true → d ∈ s.hub.unreachable →
      ∃ t, exec (.deviceReachable d) s = .next t ∧ t.hub.unreachable = s.hub.unreachable.filter (· ≠ d) ∧ t.mem = s.mem)) ∧
  (∀ (s : State) (n : Nat) (i : Instr) (off : Bool), (i = .laserFault n ∧ off = true) ∨ (i = .laserRemoved n ∧ off = true) ∨ (i = .laserReturn n ∧ off = false) →
    ∃ t, exec i s = .next t ∧ t.mem = s.mem ∧
      (off = true → t.hub.replreq = true ∧ ((t.laser n).fault = true ∨ (t.laser n).removed = true)) ∧
      (off = false → (t.laser n).fault = false ∧ (t.laser n).removed = false ∧ (t.laser n).latched = (s.laser n).latched) ∧
      ∀ p, (t.port p).dark =
        if p ∈ laserPorts n then (if off then (s.port p).dark ||| laserChannels n else (s.port p).dark &&& ~~~laserChannels n) else (s.port p).dark) ∧
  (∀ (s : State) (a b : Nat), ∃ t, exec (.dieToDieLinkFailure a b) s = .next t ∧ (a, b) ∈ t.hub.cut ∧ { t with hub := { t.hub with cut := s.hub.cut }, nextKey := s.nextKey } = s) ∧
  ∀ (s : State) (k c : Nat),
    (look s.hub.spares k = none → look s.hub.sparing k = none → ∃ t, exec (.channelSpare k c) s = .next t ∧ look t.hub.sparing k = some c ∧ t.mem = s.mem) ∧
    (∀ x, (look s.hub.spares k = some x ∧ look s.hub.sparing k = none) → x ≠ c →
      ∃ t, exec (.channelSpare k c) s = .next t ∧ t.hub.noSpare = true ∧ t.hub.replreq = true ∧ t.hub.spares = s.hub.spares ∧ t.mem = s.mem) ∧
    (∀ x, look s.hub.sparing k = some x → ∃ t, exec (.spareCopyEnd k) s = .next t ∧ look t.hub.spares k = some x ∧ look t.hub.sparing k = none ∧ t.mem = s.mem))

/-- R391, R392, R426, R449 to R453, R457, R458, R476 to R481: contexts and the host. A set V bit creates the context that its block describes, where it is valid; a
dying context leaves the table. A doorbell queues the staged record or says in LQSTATUS why not. The host reads and writes memory through its
window, whose loads return, and registers by aligned words; the oldest event is written to its queue, and its vector signalled, while that has room; its commands answer in the mailbox. -/
def Obligations.HostAndContexts : Prop :=
  (∀ (s : State) (c : Nat), ((s.ctx c).valid = true ∨ s.tableEntry c % 2 = 0 ∨ 64 ≤ c ∨ s.hub.mode = .minimal) → ∃ t, exec (.contextCreate c) s = .next t ∧ Idle s t) ∧
  (∀ (s : State) (c : Nat), s.calm → s.hub.mode ≠ .minimal → (s.ctx c).valid = false → s.tableEntry c % 2 = 1 → c < 64 →
    let b := s.tableEntry c / 4096 % 2 ^ 28 * 4096
    let bs := (s.homeRead b 0x600).2
    badBlock bs = false → s.clashes c bs = false →
    ∃ t, exec (.contextCreate c) s = .next t ∧ t.hub.created = true ∧ t.mem = s.mem ∧ (∀ k, k ≠ c → t.ctx k = s.ctx k) ∧
      (t.ctx c).valid = true ∧ (t.ctx c).cblk = b ∧ (t.ctx c).priv = decide (fieldAt bs 0 4 % 2 = 1) ∧ (t.ctx c).asid = fieldAt bs 4 4 ∧
      (t.ctx c).ptbase = fieldAt bs 8 8 ∧ (t.ctx c).stvec = BitVec.ofNat 64 (fieldAt bs 0x10 8) ∧ (t.ctx c).pool = fieldAt bs 0x38 8 ∧ (t.ctx c).evbase = fieldAt bs 0x48 8 ∧
      (∀ n, readOr 0 (t.ctx c).cnt n = 0) ∧ ∀ n, readOr 0 (t.ctx c).prog n = 0) ∧
  (∀ (s : State) (c : Nat),
    ((s.ctx c).valid = false → ∃ t, exec (.contextTableClear c) s = .next t ∧ Idle s t) ∧
    ((s.ctx c).valid = true → (s.ctx c).dying = false → s.tableEntry c % 2 = 1 → ∃ t, exec (.contextTableClear c) s = .next t ∧ Idle s t) ∧
    (s.calm → (s.ctx c).valid = true → (s.ctx c).dying = true → s.hub.ctxbase + 16 * c < hbmEnd → s.jobOf (s.ctx c).job = none →
      ∃ t, exec (.contextTableClear c) s = .next t ∧ (t.ctx c).valid = false ∧ (byteAt t.mem (s.hub.ctxbase + 16 * c)).getLsbD 0 = false ∧
        ∀ a, a ≠ s.hub.ctxbase + 16 * c → byteAt t.mem a = byteAt s.mem a)) ∧
  (∀ (s : State) (c : Nat),
    let bs := (List.range 128).map fun i => readOr 0 s.hub.staging (128 * c + i)
    ∃ t v, exec (.launchDoorbell c) s = .next t ∧ readOr 0 t.hub.lqstatus c = v ∧ t.mem = s.mem ∧
      ((s.ctx c).valid = false ∨ (s.ctx c).dying = true → v = 1 ∧ t.ctxs = s.ctxs) ∧
      ((s.ctx c).valid = true → (s.ctx c).dying = false → s.lidKnown c (recordLid bs) = true → v = 2 ∧ t.ctxs = s.ctxs) ∧
      ((s.ctx c).valid = true → (s.ctx c).dying = false → s.lidKnown c (recordLid bs) = false → 64 ≤ (s.ctx c).queue.length → v = 3 ∧ t.ctxs = s.ctxs) ∧
      ((s.ctx c).valid = true → (s.ctx c).dying = false → s.lidKnown c (recordLid bs) = false → (s.ctx c).queue.length < 64 →
        v = 0 ∧ t.ctx c = { s.ctx c with queue := (s.ctx c).queue ++ [{ addr := 0, bytes := bs, host := true }] })) ∧
  (∀ (s : State) (a : Nat) (bs : List Byte), s.calm → s.hub.mode ≠ .minimal → a < 2 ^ 36 →
    let pa := s.hub.apert * 2 ^ 36 + a
    (∀ n, ∃ t bs, exec (.hostBar2Access a (.read n)) s = .next t ∧ t.hub.hostData = s.hub.hostData ++ [bs] ∧ (∀ b, byteAt t.mem b = byteAt s.mem b) ∧
      (pa + n ≤ hbmEnd → s.ctxs = [] → bs = (List.range n).map fun i => byteAt s.mem (pa + i))) ∧
    (pa + bs.length ≤ hbmEnd → ∃ t, exec (.hostBar2Access a (.write bs)) s = .next t ∧
      ∀ b, byteAt t.mem b = if pa ≤ b ∧ b < pa + bs.length then bs.getD (b - pa) 0 else byteAt s.mem b)) ∧
  (∀ (s : State) (off n : Nat) (v : DWord), (n ≠ 4 ∧ n ≠ 8) ∨ off % n ≠ 0 ∨ 0x2000000 ≤ off → ∃ t, exec (.registerWrite off n v) s = .next t ∧ Idle s t) ∧
  (∀ (s : State) (v : DWord) (n k : Nat), k < 64 →
    (∃ t, exec (.registerWrite (0x10000 + 16 * k) 4 v) s = .next t ∧ t.mem = s.mem ∧
      readOr {} t.hub.groups k = { readOr {} s.hub.groups k with n := v.toNat % 2 ^ 14, rank := v.toNat % 2 ^ 32 / 2 ^ 16 % 2 ^ 13, valid := decide (v.toNat % 2 ^ 32 / 2 ^ 31 = 1) }) ∧
    (n < 64 → ∃ t, exec (.registerWrite (0x20000 + 64 * n + 4) 4 v) s = .next t ∧ t.mem = s.mem ∧
      t.job n = if (s.job n).st = .free ∨ (s.job n).st = .off then { s.job n with grp := v.toNat % 64 } else s.job n)) ∧
  (∀ (s : State),
    (s.hub.evWait = [] ∨ s.evqOpen = false → ∃ t, exec .hostEventWrite s = .next t ∧ Idle s t) ∧
    (∀ ev rest, s.hub.evWait = ev :: rest → s.evqOpen = true →
      ∃ t, exec .hostEventWrite s = .next t ∧ t.mem = s.mem ∧
        t.hub = { s.hub with evWait := rest, evqtail := (s.hub.evqtail + 1) % 2 ^ 32,
                             hostOut := s.hub.hostOut ++ [(s.hub.evqbase + 128 * (s.hub.evqtail % (s.hub.evqcfg % 65536)), ev)],
                             signals := if s.hub.evqcfg / 2 ^ 17 % 128 < 64 then s.hub.signals ++ [s.hub.evqcfg / 2 ^ 17 % 128] else s.hub.signals }) ∧
    (∃ t, exec .filairDown s = .next t ∧ { t with nextKey := s.nextKey } = { s with hub := { s.hub with filairDown := true } }) ∧
    (s.hub.filairDrop = false → ∃ t, exec .filairReturn s = .next t ∧ { t with nextKey := s.nextKey } = { s with hub := { s.hub with filairDown := false } }) ∧
    (s.hub.evWait.length < 256 → ∃ t ev, exec .filairRetrain s = .next t ∧ t.hub = { s.hub with evWait := s.hub.evWait ++ [ev] } ∧ fieldAt ev 4 4 = 4 ∧ fieldAt ev 64 1 = 11 ∧ t.mem = s.mem)) ∧
  ∀ (s : State), s.hub.busy = true → s.hub.mode ≠ .minimal →
    (s.hub.mbcmd = 3 → ∃ t, exec .attest s = .next t ∧ t.hub = { s.hub with busy := false, report := s.attestation, hostOut := s.hub.hostOut ++ [(s.hub.mbaddr, s.attestation)] } ∧ t.mem = s.mem) ∧
    (∀ img, s.hub.mbcmd = 4 →
      (5 < s.hub.mbarg → ∃ t, exec (.replaceFirmware img) s = .next t ∧ t.hub = { s.hub with busy := false, mbres := (1, s.hub.mbres.2) }) ∧
      (s.hub.mbarg ≤ 5 → Config.imageAccepted img = false → ∃ t, exec (.replaceFirmware img) s = .next t ∧ t.hub = { s.hub with busy := false, mbres := (2, s.hub.mbres.2) }) ∧
      (s.hub.mbarg ≤ 5 → Config.imageAccepted img = true → ∃ t, exec (.replaceFirmware img) s = .next t ∧ t.hub.busy = false ∧ t.hub.mbres.1 = 0 ∧
        look t.hub.images (s.hub.mbarg + 1) = some (Config.sha384 img) ∧ t.hub.history = s.hub.history ++ [Config.sha384 img])) ∧
    (s.hub.mbcmd = 5 →
      (3 < s.hub.mbarg → ∃ t, exec .fenceDie s = .next t ∧ t.hub = { s.hub with busy := false, mbres := (1, s.hub.mbres.2) }) ∧
      (s.hub.mbarg ≤ 3 → s.workOn s.hub.mbarg = [] → (s.die s.hub.mbarg).fenced = false →
        ∃ t, exec .fenceDie s = .next t ∧ (t.die s.hub.mbarg).fenced = true ∧ (t.die s.hub.mbarg).rdc = [] ∧ t.hub.busy = false ∧ t.hub.mbres.1 = 0 ∧ t.hub.replreq = true ∧ t.mem = s.mem))

/-! ### Chapter 15: the debug unit -/

/-- R333, R380, R382, R384 to R386: the ZOU. A comparator that fires reports its instruction before it issues, and stops the split in modes 0 to 2;
a stopped split is resumed or stepped, and a step that has parked is cancelled; a thread is detached into a split of its own, once SCORE holds no result of it, and put back; killed threads leave the warp;
a sample visits the next place and writes its record where the split there belongs to a sampling context. -/
def Obligations.DebugUnit : Prop :=
  (∀ (s : State) (w : Who) (n : Nat), s.comparatorFires w n = false → ∃ t, exec (.pcComparatorHit w n) s = .next t ∧ Idle s t) ∧
  (∀ (s : State) (k m j n : Nat) (st : Strand), s.strand? (.warp k m j) = some st → j < st.splits.length → s.comparatorFires (.warp k m j) n = true →
    ∃ (t : State) (st' : Strand), exec (.pcComparatorHit (.warp k m j) n) s = .next t ∧ t.strand? (.warp k m j) = some st' ∧
      (∀ r u, u < 32 → st'.reg r u = st.reg r u) ∧ st'.sstat = st.sstat ∧ (st'.split j).pc = (st.split j).pc ∧ (st'.split j).passed = n :: (st.split j).passed ∧
      ((s.comparator (.warp k m j) n).mode = 3 → (st'.split j).stop = false ∧ st'.epc = st.epc) ∧
      ((s.comparator (.warp k m j) n).mode ≠ 3 → (st'.split j).stop = true ∧ st'.epc = (st.split j).pc ∧ st'.ecause = 0x30) ∧
      ∃ r : DebugReport, r ∈ (t.die (s.agentOf (.warp k m j)).die).reports ∧ r.cause = 0x30 ∧ r.mode = (s.comparator (.warp k m j) n).mode) ∧
  (∀ (s : State) (e : Env), s.env = some e → e.k < e.st.splits.length → ∀ (i : Instr) (step : Bool), (i = .zouStep ∧ step = true) ∨ (i = .zouResume ∧ step = false) →
    (e.sp.stop = false → (step = true → e.sp.stepWaits = false) → ∃ t, exec i s = .next t ∧ Idle s t) ∧
    (e.sp.stepWaits = true → step = true → ∃ (t : State) (st : Strand), exec i s = .next t ∧ KeepsRest e s t st ∧ st.joins = e.st.joins ∧
      (∀ j, j ≠ e.k → st.split j = e.st.split j) ∧ st.split e.k = { e.sp with stop := true, stepping := false, stepped := false }) ∧
    (e.sp.stop = true → ∃ (t : State) (st : Strand), exec i s = .next t ∧ KeepsRest e s t st ∧ st.joins = e.st.joins ∧ (∀ j, j ≠ e.k → st.split j = e.st.split j) ∧
      { st.split e.k with paid := e.sp.paid } = { e.sp with stop := false, stepping := step, stepped := false, wake := false })) ∧
  (∀ (s : State) (w : Who) (n : Nat) (st : Strand), s.strand? w = some st → splitNo w < st.splits.length → n < 32 →
    let k := st.split (splitNo w)
    (st.detachable (splitNo w) n = false → ∃ t st', exec (.debugSplitDetach w n) s = .next t ∧ t.strand? w = some st' ∧ st' = st) ∧
    (st.detachable (splitNo w) n = true → k.holdsResult n = true → ∃ t, exec (.debugSplitDetach w n) s = .next t ∧ Idle { s with inputs := s.inputs ++ [.debugSplitDetach w n] } t) ∧
    (∀ j, st.freeSplit = some j → st.detachable (splitNo w) n = true → k.holdsResult n = false → j ≠ splitNo w → j < st.splits.length →
      ∃ (t : State) (st' : Strand), exec (.debugSplitDetach w n) s = .next t ∧ t.strand? w = some st' ∧ t.mem = s.mem ∧ st'.regs = st.regs ∧
        (st'.split (splitNo w)).exm = k.exm &&& ~~~(1#32 <<< n) ∧ (st'.split j).exm = 1#32 <<< n ∧ (st'.split j).pc = k.pc ∧ (st'.split j).jrec = k.jrec)) ∧
  (∀ (s : State) (w : Who) (i : Nat) (st : Strand), s.strand? w = some st → splitNo w < st.splits.length → i < st.splits.length → i ≠ splitNo w →
    let a := st.split (splitNo w)
    let b := st.split i
    a.standWith b = true → a.exm ≠ 0 → b.exm ≠ 0 → a.stack = [] →
    ∃ (t : State) (st' : Strand), exec (.debugSplitReattach w i) s = .next t ∧ t.strand? w = some st' ∧ t.mem = s.mem ∧ st'.regs = st.regs ∧
      (st'.split i).exm = b.exm ||| a.exm ∧ (st'.split i).pc = b.pc ∧ (st'.split (splitNo w)).st = .free) ∧
  (∀ (s : State) (k n j : Nat) (m : Mask) (x : Team) (wp : Warp), look s.teams k = some x → x.warps[n]? = some wp →
    ∃ t, exec (.zouKill (.warp k n j) m) s = .next t ∧ ∀ y wp', look t.teams k = some y → y.warps[n]? = some wp' → wp'.main.live = wp.main.live &&& ~~~m) ∧
  (∀ (s : State) (l : Nat) (m : Mask), m ≠ 0 → ∃ t, exec (.zouKill (.lat l 1) m) s = .next t ∧ (t.lc l).t1.active = false ∧ (t.lc l).t1.handler = none ∧ (t.lc l).t0 = (s.lc l).t0 ∧ t.mem = s.mem) ∧
  (∀ (s : State) (c : Nat), (∀ i < 1024, s.sampled? c i = none) →
    ∃ t, exec (.pcSample c) s = .next t ∧ t.core c = { s.core c with sampled := (s.core c).clk } ∧ t.mem = s.mem ∧ t.teams = s.teams) ∧
  ∀ (s : State) (c : Nat), s.calm → (∃ i < 1024, (s.sampled? c i).isSome = true) →
    ∃ (t : State) (p : Nat), exec (.pcSample c) s = .next t ∧ p < 1024 ∧ (t.core c).sampleAt = (p + 1) % 1024 ∧ (t.core c).sampled = (s.core c).clk ∧
      (s.sampled? c p).isSome = true ∧ (∀ i, (∃ d < 1024, i = ((s.core c).sampleAt + d) % 1024 ∧ ∀ d', d' < 1024 → p = ((s.core c).sampleAt + d') % 1024 → d < d') → s.sampled? c i = none) ∧
      ∀ n w x sp, s.sampled? c p = some (n, w, x, sp) →
        let y := s.ctx x.ctx
        (y.smtail + 2 ^ 32 - leNat (s.homeRead (y.cblk + 0x70) 4).2) % 2 ^ 32 ≠ y.smsize → 0 < y.smsize → y.smbase + 32 * y.smsize ≤ hbmEnd →
        (t.ctx x.ctx).smtail = (y.smtail + 1) % 2 ^ 32 ∧ bytesAt t.mem (y.smbase + 32 * (y.smtail % y.smsize)) 8 = leBytes 8 (s.sampleView c p w sp).2.2.toNat

/-! ### The whole machine -/

/-- R217, R477: the canonical form of memory, which reset has: addresses strictly rise and no listed byte is zero, so that equal memories are
equal lists; an unlisted address reads zero. -/
def Obligations.ResetMemoryForm : Prop :=
  State.reset.memoryWf ∧ (∀ a, byteAt State.reset.mem a = 0) ∧
  (∀ m : List Host.Cell, Memory.wf m = true → ∀ a b, Memory.wf (setByte m a b) = true ∧ ∀ c, byteAt (setByte m a b) c = if c = a then b else byteAt m c) ∧
  ∀ m n : List Host.Cell, Memory.wf m = true → Memory.wf n = true → (∀ a, byteAt m a = byteAt n a) → m = n

/-- R217, R221: every step keeps the canonical form of memory, from every state that has it. -/
def Obligations.StepKeepsMemoryForm : Prop :=
  ∀ s t : State, s.memoryWf → step s = .next t → t.memoryWf

/-- R70, R72, R308, R379, R391, R437, R449, R454, R474, R477: what a cold start leaves, as far as the rules give it: no context is valid and
nothing runs; every clock, fault-queue base, debug control, comparator, watch range, job, group, grant, window and port register is zero; no lock, fault,
packet or event is outstanding.

R477, R478: starts. A good start leaves every context, job and team empty and every register at its reset value; a cold start leaves all of
memory zero, a warm one keeps the bytes of clean GiB. A failed cold start leaves the device in minimal mode with its step; a failed
warm start tries again, as a cold start after the third failure. -/
def Obligations.ResetAndStarts : Prop :=
  ((∀ c, (State.reset.ctx c).valid = false ∧ (State.reset.ctx c).queue = [] ∧ (State.reset.ctx c).asid = 0 ∧ (State.reset.ctx c).ptbase = 0 ∧ (State.reset.ctx c).stvec = 0) ∧
  State.reset.teams = [] ∧ State.reset.launches = [] ∧ State.reset.copies = [] ∧ State.reset.tasks = [] ∧ State.reset.out = [] ∧ State.reset.held = [] ∧ State.reset.remote = [] ∧
  (∀ c, (State.reset.core c).clk = 0 ∧ (State.reset.core c).l1 = [] ∧ (State.reset.core c).tlb = [] ∧ (State.reset.core c).blocks = [] ∧ (State.reset.core c).sendq = []) ∧
  (∀ d, (State.reset.die d).fqbase = 0 ∧ (State.reset.die d).entries = [] ∧ (State.reset.die d).zctl = 0 ∧ (State.reset.die d).fenced = false ∧
    (State.reset.die d).ranges = [] ∧ (State.reset.die d).comps = [] ∧ (State.reset.die d).tlb = []) ∧
  (∀ l, (State.reset.lc l).t0.serving = none ∧ (State.reset.lc l).t1.active = false ∧ (State.reset.lc l).homeq = [] ∧ (State.reset.lc l).cache = []) ∧
  (∀ j, (State.reset.job j).st = .free) ∧ (∀ p, (State.reset.port p).st = 0 ∧ (State.reset.port p).disable = false) ∧
  (∀ off, off < 0x1000 → off ≠ 0x200 → off ≠ 0x204 → (State.reset.regWord off).2 = 0) ∧
  (∀ tag pa n r w, State.reset.grantedTo tag pa n r w = false) ∧ State.reset.hub.mode = .running ∧ State.reset.hub.evWait = []) ∧
  ((∀ (s : State) (i : Instr) (cold : Bool), (i = .warmStart .good ∧ cold = false) ∨ (i = .coldStart .good ∧ cold = true) ∨
      (i = .startRetry .good ∧ s.hub.mode = .starting ∧ cold = s.hub.cold) →
    ∃ t, exec i s = .next t ∧ t.ctxs = [] ∧ t.teams = [] ∧ t.launches = [] ∧ t.cores = [] ∧ t.dies = [] ∧ t.lcs = [] ∧ t.out = [] ∧ t.copies = [] ∧ t.tasks = [] ∧
      t.hub.jobs = [] ∧ t.hub.groups = [] ∧ t.hub.grants = [] ∧ t.hub.mode = .running ∧ t.hub.cold = cold ∧ t.hub.busy = false ∧
      (cold = true → ∀ a, byteAt t.mem a = 0) ∧
      (cold = false → ∀ a, byteAt t.mem a = if s.clean a then byteAt s.mem a else 0)) ∧
  (∀ (s : State) (n : Nat) (i : Instr), i = .coldStart (.failed n) ∨ (i = .startRetry (.failed n) ∧ s.hub.mode = .starting ∧ s.hub.cold = true) →
    ∃ t, exec i s = .next t ∧ t.hub.mode = .minimal ∧ t.hub.why = n ∧ t.ctxs = [] ∧ t.teams = []) ∧
  (∀ (s : State) (n : Nat) (i : Instr), i = .warmStart (.failed n) ∨ (i = .startRetry (.failed n) ∧ s.hub.mode = .starting ∧ s.hub.cold = false) →
    ∃ t, exec i s = .next t ∧ t.hub.mode = .starting ∧ t.mem = s.mem ∧ t.ctxs = [] ∧ t.teams = []) ∧
  ∀ (s : State) (o : StartOutcome), s.hub.mode ≠ .starting → ∃ t, exec (.startRetry o) s = .next t ∧ Idle s t)

/-! ### Completion -/

/-- R106, R123, R126, R130: floating-point results without an enabled flag, and `ldc` whose checks pass, complete for every
operand; results that raise flags only set them. R174, R198: tasks and checks at work end. R358, R360, R367: requests become
sections, and sections results. R305, R310, R313: a distributor places the first band that fits, resumes one that is swapped out, and
moves the first core that a stage review may move to another stage, whose teams leave it. R439, R443, R471: packets end, and each message of a gang switch takes its member a state further. -/
def Obligations.Completions : Prop :=
  (∀ o : Alu,
    let fmt := Ty.ieee o.ty
    let completes (i : Instr) (f : Fp → Fp → Fp → Exact) : Prop := ∀ s s' s'' e b, Enters i s s' e → e.ReadsB o o.ty.wide s' s'' b → enables e.st.sstat = 0 →
      let r (u : Nat) := eachElement o.ty (e.srcA (e.exm o.p) o o.ty.wide u) (b u) (if o.ty.wide then e.pair o.c.toNat u else (e.reg o.c.toNat u).setWidth 64)
        fun x y z => fmt.deliver o.rm o.sat (f (fmt.value x) (fmt.value y) (fmt.value z))
      ∃ t, exec i s = .next t ∧ Ran e s'' t (e.next i) (e.withResult (e.exm o.p) o.d o.ty.wide fun u => (r u).1)
        (e.st.sstat ||| (orFlags ((Mask.threads (e.exm o.p)).map fun u => (r u).2)).setWidth 32)
    completes (.fadd o) (fun a b _ => addExact o.rm a b) ∧ completes (.fsub o) (fun a b _ => addExact o.rm a b.negate) ∧
    completes (.fmul o) (fun a b _ => mulExact a b) ∧ completes (.ffma o) (fun a b c => fmaExact o.rm a b c) ∧
    completes (.frcp o) (fun a _ _ => divExact (.fin false 1 0) a) ∧ completes (.frsq o) (fun a _ _ => rsqrtExact a) ∧
    completes (.fsqrt o) (fun a _ _ => sqrtExact a) ∧ completes (.fdiv o) (fun a b _ => divExact a b) ∧
    completes (.fex2 o) (fun a _ _ => exp2Exact a) ∧ completes (.flg2 o) (fun a _ _ => log2Exact a) ∧
    completes (.fsin o) (fun a _ _ => sinExact a) ∧ completes (.fcos o) (fun a _ _ => cosExact a) ∧ completes (.ftanh o) (fun a _ _ => tanhExact a)) ∧
  (∀ (o : Alu) (w : BitVec 3) (off : BitVec 17) s s' e s₁ sp s₂ ps, o.b = .const w off → o.ty.wide = false → Enters (.ldc o) s s' e →
    let m := e.exm o.p
    let idx (u : Nat) := off.toNat + (e.src m o.a o.ua u).toNat
    s'.window e w.toNat ≠ 0 → (∀ u < 32, m.getLsbD u = true → idx u < 2 ^ 17) → e.space s' = (s₁, sp) →
    s₁.checkThreads sp .read true ((Mask.threads m).map fun u => { thread := u, va := (s'.window e w.toNat + BitVec.ofNat 64 (4 * idx u)).toNat, bytes := 4 }) = (s₂, .ok ps) →
    (∀ p ∈ ps, p.askew = false ∧ s₂.poisonedAt p = false) →
    ∃ t st, exec (.ldc o) s = .next t ∧ t.strand? e.who = some st ∧ (st.split e.k).pc = e.next (.ldc o) ∧ st.regs = e.st.regs ∧
      (o.d ≠ 0 → m ≠ 0 → (st.split e.k).score = e.sp.score ++ [{ reg := o.d.toNat, mask := m }] ∧
        ∃ r ∈ st.inbound, r.reg = o.d.toNat ∧ r.vals.map Prod.fst = Mask.threads m)) ∧
  (∀ (s : State) (core key n : Nat) (k : Task), s.nextTask core = some (key, k, n) →
    ∃ t k', exec (.taskIssue core) s = .next t ∧ look t.tasks key = some k' ∧ k'.running = true ∧ k'.engine = n) ∧
  (∀ (s : State) (key : Nat) (k : Task) (x : Team), look s.tasks key = some k → look s.teams k.team = some x → (∃ w ∈ x.warps, w.main.live ≠ 0) → k.running = true →
    k.sets = [] → k.spoiled = [] → s.copies = [] → ∃ t, exec (.taskComplete key .none) s = .next t ∧ look t.tasks key = none ∧ t.mem = s.mem) ∧
  (∀ (s : State) (key : Nat) (c : Check) (x : Team) (tl : Tile), look s.checks key = some c → look s.teams c.team = some x → look x.tiles c.tile = some tl →
    c.gone = false → s.inPlace c.ctx none = true →
    (∀ (u : State) v sp ps, c.written = false → c.fault = none → tl.raced = [] → s.bump.engineSpace c.ctx (s.teamDie c.team) = (v, sp) →
      v.reach sp .engineRead ((predictionPlanes c.desc (s.hist c.hist).vlast.toNat).flatMap fun p => planeWants c.desc tl.spec p) = (u, .ok ps) →
      ∃ t, exec (.forecastPrediction key .none) s = .next t ∧ look t.checks key = some { c with written := true }) ∧
    (c.written = true → c.ready.isSome = true → s.checksAhead key c < 4 → s.calm → s.tasks = [] → s.copies = [] → specLoc tl.spec = 0 →
      ∃ t y tl', exec (.tceCheck key) s = .next t ∧ look t.checks key = none ∧ look t.teams c.team = some y ∧ look y.tiles c.tile = some tl' ∧ tl'.st = .ready)) ∧
  (∀ (s : State) (txn : Nat) (r : RemoteOp), look s.remote txn = some r →
    (r.type = 2 → ∃ t, exec (.writeAcknowledgement txn) s = .next t ∧ look t.remote txn = none ∧ t.mem = s.mem) ∧
    ∀ i : Instr, i = .lossNotice txn ∨ (i = .requestTimeout txn ∧ s.mayRun r.ctx = true) → r.read = none → r.copy = none → r.ship = none → r.atomic = none →
      ∃ t, exec i s = .next t ∧ look t.remote txn = none) ∧
  (∀ (s : State) (r : ShipReq), r.srcDev = s.dev → r.dev = s.dev → (s.core r.core).sendq.head? = some r → s.servable r = true → (s.sectionCtx r).isSome = true →
    (s.die (lockHome r.pa / 16)).fenced = false → s.homeRoom (lockHome r.pa) r = true →
    ∃ t, exec (.shipRequest r) s = .next t ∧ (t.lc (lockHome r.pa)).homeq = (s.lc (lockHome r.pa)).homeq ++ [r]) ∧
  (∀ (s : State) (l : Nat) (r : ShipReq) (c : Nat), (s.lc l).t0.serving = none → (s.lc l).homeq.find? s.servable = some r → (s.lc l).doorq = [] →
    (s.die (l / 16)).fenced = false → s.sectionCtx r = some c →
    ∃ t, exec (.sectionStart l) s = .next t ∧ (t.lc l).t0.serving = some r ∧ ((t.lc l).t0.main.split 0).pc = r.entry) ∧
  (∀ (s : State) (r : ShipRes), r ∈ s.results → s.drained (.lat r.home) (.lat r.home 0) r.mark (decide (r.srcDev ≠ s.dev)) = true → r.srcDev = s.dev →
    ∃ t, exec (.shipResult r) s = .next t ∧ t.results = s.results.erase r) ∧
  (∀ (s : State) (d c : Nat), s.mayRun c = true → (s.die d).fenced = false → s.turnTaken d c = false →
    let v := s.spend 1
    (∀ l x b u, v.swappedBands c = [] → (v.freshBands d c).find? (fun n => (v.planBand n.1 n.2.1 d n.2.2).isSome) = some (l, x, b) →
      v.placeBand l x d b = some u → v.poolRoom c (v.bandTeams l x d b) = true →
      ∃ t, exec (.teamPlacement d c) s = .next t ∧ (∃ y, look t.launches l = some y ∧ b ∈ y.placed) ∧
        ∀ i < x.record.bandTeams b, ∃ k y n, look t.teams k = some y ∧ look s.teams k = none ∧ y.launch = l ∧ y.idx = b * x.record.band + i ∧
          y.core = some n ∧ n / 64 = d) ∧
    ∀ ks rest u, v.freshBands d c = [] → v.swappedBands c = ks :: rest → v.seatAll d ks = some u →
      exec (.teamPlacement d c) s = .next u ∧ ∀ k ∈ ks, ∃ y n, look u.teams k = some y ∧ y.core = some n ∧ n / 64 = d) ∧
  (∀ (s : State) (d l c g : Nat) (ts : List (Nat × Team)) (rest : List (Nat × Nat × Nat × List (Nat × Team))), (s.teams.map Prod.fst).Nodup →
    s.stageMoves d = (l, c, g, ts) :: rest →
    ∃ t, exec (.stageReview d) s = .next t ∧ c / 64 = d ∧ (∃ y, look t.launches l = some y ∧ look y.moved c = some g) ∧
      ∀ k x, look s.teams k = some x → x.launch = l → x.core = some c → ∃ y, look t.teams k = some y ∧ y.core = none) ∧
  ∀ (s : State) (tag serial d j : Nat) (x : Job) (ms : List Nat), s.jobOf tag = some (j, x) → s.job j = x → s.jobMembers x = some ms → x.serial = serial →
    (x.st = .run → ∃ t, exec (.stopMessage tag serial d) s = .next t ∧ (t.job j).st = .stopping ∧ t.mem = s.mem) ∧
    (x.st = .stopping → x.closed = false → s.quiet tag = true → (s.ctxs.all fun y => y.2.job ≠ tag) = true → s.bufferedOf tag = [] → s.allMarked x = false →
      ∃ t, exec (.gangClose tag) s = .next t ∧ (t.job j).closed = true) ∧
    (∀ p v, x.st = .stopping → x.closed = false → ∃ t, exec (.sweepMarker p v tag serial) s = .next t ∧ (t.job j).marks = x.marks ++ [(p, v)]) ∧
    (x.conducts = true → x.mailbox = false → x.st = .stopping → (∀ m ∈ ms, m ∈ x.heard ∨ m = d) →
      ∃ t, exec (.swept tag serial d) s = .next t ∧ (t.job j).cond = false ∧ (t.job j).conducts = false) ∧
    (x.st = .off → d ≠ s.dev → ∃ t, exec (.restoreMessage tag serial d) s = .next t ∧ (t.job j).st = .restoring) ∧
    (x.conducts = true → x.went = false → x.st = .restoring → (∀ m ∈ ms, m ∈ x.heard ∨ m = d) →
      ∃ t, exec (.restored tag serial d) s = .next t ∧ ∀ m ∈ ms, m ≠ s.dev → (m, Message.go tag serial) ∈ t.hub.outbox) ∧
    (x.st = .restoring → x.going = false → (∃ t, exec (.go tag serial) s = .next t ∧ (t.job j).going = true) ∧
      (x.went = false → ∃ t, exec (.stay tag serial) s = .next t ∧ (t.job j).st = .off)) ∧
    (x.st = .restoring → x.going = true → x.conductor ≠ s.dev → readOr [] s.hub.replays j = [] → ∃ t, exec (.reinjectEnd tag) s = .next t ∧ (t.job j).st = .run) ∧
    (x.conducts = true → x.went = true → x.mailbox = false → x.st = .run → (∀ m ∈ ms, m ∈ x.heard ∨ m = d) →
      ∃ t, exec (.running tag serial d) s = .next t ∧ (t.job j).cond = false ∧ (t.job j).conducts = false)

end Statements
end

