-- ==== Sys2Proof/Laws/Sparse.lean ====
section
/-! SUPPORT. Tables: what a read finds after a write, and the canonical form. -/

namespace Sys2Proof.Machine

theorem look_place_self {α : Type} (t : Sparse α) (n : Nat) (x : α) : look (place t n x) n = some x := by
  induction t with
  | nil => simp [place, look]
  | cons p t ih =>
    obtain ⟨k, v⟩ := p
    simp only [place]
    split
    · simp [look]
    · split
      · simp [look]
      · simp only [look]
        rw [if_neg ‹_›, ih]

theorem look_place_ne {α : Type} (t : Sparse α) {n m : Nat} (x : α) (h : m ≠ n) : look (place t n x) m = look t m := by
  induction t with
  | nil => simp [place, look, h]
  | cons p t ih =>
    obtain ⟨k, v⟩ := p
    simp only [place]
    split
    · simp [look, h]
    · split
      · subst_vars; simp [look, h]
      · simp only [look, ih]

theorem look_place {α : Type} (t : Sparse α) (n m : Nat) (x : α) :
    look (place t n x) m = if m = n then some x else look t m := by
  by_cases h : m = n
  · simp [h, look_place_self]
  · simp [h, look_place_ne]

theorem look_unlist_ne {α : Type} (t : Sparse α) {n m : Nat} (h : m ≠ n) : look (unlist t n) m = look t m := by
  induction t with
  | nil => rfl
  | cons p t ih =>
    obtain ⟨k, v⟩ := p
    simp only [unlist]
    split
    · subst_vars; simpa [look, h] using ih
    · simp only [look, ih]

/-! ### The canonical form -/

theorem risingFrom_weaken {α : Type} [DecidableEq α] {d : α} {t : Sparse α} {n m : Nat} (h : m ≤ n)
    (ht : risingFrom d n t = true) : risingFrom d m t = true := by
  cases t with
  | nil => rfl
  | cons p t =>
    obtain ⟨k, v⟩ := p
    simp only [risingFrom, Bool.and_eq_true, decide_eq_true_eq] at ht ⊢
    exact ⟨⟨by omega, ht.1.2⟩, ht.2⟩

theorem look_none_of_rising {α : Type} [DecidableEq α] {d : α} {t : Sparse α} {n m : Nat} (h : m < n)
    (ht : risingFrom d n t = true) : look t m = none := by
  induction t generalizing n with
  | nil => rfl
  | cons p t ih =>
    obtain ⟨k, v⟩ := p
    simp only [risingFrom, Bool.and_eq_true, decide_eq_true_eq] at ht
    simp only [look]
    rw [if_neg (by omega)]
    exact ih (n := k + 1) (by omega) ht.2

theorem risingFrom_place {α : Type} [DecidableEq α] {d : α} {t : Sparse α} {b n : Nat} {x : α} (hx : x ≠ d) (hb : b ≤ n)
    (ht : risingFrom d b t = true) : risingFrom d b (place t n x) = true := by
  induction t generalizing b with
  | nil => simp [place, risingFrom, hx, hb]
  | cons p t ih =>
    obtain ⟨k, v⟩ := p
    simp only [risingFrom, Bool.and_eq_true, decide_eq_true_eq] at ht
    simp only [place]
    split
    · simp only [risingFrom, Bool.and_eq_true, decide_eq_true_eq]
      refine ⟨⟨hb, by simpa using hx⟩, ⟨by omega, ht.1.2⟩, ht.2⟩
    · split
      · subst_vars
        simp only [risingFrom, Bool.and_eq_true, decide_eq_true_eq]
        exact ⟨⟨hb, by simpa using hx⟩, ht.2⟩
      · simp only [risingFrom, Bool.and_eq_true, decide_eq_true_eq]
        exact ⟨ht.1, ih (by omega) ht.2⟩

theorem risingFrom_unlist {α : Type} [DecidableEq α] {d : α} {t : Sparse α} {b n : Nat}
    (ht : risingFrom d b t = true) : risingFrom d b (unlist t n) = true := by
  induction t generalizing b with
  | nil => rfl
  | cons p t ih =>
    obtain ⟨k, v⟩ := p
    simp only [risingFrom, Bool.and_eq_true, decide_eq_true_eq] at ht
    simp only [unlist]
    split
    · exact risingFrom_weaken (by omega) (ih ht.2)
    · simp only [risingFrom, Bool.and_eq_true, decide_eq_true_eq]
      exact ⟨ht.1, ih ht.2⟩

theorem risingFrom_keep {α : Type} [DecidableEq α] {d : α} {t : Sparse α} {b : Nat} (p : Nat → α → Bool)
    (ht : risingFrom d b t = true) : risingFrom d b (keep t p) = true := by
  induction t generalizing b with
  | nil => rfl
  | cons q t ih =>
    obtain ⟨k, v⟩ := q
    simp only [risingFrom, Bool.and_eq_true, decide_eq_true_eq] at ht
    simp only [keep, List.filter_cons]
    split
    · simp only [risingFrom, Bool.and_eq_true, decide_eq_true_eq]
      exact ⟨ht.1, ih ht.2⟩
    · exact risingFrom_weaken (by omega) (ih ht.2)

/-- Every operation on a canonical table leaves it canonical. -/
theorem canonical_write {α : Type} [DecidableEq α] {d : α} {t : Sparse α} (n : Nat) (x : α) (ht : canonical d t = true) :
    canonical d (write d t n x) = true := by
  unfold write
  split
  · exact risingFrom_unlist ht
  · exact risingFrom_place ‹_› (Nat.zero_le _) ht

theorem canonical_keep {α : Type} [DecidableEq α] {d : α} {t : Sparse α} (p : Nat → α → Bool) (ht : canonical d t = true) :
    canonical d (keep t p) = true := risingFrom_keep p ht

theorem look_unlist_self {α : Type} (t : Sparse α) (n : Nat) : look (unlist t n) n = none := by
  induction t with
  | nil => rfl
  | cons p t ih =>
    obtain ⟨k, v⟩ := p
    simp only [unlist]
    split
    · exact ih
    · simp only [look]
      rw [if_neg ‹_›]
      exact ih

/-- A read after a write. -/
theorem readOr_write {α : Type} [DecidableEq α] {d : α} (t : Sparse α) (n m : Nat) (x : α) :
    readOr d (write d t n x) m = if m = n then x else readOr d t m := by
  unfold readOr write
  split
  · by_cases h : m = n
    · rw [h, look_unlist_self]; simp [*]
    · simp [h, look_unlist_ne t h]
  · rw [look_place]
    split <;> rfl

@[simp] theorem readOr_write_self {α : Type} [DecidableEq α] {d : α} (t : Sparse α) (n : Nat) (x : α) :
    readOr d (write d t n x) n = x := by simp [readOr_write]

/-- A read elsewhere is not touched by a write, whatever the table. -/
theorem readOr_write_ne {α : Type} [DecidableEq α] {d : α} {t : Sparse α} {n m : Nat} (x : α) (h : m ≠ n) :
    readOr d (write d t n x) m = readOr d t m := by
  unfold readOr write
  split
  · rw [look_unlist_ne t h]
  · rw [look_place_ne t x h]

theorem look_adjust_self {α : Type} (t : Sparse α) (n : Nat) (f : α → α) : look (adjust t n f) n = (look t n).map f := by
  unfold adjust
  cases h : look t n with
  | none => simpa using h
  | some x => simp [look_place_self]

theorem look_adjust_ne {α : Type} (t : Sparse α) {n m : Nat} (f : α → α) (h : m ≠ n) : look (adjust t n f) m = look t m := by
  unfold adjust
  cases look t n with
  | none => rfl
  | some x => exact look_place_ne t _ h

theorem look_mapVals {α : Type} (t : Sparse α) (f : Nat → α → α) (n : Nat) : look (mapVals t f) n = (look t n).map (f n) := by
  induction t with
  | nil => rfl
  | cons p t ih =>
    obtain ⟨k, v⟩ := p
    simp only [mapVals, List.map_cons, look] at ih ⊢
    split
    · subst_vars; rfl
    · exact ih

theorem place_place {α : Type} (t : Sparse α) (n : Nat) (x y : α) : place (place t n x) n y = place t n y := by
  induction t with
  | nil => simp [place]
  | cons p t ih =>
    obtain ⟨k, v⟩ := p
    simp only [place]
    split
    · simp [place]
    · split
      · simp [place]
      · simp only [place, ih]
        rw [if_neg ‹_›, if_neg ‹_›]

/-! ### Lists -/

theorem length_setNth {α : Type} (l : List α) (n : Nat) (x : α) : (setNth l n x).length = l.length := by
  induction l generalizing n with
  | nil => rfl
  | cons y t ih => cases n <;> simp [setNth, ih]

theorem getElem?_setNth_self {α : Type} (l : List α) (n : Nat) (x : α) (h : n < l.length) : (setNth l n x)[n]? = some x := by
  induction l generalizing n with
  | nil => simp at h
  | cons y t ih =>
    cases n with
    | zero => simp [setNth]
    | succ n => simpa [setNth] using ih n (by simpa using h)

theorem getElem?_setNth_ne {α : Type} (l : List α) {n m : Nat} (x : α) (h : m ≠ n) : (setNth l n x)[m]? = l[m]? := by
  induction l generalizing n m with
  | nil => rfl
  | cons y t ih =>
    cases n with
    | zero =>
      cases m with
      | zero => exact absurd rfl h
      | succ m => simp [setNth]
    | succ n =>
      cases m with
      | zero => simp [setNth]
      | succ m => simpa [setNth] using ih (by omega)

theorem setNth_setNth {α : Type} (l : List α) (n : Nat) (x y : α) : setNth (setNth l n x) n y = setNth l n y := by
  induction l generalizing n with
  | nil => rfl
  | cons z t ih => cases n <;> simp [setNth, ih]

end Sys2Proof.Machine
end

