-- ==== Sys2Proof/Laws/State.lean ====
section
/-! SUPPORT. What each update of the state leaves of each field: one lemma for each field of each update. -/

namespace Sys2Proof.Machine

variable (s : State)

/-! ### `State.setCore` -/

@[simp] theorem State.setCore_mem (c : Nat) (x : Core) : (s.setCore c x).mem = s.mem := rfl
@[simp] theorem State.setCore_poison (c : Nat) (x : Core) : (s.setCore c x).poison = s.poison := rfl
@[simp] theorem State.setCore_stored (c : Nat) (x : Core) : (s.setCore c x).stored = s.stored := rfl
@[simp] theorem State.setCore_out (c : Nat) (x : Core) : (s.setCore c x).out = s.out := rfl
@[simp] theorem State.setCore_held (c : Nat) (x : Core) : (s.setCore c x).held = s.held := rfl
@[simp] theorem State.setCore_reads (c : Nat) (x : Core) : (s.setCore c x).reads = s.reads := rfl
@[simp] theorem State.setCore_loads (c : Nat) (x : Core) : (s.setCore c x).loads = s.loads := rfl
@[simp] theorem State.setCore_remote (c : Nat) (x : Core) : (s.setCore c x).remote = s.remote := rfl
@[simp] theorem State.setCore_txn (c : Nat) (x : Core) : (s.setCore c x).txn = s.txn := rfl
@[simp] theorem State.setCore_homeLog (c : Nat) (x : Core) : (s.setCore c x).homeLog = s.homeLog := rfl
@[simp] theorem State.setCore_fetched (c : Nat) (x : Core) : (s.setCore c x).fetched = s.fetched := rfl
@[simp] theorem State.setCore_ctxs (c : Nat) (x : Core) : (s.setCore c x).ctxs = s.ctxs := rfl
@[simp] theorem State.setCore_launches (c : Nat) (x : Core) : (s.setCore c x).launches = s.launches := rfl
@[simp] theorem State.setCore_teams (c : Nat) (x : Core) : (s.setCore c x).teams = s.teams := rfl
@[simp] theorem State.setCore_dies (c : Nat) (x : Core) : (s.setCore c x).dies = s.dies := rfl
@[simp] theorem State.setCore_lcs (c : Nat) (x : Core) : (s.setCore c x).lcs = s.lcs := rfl
@[simp] theorem State.setCore_copies (c : Nat) (x : Core) : (s.setCore c x).copies = s.copies := rfl
@[simp] theorem State.setCore_tasks (c : Nat) (x : Core) : (s.setCore c x).tasks = s.tasks := rfl
@[simp] theorem State.setCore_checks (c : Nat) (x : Core) : (s.setCore c x).checks = s.checks := rfl
@[simp] theorem State.setCore_hists (c : Nat) (x : Core) : (s.setCore c x).hists = s.hists := rfl
@[simp] theorem State.setCore_colls (c : Nat) (x : Core) : (s.setCore c x).colls = s.colls := rfl
@[simp] theorem State.setCore_collSeq (c : Nat) (x : Core) : (s.setCore c x).collSeq = s.collSeq := rfl
@[simp] theorem State.setCore_results (c : Nat) (x : Core) : (s.setCore c x).results = s.results := rfl
@[simp] theorem State.setCore_hub (c : Nat) (x : Core) : (s.setCore c x).hub = s.hub := rfl
@[simp] theorem State.setCore_inputs (c : Nat) (x : Core) : (s.setCore c x).inputs = s.inputs := rfl
@[simp] theorem State.setCore_hostReads (c : Nat) (x : Core) : (s.setCore c x).hostReads = s.hostReads := rfl
@[simp] theorem State.setCore_farStops (c : Nat) (x : Core) : (s.setCore c x).farStops = s.farStops := rfl
@[simp] theorem State.setCore_services (c : Nat) (x : Core) : (s.setCore c x).services = s.services := rfl
@[simp] theorem State.setCore_turn (c : Nat) (x : Core) : (s.setCore c x).turn = s.turn := rfl
@[simp] theorem State.setCore_focus (c : Nat) (x : Core) : (s.setCore c x).focus = s.focus := rfl
@[simp] theorem State.setCore_oracle (c : Nat) (x : Core) : (s.setCore c x).oracle = s.oracle := rfl
@[simp] theorem State.setCore_nextKey (c : Nat) (x : Core) : (s.setCore c x).nextKey = s.nextKey := rfl

/-! ### `State.setDie` -/

@[simp] theorem State.setDie_mem (d : Nat) (x : Die) : (s.setDie d x).mem = s.mem := rfl
@[simp] theorem State.setDie_poison (d : Nat) (x : Die) : (s.setDie d x).poison = s.poison := rfl
@[simp] theorem State.setDie_stored (d : Nat) (x : Die) : (s.setDie d x).stored = s.stored := rfl
@[simp] theorem State.setDie_out (d : Nat) (x : Die) : (s.setDie d x).out = s.out := rfl
@[simp] theorem State.setDie_held (d : Nat) (x : Die) : (s.setDie d x).held = s.held := rfl
@[simp] theorem State.setDie_reads (d : Nat) (x : Die) : (s.setDie d x).reads = s.reads := rfl
@[simp] theorem State.setDie_loads (d : Nat) (x : Die) : (s.setDie d x).loads = s.loads := rfl
@[simp] theorem State.setDie_remote (d : Nat) (x : Die) : (s.setDie d x).remote = s.remote := rfl
@[simp] theorem State.setDie_txn (d : Nat) (x : Die) : (s.setDie d x).txn = s.txn := rfl
@[simp] theorem State.setDie_homeLog (d : Nat) (x : Die) : (s.setDie d x).homeLog = s.homeLog := rfl
@[simp] theorem State.setDie_fetched (d : Nat) (x : Die) : (s.setDie d x).fetched = s.fetched := rfl
@[simp] theorem State.setDie_ctxs (d : Nat) (x : Die) : (s.setDie d x).ctxs = s.ctxs := rfl
@[simp] theorem State.setDie_launches (d : Nat) (x : Die) : (s.setDie d x).launches = s.launches := rfl
@[simp] theorem State.setDie_teams (d : Nat) (x : Die) : (s.setDie d x).teams = s.teams := rfl
@[simp] theorem State.setDie_cores (d : Nat) (x : Die) : (s.setDie d x).cores = s.cores := rfl
@[simp] theorem State.setDie_lcs (d : Nat) (x : Die) : (s.setDie d x).lcs = s.lcs := rfl
@[simp] theorem State.setDie_copies (d : Nat) (x : Die) : (s.setDie d x).copies = s.copies := rfl
@[simp] theorem State.setDie_tasks (d : Nat) (x : Die) : (s.setDie d x).tasks = s.tasks := rfl
@[simp] theorem State.setDie_checks (d : Nat) (x : Die) : (s.setDie d x).checks = s.checks := rfl
@[simp] theorem State.setDie_hists (d : Nat) (x : Die) : (s.setDie d x).hists = s.hists := rfl
@[simp] theorem State.setDie_colls (d : Nat) (x : Die) : (s.setDie d x).colls = s.colls := rfl
@[simp] theorem State.setDie_collSeq (d : Nat) (x : Die) : (s.setDie d x).collSeq = s.collSeq := rfl
@[simp] theorem State.setDie_results (d : Nat) (x : Die) : (s.setDie d x).results = s.results := rfl
@[simp] theorem State.setDie_hub (d : Nat) (x : Die) : (s.setDie d x).hub = s.hub := rfl
@[simp] theorem State.setDie_inputs (d : Nat) (x : Die) : (s.setDie d x).inputs = s.inputs := rfl
@[simp] theorem State.setDie_hostReads (d : Nat) (x : Die) : (s.setDie d x).hostReads = s.hostReads := rfl
@[simp] theorem State.setDie_farStops (d : Nat) (x : Die) : (s.setDie d x).farStops = s.farStops := rfl
@[simp] theorem State.setDie_services (d : Nat) (x : Die) : (s.setDie d x).services = s.services := rfl
@[simp] theorem State.setDie_turn (d : Nat) (x : Die) : (s.setDie d x).turn = s.turn := rfl
@[simp] theorem State.setDie_focus (d : Nat) (x : Die) : (s.setDie d x).focus = s.focus := rfl
@[simp] theorem State.setDie_oracle (d : Nat) (x : Die) : (s.setDie d x).oracle = s.oracle := rfl
@[simp] theorem State.setDie_nextKey (d : Nat) (x : Die) : (s.setDie d x).nextKey = s.nextKey := rfl

/-! ### `State.setLc` -/

@[simp] theorem State.setLc_mem (l : Nat) (x : Lc) : (s.setLc l x).mem = s.mem := rfl
@[simp] theorem State.setLc_poison (l : Nat) (x : Lc) : (s.setLc l x).poison = s.poison := rfl
@[simp] theorem State.setLc_stored (l : Nat) (x : Lc) : (s.setLc l x).stored = s.stored := rfl
@[simp] theorem State.setLc_out (l : Nat) (x : Lc) : (s.setLc l x).out = s.out := rfl
@[simp] theorem State.setLc_held (l : Nat) (x : Lc) : (s.setLc l x).held = s.held := rfl
@[simp] theorem State.setLc_reads (l : Nat) (x : Lc) : (s.setLc l x).reads = s.reads := rfl
@[simp] theorem State.setLc_loads (l : Nat) (x : Lc) : (s.setLc l x).loads = s.loads := rfl
@[simp] theorem State.setLc_remote (l : Nat) (x : Lc) : (s.setLc l x).remote = s.remote := rfl
@[simp] theorem State.setLc_txn (l : Nat) (x : Lc) : (s.setLc l x).txn = s.txn := rfl
@[simp] theorem State.setLc_homeLog (l : Nat) (x : Lc) : (s.setLc l x).homeLog = s.homeLog := rfl
@[simp] theorem State.setLc_fetched (l : Nat) (x : Lc) : (s.setLc l x).fetched = s.fetched := rfl
@[simp] theorem State.setLc_ctxs (l : Nat) (x : Lc) : (s.setLc l x).ctxs = s.ctxs := rfl
@[simp] theorem State.setLc_launches (l : Nat) (x : Lc) : (s.setLc l x).launches = s.launches := rfl
@[simp] theorem State.setLc_teams (l : Nat) (x : Lc) : (s.setLc l x).teams = s.teams := rfl
@[simp] theorem State.setLc_cores (l : Nat) (x : Lc) : (s.setLc l x).cores = s.cores := rfl
@[simp] theorem State.setLc_dies (l : Nat) (x : Lc) : (s.setLc l x).dies = s.dies := rfl
@[simp] theorem State.setLc_copies (l : Nat) (x : Lc) : (s.setLc l x).copies = s.copies := rfl
@[simp] theorem State.setLc_tasks (l : Nat) (x : Lc) : (s.setLc l x).tasks = s.tasks := rfl
@[simp] theorem State.setLc_checks (l : Nat) (x : Lc) : (s.setLc l x).checks = s.checks := rfl
@[simp] theorem State.setLc_hists (l : Nat) (x : Lc) : (s.setLc l x).hists = s.hists := rfl
@[simp] theorem State.setLc_colls (l : Nat) (x : Lc) : (s.setLc l x).colls = s.colls := rfl
@[simp] theorem State.setLc_collSeq (l : Nat) (x : Lc) : (s.setLc l x).collSeq = s.collSeq := rfl
@[simp] theorem State.setLc_results (l : Nat) (x : Lc) : (s.setLc l x).results = s.results := rfl
@[simp] theorem State.setLc_hub (l : Nat) (x : Lc) : (s.setLc l x).hub = s.hub := rfl
@[simp] theorem State.setLc_inputs (l : Nat) (x : Lc) : (s.setLc l x).inputs = s.inputs := rfl
@[simp] theorem State.setLc_hostReads (l : Nat) (x : Lc) : (s.setLc l x).hostReads = s.hostReads := rfl
@[simp] theorem State.setLc_farStops (l : Nat) (x : Lc) : (s.setLc l x).farStops = s.farStops := rfl
@[simp] theorem State.setLc_services (l : Nat) (x : Lc) : (s.setLc l x).services = s.services := rfl
@[simp] theorem State.setLc_turn (l : Nat) (x : Lc) : (s.setLc l x).turn = s.turn := rfl
@[simp] theorem State.setLc_focus (l : Nat) (x : Lc) : (s.setLc l x).focus = s.focus := rfl
@[simp] theorem State.setLc_oracle (l : Nat) (x : Lc) : (s.setLc l x).oracle = s.oracle := rfl
@[simp] theorem State.setLc_nextKey (l : Nat) (x : Lc) : (s.setLc l x).nextKey = s.nextKey := rfl

/-! ### `State.setCtx` -/

@[simp] theorem State.setCtx_mem (c : Nat) (x : Ctx) : (s.setCtx c x).mem = s.mem := rfl
@[simp] theorem State.setCtx_poison (c : Nat) (x : Ctx) : (s.setCtx c x).poison = s.poison := rfl
@[simp] theorem State.setCtx_stored (c : Nat) (x : Ctx) : (s.setCtx c x).stored = s.stored := rfl
@[simp] theorem State.setCtx_out (c : Nat) (x : Ctx) : (s.setCtx c x).out = s.out := rfl
@[simp] theorem State.setCtx_held (c : Nat) (x : Ctx) : (s.setCtx c x).held = s.held := rfl
@[simp] theorem State.setCtx_reads (c : Nat) (x : Ctx) : (s.setCtx c x).reads = s.reads := rfl
@[simp] theorem State.setCtx_loads (c : Nat) (x : Ctx) : (s.setCtx c x).loads = s.loads := rfl
@[simp] theorem State.setCtx_remote (c : Nat) (x : Ctx) : (s.setCtx c x).remote = s.remote := rfl
@[simp] theorem State.setCtx_txn (c : Nat) (x : Ctx) : (s.setCtx c x).txn = s.txn := rfl
@[simp] theorem State.setCtx_homeLog (c : Nat) (x : Ctx) : (s.setCtx c x).homeLog = s.homeLog := rfl
@[simp] theorem State.setCtx_fetched (c : Nat) (x : Ctx) : (s.setCtx c x).fetched = s.fetched := rfl
@[simp] theorem State.setCtx_launches (c : Nat) (x : Ctx) : (s.setCtx c x).launches = s.launches := rfl
@[simp] theorem State.setCtx_teams (c : Nat) (x : Ctx) : (s.setCtx c x).teams = s.teams := rfl
@[simp] theorem State.setCtx_cores (c : Nat) (x : Ctx) : (s.setCtx c x).cores = s.cores := rfl
@[simp] theorem State.setCtx_dies (c : Nat) (x : Ctx) : (s.setCtx c x).dies = s.dies := rfl
@[simp] theorem State.setCtx_lcs (c : Nat) (x : Ctx) : (s.setCtx c x).lcs = s.lcs := rfl
@[simp] theorem State.setCtx_copies (c : Nat) (x : Ctx) : (s.setCtx c x).copies = s.copies := rfl
@[simp] theorem State.setCtx_tasks (c : Nat) (x : Ctx) : (s.setCtx c x).tasks = s.tasks := rfl
@[simp] theorem State.setCtx_checks (c : Nat) (x : Ctx) : (s.setCtx c x).checks = s.checks := rfl
@[simp] theorem State.setCtx_hists (c : Nat) (x : Ctx) : (s.setCtx c x).hists = s.hists := rfl
@[simp] theorem State.setCtx_colls (c : Nat) (x : Ctx) : (s.setCtx c x).colls = s.colls := rfl
@[simp] theorem State.setCtx_collSeq (c : Nat) (x : Ctx) : (s.setCtx c x).collSeq = s.collSeq := rfl
@[simp] theorem State.setCtx_results (c : Nat) (x : Ctx) : (s.setCtx c x).results = s.results := rfl
@[simp] theorem State.setCtx_hub (c : Nat) (x : Ctx) : (s.setCtx c x).hub = s.hub := rfl
@[simp] theorem State.setCtx_inputs (c : Nat) (x : Ctx) : (s.setCtx c x).inputs = s.inputs := rfl
@[simp] theorem State.setCtx_hostReads (c : Nat) (x : Ctx) : (s.setCtx c x).hostReads = s.hostReads := rfl
@[simp] theorem State.setCtx_farStops (c : Nat) (x : Ctx) : (s.setCtx c x).farStops = s.farStops := rfl
@[simp] theorem State.setCtx_services (c : Nat) (x : Ctx) : (s.setCtx c x).services = s.services := rfl
@[simp] theorem State.setCtx_turn (c : Nat) (x : Ctx) : (s.setCtx c x).turn = s.turn := rfl
@[simp] theorem State.setCtx_focus (c : Nat) (x : Ctx) : (s.setCtx c x).focus = s.focus := rfl
@[simp] theorem State.setCtx_oracle (c : Nat) (x : Ctx) : (s.setCtx c x).oracle = s.oracle := rfl
@[simp] theorem State.setCtx_nextKey (c : Nat) (x : Ctx) : (s.setCtx c x).nextKey = s.nextKey := rfl

/-! ### `State.mapTeam` -/

@[simp] theorem State.mapTeam_mem (t : Nat) (f : Team → Team) : (s.mapTeam t f).mem = s.mem := rfl
@[simp] theorem State.mapTeam_poison (t : Nat) (f : Team → Team) : (s.mapTeam t f).poison = s.poison := rfl
@[simp] theorem State.mapTeam_stored (t : Nat) (f : Team → Team) : (s.mapTeam t f).stored = s.stored := rfl
@[simp] theorem State.mapTeam_out (t : Nat) (f : Team → Team) : (s.mapTeam t f).out = s.out := rfl
@[simp] theorem State.mapTeam_held (t : Nat) (f : Team → Team) : (s.mapTeam t f).held = s.held := rfl
@[simp] theorem State.mapTeam_reads (t : Nat) (f : Team → Team) : (s.mapTeam t f).reads = s.reads := rfl
@[simp] theorem State.mapTeam_loads (t : Nat) (f : Team → Team) : (s.mapTeam t f).loads = s.loads := rfl
@[simp] theorem State.mapTeam_remote (t : Nat) (f : Team → Team) : (s.mapTeam t f).remote = s.remote := rfl
@[simp] theorem State.mapTeam_txn (t : Nat) (f : Team → Team) : (s.mapTeam t f).txn = s.txn := rfl
@[simp] theorem State.mapTeam_homeLog (t : Nat) (f : Team → Team) : (s.mapTeam t f).homeLog = s.homeLog := rfl
@[simp] theorem State.mapTeam_fetched (t : Nat) (f : Team → Team) : (s.mapTeam t f).fetched = s.fetched := rfl
@[simp] theorem State.mapTeam_ctxs (t : Nat) (f : Team → Team) : (s.mapTeam t f).ctxs = s.ctxs := rfl
@[simp] theorem State.mapTeam_launches (t : Nat) (f : Team → Team) : (s.mapTeam t f).launches = s.launches := rfl
@[simp] theorem State.mapTeam_cores (t : Nat) (f : Team → Team) : (s.mapTeam t f).cores = s.cores := rfl
@[simp] theorem State.mapTeam_dies (t : Nat) (f : Team → Team) : (s.mapTeam t f).dies = s.dies := rfl
@[simp] theorem State.mapTeam_lcs (t : Nat) (f : Team → Team) : (s.mapTeam t f).lcs = s.lcs := rfl
@[simp] theorem State.mapTeam_copies (t : Nat) (f : Team → Team) : (s.mapTeam t f).copies = s.copies := rfl
@[simp] theorem State.mapTeam_tasks (t : Nat) (f : Team → Team) : (s.mapTeam t f).tasks = s.tasks := rfl
@[simp] theorem State.mapTeam_checks (t : Nat) (f : Team → Team) : (s.mapTeam t f).checks = s.checks := rfl
@[simp] theorem State.mapTeam_hists (t : Nat) (f : Team → Team) : (s.mapTeam t f).hists = s.hists := rfl
@[simp] theorem State.mapTeam_colls (t : Nat) (f : Team → Team) : (s.mapTeam t f).colls = s.colls := rfl
@[simp] theorem State.mapTeam_collSeq (t : Nat) (f : Team → Team) : (s.mapTeam t f).collSeq = s.collSeq := rfl
@[simp] theorem State.mapTeam_results (t : Nat) (f : Team → Team) : (s.mapTeam t f).results = s.results := rfl
@[simp] theorem State.mapTeam_hub (t : Nat) (f : Team → Team) : (s.mapTeam t f).hub = s.hub := rfl
@[simp] theorem State.mapTeam_inputs (t : Nat) (f : Team → Team) : (s.mapTeam t f).inputs = s.inputs := rfl
@[simp] theorem State.mapTeam_hostReads (t : Nat) (f : Team → Team) : (s.mapTeam t f).hostReads = s.hostReads := rfl
@[simp] theorem State.mapTeam_farStops (t : Nat) (f : Team → Team) : (s.mapTeam t f).farStops = s.farStops := rfl
@[simp] theorem State.mapTeam_services (t : Nat) (f : Team → Team) : (s.mapTeam t f).services = s.services := rfl
@[simp] theorem State.mapTeam_turn (t : Nat) (f : Team → Team) : (s.mapTeam t f).turn = s.turn := rfl
@[simp] theorem State.mapTeam_focus (t : Nat) (f : Team → Team) : (s.mapTeam t f).focus = s.focus := rfl
@[simp] theorem State.mapTeam_oracle (t : Nat) (f : Team → Team) : (s.mapTeam t f).oracle = s.oracle := rfl
@[simp] theorem State.mapTeam_nextKey (t : Nat) (f : Team → Team) : (s.mapTeam t f).nextKey = s.nextKey := rfl

/-! ### `State.mapWarp` -/

@[simp] theorem State.mapWarp_mem (t w : Nat) (f : Warp → Warp) : (s.mapWarp t w f).mem = s.mem := rfl
@[simp] theorem State.mapWarp_poison (t w : Nat) (f : Warp → Warp) : (s.mapWarp t w f).poison = s.poison := rfl
@[simp] theorem State.mapWarp_stored (t w : Nat) (f : Warp → Warp) : (s.mapWarp t w f).stored = s.stored := rfl
@[simp] theorem State.mapWarp_out (t w : Nat) (f : Warp → Warp) : (s.mapWarp t w f).out = s.out := rfl
@[simp] theorem State.mapWarp_held (t w : Nat) (f : Warp → Warp) : (s.mapWarp t w f).held = s.held := rfl
@[simp] theorem State.mapWarp_reads (t w : Nat) (f : Warp → Warp) : (s.mapWarp t w f).reads = s.reads := rfl
@[simp] theorem State.mapWarp_loads (t w : Nat) (f : Warp → Warp) : (s.mapWarp t w f).loads = s.loads := rfl
@[simp] theorem State.mapWarp_remote (t w : Nat) (f : Warp → Warp) : (s.mapWarp t w f).remote = s.remote := rfl
@[simp] theorem State.mapWarp_txn (t w : Nat) (f : Warp → Warp) : (s.mapWarp t w f).txn = s.txn := rfl
@[simp] theorem State.mapWarp_homeLog (t w : Nat) (f : Warp → Warp) : (s.mapWarp t w f).homeLog = s.homeLog := rfl
@[simp] theorem State.mapWarp_fetched (t w : Nat) (f : Warp → Warp) : (s.mapWarp t w f).fetched = s.fetched := rfl
@[simp] theorem State.mapWarp_ctxs (t w : Nat) (f : Warp → Warp) : (s.mapWarp t w f).ctxs = s.ctxs := rfl
@[simp] theorem State.mapWarp_launches (t w : Nat) (f : Warp → Warp) : (s.mapWarp t w f).launches = s.launches := rfl
@[simp] theorem State.mapWarp_cores (t w : Nat) (f : Warp → Warp) : (s.mapWarp t w f).cores = s.cores := rfl
@[simp] theorem State.mapWarp_dies (t w : Nat) (f : Warp → Warp) : (s.mapWarp t w f).dies = s.dies := rfl
@[simp] theorem State.mapWarp_lcs (t w : Nat) (f : Warp → Warp) : (s.mapWarp t w f).lcs = s.lcs := rfl
@[simp] theorem State.mapWarp_copies (t w : Nat) (f : Warp → Warp) : (s.mapWarp t w f).copies = s.copies := rfl
@[simp] theorem State.mapWarp_tasks (t w : Nat) (f : Warp → Warp) : (s.mapWarp t w f).tasks = s.tasks := rfl
@[simp] theorem State.mapWarp_checks (t w : Nat) (f : Warp → Warp) : (s.mapWarp t w f).checks = s.checks := rfl
@[simp] theorem State.mapWarp_hists (t w : Nat) (f : Warp → Warp) : (s.mapWarp t w f).hists = s.hists := rfl
@[simp] theorem State.mapWarp_colls (t w : Nat) (f : Warp → Warp) : (s.mapWarp t w f).colls = s.colls := rfl
@[simp] theorem State.mapWarp_collSeq (t w : Nat) (f : Warp → Warp) : (s.mapWarp t w f).collSeq = s.collSeq := rfl
@[simp] theorem State.mapWarp_results (t w : Nat) (f : Warp → Warp) : (s.mapWarp t w f).results = s.results := rfl
@[simp] theorem State.mapWarp_hub (t w : Nat) (f : Warp → Warp) : (s.mapWarp t w f).hub = s.hub := rfl
@[simp] theorem State.mapWarp_inputs (t w : Nat) (f : Warp → Warp) : (s.mapWarp t w f).inputs = s.inputs := rfl
@[simp] theorem State.mapWarp_hostReads (t w : Nat) (f : Warp → Warp) : (s.mapWarp t w f).hostReads = s.hostReads := rfl
@[simp] theorem State.mapWarp_farStops (t w : Nat) (f : Warp → Warp) : (s.mapWarp t w f).farStops = s.farStops := rfl
@[simp] theorem State.mapWarp_services (t w : Nat) (f : Warp → Warp) : (s.mapWarp t w f).services = s.services := rfl
@[simp] theorem State.mapWarp_turn (t w : Nat) (f : Warp → Warp) : (s.mapWarp t w f).turn = s.turn := rfl
@[simp] theorem State.mapWarp_focus (t w : Nat) (f : Warp → Warp) : (s.mapWarp t w f).focus = s.focus := rfl
@[simp] theorem State.mapWarp_oracle (t w : Nat) (f : Warp → Warp) : (s.mapWarp t w f).oracle = s.oracle := rfl
@[simp] theorem State.mapWarp_nextKey (t w : Nat) (f : Warp → Warp) : (s.mapWarp t w f).nextKey = s.nextKey := rfl

/-! ### `State.bump` -/

@[simp] theorem State.bump_mem : (s.bump).mem = s.mem := rfl
@[simp] theorem State.bump_poison : (s.bump).poison = s.poison := rfl
@[simp] theorem State.bump_stored : (s.bump).stored = s.stored := rfl
@[simp] theorem State.bump_out : (s.bump).out = s.out := rfl
@[simp] theorem State.bump_held : (s.bump).held = s.held := rfl
@[simp] theorem State.bump_reads : (s.bump).reads = s.reads := rfl
@[simp] theorem State.bump_loads : (s.bump).loads = s.loads := rfl
@[simp] theorem State.bump_remote : (s.bump).remote = s.remote := rfl
@[simp] theorem State.bump_txn : (s.bump).txn = s.txn := rfl
@[simp] theorem State.bump_homeLog : (s.bump).homeLog = s.homeLog := rfl
@[simp] theorem State.bump_fetched : (s.bump).fetched = s.fetched := rfl
@[simp] theorem State.bump_ctxs : (s.bump).ctxs = s.ctxs := rfl
@[simp] theorem State.bump_launches : (s.bump).launches = s.launches := rfl
@[simp] theorem State.bump_teams : (s.bump).teams = s.teams := rfl
@[simp] theorem State.bump_cores : (s.bump).cores = s.cores := rfl
@[simp] theorem State.bump_dies : (s.bump).dies = s.dies := rfl
@[simp] theorem State.bump_lcs : (s.bump).lcs = s.lcs := rfl
@[simp] theorem State.bump_copies : (s.bump).copies = s.copies := rfl
@[simp] theorem State.bump_tasks : (s.bump).tasks = s.tasks := rfl
@[simp] theorem State.bump_checks : (s.bump).checks = s.checks := rfl
@[simp] theorem State.bump_hists : (s.bump).hists = s.hists := rfl
@[simp] theorem State.bump_colls : (s.bump).colls = s.colls := rfl
@[simp] theorem State.bump_collSeq : (s.bump).collSeq = s.collSeq := rfl
@[simp] theorem State.bump_results : (s.bump).results = s.results := rfl
@[simp] theorem State.bump_hub : (s.bump).hub = s.hub := rfl
@[simp] theorem State.bump_inputs : (s.bump).inputs = s.inputs := rfl
@[simp] theorem State.bump_hostReads : (s.bump).hostReads = s.hostReads := rfl
@[simp] theorem State.bump_farStops : (s.bump).farStops = s.farStops := rfl
@[simp] theorem State.bump_services : (s.bump).services = s.services := rfl
@[simp] theorem State.bump_turn : (s.bump).turn = s.turn := rfl
@[simp] theorem State.bump_focus : (s.bump).focus = s.focus := rfl
@[simp] theorem State.bump_oracle : (s.bump).oracle = s.oracle := rfl
@[simp] theorem State.bump_nextKey : s.bump.nextKey = s.nextKey + 1 := rfl

/-! ### `State.spend` -/

@[simp] theorem State.spend_mem (n : Nat) : (s.spend n).mem = s.mem := rfl
@[simp] theorem State.spend_poison (n : Nat) : (s.spend n).poison = s.poison := rfl
@[simp] theorem State.spend_stored (n : Nat) : (s.spend n).stored = s.stored := rfl
@[simp] theorem State.spend_out (n : Nat) : (s.spend n).out = s.out := rfl
@[simp] theorem State.spend_held (n : Nat) : (s.spend n).held = s.held := rfl
@[simp] theorem State.spend_reads (n : Nat) : (s.spend n).reads = s.reads := rfl
@[simp] theorem State.spend_loads (n : Nat) : (s.spend n).loads = s.loads := rfl
@[simp] theorem State.spend_remote (n : Nat) : (s.spend n).remote = s.remote := rfl
@[simp] theorem State.spend_txn (n : Nat) : (s.spend n).txn = s.txn := rfl
@[simp] theorem State.spend_homeLog (n : Nat) : (s.spend n).homeLog = s.homeLog := rfl
@[simp] theorem State.spend_fetched (n : Nat) : (s.spend n).fetched = s.fetched := rfl
@[simp] theorem State.spend_ctxs (n : Nat) : (s.spend n).ctxs = s.ctxs := rfl
@[simp] theorem State.spend_launches (n : Nat) : (s.spend n).launches = s.launches := rfl
@[simp] theorem State.spend_teams (n : Nat) : (s.spend n).teams = s.teams := rfl
@[simp] theorem State.spend_cores (n : Nat) : (s.spend n).cores = s.cores := rfl
@[simp] theorem State.spend_dies (n : Nat) : (s.spend n).dies = s.dies := rfl
@[simp] theorem State.spend_lcs (n : Nat) : (s.spend n).lcs = s.lcs := rfl
@[simp] theorem State.spend_copies (n : Nat) : (s.spend n).copies = s.copies := rfl
@[simp] theorem State.spend_tasks (n : Nat) : (s.spend n).tasks = s.tasks := rfl
@[simp] theorem State.spend_checks (n : Nat) : (s.spend n).checks = s.checks := rfl
@[simp] theorem State.spend_hists (n : Nat) : (s.spend n).hists = s.hists := rfl
@[simp] theorem State.spend_colls (n : Nat) : (s.spend n).colls = s.colls := rfl
@[simp] theorem State.spend_collSeq (n : Nat) : (s.spend n).collSeq = s.collSeq := rfl
@[simp] theorem State.spend_results (n : Nat) : (s.spend n).results = s.results := rfl
@[simp] theorem State.spend_hub (n : Nat) : (s.spend n).hub = s.hub := rfl
@[simp] theorem State.spend_inputs (n : Nat) : (s.spend n).inputs = s.inputs := rfl
@[simp] theorem State.spend_hostReads (n : Nat) : (s.spend n).hostReads = s.hostReads := rfl
@[simp] theorem State.spend_farStops (n : Nat) : (s.spend n).farStops = s.farStops := rfl
@[simp] theorem State.spend_services (n : Nat) : (s.spend n).services = s.services := rfl
@[simp] theorem State.spend_turn (n : Nat) : (s.spend n).turn = s.turn := rfl
@[simp] theorem State.spend_focus (n : Nat) : (s.spend n).focus = s.focus := rfl
@[simp] theorem State.spend_nextKey (n : Nat) : (s.spend n).nextKey = s.nextKey := rfl
@[simp] theorem State.spend_oracle (n : Nat) : (s.spend n).oracle = s.oracle + n := rfl

/-! ### `State.setPort` -/

@[simp] theorem State.setPort_mem (p : Nat) (x : Port) : (s.setPort p x).mem = s.mem := rfl
@[simp] theorem State.setPort_poison (p : Nat) (x : Port) : (s.setPort p x).poison = s.poison := rfl
@[simp] theorem State.setPort_stored (p : Nat) (x : Port) : (s.setPort p x).stored = s.stored := rfl
@[simp] theorem State.setPort_out (p : Nat) (x : Port) : (s.setPort p x).out = s.out := rfl
@[simp] theorem State.setPort_held (p : Nat) (x : Port) : (s.setPort p x).held = s.held := rfl
@[simp] theorem State.setPort_reads (p : Nat) (x : Port) : (s.setPort p x).reads = s.reads := rfl
@[simp] theorem State.setPort_loads (p : Nat) (x : Port) : (s.setPort p x).loads = s.loads := rfl
@[simp] theorem State.setPort_remote (p : Nat) (x : Port) : (s.setPort p x).remote = s.remote := rfl
@[simp] theorem State.setPort_txn (p : Nat) (x : Port) : (s.setPort p x).txn = s.txn := rfl
@[simp] theorem State.setPort_homeLog (p : Nat) (x : Port) : (s.setPort p x).homeLog = s.homeLog := rfl
@[simp] theorem State.setPort_fetched (p : Nat) (x : Port) : (s.setPort p x).fetched = s.fetched := rfl
@[simp] theorem State.setPort_ctxs (p : Nat) (x : Port) : (s.setPort p x).ctxs = s.ctxs := rfl
@[simp] theorem State.setPort_launches (p : Nat) (x : Port) : (s.setPort p x).launches = s.launches := rfl
@[simp] theorem State.setPort_teams (p : Nat) (x : Port) : (s.setPort p x).teams = s.teams := rfl
@[simp] theorem State.setPort_cores (p : Nat) (x : Port) : (s.setPort p x).cores = s.cores := rfl
@[simp] theorem State.setPort_dies (p : Nat) (x : Port) : (s.setPort p x).dies = s.dies := rfl
@[simp] theorem State.setPort_lcs (p : Nat) (x : Port) : (s.setPort p x).lcs = s.lcs := rfl
@[simp] theorem State.setPort_copies (p : Nat) (x : Port) : (s.setPort p x).copies = s.copies := rfl
@[simp] theorem State.setPort_tasks (p : Nat) (x : Port) : (s.setPort p x).tasks = s.tasks := rfl
@[simp] theorem State.setPort_checks (p : Nat) (x : Port) : (s.setPort p x).checks = s.checks := rfl
@[simp] theorem State.setPort_hists (p : Nat) (x : Port) : (s.setPort p x).hists = s.hists := rfl
@[simp] theorem State.setPort_colls (p : Nat) (x : Port) : (s.setPort p x).colls = s.colls := rfl
@[simp] theorem State.setPort_collSeq (p : Nat) (x : Port) : (s.setPort p x).collSeq = s.collSeq := rfl
@[simp] theorem State.setPort_results (p : Nat) (x : Port) : (s.setPort p x).results = s.results := rfl
@[simp] theorem State.setPort_inputs (p : Nat) (x : Port) : (s.setPort p x).inputs = s.inputs := rfl
@[simp] theorem State.setPort_hostReads (p : Nat) (x : Port) : (s.setPort p x).hostReads = s.hostReads := rfl
@[simp] theorem State.setPort_farStops (p : Nat) (x : Port) : (s.setPort p x).farStops = s.farStops := rfl
@[simp] theorem State.setPort_services (p : Nat) (x : Port) : (s.setPort p x).services = s.services := rfl
@[simp] theorem State.setPort_turn (p : Nat) (x : Port) : (s.setPort p x).turn = s.turn := rfl
@[simp] theorem State.setPort_focus (p : Nat) (x : Port) : (s.setPort p x).focus = s.focus := rfl
@[simp] theorem State.setPort_oracle (p : Nat) (x : Port) : (s.setPort p x).oracle = s.oracle := rfl
@[simp] theorem State.setPort_nextKey (p : Nat) (x : Port) : (s.setPort p x).nextKey = s.nextKey := rfl

/-! ### `State.setJob` -/

@[simp] theorem State.setJob_mem (j : Nat) (x : Job) : (s.setJob j x).mem = s.mem := rfl
@[simp] theorem State.setJob_poison (j : Nat) (x : Job) : (s.setJob j x).poison = s.poison := rfl
@[simp] theorem State.setJob_stored (j : Nat) (x : Job) : (s.setJob j x).stored = s.stored := rfl
@[simp] theorem State.setJob_out (j : Nat) (x : Job) : (s.setJob j x).out = s.out := rfl
@[simp] theorem State.setJob_held (j : Nat) (x : Job) : (s.setJob j x).held = s.held := rfl
@[simp] theorem State.setJob_reads (j : Nat) (x : Job) : (s.setJob j x).reads = s.reads := rfl
@[simp] theorem State.setJob_loads (j : Nat) (x : Job) : (s.setJob j x).loads = s.loads := rfl
@[simp] theorem State.setJob_remote (j : Nat) (x : Job) : (s.setJob j x).remote = s.remote := rfl
@[simp] theorem State.setJob_txn (j : Nat) (x : Job) : (s.setJob j x).txn = s.txn := rfl
@[simp] theorem State.setJob_homeLog (j : Nat) (x : Job) : (s.setJob j x).homeLog = s.homeLog := rfl
@[simp] theorem State.setJob_fetched (j : Nat) (x : Job) : (s.setJob j x).fetched = s.fetched := rfl
@[simp] theorem State.setJob_ctxs (j : Nat) (x : Job) : (s.setJob j x).ctxs = s.ctxs := rfl
@[simp] theorem State.setJob_launches (j : Nat) (x : Job) : (s.setJob j x).launches = s.launches := rfl
@[simp] theorem State.setJob_teams (j : Nat) (x : Job) : (s.setJob j x).teams = s.teams := rfl
@[simp] theorem State.setJob_cores (j : Nat) (x : Job) : (s.setJob j x).cores = s.cores := rfl
@[simp] theorem State.setJob_dies (j : Nat) (x : Job) : (s.setJob j x).dies = s.dies := rfl
@[simp] theorem State.setJob_lcs (j : Nat) (x : Job) : (s.setJob j x).lcs = s.lcs := rfl
@[simp] theorem State.setJob_copies (j : Nat) (x : Job) : (s.setJob j x).copies = s.copies := rfl
@[simp] theorem State.setJob_tasks (j : Nat) (x : Job) : (s.setJob j x).tasks = s.tasks := rfl
@[simp] theorem State.setJob_checks (j : Nat) (x : Job) : (s.setJob j x).checks = s.checks := rfl
@[simp] theorem State.setJob_hists (j : Nat) (x : Job) : (s.setJob j x).hists = s.hists := rfl
@[simp] theorem State.setJob_colls (j : Nat) (x : Job) : (s.setJob j x).colls = s.colls := rfl
@[simp] theorem State.setJob_collSeq (j : Nat) (x : Job) : (s.setJob j x).collSeq = s.collSeq := rfl
@[simp] theorem State.setJob_results (j : Nat) (x : Job) : (s.setJob j x).results = s.results := rfl
@[simp] theorem State.setJob_inputs (j : Nat) (x : Job) : (s.setJob j x).inputs = s.inputs := rfl
@[simp] theorem State.setJob_hostReads (j : Nat) (x : Job) : (s.setJob j x).hostReads = s.hostReads := rfl
@[simp] theorem State.setJob_farStops (j : Nat) (x : Job) : (s.setJob j x).farStops = s.farStops := rfl
@[simp] theorem State.setJob_services (j : Nat) (x : Job) : (s.setJob j x).services = s.services := rfl
@[simp] theorem State.setJob_turn (j : Nat) (x : Job) : (s.setJob j x).turn = s.turn := rfl
@[simp] theorem State.setJob_focus (j : Nat) (x : Job) : (s.setJob j x).focus = s.focus := rfl
@[simp] theorem State.setJob_oracle (j : Nat) (x : Job) : (s.setJob j x).oracle = s.oracle := rfl
@[simp] theorem State.setJob_nextKey (j : Nat) (x : Job) : (s.setJob j x).nextKey = s.nextKey := rfl

/-! ### `State.setLaser` -/

@[simp] theorem State.setLaser_mem (n : Nat) (x : Laser) : (s.setLaser n x).mem = s.mem := rfl
@[simp] theorem State.setLaser_poison (n : Nat) (x : Laser) : (s.setLaser n x).poison = s.poison := rfl
@[simp] theorem State.setLaser_stored (n : Nat) (x : Laser) : (s.setLaser n x).stored = s.stored := rfl
@[simp] theorem State.setLaser_out (n : Nat) (x : Laser) : (s.setLaser n x).out = s.out := rfl
@[simp] theorem State.setLaser_held (n : Nat) (x : Laser) : (s.setLaser n x).held = s.held := rfl
@[simp] theorem State.setLaser_reads (n : Nat) (x : Laser) : (s.setLaser n x).reads = s.reads := rfl
@[simp] theorem State.setLaser_loads (n : Nat) (x : Laser) : (s.setLaser n x).loads = s.loads := rfl
@[simp] theorem State.setLaser_remote (n : Nat) (x : Laser) : (s.setLaser n x).remote = s.remote := rfl
@[simp] theorem State.setLaser_txn (n : Nat) (x : Laser) : (s.setLaser n x).txn = s.txn := rfl
@[simp] theorem State.setLaser_homeLog (n : Nat) (x : Laser) : (s.setLaser n x).homeLog = s.homeLog := rfl
@[simp] theorem State.setLaser_fetched (n : Nat) (x : Laser) : (s.setLaser n x).fetched = s.fetched := rfl
@[simp] theorem State.setLaser_ctxs (n : Nat) (x : Laser) : (s.setLaser n x).ctxs = s.ctxs := rfl
@[simp] theorem State.setLaser_launches (n : Nat) (x : Laser) : (s.setLaser n x).launches = s.launches := rfl
@[simp] theorem State.setLaser_teams (n : Nat) (x : Laser) : (s.setLaser n x).teams = s.teams := rfl
@[simp] theorem State.setLaser_cores (n : Nat) (x : Laser) : (s.setLaser n x).cores = s.cores := rfl
@[simp] theorem State.setLaser_dies (n : Nat) (x : Laser) : (s.setLaser n x).dies = s.dies := rfl
@[simp] theorem State.setLaser_lcs (n : Nat) (x : Laser) : (s.setLaser n x).lcs = s.lcs := rfl
@[simp] theorem State.setLaser_copies (n : Nat) (x : Laser) : (s.setLaser n x).copies = s.copies := rfl
@[simp] theorem State.setLaser_tasks (n : Nat) (x : Laser) : (s.setLaser n x).tasks = s.tasks := rfl
@[simp] theorem State.setLaser_checks (n : Nat) (x : Laser) : (s.setLaser n x).checks = s.checks := rfl
@[simp] theorem State.setLaser_hists (n : Nat) (x : Laser) : (s.setLaser n x).hists = s.hists := rfl
@[simp] theorem State.setLaser_colls (n : Nat) (x : Laser) : (s.setLaser n x).colls = s.colls := rfl
@[simp] theorem State.setLaser_collSeq (n : Nat) (x : Laser) : (s.setLaser n x).collSeq = s.collSeq := rfl
@[simp] theorem State.setLaser_results (n : Nat) (x : Laser) : (s.setLaser n x).results = s.results := rfl
@[simp] theorem State.setLaser_inputs (n : Nat) (x : Laser) : (s.setLaser n x).inputs = s.inputs := rfl
@[simp] theorem State.setLaser_hostReads (n : Nat) (x : Laser) : (s.setLaser n x).hostReads = s.hostReads := rfl
@[simp] theorem State.setLaser_farStops (n : Nat) (x : Laser) : (s.setLaser n x).farStops = s.farStops := rfl
@[simp] theorem State.setLaser_services (n : Nat) (x : Laser) : (s.setLaser n x).services = s.services := rfl
@[simp] theorem State.setLaser_turn (n : Nat) (x : Laser) : (s.setLaser n x).turn = s.turn := rfl
@[simp] theorem State.setLaser_focus (n : Nat) (x : Laser) : (s.setLaser n x).focus = s.focus := rfl
@[simp] theorem State.setLaser_oracle (n : Nat) (x : Laser) : (s.setLaser n x).oracle = s.oracle := rfl
@[simp] theorem State.setLaser_nextKey (n : Nat) (x : Laser) : (s.setLaser n x).nextKey = s.nextKey := rfl

/-! ### `State.mapStrand` -/

@[simp] theorem State.mapStrand_mem (w : Who) (f : Strand → Strand) : (s.mapStrand w f).mem = s.mem := by cases w <;> rfl
@[simp] theorem State.mapStrand_poison (w : Who) (f : Strand → Strand) : (s.mapStrand w f).poison = s.poison := by cases w <;> rfl
@[simp] theorem State.mapStrand_stored (w : Who) (f : Strand → Strand) : (s.mapStrand w f).stored = s.stored := by cases w <;> rfl
@[simp] theorem State.mapStrand_out (w : Who) (f : Strand → Strand) : (s.mapStrand w f).out = s.out := by cases w <;> rfl
@[simp] theorem State.mapStrand_held (w : Who) (f : Strand → Strand) : (s.mapStrand w f).held = s.held := by cases w <;> rfl
@[simp] theorem State.mapStrand_reads (w : Who) (f : Strand → Strand) : (s.mapStrand w f).reads = s.reads := by cases w <;> rfl
@[simp] theorem State.mapStrand_loads (w : Who) (f : Strand → Strand) : (s.mapStrand w f).loads = s.loads := by cases w <;> rfl
@[simp] theorem State.mapStrand_remote (w : Who) (f : Strand → Strand) : (s.mapStrand w f).remote = s.remote := by cases w <;> rfl
@[simp] theorem State.mapStrand_txn (w : Who) (f : Strand → Strand) : (s.mapStrand w f).txn = s.txn := by cases w <;> rfl
@[simp] theorem State.mapStrand_homeLog (w : Who) (f : Strand → Strand) : (s.mapStrand w f).homeLog = s.homeLog := by cases w <;> rfl
@[simp] theorem State.mapStrand_fetched (w : Who) (f : Strand → Strand) : (s.mapStrand w f).fetched = s.fetched := by cases w <;> rfl
@[simp] theorem State.mapStrand_ctxs (w : Who) (f : Strand → Strand) : (s.mapStrand w f).ctxs = s.ctxs := by cases w <;> rfl
@[simp] theorem State.mapStrand_launches (w : Who) (f : Strand → Strand) : (s.mapStrand w f).launches = s.launches := by cases w <;> rfl
@[simp] theorem State.mapStrand_cores (w : Who) (f : Strand → Strand) : (s.mapStrand w f).cores = s.cores := by cases w <;> rfl
@[simp] theorem State.mapStrand_dies (w : Who) (f : Strand → Strand) : (s.mapStrand w f).dies = s.dies := by cases w <;> rfl
@[simp] theorem State.mapStrand_copies (w : Who) (f : Strand → Strand) : (s.mapStrand w f).copies = s.copies := by cases w <;> rfl
@[simp] theorem State.mapStrand_tasks (w : Who) (f : Strand → Strand) : (s.mapStrand w f).tasks = s.tasks := by cases w <;> rfl
@[simp] theorem State.mapStrand_checks (w : Who) (f : Strand → Strand) : (s.mapStrand w f).checks = s.checks := by cases w <;> rfl
@[simp] theorem State.mapStrand_hists (w : Who) (f : Strand → Strand) : (s.mapStrand w f).hists = s.hists := by cases w <;> rfl
@[simp] theorem State.mapStrand_colls (w : Who) (f : Strand → Strand) : (s.mapStrand w f).colls = s.colls := by cases w <;> rfl
@[simp] theorem State.mapStrand_collSeq (w : Who) (f : Strand → Strand) : (s.mapStrand w f).collSeq = s.collSeq := by cases w <;> rfl
@[simp] theorem State.mapStrand_results (w : Who) (f : Strand → Strand) : (s.mapStrand w f).results = s.results := by cases w <;> rfl
@[simp] theorem State.mapStrand_hub (w : Who) (f : Strand → Strand) : (s.mapStrand w f).hub = s.hub := by cases w <;> rfl
@[simp] theorem State.mapStrand_inputs (w : Who) (f : Strand → Strand) : (s.mapStrand w f).inputs = s.inputs := by cases w <;> rfl
@[simp] theorem State.mapStrand_hostReads (w : Who) (f : Strand → Strand) : (s.mapStrand w f).hostReads = s.hostReads := by cases w <;> rfl
@[simp] theorem State.mapStrand_farStops (w : Who) (f : Strand → Strand) : (s.mapStrand w f).farStops = s.farStops := by cases w <;> rfl
@[simp] theorem State.mapStrand_services (w : Who) (f : Strand → Strand) : (s.mapStrand w f).services = s.services := by cases w <;> rfl
@[simp] theorem State.mapStrand_turn (w : Who) (f : Strand → Strand) : (s.mapStrand w f).turn = s.turn := by cases w <;> rfl
@[simp] theorem State.mapStrand_focus (w : Who) (f : Strand → Strand) : (s.mapStrand w f).focus = s.focus := by cases w <;> rfl
@[simp] theorem State.mapStrand_oracle (w : Who) (f : Strand → Strand) : (s.mapStrand w f).oracle = s.oracle := by cases w <;> rfl
@[simp] theorem State.mapStrand_nextKey (w : Who) (f : Strand → Strand) : (s.mapStrand w f).nextKey = s.nextKey := by cases w <;> rfl

/-! ### `State.mapSplit` -/

@[simp] theorem State.mapSplit_mem (w : Who) (f : Split → Split) : (s.mapSplit w f).mem = s.mem := by cases w <;> rfl
@[simp] theorem State.mapSplit_poison (w : Who) (f : Split → Split) : (s.mapSplit w f).poison = s.poison := by cases w <;> rfl
@[simp] theorem State.mapSplit_stored (w : Who) (f : Split → Split) : (s.mapSplit w f).stored = s.stored := by cases w <;> rfl
@[simp] theorem State.mapSplit_out (w : Who) (f : Split → Split) : (s.mapSplit w f).out = s.out := by cases w <;> rfl
@[simp] theorem State.mapSplit_held (w : Who) (f : Split → Split) : (s.mapSplit w f).held = s.held := by cases w <;> rfl
@[simp] theorem State.mapSplit_reads (w : Who) (f : Split → Split) : (s.mapSplit w f).reads = s.reads := by cases w <;> rfl
@[simp] theorem State.mapSplit_loads (w : Who) (f : Split → Split) : (s.mapSplit w f).loads = s.loads := by cases w <;> rfl
@[simp] theorem State.mapSplit_remote (w : Who) (f : Split → Split) : (s.mapSplit w f).remote = s.remote := by cases w <;> rfl
@[simp] theorem State.mapSplit_txn (w : Who) (f : Split → Split) : (s.mapSplit w f).txn = s.txn := by cases w <;> rfl
@[simp] theorem State.mapSplit_homeLog (w : Who) (f : Split → Split) : (s.mapSplit w f).homeLog = s.homeLog := by cases w <;> rfl
@[simp] theorem State.mapSplit_fetched (w : Who) (f : Split → Split) : (s.mapSplit w f).fetched = s.fetched := by cases w <;> rfl
@[simp] theorem State.mapSplit_ctxs (w : Who) (f : Split → Split) : (s.mapSplit w f).ctxs = s.ctxs := by cases w <;> rfl
@[simp] theorem State.mapSplit_launches (w : Who) (f : Split → Split) : (s.mapSplit w f).launches = s.launches := by cases w <;> rfl
@[simp] theorem State.mapSplit_cores (w : Who) (f : Split → Split) : (s.mapSplit w f).cores = s.cores := by cases w <;> rfl
@[simp] theorem State.mapSplit_dies (w : Who) (f : Split → Split) : (s.mapSplit w f).dies = s.dies := by cases w <;> rfl
@[simp] theorem State.mapSplit_copies (w : Who) (f : Split → Split) : (s.mapSplit w f).copies = s.copies := by cases w <;> rfl
@[simp] theorem State.mapSplit_tasks (w : Who) (f : Split → Split) : (s.mapSplit w f).tasks = s.tasks := by cases w <;> rfl
@[simp] theorem State.mapSplit_checks (w : Who) (f : Split → Split) : (s.mapSplit w f).checks = s.checks := by cases w <;> rfl
@[simp] theorem State.mapSplit_hists (w : Who) (f : Split → Split) : (s.mapSplit w f).hists = s.hists := by cases w <;> rfl
@[simp] theorem State.mapSplit_colls (w : Who) (f : Split → Split) : (s.mapSplit w f).colls = s.colls := by cases w <;> rfl
@[simp] theorem State.mapSplit_collSeq (w : Who) (f : Split → Split) : (s.mapSplit w f).collSeq = s.collSeq := by cases w <;> rfl
@[simp] theorem State.mapSplit_results (w : Who) (f : Split → Split) : (s.mapSplit w f).results = s.results := by cases w <;> rfl
@[simp] theorem State.mapSplit_hub (w : Who) (f : Split → Split) : (s.mapSplit w f).hub = s.hub := by cases w <;> rfl
@[simp] theorem State.mapSplit_inputs (w : Who) (f : Split → Split) : (s.mapSplit w f).inputs = s.inputs := by cases w <;> rfl
@[simp] theorem State.mapSplit_hostReads (w : Who) (f : Split → Split) : (s.mapSplit w f).hostReads = s.hostReads := by cases w <;> rfl
@[simp] theorem State.mapSplit_farStops (w : Who) (f : Split → Split) : (s.mapSplit w f).farStops = s.farStops := by cases w <;> rfl
@[simp] theorem State.mapSplit_services (w : Who) (f : Split → Split) : (s.mapSplit w f).services = s.services := by cases w <;> rfl
@[simp] theorem State.mapSplit_turn (w : Who) (f : Split → Split) : (s.mapSplit w f).turn = s.turn := by cases w <;> rfl
@[simp] theorem State.mapSplit_focus (w : Who) (f : Split → Split) : (s.mapSplit w f).focus = s.focus := by cases w <;> rfl
@[simp] theorem State.mapSplit_oracle (w : Who) (f : Split → Split) : (s.mapSplit w f).oracle = s.oracle := by cases w <;> rfl
@[simp] theorem State.mapSplit_nextKey (w : Who) (f : Split → Split) : (s.mapSplit w f).nextKey = s.nextKey := by cases w <;> rfl

end Sys2Proof.Machine
end

