-- ==== Sys2Proof/Laws/Strand.lean ====
section
/-! SUPPORT. Strands: finding one after it has been changed, two changes as one, and registers. -/

namespace Sys2Proof.Machine

/-! ### Teams and warps -/

theorem Team.getElem?_mapWarp (x : Team) (w : Nat) (f : Warp → Warp) : (x.mapWarp w f).warps[w]? = (x.warps[w]?).map f := by
  unfold Team.mapWarp
  split
  · rename_i y h
    have : w < x.warps.length := (List.getElem?_eq_some_iff.mp h).1
    rw [h]; exact getElem?_setNth_self _ _ _ this
  · rename_i h; simp [h]

theorem Team.mapWarp_mapWarp (x : Team) (w : Nat) (f g : Warp → Warp) : (x.mapWarp w f).mapWarp w g = x.mapWarp w fun y => g (f y) := by
  cases h : x.warps[w]? with
  | none => simp [Team.mapWarp, h]
  | some y =>
    have hw : w < x.warps.length := (List.getElem?_eq_some_iff.mp h).1
    simp [Team.mapWarp, getElem?_setNth_self, hw, setNth_setNth]

theorem look_mapTeam (s : State) (t : Nat) (f : Team → Team) : look (s.mapTeam t f).teams t = (look s.teams t).map f := look_adjust_self _ _ _

theorem State.mapTeam_mapTeam (s : State) (t : Nat) (f g : Team → Team) : (s.mapTeam t f).mapTeam t g = s.mapTeam t fun x => g (f x) := by
  unfold State.mapTeam adjust
  cases h : look s.teams t with
  | none => simp [h]
  | some x => simp [look_place_self, place_place]

theorem State.mapWarp_mapWarp (s : State) (t w : Nat) (f g : Warp → Warp) : (s.mapWarp t w f).mapWarp t w g = s.mapWarp t w fun y => g (f y) := by
  unfold State.mapWarp
  rw [State.mapTeam_mapTeam]
  simp [Team.mapWarp_mapWarp]

/-! ### Latency cores -/

theorem State.lc_setLc (s : State) (l : Nat) (x : Lc) : (s.setLc l x).lc l = x := by simp [State.lc, State.setLc]
theorem State.core_setCore (s : State) (c : Nat) (x : Core) : (s.setCore c x).core c = x := by simp [State.core, State.setCore]
theorem State.die_setDie (s : State) (d : Nat) (x : Die) : (s.setDie d x).die d = x := by simp [State.die, State.setDie]
theorem State.ctx_setCtx (s : State) (c : Nat) (x : Ctx) : (s.setCtx c x).ctx c = x := by simp [State.ctx, State.setCtx]
theorem State.port_setPort (s : State) (p : Nat) (x : Port) : (s.setPort p x).port p = x := by simp [State.port, State.setPort]
theorem State.job_setJob (s : State) (j : Nat) (x : Job) : (s.setJob j x).job j = x := by simp [State.job, State.setJob]
theorem State.laser_setLaser (s : State) (n : Nat) (x : Laser) : (s.setLaser n x).laser n = x := by simp [State.laser, State.setLaser]

theorem unlist_place {α : Type} (t : Sparse α) (n : Nat) (x : α) : unlist (place t n x) n = unlist t n := by
  induction t with
  | nil => simp [place, unlist]
  | cons p t ih =>
    obtain ⟨k, v⟩ := p
    simp only [place]
    split
    · simp [unlist]
    · split
      · rename_i h; simp [unlist, h]
      · rename_i h; simp [unlist, h, ih]

theorem write_write {α : Type} [DecidableEq α] {d : α} (t : Sparse α) (n : Nat) {x : α} (y : α) (h : x ≠ d) :
    write d (write d t n x) n y = write d t n y := by
  unfold write
  rw [if_neg h]
  split
  · exact unlist_place t n x
  · exact place_place t n x y

theorem State.setLc_setLc (s : State) (l : Nat) {x : Lc} (y : Lc) (h : x ≠ {}) : (s.setLc l x).setLc l y = s.setLc l y := by
  show ({ s with lcs := write {} (write {} s.lcs l x) l y } : State) = { s with lcs := write {} s.lcs l y }
  rw [write_write _ _ _ h]

theorem Lc.thread_setThread (l : Lc) (th : Nat) (h : LatThread) : (l.setThread th h).thread th = h := by
  unfold Lc.setThread Lc.thread; split <;> rfl

theorem Lc.setThread_setThread (l : Lc) (th : Nat) (h h' : LatThread) : (l.setThread th h).setThread th h' = l.setThread th h' := by
  unfold Lc.setThread; split <;> rfl

theorem Lc.setThread_ne (l : Lc) (th : Nat) (h : LatThread) (ha : h.active = true) : l.setThread th h ≠ {} := by
  intro he
  have := congrArg (fun x => (x.thread th).active) he
  simp only [Lc.thread_setThread, ha] at this
  unfold Lc.thread at this
  split at this <;> cases this

/-! ### Strands -/

/-- A strand that exists, changed, is found changed. -/
theorem State.strand?_mapStrand (s : State) (w : Who) (f : Strand → Strand) : (s.mapStrand w f).strand? w = (s.strand? w).map f := by
  cases w with
  | warp t n k =>
    simp only [State.mapStrand, State.strand?, State.mapWarp, look_mapTeam]
    cases look s.teams t with
    | none => rfl
    | some x => simp [Team.getElem?_mapWarp, Function.comp_def]
  | handler t n =>
    simp only [State.mapStrand, State.strand?, State.mapWarp, look_mapTeam]
    cases look s.teams t with
    | none => rfl
    | some x =>
      simp only [Option.map_some, Option.bind_some, Team.getElem?_mapWarp]
      cases x.warps[n]? <;> rfl
  | lat l th =>
    simp only [State.mapStrand, State.strand?, State.lc_setLc, Lc.thread_setThread]
    cases hh : ((s.lc l).thread th).handler with
    | none => simp only; split <;> rfl
    | some st => simp only; split <;> rfl

/-- Two changes of a strand are one. -/
theorem State.mapStrand_mapStrand (s : State) (w : Who) (f g : Strand → Strand) (h : (s.strand? w).isSome) :
    (s.mapStrand w f).mapStrand w g = s.mapStrand w fun st => g (f st) := by
  cases w with
  | warp t n k => simp only [State.mapStrand, State.mapWarp_mapWarp]
  | handler t n =>
    simp only [State.mapStrand, State.mapWarp_mapWarp]
    congr; funext x; cases x.handler <;> rfl
  | lat l th =>
    have ha : ((s.lc l).thread th).active = true := by
      simp only [State.strand?] at h
      by_contra hc; rw [if_neg hc] at h; cases h
    simp only [State.mapStrand, State.lc_setLc, Lc.thread_setThread]
    cases hh : ((s.lc l).thread th).handler with
    | none =>
      simp only []
      rw [State.setLc_setLc _ _ _ (Lc.setThread_ne _ _ _ (by exact ha)), Lc.setThread_setThread]
    | some st =>
      simp only
      rw [State.setLc_setLc _ _ _ (Lc.setThread_ne _ _ _ (by exact ha)), Lc.setThread_setThread]

/-- A change of a strand that exists is its replacement. -/
theorem State.mapStrand_const {s : State} {w : Who} {st : Strand} (f : Strand → Strand) (h : s.strand? w = some st) :
    s.mapStrand w f = s.mapStrand w fun _ => f st := by
  cases w with
  | warp t n k =>
    simp only [State.strand?] at h
    obtain ⟨x, hx, h⟩ := Option.bind_eq_some_iff.mp h
    obtain ⟨y, hy, rfl⟩ := Option.map_eq_some_iff.mp h
    simp [State.mapStrand, State.mapWarp, State.mapTeam, adjust, hx, Team.mapWarp, hy]
  | handler t n =>
    simp only [State.strand?] at h
    obtain ⟨x, hx, h⟩ := Option.bind_eq_some_iff.mp h
    obtain ⟨y, hy, h⟩ := Option.bind_eq_some_iff.mp h
    simp [State.mapStrand, State.mapWarp, State.mapTeam, adjust, hx, Team.mapWarp, hy, h]
  | lat l th =>
    simp only [State.strand?] at h
    split at h
    · simp only [Option.some.injEq] at h
      simp only [State.mapStrand]
      cases hh : ((s.lc l).thread th).handler with
      | none => simp [hh] at h; simp [h]
      | some y => simp [hh] at h; simp [h]
    · cases h

/-- A strand replaced by itself leaves the state as it is, up to the order in which tables list it. -/
theorem State.env_strand {s : State} {e : Env} (h : s.env = some e) : s.strand? e.who = some e.st ∧ e.who = s.focus := by
  unfold State.env at h
  obtain ⟨st, hst, rfl⟩ := Option.map_eq_some_iff.mp h
  exact ⟨hst, rfl⟩

/-! ### Registers -/

/-- R35: a register after a register of a thread has been written. -/
theorem Strand.reg_setReg (st : Strand) (n t m u : Nat) (v : Word) (ht : t < 32) (hu : u < 32) :
    (st.setReg n t v).reg m u = if n ≠ 0 ∧ m = n ∧ u = t then v else st.reg m u := by
  unfold Strand.setReg Strand.reg
  by_cases hn : n = 0
  · simp [hn]
  · by_cases hm : m = 0
    · have : m ≠ n := fun e => hn (e ▸ hm)
      simp [hm, hn, Ne.symm hn]
    · simp only [hn, hm, if_false, readOr_write]
      by_cases h : m = n ∧ u = t
      · simp [h.1, h.2, hn]
      · have : 32 * m + u ≠ 32 * n + t := by omega
        simp [this, h]

/-- R35: register 0 reads as zero, whatever has been written. -/
@[simp] theorem Strand.reg_zero (st : Strand) (t : Nat) : st.reg 0 t = 0 := rfl

@[simp] theorem Strand.setReg_zero (st : Strand) (t : Nat) (v : Word) : st.setReg 0 t v = st := rfl

@[simp] theorem Strand.reg_mapSplit (st : Strand) (k : Nat) (f : Split → Split) (n t : Nat) : (st.mapSplit k f).reg n t = st.reg n t := rfl

/-- What a write of a register leaves. -/
theorem Strand.setReg_frame (st : Strand) (n t : Nat) (v : Word) :
    ∃ r o, st.setReg n t v = { st with regs := r, older := o } := by
  unfold Strand.setReg
  split
  · exact ⟨st.regs, st.older, rfl⟩
  · exact ⟨_, _, rfl⟩

end Sys2Proof.Machine
end

