-- ==== Sys2Proof/Laws/Act.lean ====
section
/-! SUPPORT. How an instruction is entered, writes registers and goes on: one lemma for each shared operation. -/

namespace Sys2Proof.Machine

/-! ### Entering -/

/-- R52: the state in which an instruction takes its effect: after region entry. -/
abbrev State.entered (s : State) (i : Instr) : State := s.enterRegion s.focus (instrPre i).re

/-- An instruction that waits for nothing and raises none of the causes of R54 steps 6 to 9 has its effect. -/
theorem act_run {i : Instr} {s : State} {e₀ e : Env} (body : Env → State → State) (h₀ : s.env = some e₀)
    (hs : e₀.stall i s = none) (hg : gate i e₀ = none) (he : (s.entered i).env = some e) :
    act i s body = .next { body e (s.entered i) with oracle := (body e (s.entered i)).oracle + (if e.acc.isEmpty then 0 else 8192) } := by
  unfold State.entered at *
  simp only [act, h₀, hs, he, Option.getD_some, hg]

/-- An instruction that raises a cause of R54 steps 6 to 9 does nothing else. -/
theorem act_gate {i : Instr} {s : State} {e : Env} {c : Cause} (body : Env → State → State) (h₀ : s.env = some e)
    (hs : e.stall i s = none) (hg : gate i e = some c) : act i s body = .next (e.raise c e.sp.pc s) := by
  simp only [act, h₀, hs, hg]

/-- All that `act` can do. -/
theorem act_cases {i : Instr} {s t : State} {body : Env → State → State} (h : act i s body = .next t) :
    ∃ e₀, s.env = some e₀ ∧
      ((∃ c, e₀.stall i s = some c ∧ t = e₀.interlock c s) ∨
       (e₀.stall i s = none ∧
          ((∃ c, gate i e₀ = some c ∧ t = e₀.raise c e₀.sp.pc s) ∨
           (gate i e₀ = none ∧ ∃ e, e = ((s.entered i).env).getD e₀ ∧ t = { body e (s.entered i) with
              oracle := (body e (s.entered i)).oracle + (if e.acc.isEmpty then 0 else 8192) })))) := by
  unfold act at h
  split at h
  · cases h
  · rename_i e₀ h₀
    refine ⟨e₀, h₀, ?_⟩
    split at h
    · rename_i c hc
      cases h; exact .inl ⟨c, hc, rfl⟩
    · rename_i hc
      split at h
      · rename_i c hg
        cases h; exact .inr ⟨hc, .inl ⟨c, hg, rfl⟩⟩
      · rename_i hg
        cases h; exact .inr ⟨hc, .inr ⟨hg, _, rfl, rfl⟩⟩

/-! ### Going on -/

/-- Where a strand stands after an instruction. -/
def Strand.leave (st : Strand) (k : Nat) (pc : DWord) (sw ends : Bool) (now : Nat) : Strand :=
  st.mapSplit k fun x => x.leave pc sw ends now

theorem Env.retire_eq (e : Env) (i : Instr) (s : State) :
    e.retire i s = s.bump.mapStrand e.who fun st => st.leave (splitNo e.who) (e.next i) (instrPre i).sw (endsRegion i) s.nextKey := rfl

theorem Split.leave_pc (k : Split) (pc : DWord) (sw ends : Bool) (now : Nat) : (k.leave pc sw ends now).pc = pc := by
  simp only [Split.leave, Split.go]; repeat' split
  all_goals rfl

theorem Split.leave_exm (k : Split) (pc : DWord) (sw ends : Bool) (now : Nat) : (k.leave pc sw ends now).exm = k.exm := by
  simp only [Split.leave, Split.go]; repeat' split
  all_goals rfl

theorem Strand.split_mapSplit_self (st : Strand) (k : Nat) (f : Split → Split) (h : k < st.splits.length) :
    (st.mapSplit k f).split k = f (st.split k) := by
  simp only [Strand.mapSplit, Strand.split, List.getD_eq_getElem?_getD]
  rw [getElem?_setNth_self _ _ _ h, Option.getD_some]

theorem Strand.split_mapSplit_ne (st : Strand) {k j : Nat} (f : Split → Split) (h : j ≠ k) : (st.mapSplit k f).split j = st.split j := by
  simp only [Strand.mapSplit, Strand.split, List.getD_eq_getElem?_getD, getElem?_setNth_ne _ _ h]

@[simp] theorem Strand.reg_leave (st : Strand) (k : Nat) (pc : DWord) (sw ends : Bool) (now n t : Nat) :
    (st.leave k pc sw ends now).reg n t = st.reg n t := rfl

/-! ### Writing registers -/

/-! ### The rest of the machine -/

@[simp] theorem State.elsewhere_bump (s : State) (w : Who) : s.bump.elsewhere w = s.elsewhere w := by cases w <;> rfl

@[simp] theorem State.elsewhere_spend (s : State) (n : Nat) (w : Who) : (s.spend n).elsewhere w = s.elsewhere w := by cases w <;> rfl

theorem State.elsewhere_oracle (s : State) (n : Nat) (w : Who) : ({ s with oracle := n } : State).elsewhere w = s.elsewhere w := by
  cases w <;> rfl

theorem State.strand?_bump (s : State) (w : Who) : s.bump.strand? w = s.strand? w := by cases w <;> rfl
theorem State.strand?_oracle (s : State) (n : Nat) (w : Who) : ({ s with oracle := n } : State).strand? w = s.strand? w := by
  cases w <;> rfl

/-- A change of a strand is nothing elsewhere. -/
theorem State.elsewhere_mapStrand (s : State) (w : Who) (f : Strand → Strand) (h : (s.strand? w).isSome) :
    (s.mapStrand w f).elsewhere w = s.elsewhere w := by
  unfold State.elsewhere
  rw [State.mapStrand_mapStrand _ _ _ _ h]
  simp

/-- The bytes of memory belong to what is elsewhere. -/
theorem State.mem_of_elsewhere {s t : State} {w : Who} (h : t.elsewhere w = s.elsewhere w) : t.mem = s.mem := by
  have := congrArg State.mem h
  simpa [State.elsewhere] using this

theorem mapVals_mapVals {α : Type} (t : Sparse α) (f g : Nat → α → α) : mapVals (mapVals t f) g = mapVals t fun k v => g k (f k v) := by
  simp [mapVals, Function.comp_def]

/-- R181: a write of a register marks tasks that hold it, and nothing else. -/
theorem State.elsewhere_spoilTask (s : State) (team warp n t : Nat) (w : Who) : (s.spoilTask team warp n t).elsewhere w = s.elsewhere w := by
  have hs : ∀ ts : Sparse Task, (mapVals ts fun _ k => { k with spoiled := [] }) = (mapVals s.tasks fun _ k => { k with spoiled := [] }) →
      ({ s with tasks := ts } : State).elsewhere w = s.elsewhere w := by
    intro ts h
    cases w <;> (simp only [State.elsewhere]; rw [h]; rfl)
  apply hs
  rw [mapVals_mapVals]
  congr; funext k v
  dsimp only
  split <;> rfl

theorem State.strand?_spoilTask (s : State) (team warp n t : Nat) (w : Who) : (s.spoilTask team warp n t).strand? w = s.strand? w := by
  cases w <;> rfl

theorem State.elsewhere_spoil (s : State) (e : Env) (n t : Nat) (w : Who) : (s.spoil e n t).elsewhere w = s.elsewhere w := by
  unfold State.spoil
  split
  · exact s.elsewhere_spoilTask ..
  · rfl

theorem State.strand?_spoil (s : State) (e : Env) (n t : Nat) (w : Who) : (s.spoil e n t).strand? w = s.strand? w := by
  unfold State.spoil
  split
  · exact s.strand?_spoilTask ..
  · rfl

/-! ### Writing registers -/

/-- Between two states only a strand has changed, and it has become `st`. -/
structure Only (w : Who) (s t : State) (st : Strand) : Prop where
  strand : t.strand? w = some st
  rest   : t.elsewhere w = s.elsewhere w

theorem Only.refl {w : Who} {s : State} {st : Strand} (h : s.strand? w = some st) : Only w s s st := ⟨h, rfl⟩

theorem Only.mapStrand {w : Who} {s t : State} {st : Strand} (h : Only w s t st) (f : Strand → Strand) :
    Only w s (t.mapStrand w f) (f st) :=
  ⟨by rw [State.strand?_mapStrand, h.strand]; rfl, by rw [State.elsewhere_mapStrand _ _ _ (by rw [h.strand]; rfl), h.rest]⟩

theorem Only.bump {w : Who} {s t : State} {st : Strand} (h : Only w s t st) : Only w s t.bump st :=
  ⟨by rw [State.strand?_bump, h.strand], by rw [State.elsewhere_bump, h.rest]⟩

theorem Only.oracle {w : Who} {s t : State} {st : Strand} (h : Only w s t st) (n : Nat) : Only w s { t with oracle := n } st :=
  ⟨by rw [State.strand?_oracle, h.strand], by rw [State.elsewhere_oracle, h.rest]⟩

theorem Only.spend {w : Who} {s t : State} {st : Strand} (h : Only w s t st) (n : Nat) : Only w s (t.spend n) st := h.oracle _

/-- R35: one register of a thread. -/
theorem Only.set {e : Env} {s t : State} {st : Strand} (h : Only e.who s t st) (n u : Nat) (v : Word) :
    Only e.who s (e.set n u v t) (st.setReg n u v) := by
  unfold Env.set
  exact Only.mapStrand ⟨by rw [State.strand?_spoil, h.strand], by rw [State.elsewhere_spoil, h.rest]⟩ _

/-- A word in the threads of a list. -/
def Strand.setAll (st : Strand) (us : List Nat) (n : Nat) (f : Nat → Word) : Strand := us.foldl (fun st u => st.setReg n u (f u)) st

/-- A pair in the threads of a list. -/
def Strand.setPairs (st : Strand) (us : List Nat) (n : Nat) (f : Nat → DWord) : Strand := us.foldl (fun st u => st.setPair n u (f u)) st

theorem Only.setAll {e : Env} {s t : State} {st : Strand} (h : Only e.who s t st) (m : Mask) (d : RegNo) (f : Nat → Word) :
    Only e.who s (e.setAll m d f t) (st.setAll (Mask.threads m) d.toNat f) := by
  unfold Env.setAll Strand.setAll
  generalize Mask.threads m = us
  induction us generalizing t st with
  | nil => exact h
  | cons u us ih => exact ih (h.set _ _ _)

theorem Only.setPair {e : Env} {s t : State} {st : Strand} (h : Only e.who s t st) (n u : Nat) (v : DWord) :
    Only e.who s (e.setPair n u v t) (st.setPair n u v) := by
  unfold Env.setPair Strand.setPair
  split
  · exact h
  · exact (h.set _ _ _).set _ _ _

theorem Only.setPairs {e : Env} {s t : State} {st : Strand} (h : Only e.who s t st) (m : Mask) (d : RegNo) (f : Nat → DWord) :
    Only e.who s (e.setPairs m d f t) (st.setPairs (Mask.threads m) d.toNat f) := by
  unfold Env.setPairs Strand.setPairs
  generalize Mask.threads m = us
  induction us generalizing t st with
  | nil => exact h
  | cons u us ih => exact ih (h.setPair _ _ _)

/-- Going on to the next instruction. -/
theorem Only.retire {e : Env} {s t : State} {st : Strand} (h : Only e.who s t st) (i : Instr) :
    Only e.who s (e.retire i t) (st.leave (splitNo e.who) (e.next i) (instrPre i).sw (endsRegion i) t.nextKey) := by
  rw [Env.retire_eq]
  exact h.bump.mapStrand fun st => st.leave (splitNo e.who) (e.next i) (instrPre i).sw (endsRegion i) t.nextKey

/-! ### The registers that have been written -/

theorem Mask.mem_threads {m : Mask} {u : Nat} : u ∈ Mask.threads m ↔ u < 32 ∧ m.getLsbD u := by simp [Mask.threads]

theorem Strand.reg_setAll (st : Strand) (us : List Nat) (n : Nat) (f : Nat → Word) (hus : ∀ u ∈ us, u < 32) (k u : Nat) (hu : u < 32) :
    (st.setAll us n f).reg k u = if n ≠ 0 ∧ k = n ∧ u ∈ us then f u else st.reg k u := by
  unfold Strand.setAll
  induction us generalizing st with
  | nil => simp
  | cons v us ih =>
    rw [List.foldl_cons, ih _ (fun x hx => hus x (List.mem_cons_of_mem _ hx)),
      Strand.reg_setReg _ _ _ _ _ _ (hus v List.mem_cons_self) hu]
    by_cases h : n ≠ 0 ∧ k = n
    · by_cases hm : u ∈ us
      · simp [h, hm]
      · by_cases hv : u = v
        · simp [h, hv]
        · simp [h, hm, hv]
    · have h1 : ¬ (n ≠ 0 ∧ k = n ∧ u ∈ us) := fun x => h ⟨x.1, x.2.1⟩
      have h2 : ¬ (n ≠ 0 ∧ k = n ∧ u = v) := fun x => h ⟨x.1, x.2.1⟩
      have h3 : ¬ (n ≠ 0 ∧ k = n ∧ u ∈ v :: us) := fun x => h ⟨x.1, x.2.1⟩
      rw [if_neg h1, if_neg h2, if_neg h3]

theorem Strand.reg_setPair (st : Strand) (n u : Nat) (v : DWord) (hu : u < 32) (k x : Nat) (hx : x < 32) :
    (st.setPair n u v).reg k x =
      if n ≠ 0 ∧ x = u ∧ k = n then v.extractLsb' 0 32 else if n ≠ 0 ∧ x = u ∧ k = n + 1 then v.extractLsb' 32 32 else st.reg k x := by
  unfold Strand.setPair
  split
  · simp [*]
  · rename_i hn
    rw [Strand.reg_setReg _ _ _ _ _ _ hu hx, Strand.reg_setReg _ _ _ _ _ _ hu hx]
    by_cases h1 : k = n
    · subst h1
      simp [hn]
    · by_cases h2 : k = n + 1
      · subst h2; simp [hn]
      · simp [h1, h2]

theorem Strand.reg_setPairs (st : Strand) (us : List Nat) (n : Nat) (f : Nat → DWord) (hus : ∀ u ∈ us, u < 32) (k u : Nat) (hu : u < 32) :
    (st.setPairs us n f).reg k u =
      if n ≠ 0 ∧ u ∈ us ∧ k = n then (f u).extractLsb' 0 32
      else if n ≠ 0 ∧ u ∈ us ∧ k = n + 1 then (f u).extractLsb' 32 32 else st.reg k u := by
  unfold Strand.setPairs
  induction us generalizing st with
  | nil => simp
  | cons v us ih =>
    rw [List.foldl_cons, ih _ (fun x hx => hus x (List.mem_cons_of_mem _ hx)),
      Strand.reg_setPair _ _ _ _ (hus v List.mem_cons_self) _ _ hu]
    by_cases hn : n = 0
    · simp [hn]
    · by_cases hm : u ∈ us
      · by_cases h1 : k = n
        · simp [hn, hm, h1]
        · by_cases h2 : k = n + 1
          · simp [hn, hm, h2]
          · simp [h1, h2]
      · by_cases hv : u = v
        · subst hv; simp [hn, hm]
        · simp [hn, hm, hv]

/-- What writing registers leaves of a strand. -/
theorem Strand.setReg_aside (st : Strand) (n u : Nat) (v : Word) :
    (st.setReg n u v).aside = st.aside ∧ (st.setReg n u v).splits = st.splits ∧ (st.setReg n u v).sstat = st.sstat := by
  unfold Strand.setReg
  split <;> exact ⟨rfl, rfl, rfl⟩

theorem Strand.setPair_aside (st : Strand) (n u : Nat) (v : DWord) :
    (st.setPair n u v).aside = st.aside ∧ (st.setPair n u v).splits = st.splits ∧ (st.setPair n u v).sstat = st.sstat := by
  unfold Strand.setPair
  split
  · exact ⟨rfl, rfl, rfl⟩
  · have h := Strand.setReg_aside st n u (v.extractLsb' 0 32)
    have h' := Strand.setReg_aside (st.setReg n u (v.extractLsb' 0 32)) (n + 1) u (v.extractLsb' 32 32)
    exact ⟨h'.1.trans h.1, h'.2.1.trans h.2.1, h'.2.2.trans h.2.2⟩

theorem Strand.setAll_aside (st : Strand) (us : List Nat) (n : Nat) (f : Nat → Word) :
    (st.setAll us n f).aside = st.aside ∧ (st.setAll us n f).splits = st.splits ∧ (st.setAll us n f).sstat = st.sstat := by
  unfold Strand.setAll
  induction us generalizing st with
  | nil => exact ⟨rfl, rfl, rfl⟩
  | cons u us ih =>
    have h := Strand.setReg_aside st n u (f u)
    have h' := ih (st.setReg n u (f u))
    exact ⟨h'.1.trans h.1, h'.2.1.trans h.2.1, h'.2.2.trans h.2.2⟩

theorem Strand.setPairs_aside (st : Strand) (us : List Nat) (n : Nat) (f : Nat → DWord) :
    (st.setPairs us n f).aside = st.aside ∧ (st.setPairs us n f).splits = st.splits ∧ (st.setPairs us n f).sstat = st.sstat := by
  unfold Strand.setPairs
  induction us generalizing st with
  | nil => exact ⟨rfl, rfl, rfl⟩
  | cons u us ih =>
    have h := Strand.setPair_aside st n u (f u)
    have h' := ih (st.setPair n u (f u))
    exact ⟨h'.1.trans h.1, h'.2.1.trans h.2.1, h'.2.2.trans h.2.2⟩

/-! ### An instruction that writes registers and goes on -/

/-- Leaving an instruction, said of a strand that has kept its splits. -/
theorem Only.ran {e : Env} {s t : State} {st : Strand} {pc : DWord} {sw ends : Bool} {now : Nat} {regs : Nat → Nat → Word} {sstat : Word}
    (h : Only e.who s t (st.leave (splitNo e.who) pc sw ends now)) (hk : e.k = splitNo e.who) (hsp : e.sp = e.st.split e.k)
    (hlen : e.k < e.st.splits.length) (hs : st.splits = e.st.splits) (ha : st.aside = e.st.aside)
    (hr : ∀ n u, u < 32 → st.reg n u = regs n u) (hf : st.sstat = sstat) :
    Ran e s t pc regs sstat := by
  refine ⟨_, h.strand, fun n u hu => by rw [Strand.reg_leave]; exact hr n u hu, hf, ?_, ?_, ?_, ?_, h.rest, ?_⟩
  · exact ha
  · rw [hk]
    simp only [Strand.leave]
    rw [Strand.split_mapSplit_self _ _ _ (by rw [hs, ← hk]; exact hlen), Split.leave_pc]
  · rw [hsp, hk]
    simp only [Strand.leave]
    rw [Strand.split_mapSplit_self _ _ _ (by rw [hs, ← hk]; exact hlen), Split.leave_exm]
    simp only [Strand.split, hs]
  · intro j hj
    simp only [Strand.leave]
    rw [Strand.split_mapSplit_ne _ _ (by rw [← hk]; exact hj)]
    simp only [Strand.split, hs]
  · intro a
    rw [State.mem_of_elsewhere h.rest]

theorem State.env_fields {s : State} {e : Env} (h : s.env = some e) :
    s.strand? e.who = some e.st ∧ e.k = splitNo e.who ∧ e.sp = e.st.split e.k ∧ e.who = s.focus := by
  unfold State.env at h
  obtain ⟨st, hst, rfl⟩ := Option.map_eq_some_iff.mp h
  exact ⟨hst, rfl, rfl, rfl⟩

/-- R35, R36: an instruction that writes a word or a pair in its threads and goes on. -/
theorem Only.finish {e : Env} {s t : State} {st : Strand} (h : Only e.who s t st) (hk : e.k = splitNo e.who) (hsp : e.sp = e.st.split e.k)
    (hlen : e.k < e.st.splits.length) (hst : st.splits = e.st.splits) (ha : st.aside = e.st.aside) (hreg : ∀ n u, u < 32 → st.reg n u = e.st.reg n u)
    (i : Instr) (m : Mask) (d : RegNo) (wide : Bool) (f : Nat → DWord) (n : Nat) :
    Ran e s { e.finish i m d wide f t with oracle := n } (e.next i) (e.withResult m d wide f) st.sstat := by
  have hd : d.toNat = 0 ↔ d = 0 := by constructor <;> intro hh <;> [exact BitVec.eq_of_toNat_eq (by simpa using hh); simp [hh]]
  unfold Env.finish Env.withResult
  cases wide with
  | true =>
    simp only [if_true]
    have h' := ((h.setPairs m d f).retire i).oracle n
    have hx := Strand.setPairs_aside st (Mask.threads m) d.toNat f
    refine h'.ran hk hsp hlen (hx.2.1.trans hst) (hx.1.trans ha) ?_ hx.2.2
    intro k u hu
    rw [Strand.reg_setPairs _ _ _ _ (fun v hv => (Mask.mem_threads.mp hv).1) _ _ hu, hreg k u hu]
    simp only [Env.withPair, Mask.mem_threads, hu, true_and, ne_eq, hd]
  | false =>
    simp only [Bool.false_eq_true, if_false]
    have h' := ((h.setAll m d fun u => lowWord (f u)).retire i).oracle n
    have hx := Strand.setAll_aside st (Mask.threads m) d.toNat fun u => lowWord (f u)
    refine h'.ran hk hsp hlen (hx.2.1.trans hst) (hx.1.trans ha) ?_ hx.2.2
    intro k u hu
    rw [Strand.reg_setAll _ _ _ _ (fun v hv => (Mask.mem_threads.mp hv).1) _ _ hu, hreg k u hu]
    simp only [Env.withWord, Mask.mem_threads, hu, true_and, ne_eq, hd]

end Sys2Proof.Machine
end

