-- ==== Sys2Proof/Laws/Alu.lean ====
section
/-! SUPPORT. One lemma for each shape of instruction: what it answers, in the words of Safety. -/

namespace Sys2Proof.Machine

/-- An instruction that has been entered has its effect; only the counter of free values may go on beside it. -/
theorem Enters.run {i : Instr} {s s' : State} {e : Env} (h : Enters i s s' e) (body : Env → State → State) :
    ∃ n, act i s body = .next { body e s' with oracle := n } := by
  obtain ⟨⟨e₀, h₀, hs, hg⟩, he, henv, _⟩ := h
  subst he
  exact ⟨_, act_run body h₀ hs hg henv⟩

/-- The instructions that compute from source B and write D. -/
theorem gives_of {i : Instr} {o : Alu} {wb wd : Bool} (f : Env → Mask → (Nat → DWord) → Nat → DWord)
    (h : ∀ s, exec i s = runAlu i o wb s fun e m b s => e.finish i m o.d wd (f e m b) s) : Gives i o wb wd fun e b => f e (e.exm o.p) b := by
  intro s s' s'' e b hE hB
  obtain ⟨n, hn⟩ := hE.run fun e s => e.withB (e.exm o.p) o.b wb (widenOp o.ty) s fun b s => e.finish i (e.exm o.p) o.d wd (f e (e.exm o.p) b) s
  have hf := State.env_fields hE.env
  refine ⟨_, (h s).trans hn, ?_⟩
  simp only [hB.value fun b s => e.finish i (e.exm o.p) o.d wd (f e (e.exm o.p) b) s]
  exact Only.finish ⟨by rw [hB.strand]; exact hf.1, rfl⟩ hf.2.1 hf.2.2.1 hE.split rfl rfl (fun _ _ _ => rfl) ..

/-- Two functions that agree in the threads give the same result. -/
theorem Gives.congr {i : Instr} {o : Alu} {wb wd : Bool} {f g : Env → (Nat → DWord) → Nat → DWord}
    (h : Gives i o wb wd f) (hfg : ∀ e b u, u < 32 → f e b u = g e b u) : Gives i o wb wd g := by
  intro s s' s'' e b hE hB
  obtain ⟨t, ht, st, h1, h2, h3⟩ := h s s' s'' e b hE hB
  refine ⟨t, ht, st, h1, fun n u hu => ?_, h3⟩
  rw [h2 n u hu]
  cases wd <;> simp only [Env.withResult, Env.withPair, Env.withWord, hfg e b u hu, if_true, Bool.false_eq_true, if_false]

theorem map_range_getD {α : Type} (xs : List Nat) (f : Nat → α) : (List.range xs.length).map (fun k => f (xs.getD k 0)) = xs.map f := by
  apply List.ext_getElem
  · simp
  · intro i h1 h2
    simp at h1
    simp [h1]

theorem and_ofTest (m : Mask) (f : Nat → Bool) : m &&& Mask.ofTest f = Mask.ofTest fun u => m.getLsbD u && f u := by
  apply BitVec.eq_of_getLsbD_eq
  intro i hi
  simp [Mask.ofTest, hi]

/-- R107: recording flags. -/
theorem Only.withFlags {e : Env} {s : State} (hs : s.strand? e.who = some e.st) (fl : Flags) :
    Only e.who s (s.mapStrand e.who fun st => { st with sstat := addFlags st.sstat fl }) { e.st with sstat := addFlags e.st.sstat fl } :=
  (Only.refl hs).mapStrand fun st => { st with sstat := addFlags st.sstat fl }

/-- R107, R108: an instruction that records its flags and finishes, or traps. -/
theorem flags_finish {i : Instr} {o : Alu} {wd : Bool} {s s' s'' : State} {e : Env} {r : Nat → DWord × Flags} {n : Nat}
    (hs : s''.strand? e.who = some e.st) (hE : Enters i s s' e)
    (hn : exec i s = .next { e.finishFloat i (e.exm o.p) o.d wd r s'' with oracle := n }) : FlagsResult i o wd s s'' e r := by
  have hf := State.env_fields hE.env
  unfold FlagsResult
  dsimp only
  constructor
  · intro h
    refine ⟨_, hn, ?_⟩
    simp only [Env.finishFloat, Env.withFlags, h, ne_eq, not_true_eq_false, if_false]
    exact Only.finish (Only.withFlags hs _) hf.2.1 hf.2.2.1 hE.split rfl rfl (fun _ _ _ => rfl) ..
  · intro h
    refine ⟨_, Config.freeWord s''.oracle ++ Config.freeWord (s''.oracle + 1), hn, ?_⟩
    simp only [Env.finishFloat, Env.withFlags, h, ne_eq, not_false_eq_true, if_true]
    exact ⟨_, _, rfl⟩

/-- The floating-point instructions that compute from source B and write D. -/
theorem givesFlags_of {i : Instr} {o : Alu} {wb wd : Bool} (f : Env → Mask → (Nat → DWord) → Nat → DWord × Flags)
    (h : ∀ s, exec i s = runAlu i o wb s fun e m b s => e.finishFloat i m o.d wd (f e m b) s) :
    GivesFlags i o wb wd fun e b => f e (e.exm o.p) b := by
  intro s s' s'' e b hE hB
  obtain ⟨n, hn⟩ := hE.run fun e s => e.withB (e.exm o.p) o.b wb (widenOp o.ty) s fun b s => e.finishFloat i (e.exm o.p) o.d wd (f e (e.exm o.p) b) s
  have hf := State.env_fields hE.env
  refine flags_finish (n := n) (by rw [hB.strand]; exact hf.1) hE ?_
  rw [← hB.value fun b s => e.finishFloat i (e.exm o.p) o.d wd (f e (e.exm o.p) b) s]
  exact (h s).trans hn

theorem GivesFlags.congr {i : Instr} {o : Alu} {wb wd : Bool} {f g : Env → (Nat → DWord) → Nat → DWord × Flags}
    (h : GivesFlags i o wb wd f) (hfg : ∀ e b u, f e b u = g e b u) : GivesFlags i o wb wd g := by
  have : f = g := by funext e b u; exact hfg e b u
  exact this ▸ h

/-- R321: a result that is on its way. -/
theorem Only.later {e : Env} {s t : State} {st : Strand} (h : Only e.who s t st) (m : Mask) (d : RegNo) (f : Nat → Word) :
    Only e.who s (e.later m d f t) (if d = 0 ∨ m = 0 then st else
      { st.mapSplit e.k fun k => { k with score := k.score ++ [{ reg := d.toNat, mask := m }] } with
        inbound := st.inbound ++ [{ reg := d.toNat, vals := (Mask.threads m).map fun t => (t, f t) }] }) := by
  unfold Env.later
  by_cases hc : d = 0 ∨ m = 0
  · rw [if_pos (by simpa using hc), if_pos hc]; exact h
  · rw [if_neg (by simpa using hc), if_neg hc]
    exact h.mapStrand _

/-- R113 -/
theorem givesInt_of {i : Instr} {o : Alu} (f : Int → Int → Int → Int) (h : ∀ s, exec i s = arith i o f s) : GivesInt i o f := by
  have := gives_of (i := i) (o := o) (wb := o.ty.wide) (wd := o.ty.wide)
    (fun e m b t =>
      let x := f (readInt o.ty (e.srcA m o o.ty.wide t)) (readInt o.ty (b t)) (readInt o.ty ((e.reg o.c.toNat t).setWidth 64))
      placeInt o.ty (if o.sat then clampInt o.ty x else x)) h
  exact this

/-- R117 -/
theorem givesWord_of {i : Instr} {o : Alu} (f : Word → Word → Word → Word) (h : ∀ s, exec i s = wordOp i o f s) : GivesWord i o f := by
  have := gives_of (i := i) (o := o) (wb := false) (wd := false)
    (fun e m b t => (f (e.src m o.a o.ua t) (lowWord (b t)) (e.reg o.c.toNat t)).setWidth 64) h
  exact this

/-- R79, R126 -/
theorem givesCodes_of {i : Instr} {o : Alu} (f : Nat → Nat → Nat → Nat × Flags) (h : ∀ s, exec i s = floatCodes i o f s) : GivesCodes i o f := by
  have := givesFlags_of (i := i) (o := o) (wb := o.ty.wide) (wd := o.ty.wide)
    (fun e m b t => eachElement o.ty (e.srcA m o o.ty.wide t) (b t) (e.srcC o t) f) h
  exact this
/-- R126 -/
theorem givesFloat_of {i : Instr} {o : Alu} (f : Fp → Fp → Fp → Exact) (h : ∀ s, exec i s = floatOp i o f s) : GivesFloat i o f :=
  givesCodes_of (fun a b c => (Ty.ieee o.ty).deliver o.rm o.sat (f ((Ty.ieee o.ty).value a) ((Ty.ieee o.ty).value b) ((Ty.ieee o.ty).value c))) h


/-! ### Passing on, parking and trapping -/

/-- An instruction whose effect is to go on. -/
theorem Enters.passes {i : Instr} {s s' : State} {e : Env} {body : Env → State → State} (h : Enters i s s' e)
    (hx : exec i s = act i s body) (hb : body e s' = e.retire i s') : PassesOn e i s s' := by
  obtain ⟨n, hn⟩ := h.run body
  have hf := State.env_fields h.env
  refine ⟨_, hx.trans hn, ?_⟩
  rw [hb]
  exact (((Only.refl hf.1).retire i).oracle n).ran hf.2.1 hf.2.2.1 h.split rfl rfl (fun _ _ _ => rfl) rfl

/-- An instruction whose effect is a trap at its own address. -/
theorem Enters.raises {i : Instr} {s s' : State} {e : Env} {body : Env → State → State} {c : Cause} {a : DWord} (h : Enters i s s' e)
    (hx : exec i s = act i s body) (hb : body e s' = e.raise c a s') : ∃ t, exec i s = .next t ∧ Traps e s' t (e.trapOf c a) := by
  obtain ⟨n, hn⟩ := h.run body
  exact ⟨_, hx.trans hn, s'.oracle, n, by rw [hb]; rfl⟩

/-- A trap whose address no rule gives. -/
theorem Enters.raisesOpen {i : Instr} {s s' : State} {e : Env} {body : Env → State → State} {c : Cause} (h : Enters i s s' e)
    (hx : exec i s = act i s body) (hb : body e s' = e.raiseOpen c s') : ∃ t a, exec i s = .next t ∧ Traps e s' t (e.trapOf c a) := by
  obtain ⟨n, hn⟩ := h.run body
  exact ⟨_, Config.freeWord s'.oracle ++ Config.freeWord (s'.oracle + 1), hx.trans hn, s'.oracle + 2, n, by rw [hb]; rfl⟩

/-- An instruction whose effect is to park at its own address. -/
theorem Enters.parks {i : Instr} {s s' : State} {e : Env} {body : Env → State → State} {r : Nat} {c : Wake} {left : Option Nat} (h : Enters i s s' e)
    (hx : exec i s = act i s body) (hb : body e s' = e.hold r c s' left) : ∃ t, exec i s = .next t ∧ Parks e s' t r c left := by
  obtain ⟨n, hn⟩ := h.run body
  have hf := State.env_fields h.env
  refine ⟨_, hx.trans hn, ?_⟩
  rw [hb]
  have ho : Only e.who s' { e.hold r c s' left with oracle := n } _ :=
    ((Only.refl hf.1).bump.mapStrand fun st =>
      st.mapSplit (splitNo e.who) fun k => { k with st := .parked, again := true, mark := none, park := some { reason := r, cond := c, left := left } }).oracle n
  refine ⟨_, ⟨ho.strand, fun _ _ _ => rfl, rfl, rfl, ho.rest, fun a => by rw [State.mem_of_elsewhere ho.rest]⟩, rfl, ?_, ?_⟩
  · rw [← hf.2.1, Strand.split_mapSplit_self _ _ _ h.split, hf.2.2.1]
  · intro j hj
    rw [← hf.2.1]
    exact Strand.split_mapSplit_ne _ _ hj

end Sys2Proof.Machine
end

