-- ==== Sys2Proof/Laws/Memory.lean ====
section
/-! SUPPORT. Bytes of memory: what a read finds after a write, and that every operation on memory keeps its canonical
form (R217). -/

namespace Sys2Proof.Machine

/-! ### Bytes -/

/-- A byte read after a byte has been written. -/
theorem byteAt_setByte (m : List Host.Cell) (a c : Nat) (b : Byte) :
    byteAt (setByte m a b) c = if c = a then b else byteAt m c := readOr_write m a c b

theorem byteAt_setByte_ne {m : List Host.Cell} {a c : Nat} (b : Byte) (h : c ≠ a) : byteAt (setByte m a b) c = byteAt m c := by
  rw [byteAt_setByte, if_neg h]

/-- A byte read after a run of bytes has been written. -/
theorem byteAt_setBytes (m : List Host.Cell) (a c : Nat) (bs : List Byte) :
    byteAt (setBytes m a bs) c = if a ≤ c then bs.getD (c - a) (byteAt m c) else byteAt m c := by
  induction bs generalizing m a with
  | nil => simp [setBytes]
  | cons b bs ih =>
    rw [setBytes, ih, byteAt_setByte]
    by_cases h : a + 1 ≤ c
    · rw [if_pos h, if_pos (by omega : a ≤ c), if_neg (by omega : ¬c = a), show c - a = (c - (a + 1)) + 1 by omega]
      simp
    · rw [if_neg h]
      by_cases hc : c = a
      · subst hc; simp
      · rw [if_neg hc, if_neg (by omega)]

theorem byteAt_setBytes_outside {m : List Host.Cell} {a c : Nat} {bs : List Byte} (h : c < a ∨ a + bs.length ≤ c) :
    byteAt (setBytes m a bs) c = byteAt m c := by
  rw [byteAt_setBytes]
  split
  · rw [List.getD_eq_getElem?_getD, List.getElem?_eq_none (by omega)]
    rfl
  · rfl

/-- The n-th byte of a run. -/
theorem getElem?_bytesAt (m : List Host.Cell) (a n i : Nat) : (bytesAt m a n)[i]? = if i < n then some (byteAt m (a + i)) else none := by
  induction n generalizing a i with
  | zero => simp [bytesAt]
  | succ n ih =>
    cases i with
    | zero => simp [bytesAt]
    | succ i => simp [bytesAt, ih, show a + 1 + i = a + (i + 1) by omega]

@[simp] theorem length_bytesAt (m : List Host.Cell) (a n : Nat) : (bytesAt m a n).length = n := by
  induction n generalizing a with
  | zero => rfl
  | succ n ih => simp [bytesAt, ih]

theorem bytesAt_congr {m m' : List Host.Cell} {a n : Nat} (h : ∀ i < n, byteAt m (a + i) = byteAt m' (a + i)) : bytesAt m a n = bytesAt m' a n := by
  apply List.ext_getElem?
  intro i
  rw [getElem?_bytesAt, getElem?_bytesAt]
  split
  · rw [h i ‹_›]
  · rfl

/-! ### Lines -/

theorem byteAt_foldl_setByte (places : List Nat) (f : Nat → Byte) (base : Nat) (m : List Host.Cell) (c : Nat) :
    byteAt (places.foldl (fun m i => setByte m (base + i) (f i)) m) c =
      if base ≤ c ∧ c - base ∈ places then f (c - base) else byteAt m c := by
  induction places generalizing m with
  | nil => simp
  | cons p ps ih =>
    rw [List.foldl_cons, ih, byteAt_setByte]
    by_cases h : base ≤ c ∧ c - base ∈ ps
    · rw [if_pos h, if_pos ⟨h.1, List.mem_cons_of_mem _ h.2⟩]
    · rw [if_neg h]
      by_cases hc : c = base + p
      · subst hc; simp
      · have : ¬(base ≤ c ∧ c - base ∈ p :: ps) := by
          rintro ⟨h1, h2⟩
          rcases List.mem_cons.mp h2 with h2 | h2
          · omega
          · exact h ⟨h1, h2⟩
        rw [if_neg hc, if_neg this]

/-- R221: what a merge writes: the masked bytes of the line, and no other byte. -/
theorem byteAt_mergeLine (m : List Host.Cell) (line : Nat) (mask : BitVec 128) (data : BitVec 1024) (c : Nat) :
    byteAt (mergeLine m line mask data) c =
      if linePa line ≤ c ∧ mask.getLsbD (c - linePa line) = true then dataByte data (c - linePa line) else byteAt m c := by
  unfold mergeLine
  rw [byteAt_foldl_setByte]
  have : c - linePa line ∈ maskPlaces mask ↔ mask.getLsbD (c - linePa line) = true := by
    simp only [maskPlaces, List.mem_filter, List.mem_range, and_iff_right_iff_imp]
    exact BitVec.lt_of_getLsbD
  simp only [this]

theorem byteAt_merge (s : State) (line : Nat) (mask : BitVec 128) (data : BitVec 1024) (c : Nat) :
    byteAt (s.merge line mask data).mem c =
      if linePa line ≤ c ∧ mask.getLsbD (c - linePa line) = true then dataByte data (c - linePa line) else byteAt s.mem c :=
  byteAt_mergeLine ..

/-! ### The canonical form -/

theorem wf_setByte {m : List Host.Cell} (a : Nat) (b : Byte) (h : Memory.wf m = true) : Memory.wf (setByte m a b) = true :=
  canonical_write a b h

theorem wf_setBytes {m : List Host.Cell} (a : Nat) (bs : List Byte) (h : Memory.wf m = true) : Memory.wf (setBytes m a bs) = true := by
  induction bs generalizing m a with
  | nil => exact h
  | cons b bs ih => exact ih (a + 1) (wf_setByte a b h)

theorem wf_mergeLine {m : List Host.Cell} (line : Nat) (mask : BitVec 128) (data : BitVec 1024) (h : Memory.wf m = true) :
    Memory.wf (mergeLine m line mask data) = true := by
  unfold mergeLine
  generalize maskPlaces mask = ps
  induction ps generalizing m with
  | nil => exact h
  | cons p ps ih => exact ih (wf_setByte _ _ h)

/-- A state keeps the form of its memory where its memory is as it was. -/
theorem State.memoryWf_of_mem {s t : State} (h : t.mem = s.mem) (hs : s.memoryWf) : t.memoryWf := by
  unfold State.memoryWf at *
  rw [h]
  exact hs

theorem State.memoryWf_merge {s : State} (line : Nat) (mask : BitVec 128) (data : BitVec 1024) (h : s.memoryWf) :
    (s.merge line mask data).memoryWf := wf_mergeLine line mask data h

/-- A fold over a list keeps the form where each of its steps does. -/
theorem State.memoryWf_foldl {α : Type} (f : State → α → State) (hf : ∀ s x, s.memoryWf → (f s x).memoryWf) (xs : List α) {s : State}
    (h : s.memoryWf) : (xs.foldl f s).memoryWf := by
  induction xs generalizing s with
  | nil => exact h
  | cons x xs ih => exact ih (hf s x h)

theorem State.memoryWf_recall {s : State} (line : Nat) (h : s.memoryWf) : (s.recall line).memoryWf := by
  unfold State.recall
  refine State.memoryWf_foldl _ (fun s x hs => ?_) _ h
  dsimp only
  split
  · exact hs
  · split
    · exact hs
    · exact State.memoryWf_merge line _ _ hs

theorem State.memoryWf_homeRead {s : State} (pa n : Nat) (h : s.memoryWf) : (s.homeRead pa n).1.memoryWf :=
  State.memoryWf_foldl _ (fun _ line hs => State.memoryWf_recall line hs) _ h

theorem State.mem_dropSharers (s : State) (line : Nat) : (s.dropSharers line).mem = s.mem := rfl

theorem State.memoryWf_homeWriteLine {s : State} (pa : Nat) (bs : List Byte) (h : s.memoryWf) : (s.homeWriteLine pa bs).memoryWf :=
  State.memoryWf_merge _ _ _ (State.memoryWf_of_mem (State.mem_dropSharers _ _) (State.memoryWf_recall _ h))

theorem State.memoryWf_homeWrite {s : State} (pa : Nat) (bs : List Byte) (h : s.memoryWf) : (s.homeWrite pa bs).memoryWf := by
  unfold State.homeWrite
  split
  · exact h
  · exact State.memoryWf_foldl _ (fun s p hs => State.memoryWf_homeWriteLine p.1 p.2 hs) _ h

theorem wf_keep {m : List Host.Cell} (p : Nat → Byte → Bool) (h : Memory.wf m = true) : Memory.wf (keep m p) = true := canonical_keep p h

/-- R477: memory after reset has its canonical form. -/
theorem State.memoryWf_reset : State.reset.memoryWf := rfl

end Sys2Proof.Machine
end

