-- ==== Sys2Proof/Laws/PerInstr.lean ====
section
/-! SUPPORT. The fields of an instruction's word name the instruction (R33, R73), one lemma for each constructor. -/

namespace Sys2Proof.Laws.Fields

set_option linter.unusedSimpArgs false

/-- The fields that an instruction's word has are read back as that instruction. -/
def Statement (i : Instr) : Prop := ∀ r, i.raw = some r → r.instr = some i

/-! ### Codes -/

@[simp] theorem rm_ofCode (x : Rm) : Rm.ofCode x.code = x := by cases x <;> rfl
@[simp] theorem scope_ofCode (x : Scope) : Scope.ofCode x.code = x := by cases x <;> rfl
@[simp] theorem ord_ofCode (x : Ord) : Ord.ofCode x.code = x := by cases x <;> rfl
@[simp] theorem rt_ofCode (x : Rt) : Rt.ofCode x.code = x := by cases x <;> rfl
@[simp] theorem width_ofCode (x : Width) : Width.ofCode x.code = x := by cases x <;> rfl
@[simp] theorem level_ofCode (x : Level) : Level.ofCode x.code = x := by cases x <;> rfl
@[simp] theorem tlbKind_ofCode (x : TlbKind) : TlbKind.ofCode x.code = x := by cases x <;> rfl
@[simp] theorem collKind_ofCode (x : CollKind) : CollKind.ofCode x.code = x := by cases x <;> rfl
@[simp] theorem collOp_ofCode (x : CollOp) : CollOp.ofCode x.code = x := by cases x <;> rfl
@[simp] theorem ty_ofCode (x : Ty) : Ty.ofCode x.code = x := by cases x <;> rfl

/-! ### Fields of concatenations -/

theorem low_append {n m : Nat} (x : BitVec n) (y : BitVec m) : (x ++ y).extractLsb' 0 m = y := by
  ext i hi
  simp only [BitVec.getElem_extractLsb', BitVec.getLsbD_append]
  rw [if_pos (by omega), Nat.zero_add, BitVec.getLsbD_eq_getElem]

theorem extract_low {n m : Nat} (x : BitVec n) (y : BitVec m) (k len : Nat) (h : k + len ≤ m) :
    (x ++ y).extractLsb' k len = y.extractLsb' k len := by
  ext i hi
  simp only [BitVec.getElem_extractLsb', BitVec.getLsbD_append]
  rw [if_pos (by omega)]

theorem extract_high {n m : Nat} (x : BitVec n) (y : BitVec m) (k len : Nat) (h : m ≤ k) :
    (x ++ y).extractLsb' k len = x.extractLsb' (k - m) len := by
  ext i hi
  simp only [BitVec.getElem_extractLsb', BitVec.getLsbD_append]
  rw [if_neg (by omega)]
  congr 1; omega

theorem extract_all {n : Nat} (x : BitVec n) : x.extractLsb' 0 n = x := by ext i hi; simp

theorem extract_setWidth {n m : Nat} (x : BitVec n) (k len : Nat) (h : k + len ≤ m) : (x.setWidth m).extractLsb' k len = x.extractLsb' k len := by
  ext i hi
  simp [BitVec.getElem_extractLsb', BitVec.getLsbD_setWidth]
  omega

theorem setWidth_low {n m : Nat} (x : BitVec n) (y : BitVec m) : (x ++ y).setWidth m = y := by
  ext i hi
  simp only [BitVec.getElem_setWidth, BitVec.getLsbD_append]
  rw [if_pos hi, BitVec.getLsbD_eq_getElem]

theorem bit_setWidth {n m : Nat} (x : BitVec n) (k : Nat) (h : k < m) : (x.setWidth m).getLsbD k = x.getLsbD k := by
  simp [h]

theorem setWidth_extract {n : Nat} (x : BitVec n) : x.setWidth n = x := by simp

theorem bit_low {n m : Nat} (x : BitVec n) (y : BitVec m) (k : Nat) (h : k < m) : (x ++ y).getLsbD k = y.getLsbD k := by
  rw [BitVec.getLsbD_append, if_pos h]

theorem bit_high {n m : Nat} (x : BitVec n) (y : BitVec m) (k : Nat) (h : m ≤ k) : (x ++ y).getLsbD k = x.getLsbD (k - m) := by
  rw [BitVec.getLsbD_append, if_neg (by omega)]

@[simp] theorem bit_ofBool (b : Bool) : (BitVec.ofBool b).getLsbD 0 = b := by cases b <;> rfl

/-! ### The groups whose operands are one record -/

theorem alu_raw (op : BitVec 9) (o : Alu) : (o.raw op).op = op ∧ (o.raw op).alu = o := by
  rcases o with ⟨p, ty, sub, rm, sat, pt, d, a, ua, b, c⟩
  cases b <;>
  · refine ⟨rfl, ?_⟩
    simp (disch := omega) only [Alu.raw, Raw.alu, Pre.raw, Raw.pre, Alu.func, Raw.srcB, extract_low, extract_high, bit_low, bit_high,
      extract_all, extract_setWidth]
    simp

theorem mem_raw (op : BitVec 9) (o : Mem) : (o.raw op).op = op ∧ (o.raw op).mem = o := by
  rcases o with ⟨p, w, sx, rt, ord, sc, last, d, a, ua, b, ub, c, x⟩
  cases x <;>
  · refine ⟨rfl, ?_⟩
    simp (disch := omega) only [Mem.raw, Raw.mem, Pre.raw, Raw.pre, memFunc, Raw.rt, Raw.sc, Raw.xWord, extract_low, extract_high, bit_low, bit_high,
      extract_all, extract_setWidth]
    simp

theorem fields_alu {i : Instr} {op : BitVec 9} {o : Alu} (h : i.aluView = some (op, o)) (hi : Instr.ofAlu op o = some i) : Statement i := by
  intro r hr
  simp only [Instr.raw, h, Option.some.injEq] at hr
  subst hr
  simp only [Raw.instr, (alu_raw op o).1, (alu_raw op o).2, hi]

theorem fields_mem {i : Instr} {op : BitVec 9} {o : Mem} (ha : i.aluView = none) (h : i.memView = some (op, o)) (hn : ∀ x, Instr.ofAlu op x = none)
    (hi : Instr.ofMem op o = some i) : Statement i := by
  intro r hr
  simp only [Instr.raw, ha, h, Option.some.injEq] at hr
  subst hr
  simp only [Raw.instr, (mem_raw op o).1, (mem_raw op o).2, hn, hi]

theorem fields_other {i : Instr} (r₀ : Raw) (ha : i.aluView = none) (hm : i.memView = none) (h : i.rawOther = some r₀)
    (hna : ∀ x, Instr.ofAlu r₀.op x = none) (hnm : ∀ x, Instr.ofMem r₀.op x = none) (hi : r₀.other = some i) : Statement i := by
  intro r hr
  simp only [Instr.raw, ha, hm, h, Option.some.injEq] at hr
  subst hr
  simp only [Raw.instr, hna, hnm, hi]

theorem fields_event {i : Instr} (h : i.raw = none) : Statement i := by
  intro r hr
  rw [h] at hr
  cases hr

/-! ### One lemma for each constructor -/

/-- The fields of `movw`, `srd`, `swr`, `nop`, `braUniform`, `braDivergent`. -/
theorem group0 :
    (∀ (p : Pre) (d : RegNo) (imm : DWord), Statement (.movw p d imm)) ∧
    (∀ (p : Pre) (d : RegNo) (n : BitVec 12), Statement (.srd p d n)) ∧
    (∀ (p : Pre) (a : RegNo) (ua : Bool) (n : BitVec 12), Statement (.swr p a ua n)) ∧
    (∀ (p : Pre), Statement (.nop p)) ∧
    (∀ (p : Pre) (x : Word), Statement (.braUniform p x)) ∧
    (∀ (p : Pre) (x j : Word), Statement (.braDivergent p x j)) := by
  refine ⟨?_, ?_, ?_, ?_, ?_, ?_⟩
  · intro p d imm
    refine fields_other _ rfl rfl rfl (fun _ => rfl) (fun _ => rfl) (congrArg some ?_)
    simp (disch := omega) only [Pre.raw, Raw.pre, Num.put, Raw.num, Raw.xWord, Raw.copy, Copy.raw, memFunc, Raw.rt, Raw.sc, extract_low, extract_high, bit_low, bit_high, extract_all, extract_setWidth, setWidth_extract, setWidth_low, bit_setWidth]
    try simp
  · intro p d n
    refine fields_other _ rfl rfl rfl (fun _ => rfl) (fun _ => rfl) (congrArg some ?_)
    simp (disch := omega) only [Pre.raw, Raw.pre, Num.put, Raw.num, Raw.xWord, Raw.copy, Copy.raw, memFunc, Raw.rt, Raw.sc, extract_low, extract_high, bit_low, bit_high, extract_all, extract_setWidth, setWidth_extract, setWidth_low, bit_setWidth]
    try simp
  · intro p a ua n
    refine fields_other _ rfl rfl rfl (fun _ => rfl) (fun _ => rfl) (congrArg some ?_)
    simp (disch := omega) only [Pre.raw, Raw.pre, Num.put, Raw.num, Raw.xWord, Raw.copy, Copy.raw, memFunc, Raw.rt, Raw.sc, extract_low, extract_high, bit_low, bit_high, extract_all, extract_setWidth, setWidth_extract, setWidth_low, bit_setWidth]
    try simp
  · intro p
    refine fields_other _ rfl rfl rfl (fun _ => rfl) (fun _ => rfl) (congrArg some ?_)
    simp (disch := omega) only [Pre.raw, Raw.pre, Num.put, Raw.num, Raw.xWord, Raw.copy, Copy.raw, memFunc, Raw.rt, Raw.sc, extract_low, extract_high, bit_low, bit_high, extract_all, extract_setWidth, setWidth_extract, setWidth_low, bit_setWidth]
    try simp
  · intro p x
    refine fields_other _ rfl rfl rfl (fun _ => rfl) (fun _ => rfl) (congrArg some ?_)
    simp (disch := omega) only [Pre.raw, Raw.pre, Num.put, Raw.num, Raw.xWord, Raw.copy, Copy.raw, memFunc, Raw.rt, Raw.sc, extract_low, extract_high, bit_low, bit_high, extract_all, extract_setWidth, setWidth_extract, setWidth_low, bit_setWidth]
    try simp
  · intro p x j
    refine fields_other _ rfl rfl rfl (fun _ => rfl) (fun _ => rfl) (congrArg some ?_)
    simp (disch := omega) only [Pre.raw, Raw.pre, Num.put, Raw.num, Raw.xWord, Raw.copy, Copy.raw, memFunc, Raw.rt, Raw.sc, extract_low, extract_high, bit_low, bit_high, extract_all, extract_setWidth, setWidth_extract, setWidth_low, bit_setWidth]
    try simp

/-- The fields of `brx`, `call`, `calx`, `ret`, `join`, `exit`. -/
theorem group1 :
    (∀ (p : Pre) (a : RegNo) (ua : Bool), Statement (.brx p a ua)) ∧
    (∀ (p : Pre) (x : Word), Statement (.call p x)) ∧
    (∀ (p : Pre) (a : RegNo) (ua : Bool), Statement (.calx p a ua)) ∧
    (∀ (p : Pre) (a : RegNo) (ua : Bool), Statement (.ret p a ua)) ∧
    (∀ (p : Pre), Statement (.join p)) ∧
    (∀ (p : Pre), Statement (.exit p)) := by
  refine ⟨?_, ?_, ?_, ?_, ?_, ?_⟩
  · intro p a ua
    refine fields_other _ rfl rfl rfl (fun _ => rfl) (fun _ => rfl) (congrArg some ?_)
    simp (disch := omega) only [Pre.raw, Raw.pre, Num.put, Raw.num, Raw.xWord, Raw.copy, Copy.raw, memFunc, Raw.rt, Raw.sc, extract_low, extract_high, bit_low, bit_high, extract_all, extract_setWidth, setWidth_extract, setWidth_low, bit_setWidth]
    try simp
  · intro p x
    refine fields_other _ rfl rfl rfl (fun _ => rfl) (fun _ => rfl) (congrArg some ?_)
    simp (disch := omega) only [Pre.raw, Raw.pre, Num.put, Raw.num, Raw.xWord, Raw.copy, Copy.raw, memFunc, Raw.rt, Raw.sc, extract_low, extract_high, bit_low, bit_high, extract_all, extract_setWidth, setWidth_extract, setWidth_low, bit_setWidth]
    try simp
  · intro p a ua
    refine fields_other _ rfl rfl rfl (fun _ => rfl) (fun _ => rfl) (congrArg some ?_)
    simp (disch := omega) only [Pre.raw, Raw.pre, Num.put, Raw.num, Raw.xWord, Raw.copy, Copy.raw, memFunc, Raw.rt, Raw.sc, extract_low, extract_high, bit_low, bit_high, extract_all, extract_setWidth, setWidth_extract, setWidth_low, bit_setWidth]
    try simp
  · intro p a ua
    refine fields_other _ rfl rfl rfl (fun _ => rfl) (fun _ => rfl) (congrArg some ?_)
    simp (disch := omega) only [Pre.raw, Raw.pre, Num.put, Raw.num, Raw.xWord, Raw.copy, Copy.raw, memFunc, Raw.rt, Raw.sc, extract_low, extract_high, bit_low, bit_high, extract_all, extract_setWidth, setWidth_extract, setWidth_low, bit_setWidth]
    try simp
  · intro p
    refine fields_other _ rfl rfl rfl (fun _ => rfl) (fun _ => rfl) (congrArg some ?_)
    simp (disch := omega) only [Pre.raw, Raw.pre, Num.put, Raw.num, Raw.xWord, Raw.copy, Copy.raw, memFunc, Raw.rt, Raw.sc, extract_low, extract_high, bit_low, bit_high, extract_all, extract_setWidth, setWidth_extract, setWidth_low, bit_setWidth]
    try simp
  · intro p
    refine fields_other _ rfl rfl rfl (fun _ => rfl) (fun _ => rfl) (congrArg some ?_)
    simp (disch := omega) only [Pre.raw, Raw.pre, Num.put, Raw.num, Raw.xWord, Raw.copy, Copy.raw, memFunc, Raw.rt, Raw.sc, extract_low, extract_high, bit_low, bit_high, extract_all, extract_setWidth, setWidth_extract, setWidth_low, bit_setWidth]
    try simp

/-- The fields of `trap`, `brk`, `yieldw`, `wait`, `prog`, `cpmm`. -/
theorem group2 :
    (∀ (p : Pre) (code : Byte), Statement (.trap p code)) ∧
    (∀ (p : Pre) (tag : BitVec 7), Statement (.brk p tag)) ∧
    (∀ (p : Pre), Statement (.yieldw p)) ∧
    (∀ (p : Pre) (n : Num), Statement (.wait p n)) ∧
    (∀ (p : Pre) (n : Num), Statement (.prog p n)) ∧
    (∀ (o : Cpmm), Statement (.cpmm o)) := by
  refine ⟨?_, ?_, ?_, ?_, ?_, ?_⟩
  · intro p code
    refine fields_other _ rfl rfl rfl (fun _ => rfl) (fun _ => rfl) (congrArg some ?_)
    simp (disch := omega) only [Pre.raw, Raw.pre, Num.put, Raw.num, Raw.xWord, Raw.copy, Copy.raw, memFunc, Raw.rt, Raw.sc, extract_low, extract_high, bit_low, bit_high, extract_all, extract_setWidth, setWidth_extract, setWidth_low, bit_setWidth]
    try simp
  · intro p tag
    refine fields_other _ rfl rfl rfl (fun _ => rfl) (fun _ => rfl) (congrArg some ?_)
    simp (disch := omega) only [Pre.raw, Raw.pre, Num.put, Raw.num, Raw.xWord, Raw.copy, Copy.raw, memFunc, Raw.rt, Raw.sc, extract_low, extract_high, bit_low, bit_high, extract_all, extract_setWidth, setWidth_extract, setWidth_low, bit_setWidth]
    try simp
  · intro p
    refine fields_other _ rfl rfl rfl (fun _ => rfl) (fun _ => rfl) (congrArg some ?_)
    simp (disch := omega) only [Pre.raw, Raw.pre, Num.put, Raw.num, Raw.xWord, Raw.copy, Copy.raw, memFunc, Raw.rt, Raw.sc, extract_low, extract_high, bit_low, bit_high, extract_all, extract_setWidth, setWidth_extract, setWidth_low, bit_setWidth]
    try simp
  · intro p n
    cases n <;>
    · refine fields_other _ rfl rfl rfl (fun _ => rfl) (fun _ => rfl) (congrArg some ?_)
      simp (disch := omega) only [Pre.raw, Raw.pre, Num.put, Raw.num, Raw.xWord, Raw.copy, Copy.raw, memFunc, Raw.rt, Raw.sc, extract_low, extract_high, bit_low, bit_high, extract_all, extract_setWidth, setWidth_extract, setWidth_low, bit_setWidth]
      try simp
  · intro p n
    cases n <;>
    · refine fields_other _ rfl rfl rfl (fun _ => rfl) (fun _ => rfl) (congrArg some ?_)
      simp (disch := omega) only [Pre.raw, Raw.pre, Num.put, Raw.num, Raw.xWord, Raw.copy, Copy.raw, memFunc, Raw.rt, Raw.sc, extract_low, extract_high, bit_low, bit_high, extract_all, extract_setWidth, setWidth_extract, setWidth_low, bit_setWidth]
      try simp
  · intro o
    refine fields_other _ rfl rfl rfl (fun _ => rfl) (fun _ => rfl) (congrArg some ?_)
    simp (disch := omega) only [Pre.raw, Raw.pre, Num.put, Raw.num, Raw.xWord, Raw.copy, Copy.raw, memFunc, Raw.rt, Raw.sc, extract_low, extract_high, bit_low, bit_high, extract_all, extract_setWidth, setWidth_extract, setWidth_low, bit_setWidth]
    try simp

/-- The fields of `coll`, `tdset`, `tdget`, `tlset`, `tlst`, `tlwait`. -/
theorem group3 :
    (∀ (o : Coll), Statement (.coll o)) ∧
    (∀ (p : Pre) (a b : RegNo), Statement (.tdset p a b)) ∧
    (∀ (p : Pre) (d b : RegNo), Statement (.tdget p d b)) ∧
    (∀ (p : Pre) (a : RegNo) (id : Num), Statement (.tlset p a id)) ∧
    (∀ (p : Pre) (d b : RegNo), Statement (.tlst p d b)) ∧
    (∀ (p : Pre) (d b : RegNo), Statement (.tlwait p d b)) := by
  refine ⟨?_, ?_, ?_, ?_, ?_, ?_⟩
  · intro o
    refine fields_other _ rfl rfl rfl (fun _ => rfl) (fun _ => rfl) (congrArg some ?_)
    simp (disch := omega) only [Pre.raw, Raw.pre, Num.put, Raw.num, Raw.xWord, Raw.copy, Copy.raw, memFunc, Raw.rt, Raw.sc, extract_low, extract_high, bit_low, bit_high, extract_all, extract_setWidth, setWidth_extract, setWidth_low, bit_setWidth]
    try simp
  · intro p a b
    refine fields_other _ rfl rfl rfl (fun _ => rfl) (fun _ => rfl) (congrArg some ?_)
    simp (disch := omega) only [Pre.raw, Raw.pre, Num.put, Raw.num, Raw.xWord, Raw.copy, Copy.raw, memFunc, Raw.rt, Raw.sc, extract_low, extract_high, bit_low, bit_high, extract_all, extract_setWidth, setWidth_extract, setWidth_low, bit_setWidth]
    try simp
  · intro p d b
    refine fields_other _ rfl rfl rfl (fun _ => rfl) (fun _ => rfl) (congrArg some ?_)
    simp (disch := omega) only [Pre.raw, Raw.pre, Num.put, Raw.num, Raw.xWord, Raw.copy, Copy.raw, memFunc, Raw.rt, Raw.sc, extract_low, extract_high, bit_low, bit_high, extract_all, extract_setWidth, setWidth_extract, setWidth_low, bit_setWidth]
    try simp
  · intro p a id
    cases id <;>
    · refine fields_other _ rfl rfl rfl (fun _ => rfl) (fun _ => rfl) (congrArg some ?_)
      simp (disch := omega) only [Pre.raw, Raw.pre, Num.put, Raw.num, Raw.xWord, Raw.copy, Copy.raw, memFunc, Raw.rt, Raw.sc, extract_low, extract_high, bit_low, bit_high, extract_all, extract_setWidth, setWidth_extract, setWidth_low, bit_setWidth]
      try simp
  · intro p d b
    refine fields_other _ rfl rfl rfl (fun _ => rfl) (fun _ => rfl) (congrArg some ?_)
    simp (disch := omega) only [Pre.raw, Raw.pre, Num.put, Raw.num, Raw.xWord, Raw.copy, Copy.raw, memFunc, Raw.rt, Raw.sc, extract_low, extract_high, bit_low, bit_high, extract_all, extract_setWidth, setWidth_extract, setWidth_low, bit_setWidth]
    try simp
  · intro p d b
    refine fields_other _ rfl rfl rfl (fun _ => rfl) (fun _ => rfl) (congrArg some ?_)
    simp (disch := omega) only [Pre.raw, Raw.pre, Num.put, Raw.num, Raw.xWord, Raw.copy, Copy.raw, memFunc, Raw.rt, Raw.sc, extract_low, extract_high, bit_low, bit_high, extract_all, extract_setWidth, setWidth_extract, setWidth_low, bit_setWidth]
    try simp

/-- The fields of `tlfree`, `vclaim`, `vrel`, `cpin`, `cpout`, `gth`. -/
theorem group4 :
    (∀ (p : Pre) (b : RegNo), Statement (.tlfree p b)) ∧
    (∀ (p : Pre) (d b : RegNo), Statement (.vclaim p d b)) ∧
    (∀ (p : Pre) (b : RegNo), Statement (.vrel p b)) ∧
    (∀ (o : Copy), Statement (.cpin o)) ∧
    (∀ (o : Copy), Statement (.cpout o)) ∧
    (∀ (o : Copy), Statement (.gth o)) := by
  refine ⟨?_, ?_, ?_, ?_, ?_, ?_⟩
  · intro p b
    refine fields_other _ rfl rfl rfl (fun _ => rfl) (fun _ => rfl) (congrArg some ?_)
    simp (disch := omega) only [Pre.raw, Raw.pre, Num.put, Raw.num, Raw.xWord, Raw.copy, Copy.raw, memFunc, Raw.rt, Raw.sc, extract_low, extract_high, bit_low, bit_high, extract_all, extract_setWidth, setWidth_extract, setWidth_low, bit_setWidth]
    try simp
  · intro p d b
    refine fields_other _ rfl rfl rfl (fun _ => rfl) (fun _ => rfl) (congrArg some ?_)
    simp (disch := omega) only [Pre.raw, Raw.pre, Num.put, Raw.num, Raw.xWord, Raw.copy, Copy.raw, memFunc, Raw.rt, Raw.sc, extract_low, extract_high, bit_low, bit_high, extract_all, extract_setWidth, setWidth_extract, setWidth_low, bit_setWidth]
    try simp
  · intro p b
    refine fields_other _ rfl rfl rfl (fun _ => rfl) (fun _ => rfl) (congrArg some ?_)
    simp (disch := omega) only [Pre.raw, Raw.pre, Num.put, Raw.num, Raw.xWord, Raw.copy, Copy.raw, memFunc, Raw.rt, Raw.sc, extract_low, extract_high, bit_low, bit_high, extract_all, extract_setWidth, setWidth_extract, setWidth_low, bit_setWidth]
    try simp
  · intro o
    refine fields_other _ rfl rfl rfl (fun _ => rfl) (fun _ => rfl) (congrArg some ?_)
    simp (disch := omega) only [Pre.raw, Raw.pre, Num.put, Raw.num, Raw.xWord, Raw.copy, Copy.raw, memFunc, Raw.rt, Raw.sc, extract_low, extract_high, bit_low, bit_high, extract_all, extract_setWidth, setWidth_extract, setWidth_low, bit_setWidth]
    try simp
  · intro o
    refine fields_other _ rfl rfl rfl (fun _ => rfl) (fun _ => rfl) (congrArg some ?_)
    simp (disch := omega) only [Pre.raw, Raw.pre, Num.put, Raw.num, Raw.xWord, Raw.copy, Copy.raw, memFunc, Raw.rt, Raw.sc, extract_low, extract_high, bit_low, bit_high, extract_all, extract_setWidth, setWidth_extract, setWidth_low, bit_setWidth]
    try simp
  · intro o
    refine fields_other _ rfl rfl rfl (fun _ => rfl) (fun _ => rfl) (congrArg some ?_)
    simp (disch := omega) only [Pre.raw, Raw.pre, Num.put, Raw.num, Raw.xWord, Raw.copy, Copy.raw, memFunc, Raw.rt, Raw.sc, extract_low, extract_high, bit_low, bit_high, extract_all, extract_setWidth, setWidth_extract, setWidth_low, bit_setWidth]
    try simp

/-- The fields of `sct`, `opfence`, `post`, `tkwait`, `tktest`, `tkfree`. -/
theorem group5 :
    (∀ (o : Copy), Statement (.sct o)) ∧
    (∀ (p : Pre), Statement (.opfence p)) ∧
    (∀ (p : Pre) (d a : RegNo) (sc : Scope), Statement (.post p d a sc)) ∧
    (∀ (p : Pre) (d a : RegNo) (n : BitVec 3), Statement (.tkwait p d a n)) ∧
    (∀ (p : Pre) (d a : RegNo), Statement (.tktest p d a)) ∧
    (∀ (p : Pre) (a : RegNo), Statement (.tkfree p a)) := by
  refine ⟨?_, ?_, ?_, ?_, ?_, ?_⟩
  · intro o
    refine fields_other _ rfl rfl rfl (fun _ => rfl) (fun _ => rfl) (congrArg some ?_)
    simp (disch := omega) only [Pre.raw, Raw.pre, Num.put, Raw.num, Raw.xWord, Raw.copy, Copy.raw, memFunc, Raw.rt, Raw.sc, extract_low, extract_high, bit_low, bit_high, extract_all, extract_setWidth, setWidth_extract, setWidth_low, bit_setWidth]
    try simp
  · intro p
    refine fields_other _ rfl rfl rfl (fun _ => rfl) (fun _ => rfl) (congrArg some ?_)
    simp (disch := omega) only [Pre.raw, Raw.pre, Num.put, Raw.num, Raw.xWord, Raw.copy, Copy.raw, memFunc, Raw.rt, Raw.sc, extract_low, extract_high, bit_low, bit_high, extract_all, extract_setWidth, setWidth_extract, setWidth_low, bit_setWidth]
    try simp
  · intro p d a sc
    refine fields_other _ rfl rfl rfl (fun _ => rfl) (fun _ => rfl) (congrArg some ?_)
    simp (disch := omega) only [Pre.raw, Raw.pre, Num.put, Raw.num, Raw.xWord, Raw.copy, Copy.raw, memFunc, Raw.rt, Raw.sc, extract_low, extract_high, bit_low, bit_high, extract_all, extract_setWidth, setWidth_extract, setWidth_low, bit_setWidth]
    try simp
  · intro p d a n
    refine fields_other _ rfl rfl rfl (fun _ => rfl) (fun _ => rfl) (congrArg some ?_)
    simp (disch := omega) only [Pre.raw, Raw.pre, Num.put, Raw.num, Raw.xWord, Raw.copy, Copy.raw, memFunc, Raw.rt, Raw.sc, extract_low, extract_high, bit_low, bit_high, extract_all, extract_setWidth, setWidth_extract, setWidth_low, bit_setWidth]
    try simp
  · intro p d a
    refine fields_other _ rfl rfl rfl (fun _ => rfl) (fun _ => rfl) (congrArg some ?_)
    simp (disch := omega) only [Pre.raw, Raw.pre, Num.put, Raw.num, Raw.xWord, Raw.copy, Copy.raw, memFunc, Raw.rt, Raw.sc, extract_low, extract_high, bit_low, bit_high, extract_all, extract_setWidth, setWidth_extract, setWidth_low, bit_setWidth]
    try simp
  · intro p a
    refine fields_other _ rfl rfl rfl (fun _ => rfl) (fun _ => rfl) (congrArg some ?_)
    simp (disch := omega) only [Pre.raw, Raw.pre, Num.put, Raw.num, Raw.xWord, Raw.copy, Copy.raw, memFunc, Raw.rt, Raw.sc, extract_low, extract_high, bit_low, bit_high, extract_all, extract_setWidth, setWidth_extract, setWidth_low, bit_setWidth]
    try simp

/-- The fields of `fcset`, `fcpub`, `fcstat`, `bara`, `barw`, `bars`. -/
theorem group6 :
    (∀ (p : Pre) (a : RegNo) (desc : Num), Statement (.fcset p a desc)) ∧
    (∀ (p : Pre) (a b : RegNo), Statement (.fcpub p a b)) ∧
    (∀ (p : Pre) (d b : RegNo), Statement (.fcstat p d b)) ∧
    (∀ (p : Pre) (d : RegNo) (id : Num) (lvl : Level) (rmask : Byte), Statement (.bara p d id lvl rmask)) ∧
    (∀ (p : Pre) (d a : RegNo), Statement (.barw p d a)) ∧
    (∀ (p : Pre) (d : RegNo) (id : Num) (lvl : Level) (rmask : Byte), Statement (.bars p d id lvl rmask)) := by
  refine ⟨?_, ?_, ?_, ?_, ?_, ?_⟩
  · intro p a desc
    cases desc <;>
    · refine fields_other _ rfl rfl rfl (fun _ => rfl) (fun _ => rfl) (congrArg some ?_)
      simp (disch := omega) only [Pre.raw, Raw.pre, Num.put, Raw.num, Raw.xWord, Raw.copy, Copy.raw, memFunc, Raw.rt, Raw.sc, extract_low, extract_high, bit_low, bit_high, extract_all, extract_setWidth, setWidth_extract, setWidth_low, bit_setWidth]
      try simp
  · intro p a b
    refine fields_other _ rfl rfl rfl (fun _ => rfl) (fun _ => rfl) (congrArg some ?_)
    simp (disch := omega) only [Pre.raw, Raw.pre, Num.put, Raw.num, Raw.xWord, Raw.copy, Copy.raw, memFunc, Raw.rt, Raw.sc, extract_low, extract_high, bit_low, bit_high, extract_all, extract_setWidth, setWidth_extract, setWidth_low, bit_setWidth]
    try simp
  · intro p d b
    refine fields_other _ rfl rfl rfl (fun _ => rfl) (fun _ => rfl) (congrArg some ?_)
    simp (disch := omega) only [Pre.raw, Raw.pre, Num.put, Raw.num, Raw.xWord, Raw.copy, Copy.raw, memFunc, Raw.rt, Raw.sc, extract_low, extract_high, bit_low, bit_high, extract_all, extract_setWidth, setWidth_extract, setWidth_low, bit_setWidth]
    try simp
  · intro p d id lvl rmask
    cases id <;>
    · refine fields_other _ rfl rfl rfl (fun _ => rfl) (fun _ => rfl) (congrArg some ?_)
      simp (disch := omega) only [Pre.raw, Raw.pre, Num.put, Raw.num, Raw.xWord, Raw.copy, Copy.raw, memFunc, Raw.rt, Raw.sc, extract_low, extract_high, bit_low, bit_high, extract_all, extract_setWidth, setWidth_extract, setWidth_low, bit_setWidth]
      try simp
  · intro p d a
    refine fields_other _ rfl rfl rfl (fun _ => rfl) (fun _ => rfl) (congrArg some ?_)
    simp (disch := omega) only [Pre.raw, Raw.pre, Num.put, Raw.num, Raw.xWord, Raw.copy, Copy.raw, memFunc, Raw.rt, Raw.sc, extract_low, extract_high, bit_low, bit_high, extract_all, extract_setWidth, setWidth_extract, setWidth_low, bit_setWidth]
    try simp
  · intro p d id lvl rmask
    cases id <;>
    · refine fields_other _ rfl rfl rfl (fun _ => rfl) (fun _ => rfl) (congrArg some ?_)
      simp (disch := omega) only [Pre.raw, Raw.pre, Num.put, Raw.num, Raw.xWord, Raw.copy, Copy.raw, memFunc, Raw.rt, Raw.sc, extract_low, extract_high, bit_low, bit_high, extract_all, extract_setWidth, setWidth_extract, setWidth_low, bit_setWidth]
      try simp

/-- The fields of `qpush`, `qpop`, `rgive`, `rclaim`, `sint`, `ship`. -/
theorem group7 :
    (∀ (p : Pre) (d a : RegNo) (q : BitVec 4) (spm nb : Bool), Statement (.qpush p d a q spm nb)) ∧
    (∀ (p : Pre) (d a : RegNo) (q : BitVec 4) (spm nb : Bool), Statement (.qpop p d a q spm nb)) ∧
    (∀ (p : Pre) (n : Num), Statement (.rgive p n)) ∧
    (∀ (p : Pre) (d : RegNo) (n : Num) (nb : Bool), Statement (.rclaim p d n nb)) ∧
    (∀ (p : Pre) (a : RegNo) (svc : Bool), Statement (.sint p a svc)) ∧
    (∀ (o : Ship), Statement (.ship o)) := by
  refine ⟨?_, ?_, ?_, ?_, ?_, ?_⟩
  · intro p d a q spm nb
    refine fields_other _ rfl rfl rfl (fun _ => rfl) (fun _ => rfl) (congrArg some ?_)
    simp (disch := omega) only [Pre.raw, Raw.pre, Num.put, Raw.num, Raw.xWord, Raw.copy, Copy.raw, memFunc, Raw.rt, Raw.sc, extract_low, extract_high, bit_low, bit_high, extract_all, extract_setWidth, setWidth_extract, setWidth_low, bit_setWidth]
    try simp
  · intro p d a q spm nb
    refine fields_other _ rfl rfl rfl (fun _ => rfl) (fun _ => rfl) (congrArg some ?_)
    simp (disch := omega) only [Pre.raw, Raw.pre, Num.put, Raw.num, Raw.xWord, Raw.copy, Copy.raw, memFunc, Raw.rt, Raw.sc, extract_low, extract_high, bit_low, bit_high, extract_all, extract_setWidth, setWidth_extract, setWidth_low, bit_setWidth]
    try simp
  · intro p n
    cases n <;>
    · refine fields_other _ rfl rfl rfl (fun _ => rfl) (fun _ => rfl) (congrArg some ?_)
      simp (disch := omega) only [Pre.raw, Raw.pre, Num.put, Raw.num, Raw.xWord, Raw.copy, Copy.raw, memFunc, Raw.rt, Raw.sc, extract_low, extract_high, bit_low, bit_high, extract_all, extract_setWidth, setWidth_extract, setWidth_low, bit_setWidth]
      try simp
  · intro p d n nb
    cases n <;>
    · refine fields_other _ rfl rfl rfl (fun _ => rfl) (fun _ => rfl) (congrArg some ?_)
      simp (disch := omega) only [Pre.raw, Raw.pre, Num.put, Raw.num, Raw.xWord, Raw.copy, Copy.raw, memFunc, Raw.rt, Raw.sc, extract_low, extract_high, bit_low, bit_high, extract_all, extract_setWidth, setWidth_extract, setWidth_low, bit_setWidth]
      try simp
  · intro p a svc
    refine fields_other _ rfl rfl rfl (fun _ => rfl) (fun _ => rfl) (congrArg some ?_)
    simp (disch := omega) only [Pre.raw, Raw.pre, Num.put, Raw.num, Raw.xWord, Raw.copy, Copy.raw, memFunc, Raw.rt, Raw.sc, extract_low, extract_high, bit_low, bit_high, extract_all, extract_setWidth, setWidth_extract, setWidth_low, bit_setWidth]
    try simp
  · intro o
    refine fields_other _ rfl rfl rfl (fun _ => rfl) (fun _ => rfl) (congrArg some ?_)
    simp (disch := omega) only [Pre.raw, Raw.pre, Num.put, Raw.num, Raw.xWord, Raw.copy, Copy.raw, memFunc, Raw.rt, Raw.sc, extract_low, extract_high, bit_low, bit_high, extract_all, extract_setWidth, setWidth_extract, setWidth_low, bit_setWidth]
    try simp

/-- The fields of `sret`, `tlbinv`, `replay`, `ctxkill`, `xrd`, `xwr`. -/
theorem group8 :
    (∀ (p : Pre) (a : RegNo), Statement (.sret p a)) ∧
    (∀ (p : Pre) (k : TlbKind) (a : RegNo) (asid : Num), Statement (.tlbinv p k a asid)) ∧
    (∀ (p : Pre) (d a b : RegNo), Statement (.replay p d a b)) ∧
    (∀ (p : Pre) (a : RegNo), Statement (.ctxkill p a)) ∧
    (∀ (p : Pre) (d : RegNo) (c : BitVec 7) (st : Bool), Statement (.xrd p d c st)) ∧
    (∀ (p : Pre) (a : RegNo) (ua : Bool) (c : BitVec 7) (st : Bool), Statement (.xwr p a ua c st)) := by
  refine ⟨?_, ?_, ?_, ?_, ?_, ?_⟩
  · intro p a
    refine fields_other _ rfl rfl rfl (fun _ => rfl) (fun _ => rfl) (congrArg some ?_)
    simp (disch := omega) only [Pre.raw, Raw.pre, Num.put, Raw.num, Raw.xWord, Raw.copy, Copy.raw, memFunc, Raw.rt, Raw.sc, extract_low, extract_high, bit_low, bit_high, extract_all, extract_setWidth, setWidth_extract, setWidth_low, bit_setWidth]
    try simp
  · intro p k a asid
    cases asid <;>
    · refine fields_other _ rfl rfl rfl (fun _ => rfl) (fun _ => rfl) (congrArg some ?_)
      simp (disch := omega) only [Pre.raw, Raw.pre, Num.put, Raw.num, Raw.xWord, Raw.copy, Copy.raw, memFunc, Raw.rt, Raw.sc, extract_low, extract_high, bit_low, bit_high, extract_all, extract_setWidth, setWidth_extract, setWidth_low, bit_setWidth]
      try simp
  · intro p d a b
    refine fields_other _ rfl rfl rfl (fun _ => rfl) (fun _ => rfl) (congrArg some ?_)
    simp (disch := omega) only [Pre.raw, Raw.pre, Num.put, Raw.num, Raw.xWord, Raw.copy, Copy.raw, memFunc, Raw.rt, Raw.sc, extract_low, extract_high, bit_low, bit_high, extract_all, extract_setWidth, setWidth_extract, setWidth_low, bit_setWidth]
    try simp
  · intro p a
    refine fields_other _ rfl rfl rfl (fun _ => rfl) (fun _ => rfl) (congrArg some ?_)
    simp (disch := omega) only [Pre.raw, Raw.pre, Num.put, Raw.num, Raw.xWord, Raw.copy, Copy.raw, memFunc, Raw.rt, Raw.sc, extract_low, extract_high, bit_low, bit_high, extract_all, extract_setWidth, setWidth_extract, setWidth_low, bit_setWidth]
    try simp
  · intro p d c st
    refine fields_other _ rfl rfl rfl (fun _ => rfl) (fun _ => rfl) (congrArg some ?_)
    simp (disch := omega) only [Pre.raw, Raw.pre, Num.put, Raw.num, Raw.xWord, Raw.copy, Copy.raw, memFunc, Raw.rt, Raw.sc, extract_low, extract_high, bit_low, bit_high, extract_all, extract_setWidth, setWidth_extract, setWidth_low, bit_setWidth]
    try simp
  · intro p a ua c st
    refine fields_other _ rfl rfl rfl (fun _ => rfl) (fun _ => rfl) (congrArg some ?_)
    simp (disch := omega) only [Pre.raw, Raw.pre, Num.put, Raw.num, Raw.xWord, Raw.copy, Copy.raw, memFunc, Raw.rt, Raw.sc, extract_low, extract_high, bit_low, bit_high, extract_all, extract_setWidth, setWidth_extract, setWidth_low, bit_setWidth]
    try simp

/-- The fields of `lnch`, `gsave`, `grest`, `cntrd`, `trial`, `wfi`. -/
theorem group9 :
    (∀ (p : Pre) (d a : RegNo), Statement (.lnch p d a)) ∧
    (∀ (p : Pre) (d a : RegNo), Statement (.gsave p d a)) ∧
    (∀ (p : Pre) (d a : RegNo), Statement (.grest p d a)) ∧
    (∀ (p : Pre) (d : RegNo) (n : Num) (ub : Bool), Statement (.cntrd p d n ub)) ∧
    (∀ (p : Pre) (a : RegNo) (ctx : Option Num), Statement (.trial p a ctx)) ∧
    (∀ (p : Pre) (d b : RegNo), Statement (.wfi p d b)) := by
  refine ⟨?_, ?_, ?_, ?_, ?_, ?_⟩
  · intro p d a
    refine fields_other _ rfl rfl rfl (fun _ => rfl) (fun _ => rfl) (congrArg some ?_)
    simp (disch := omega) only [Pre.raw, Raw.pre, Num.put, Raw.num, Raw.xWord, Raw.copy, Copy.raw, memFunc, Raw.rt, Raw.sc, extract_low, extract_high, bit_low, bit_high, extract_all, extract_setWidth, setWidth_extract, setWidth_low, bit_setWidth]
    try simp
  · intro p d a
    refine fields_other _ rfl rfl rfl (fun _ => rfl) (fun _ => rfl) (congrArg some ?_)
    simp (disch := omega) only [Pre.raw, Raw.pre, Num.put, Raw.num, Raw.xWord, Raw.copy, Copy.raw, memFunc, Raw.rt, Raw.sc, extract_low, extract_high, bit_low, bit_high, extract_all, extract_setWidth, setWidth_extract, setWidth_low, bit_setWidth]
    try simp
  · intro p d a
    refine fields_other _ rfl rfl rfl (fun _ => rfl) (fun _ => rfl) (congrArg some ?_)
    simp (disch := omega) only [Pre.raw, Raw.pre, Num.put, Raw.num, Raw.xWord, Raw.copy, Copy.raw, memFunc, Raw.rt, Raw.sc, extract_low, extract_high, bit_low, bit_high, extract_all, extract_setWidth, setWidth_extract, setWidth_low, bit_setWidth]
    try simp
  · intro p d n ub
    cases n <;>
    · refine fields_other _ rfl rfl rfl (fun _ => rfl) (fun _ => rfl) (congrArg some ?_)
      simp (disch := omega) only [Pre.raw, Raw.pre, Num.put, Raw.num, Raw.xWord, Raw.copy, Copy.raw, memFunc, Raw.rt, Raw.sc, extract_low, extract_high, bit_low, bit_high, extract_all, extract_setWidth, setWidth_extract, setWidth_low, bit_setWidth]
      try simp
  · intro p a ctx
    rcases ctx with _ | n
    · refine fields_other _ rfl rfl rfl (fun _ => rfl) (fun _ => rfl) (congrArg some ?_)
      simp (disch := omega) only [Pre.raw, Raw.pre, Num.put, Raw.num, Raw.xWord, Raw.copy, Copy.raw, memFunc, Raw.rt, Raw.sc, extract_low, extract_high, bit_low, bit_high, extract_all, extract_setWidth, setWidth_extract, setWidth_low, bit_setWidth]
      try simp
    · cases n <;>
      · refine fields_other _ rfl rfl rfl (fun _ => rfl) (fun _ => rfl) (congrArg some ?_)
        simp (disch := omega) only [Pre.raw, Raw.pre, Num.put, Raw.num, Raw.xWord, Raw.copy, Copy.raw, memFunc, Raw.rt, Raw.sc, extract_low, extract_high, bit_low, bit_high, extract_all, extract_setWidth, setWidth_extract, setWidth_low, bit_setWidth]
        try simp
  · intro p d b
    refine fields_other _ rfl rfl rfl (fun _ => rfl) (fun _ => rfl) (congrArg some ?_)
    simp (disch := omega) only [Pre.raw, Raw.pre, Num.put, Raw.num, Raw.xWord, Raw.copy, Copy.raw, memFunc, Raw.rt, Raw.sc, extract_low, extract_high, bit_low, bit_high, extract_all, extract_setWidth, setWidth_extract, setWidth_low, bit_setWidth]
    try simp

theorem add (o : Alu) : Statement (.add o) := fields_alu rfl rfl
theorem addc (o : Alu) : Statement (.addc o) := fields_alu rfl rfl
theorem sub (o : Alu) : Statement (.sub o) := fields_alu rfl rfl
theorem subb (o : Alu) : Statement (.subb o) := fields_alu rfl rfl
theorem mul (o : Alu) : Statement (.mul o) := fields_alu rfl rfl
theorem mulh (o : Alu) : Statement (.mulh o) := fields_alu rfl rfl
theorem mulw (o : Alu) : Statement (.mulw o) := fields_alu rfl rfl
theorem mad (o : Alu) : Statement (.mad o) := fields_alu rfl rfl
theorem div (o : Alu) : Statement (.div o) := fields_alu rfl rfl
theorem rem (o : Alu) : Statement (.rem o) := fields_alu rfl rfl
theorem neg (o : Alu) : Statement (.neg o) := fields_alu rfl rfl
theorem abs (o : Alu) : Statement (.abs o) := fields_alu rfl rfl
theorem min (o : Alu) : Statement (.min o) := fields_alu rfl rfl
theorem max (o : Alu) : Statement (.max o) := fields_alu rfl rfl
theorem and (o : Alu) : Statement (.and o) := fields_alu rfl rfl
theorem or (o : Alu) : Statement (.or o) := fields_alu rfl rfl
theorem xor (o : Alu) : Statement (.xor o) := fields_alu rfl rfl
theorem andn (o : Alu) : Statement (.andn o) := fields_alu rfl rfl
theorem orn (o : Alu) : Statement (.orn o) := fields_alu rfl rfl
theorem not (o : Alu) : Statement (.not o) := fields_alu rfl rfl
theorem shl (o : Alu) : Statement (.shl o) := fields_alu rfl rfl
theorem shr (o : Alu) : Statement (.shr o) := fields_alu rfl rfl
theorem sra (o : Alu) : Statement (.sra o) := fields_alu rfl rfl
theorem rot (o : Alu) : Statement (.rot o) := fields_alu rfl rfl
theorem clz (o : Alu) : Statement (.clz o) := fields_alu rfl rfl
theorem ctz (o : Alu) : Statement (.ctz o) := fields_alu rfl rfl
theorem popc (o : Alu) : Statement (.popc o) := fields_alu rfl rfl
theorem brev (o : Alu) : Statement (.brev o) := fields_alu rfl rfl
theorem bfx (o : Alu) : Statement (.bfx o) := fields_alu rfl rfl
theorem bfi (o : Alu) : Statement (.bfi o) := fields_alu rfl rfl
theorem sel (o : Alu) : Statement (.sel o) := fields_alu rfl rfl
theorem cmp (o : Alu) : Statement (.cmp o) := fields_alu rfl rfl
theorem lea (o : Alu) : Statement (.lea o) := fields_alu rfl rfl
theorem add64 (o : Alu) : Statement (.add64 o) := fields_alu rfl rfl
theorem sub64 (o : Alu) : Statement (.sub64 o) := fields_alu rfl rfl
theorem shl64 (o : Alu) : Statement (.shl64 o) := fields_alu rfl rfl
theorem shr64 (o : Alu) : Statement (.shr64 o) := fields_alu rfl rfl
theorem cmp64 (o : Alu) : Statement (.cmp64 o) := fields_alu rfl rfl
theorem mov (o : Alu) : Statement (.mov o) := fields_alu rfl rfl
theorem movw (p : Pre) (d : RegNo) (imm : DWord) : Statement (.movw p d imm) := group0.1 p d imm
theorem ldc (o : Alu) : Statement (.ldc o) := fields_alu rfl rfl
theorem srd (p : Pre) (d : RegNo) (n : BitVec 12) : Statement (.srd p d n) := group0.2.1 p d n
theorem swr (p : Pre) (a : RegNo) (ua : Bool) (n : BitVec 12) : Statement (.swr p a ua n) := group0.2.2.1 p a ua n
theorem fadd (o : Alu) : Statement (.fadd o) := fields_alu rfl rfl
theorem fsub (o : Alu) : Statement (.fsub o) := fields_alu rfl rfl
theorem fmul (o : Alu) : Statement (.fmul o) := fields_alu rfl rfl
theorem ffma (o : Alu) : Statement (.ffma o) := fields_alu rfl rfl
theorem fmin (o : Alu) : Statement (.fmin o) := fields_alu rfl rfl
theorem fmax (o : Alu) : Statement (.fmax o) := fields_alu rfl rfl
theorem fabs (o : Alu) : Statement (.fabs o) := fields_alu rfl rfl
theorem fneg (o : Alu) : Statement (.fneg o) := fields_alu rfl rfl
theorem fcmp (o : Alu) : Statement (.fcmp o) := fields_alu rfl rfl
theorem frcp (o : Alu) : Statement (.frcp o) := fields_alu rfl rfl
theorem frsq (o : Alu) : Statement (.frsq o) := fields_alu rfl rfl
theorem fsqrt (o : Alu) : Statement (.fsqrt o) := fields_alu rfl rfl
theorem fdiv (o : Alu) : Statement (.fdiv o) := fields_alu rfl rfl
theorem fex2 (o : Alu) : Statement (.fex2 o) := fields_alu rfl rfl
theorem flg2 (o : Alu) : Statement (.flg2 o) := fields_alu rfl rfl
theorem fsin (o : Alu) : Statement (.fsin o) := fields_alu rfl rfl
theorem fcos (o : Alu) : Statement (.fcos o) := fields_alu rfl rfl
theorem ftanh (o : Alu) : Statement (.ftanh o) := fields_alu rfl rfl
theorem fclass (o : Alu) : Statement (.fclass o) := fields_alu rfl rfl
theorem frnd (o : Alu) : Statement (.frnd o) := fields_alu rfl rfl
theorem fscale (o : Alu) : Statement (.fscale o) := fields_alu rfl rfl
theorem fdp2 (o : Alu) : Statement (.fdp2 o) := fields_alu rfl rfl
theorem cvt (o : Alu) : Statement (.cvt o) := fields_alu rfl rfl
theorem cvtsr (o : Alu) : Statement (.cvtsr o) := fields_alu rfl rfl
theorem qpk (o : Alu) : Statement (.qpk o) := fields_alu rfl rfl
theorem qupk (o : Alu) : Statement (.qupk o) := fields_alu rfl rfl
theorem shfl (o : Alu) : Statement (.shfl o) := fields_alu rfl rfl
theorem vote (o : Alu) : Statement (.vote o) := fields_alu rfl rfl
theorem bal (o : Alu) : Statement (.bal o) := fields_alu rfl rfl
theorem redw (o : Alu) : Statement (.redw o) := fields_alu rfl rfl
theorem scanw (o : Alu) : Statement (.scanw o) := fields_alu rfl rfl
theorem bcast (o : Alu) : Statement (.bcast o) := fields_alu rfl rfl
theorem matchw (o : Alu) : Statement (.matchw o) := fields_alu rfl rfl
theorem nop (p : Pre) : Statement (.nop p) := group0.2.2.2.1 p
theorem braUniform (p : Pre) (x : Word) : Statement (.braUniform p x) := group0.2.2.2.2.1 p x
theorem braDivergent (p : Pre) (x j : Word) : Statement (.braDivergent p x j) := group0.2.2.2.2.2 p x j
theorem brx (p : Pre) (a : RegNo) (ua : Bool) : Statement (.brx p a ua) := group1.1 p a ua
theorem call (p : Pre) (x : Word) : Statement (.call p x) := group1.2.1 p x
theorem calx (p : Pre) (a : RegNo) (ua : Bool) : Statement (.calx p a ua) := group1.2.2.1 p a ua
theorem ret (p : Pre) (a : RegNo) (ua : Bool) : Statement (.ret p a ua) := group1.2.2.2.1 p a ua
theorem join (p : Pre) : Statement (.join p) := group1.2.2.2.2.1 p
theorem exit (p : Pre) : Statement (.exit p) := group1.2.2.2.2.2 p
theorem trap (p : Pre) (code : Byte) : Statement (.trap p code) := group2.1 p code
theorem brk (p : Pre) (tag : BitVec 7) : Statement (.brk p tag) := group2.2.1 p tag
theorem yieldw (p : Pre) : Statement (.yieldw p) := group2.2.2.1 p
theorem wait (p : Pre) (n : Num) : Statement (.wait p n) := group2.2.2.2.1 p n
theorem prog (p : Pre) (n : Num) : Statement (.prog p n) := group2.2.2.2.2.1 p n
theorem ld (o : Mem) : Statement (.ld o) := fields_mem rfl rfl (fun _ => rfl) rfl
theorem st (o : Mem) : Statement (.st o) := fields_mem rfl rfl (fun _ => rfl) rfl
theorem lds (o : Mem) : Statement (.lds o) := fields_mem rfl rfl (fun _ => rfl) rfl
theorem sts (o : Mem) : Statement (.sts o) := fields_mem rfl rfl (fun _ => rfl) rfl
theorem ldr (o : Mem) : Statement (.ldr o) := fields_mem rfl rfl (fun _ => rfl) rfl
theorem str (o : Mem) : Statement (.str o) := fields_mem rfl rfl (fun _ => rfl) rfl
theorem atom (o : Mem) : Statement (.atom o) := fields_mem rfl rfl (fun _ => rfl) rfl
theorem red (o : Mem) : Statement (.red o) := fields_mem rfl rfl (fun _ => rfl) rfl
theorem cas (o : Mem) : Statement (.cas o) := fields_mem rfl rfl (fun _ => rfl) rfl
theorem fence (o : Mem) : Statement (.fence o) := fields_mem rfl rfl (fun _ => rfl) rfl
theorem flush (o : Mem) : Statement (.flush o) := fields_mem rfl rfl (fun _ => rfl) rfl
theorem inval (o : Mem) : Statement (.inval o) := fields_mem rfl rfl (fun _ => rfl) rfl
theorem discard (o : Mem) : Statement (.discard o) := fields_mem rfl rfl (fun _ => rfl) rfl
theorem pref (o : Mem) : Statement (.pref o) := fields_mem rfl rfl (fun _ => rfl) rfl
theorem icinv (o : Mem) : Statement (.icinv o) := fields_mem rfl rfl (fun _ => rfl) rfl
theorem mon (o : Mem) : Statement (.mon o) := fields_mem rfl rfl (fun _ => rfl) rfl
theorem mwait (o : Mem) : Statement (.mwait o) := fields_mem rfl rfl (fun _ => rfl) rfl
theorem wcdrain (o : Mem) : Statement (.wcdrain o) := fields_mem rfl rfl (fun _ => rfl) rfl
theorem pdwait (o : Mem) : Statement (.pdwait o) := fields_mem rfl rfl (fun _ => rfl) rfl
theorem lnext (o : Mem) : Statement (.lnext o) := fields_mem rfl rfl (fun _ => rfl) rfl
theorem cpmm (o : Cpmm) : Statement (.cpmm o) := group2.2.2.2.2.2 o
theorem coll (o : Coll) : Statement (.coll o) := group3.1 o
theorem tdset (p : Pre) (a b : RegNo) : Statement (.tdset p a b) := group3.2.1 p a b
theorem tdget (p : Pre) (d b : RegNo) : Statement (.tdget p d b) := group3.2.2.1 p d b
theorem tlset (p : Pre) (a : RegNo) (id : Num) : Statement (.tlset p a id) := group3.2.2.2.1 p a id
theorem tlst (p : Pre) (d b : RegNo) : Statement (.tlst p d b) := group3.2.2.2.2.1 p d b
theorem tlwait (p : Pre) (d b : RegNo) : Statement (.tlwait p d b) := group3.2.2.2.2.2 p d b
theorem tlfree (p : Pre) (b : RegNo) : Statement (.tlfree p b) := group4.1 p b
theorem vclaim (p : Pre) (d b : RegNo) : Statement (.vclaim p d b) := group4.2.1 p d b
theorem vrel (p : Pre) (b : RegNo) : Statement (.vrel p b) := group4.2.2.1 p b
theorem cpin (o : Copy) : Statement (.cpin o) := group4.2.2.2.1 o
theorem cpout (o : Copy) : Statement (.cpout o) := group4.2.2.2.2.1 o
theorem gth (o : Copy) : Statement (.gth o) := group4.2.2.2.2.2 o
theorem sct (o : Copy) : Statement (.sct o) := group5.1 o
theorem opfence (p : Pre) : Statement (.opfence p) := group5.2.1 p
theorem post (p : Pre) (d a : RegNo) (sc : Scope) : Statement (.post p d a sc) := group5.2.2.1 p d a sc
theorem tkwait (p : Pre) (d a : RegNo) (n : BitVec 3) : Statement (.tkwait p d a n) := group5.2.2.2.1 p d a n
theorem tktest (p : Pre) (d a : RegNo) : Statement (.tktest p d a) := group5.2.2.2.2.1 p d a
theorem tkfree (p : Pre) (a : RegNo) : Statement (.tkfree p a) := group5.2.2.2.2.2 p a
theorem fcset (p : Pre) (a : RegNo) (desc : Num) : Statement (.fcset p a desc) := group6.1 p a desc
theorem fcpub (p : Pre) (a b : RegNo) : Statement (.fcpub p a b) := group6.2.1 p a b
theorem fcstat (p : Pre) (d b : RegNo) : Statement (.fcstat p d b) := group6.2.2.1 p d b
theorem bara (p : Pre) (d : RegNo) (id : Num) (lvl : Level) (rmask : Byte) : Statement (.bara p d id lvl rmask) := group6.2.2.2.1 p d id lvl rmask
theorem barw (p : Pre) (d a : RegNo) : Statement (.barw p d a) := group6.2.2.2.2.1 p d a
theorem bars (p : Pre) (d : RegNo) (id : Num) (lvl : Level) (rmask : Byte) : Statement (.bars p d id lvl rmask) := group6.2.2.2.2.2 p d id lvl rmask
theorem qpush (p : Pre) (d a : RegNo) (q : BitVec 4) (spm nb : Bool) : Statement (.qpush p d a q spm nb) := group7.1 p d a q spm nb
theorem qpop (p : Pre) (d a : RegNo) (q : BitVec 4) (spm nb : Bool) : Statement (.qpop p d a q spm nb) := group7.2.1 p d a q spm nb
theorem rgive (p : Pre) (n : Num) : Statement (.rgive p n) := group7.2.2.1 p n
theorem rclaim (p : Pre) (d : RegNo) (n : Num) (nb : Bool) : Statement (.rclaim p d n nb) := group7.2.2.2.1 p d n nb
theorem sint (p : Pre) (a : RegNo) (svc : Bool) : Statement (.sint p a svc) := group7.2.2.2.2.1 p a svc
theorem ship (o : Ship) : Statement (.ship o) := group7.2.2.2.2.2 o
theorem sret (p : Pre) (a : RegNo) : Statement (.sret p a) := group8.1 p a
theorem tlbinv (p : Pre) (k : TlbKind) (a : RegNo) (asid : Num) : Statement (.tlbinv p k a asid) := group8.2.1 p k a asid
theorem replay (p : Pre) (d a b : RegNo) : Statement (.replay p d a b) := group8.2.2.1 p d a b
theorem ctxkill (p : Pre) (a : RegNo) : Statement (.ctxkill p a) := group8.2.2.2.1 p a
theorem xrd (p : Pre) (d : RegNo) (c : BitVec 7) (st : Bool) : Statement (.xrd p d c st) := group8.2.2.2.2.1 p d c st
theorem xwr (p : Pre) (a : RegNo) (ua : Bool) (c : BitVec 7) (st : Bool) : Statement (.xwr p a ua c st) := group8.2.2.2.2.2 p a ua c st
theorem lnch (p : Pre) (d a : RegNo) : Statement (.lnch p d a) := group9.1 p d a
theorem gsave (p : Pre) (d a : RegNo) : Statement (.gsave p d a) := group9.2.1 p d a
theorem grest (p : Pre) (d a : RegNo) : Statement (.grest p d a) := group9.2.2.1 p d a
theorem cntrd (p : Pre) (d : RegNo) (n : Num) (ub : Bool) : Statement (.cntrd p d n ub) := group9.2.2.2.1 p d n ub
theorem trial (p : Pre) (a : RegNo) (ctx : Option Num) : Statement (.trial p a ctx) := group9.2.2.2.2.1 p a ctx
theorem wfi (p : Pre) (d b : RegNo) : Statement (.wfi p d b) := group9.2.2.2.2.2 p d b
theorem lateAccessFailure (k : Nat) (why : Late) : Statement (.lateAccessFailure k why) := fields_event rfl
theorem heldFaultWrite (die : Nat) : Statement (.heldFaultWrite die) := fields_event rfl
theorem launchAccept (ctx : Nat) : Statement (.launchAccept ctx) := fields_event rfl
theorem teamPlacement (die ctx : Nat) : Statement (.teamPlacement die ctx) := fields_event rfl
theorem scratchpadBlockConversion (core blocks : Nat) : Statement (.scratchpadBlockConversion core blocks) := fields_event rfl
theorem stealMessage (thief : Nat) : Statement (.stealMessage thief) := fields_event rfl
theorem stageReview (die : Nat) : Statement (.stageReview die) := fields_event rfl
theorem contextTurn (die : Nat) : Statement (.contextTurn die) := fields_event rfl
theorem frequencyStep (core : Nat) (up : Bool) : Statement (.frequencyStep core up) := fields_event rfl
theorem copyComplete (key : Nat) (stop : Stop) : Statement (.copyComplete key stop) := fields_event rfl
theorem taskIssue (core : Nat) : Statement (.taskIssue core) := fields_event rfl
theorem taskComplete (key : Nat) (stop : Stop) : Statement (.taskComplete key stop) := fields_event rfl
theorem cpmmComplete (key : Nat) (stop : Stop) : Statement (.cpmmComplete key stop) := fields_event rfl
theorem collectiveComplete (key : Nat) (stop : Stop) (peers : List CollPart) : Statement (.collectiveComplete key stop peers) := fields_event rfl
theorem forecastPrediction (check : Nat) (stop : Stop) : Statement (.forecastPrediction check stop) := fields_event rfl
theorem forecastCapture (hist : Nat) (stop : Stop) : Statement (.forecastCapture hist stop) := fields_event rfl
theorem tceCheck (check : Nat) : Statement (.tceCheck check) := fields_event rfl
theorem homeWriteRequest (k : Nat) : Statement (.homeWriteRequest k) := fields_event rfl
theorem invalidationAck (k : Nat) : Statement (.invalidationAck k) := fields_event rfl
theorem homeRead (k : Nat) : Statement (.homeRead k) := fields_event rfl
theorem invalidation (k : Nat) (cache : Nat) : Statement (.invalidation k cache) := fields_event rfl
theorem sharerTimeout (k : Nat) : Statement (.sharerTimeout k) := fields_event rfl
theorem wcbAgeing (core : Nat) : Statement (.wcbAgeing core) := fields_event rfl
theorem writeAcknowledgement (txn : Nat) : Statement (.writeAcknowledgement txn) := fields_event rfl
theorem remoteRequest (r : RemoteReq) : Statement (.remoteRequest r) := fields_event rfl
theorem shipRequest (r : ShipReq) : Statement (.shipRequest r) := fields_event rfl
theorem sectionStart (lc : Nat) : Statement (.sectionStart lc) := fields_event rfl
theorem sectionOverrun (lc : Nat) : Statement (.sectionOverrun lc) := fields_event rfl
theorem shipResult (r : ShipRes) : Statement (.shipResult r) := fields_event rfl
theorem jobBarrierArrival (ctx id phase device : Nat) : Statement (.jobBarrierArrival ctx id phase device) := fields_event rfl
theorem jobBarrierRelease (ctx id phase status : Nat) : Statement (.jobBarrierRelease ctx id phase status) := fields_event rfl
theorem stopMessage (tag serial conductor : Nat) : Statement (.stopMessage tag serial conductor) := fields_event rfl
theorem gangClose (tag : Nat) : Statement (.gangClose tag) := fields_event rfl
theorem sweepMarker (port vc tag serial : Nat) : Statement (.sweepMarker port vc tag serial) := fields_event rfl
theorem swept (tag serial device : Nat) : Statement (.swept tag serial device) := fields_event rfl
theorem gangSwitchTimeout (tag : Nat) : Statement (.gangSwitchTimeout tag) := fields_event rfl
theorem lateFlit (port vc : Nat) (flit : Flit) : Statement (.lateFlit port vc flit) := fields_event rfl
theorem restoreMessage (tag serial conductor : Nat) : Statement (.restoreMessage tag serial conductor) := fields_event rfl
theorem restored (tag serial device : Nat) : Statement (.restored tag serial device) := fields_event rfl
theorem restoreTimeout (tag : Nat) : Statement (.restoreTimeout tag) := fields_event rfl
theorem go (tag serial : Nat) : Statement (.go tag serial) := fields_event rfl
theorem stay (tag serial : Nat) : Statement (.stay tag serial) := fields_event rfl
theorem reinjectEnd (tag : Nat) : Statement (.reinjectEnd tag) := fields_event rfl
theorem running (tag serial device : Nat) : Statement (.running tag serial device) := fields_event rfl
theorem jobAdmit (entry : Nat) : Statement (.jobAdmit entry) := fields_event rfl
theorem jobFree (entry : Nat) : Statement (.jobFree entry) := fields_event rfl
theorem flitReceive (port : Nat) (bits : BitVec 384) : Statement (.flitReceive port bits) := fields_event rfl
theorem nak (port seq : Nat) : Statement (.nak port seq) := fields_event rfl
theorem linkReplayTimeout (port : Nat) : Statement (.linkReplayTimeout port) := fields_event rfl
theorem channelDip (port channel : Nat) : Statement (.channelDip port channel) := fields_event rfl
theorem channelLossDecision (port channel : Nat) (lost : Bool) : Statement (.channelLossDecision port channel lost) := fields_event rfl
theorem stripe (port : Nat) (rxmap epoch seq : Nat) : Statement (.stripe port rxmap epoch seq) := fields_event rfl
theorem channelRestore (port channel : Nat) : Statement (.channelRestore port channel) := fields_event rfl
theorem stripeTimeout (port : Nat) : Statement (.stripeTimeout port) := fields_event rfl
theorem portTrain (port : Nat) (ok : Bool) (peer peerPort : Nat) : Statement (.portTrain port ok peer peerPort) := fields_event rfl
theorem keyRefresh (port : Nat) (transmit : Bool) : Statement (.keyRefresh port transmit) := fields_event rfl
theorem routeUpdate (device port : Nat) (live : Bool) : Statement (.routeUpdate device port live) := fields_event rfl
theorem lossNotice (txn : Nat) : Statement (.lossNotice txn) := fields_event rfl
theorem requestTimeout (txn : Nat) : Statement (.requestTimeout txn) := fields_event rfl
theorem deviceUnreachable (device : Nat) : Statement (.deviceUnreachable device) := fields_event rfl
theorem deviceReachable (device : Nat) : Statement (.deviceReachable device) := fields_event rfl
theorem laserFault (source : Nat) : Statement (.laserFault source) := fields_event rfl
theorem laserRemoved (source : Nat) : Statement (.laserRemoved source) := fields_event rfl
theorem laserReturn (source : Nat) : Statement (.laserReturn source) := fields_event rfl
theorem portDisable (port : Nat) : Statement (.portDisable port) := fields_event rfl
theorem portEnable (port : Nat) : Statement (.portEnable port) := fields_event rfl
theorem contextCreate (ctx : Nat) : Statement (.contextCreate ctx) := fields_event rfl
theorem contextTableClear (ctx : Nat) : Statement (.contextTableClear ctx) := fields_event rfl
theorem launchDoorbell (ctx : Nat) : Statement (.launchDoorbell ctx) := fields_event rfl
theorem hostBar2Access (address : Nat) (access : HostAccess) : Statement (.hostBar2Access address access) := fields_event rfl
theorem replaceFirmware (image : List Byte) : Statement (.replaceFirmware image) := fields_event rfl
theorem warmStart (outcome : StartOutcome) : Statement (.warmStart outcome) := fields_event rfl
theorem coldStart (outcome : StartOutcome) : Statement (.coldStart outcome) := fields_event rfl
theorem startRetry (outcome : StartOutcome) : Statement (.startRetry outcome) := fields_event rfl
theorem channelSpare (stack channel : Nat) : Statement (.channelSpare stack channel) := fields_event rfl
theorem spareCopyEnd (stack : Nat) : Statement (.spareCopyEnd stack) := fields_event rfl
theorem registerWrite (offset bytes : Nat) (value : DWord) : Statement (.registerWrite offset bytes value) := fields_event rfl
theorem pcComparatorHit (w : Who) (comparator : Nat) : Statement (.pcComparatorHit w comparator) := fields_event rfl
theorem debugSplitDetach (w : Who) (thread : Nat) : Statement (.debugSplitDetach w thread) := fields_event rfl
theorem debugSplitReattach (w : Who) (into : Nat) : Statement (.debugSplitReattach w into) := fields_event rfl
theorem zouKill (w : Who) (threads : Mask) : Statement (.zouKill w threads) := fields_event rfl
theorem pcSample (core : Nat) : Statement (.pcSample core) := fields_event rfl
theorem trialEnd (ctx : Nat) : Statement (.trialEnd ctx) := fields_event rfl
theorem dieToDieLinkFailure (a b : Nat) : Statement (.dieToDieLinkFailure a b) := fields_event rfl
theorem heldServiceEventWrite (die : Nat) : Statement (.heldServiceEventWrite die) := fields_event rfl
theorem channelSignalReturn (port channel : Nat) : Statement (.channelSignalReturn port channel) := fields_event rfl
theorem fillWord : Statement .fillWord := fields_event rfl
theorem resultReturn : Statement .resultReturn := fields_event rfl
theorem splitWake : Statement .splitWake := fields_event rfl
theorem coarseMonitorFire : Statement .coarseMonitorFire := fields_event rfl
theorem mwaitTimeout : Statement .mwaitTimeout := fields_event rfl
theorem waitExpiry : Statement .waitExpiry := fields_event rfl
theorem wfiTimeout : Statement .wfiTimeout := fields_event rfl
theorem hostEventWrite : Statement .hostEventWrite := fields_event rfl
theorem filairRetrain : Statement .filairRetrain := fields_event rfl
theorem gangSave : Statement .gangSave := fields_event rfl
theorem gangRestore : Statement .gangRestore := fields_event rfl
theorem attest : Statement .attest := fields_event rfl
theorem fenceDie : Statement .fenceDie := fields_event rfl
theorem zouStep : Statement .zouStep := fields_event rfl
theorem zouResume : Statement .zouResume := fields_event rfl
theorem delayExchange : Statement .delayExchange := fields_event rfl
theorem instructionFetch : Statement .instructionFetch := fields_event rfl
theorem notAnInstruction : Statement .notAnInstruction := fields_event rfl
theorem powerOn : Statement .powerOn := fields_event rfl
theorem filairDown : Statement .filairDown := fields_event rfl
theorem filairReturn : Statement .filairReturn := fields_event rfl

end Sys2Proof.Laws.Fields
end

