-- ==== Sys2Proof/Tests/Slice0.lean ====
section
/-! SUPPORT. The model's own tests: instruction words written out from the manual, ill-formed terms that `wellFormed`
refuses, single steps on a small state, and states that meet the hypotheses of the statements. -/

namespace Sys2Proof.Tests

open Sys2Proof Sys2Proof.Machine

-- Test theorems are checked one after another: side by side they would need more memory than the check allows.
set_option Elab.async false

/-! ### A small device -/

/-- A split of 32 threads at an address. -/
def split0 : Split := { pc := 0x10020, exm := 0xFFFFFFFF, st := .ready, rgn := 0x10000 }

/-- A strand of one such split, with registers `rs` as (register, thread, value). -/
def strandOf (rs : List (Nat × Nat × Word)) (f : Split → Split := id) : Strand :=
  { nreg := 128, live := 0xFFFFFFFF, splits := [f split0], regs := rs.foldl (fun t x => write 0 t (32 * x.1 + x.2.1) x.2.2) [] }

/-- A user context whose tables map the first GiB onto itself, with every right. -/
def ctx0 : Ctx := { valid := true, asid := 1, asidW := 1, ptbase := 0x1000, ptbaseW := 0x1000, stvec := 0x8000, stvecW := 0x8000 }

/-- Three levels of page tables: two pointers and a leaf of 1 GiB. -/
def tables : List Host.Cell := [(0x1000, 1), (0x1002, 2), (0x2000, 1), (0x2002, 3), (0x3000, 0x3F), (0x3001, 3)]

/-- One warp of one team on wide core 0. -/
def small (st : Strand) (f : Team → Team := id) (c : Ctx := ctx0) : State :=
  { mem := tables, focus := .warp 0 0 0, nextKey := 1, ctxs := [(0, c)],
    teams := [(0, f { core := some 0, spadBytes := 1024, warps := [{ main := st }] })], launches := [(0, {})] }

/-- The second thread of latency core 0. -/
def latency (st : Strand) : State :=
  { mem := tables, focus := .lat 0 1, nextKey := 1, ctxs := [(0, ctx0)], lcs := [(0, { t1 := { main := st, active := true } })] }

/-! ### Entering an instruction -/

/-- The state and the strand that an instruction finds on entry, where it enters. -/
def entered? (i : Instr) (s : State) : Option (State × Env) :=
  match s.env with
  | none => none
  | some e₀ =>
    if e₀.stall i s = none ∧ gate i e₀ = none then
      match (s.enterRegion s.focus (instrPre i).re).env with
      | none => none
      | some e => if e.k < e.st.splits.length then some (s.enterRegion s.focus (instrPre i).re, e) else none
    else none

theorem enters_of {i : Instr} {s s' : State} {e : Env} (h : entered? i s = some (s', e)) : Enters i s s' e := by
  unfold entered? at h
  split at h
  · cases h
  · rename_i e₀ h₀
    split at h
    · rename_i hs
      split at h
      · cases h
      · rename_i e' h'
        split at h
        · rename_i hg
          simp only [Option.some.injEq, Prod.mk.injEq] at h
          obtain ⟨rfl, rfl⟩ := h
          exact ⟨⟨e₀, h₀, hs⟩, rfl, h', hg⟩
        · cases h
    · cases h

/-- An instruction enters in a state, and what it finds there meets a condition. -/
def Meets (i : Instr) (s : State) (P : State → Env → Prop) : Prop := ∃ s' e, Enters i s s' e ∧ P s' e

theorem meets {i : Instr} {s : State} {P : State → Env → Prop} [∀ s e, Decidable (P s e)]
    (h : (entered? i s).any (fun x => decide (P x.1 x.2)) = true) : Meets i s P := by
  cases hx : entered? i s with
  | none => rw [hx] at h; cases h
  | some x =>
    rw [hx] at h
    exact ⟨x.1, x.2, enters_of hx, of_decide_eq_true h⟩

/-- The same for each entry of a list. -/
theorem meetsAll {α : Type} {l : List α} {i : α → Instr} {s : α → State} {P : α → State → Env → Prop} [∀ x s e, Decidable (P x s e)]
    (h : (l.all fun x => (entered? (i x) (s x)).any fun y => decide (P x y.1 y.2)) = true) : ∀ x ∈ l, Meets (i x) (s x) (P x) :=
  fun x hx => meets (List.all_eq_true.mp h x hx)

/-- Source B as a register. -/
theorem readsB_reg (e : Env) (o : Alu) (s : State) (r : RegNo) (u : Bool) (h : o.b = .reg r u) :
    e.ReadsB o false s s (fun t => (e.reg r.toNat (if u then Mask.lowest (e.exm o.p) else t)).setWidth 64) := by
  refine ⟨fun body => ?_, rfl⟩
  simp only [Env.withB, h, Env.src, Bool.false_eq_true, if_false]

/-! ### Instruction words -/

/-- R112: words put together from the fields of R33 and the tables of the manual. -/
def wordsInt : List (BitVec 128 × Instr × Nat) := [
  (0x00500403F9106000, .add { ty := .i16, d := 3, a := 17, ua := true, b := .reg 127 false }, 8),
  (0xFFFFFFFE200002240020200D, .add { p := { re := true, sw := true, g := 9, gn := true }, ty := .i32, sat := true, d := 1, a := 2, b := .imm 0xFFFFFFFE }, 12),
  (0x000FFFFF8008000000202001, .add { ty := .n32, d := 1, a := 2, b := .const 7 131071 }, 12),
  (0x0008700030414010, .addc { ty := .n32, d := 10, a := 4, b := .reg 6 false, c := 7 }, 8),
  (0x006808003860A020, .sub { ty := .n8, d := 5, a := 6, b := .reg 7 true }, 8),
  (0x000000090008B00000518031, .subb { ty := .n32, d := 12, a := 5, b := .imm 0x9, c := 11 }, 12),
  (0x005800031C242040, .mul { ty := .n16, d := 33, a := 66, b := .reg 99 false }, 8),
  (0x00000000B1528050, .mulh { ty := .i32, d := 20, a := 21, b := .reg 22 false }, 8),
  (0x00080000C172C060, .mulw { ty := .n32, d := 22, a := 23, b := .reg 24 false }, 8),
  (0x2060400018202070, .mad { ty := .i8, sat := true, d := 1, a := 2, b := .reg 3 false, c := 4 }, 8),
  (0x0000000050910080, .div { ty := .i32, d := 8, a := 9, b := .reg 10 false }, 8),
  (0x0008000050910090, .rem { ty := .n32, d := 8, a := 9, b := .reg 10 false }, 8),
  (0x00500000009100A0, .neg { ty := .i16, d := 8, a := 9 }, 8),
  (0x20000000009100B0, .abs { ty := .i32, sat := true, d := 8, a := 9 }, 8),
  (0x00080000509100C0, .min { ty := .n32, d := 8, a := 9, b := .reg 10 false }, 8),
  (0x0000000300600000009100D1, .max { ty := .i8, d := 8, a := 9, b := .imm 0x3 }, 12),
  (0x00000001529500E0, .and { ty := .i32, d := 40, a := 41, b := .reg 42 false }, 8),
  (0x00000001529500F0, .or { ty := .i32, d := 40, a := 41, b := .reg 42 false }, 8),
  (0x0000000152950100, .xor { ty := .i32, d := 40, a := 41, b := .reg 42 false }, 8),
  (0x0000000152950110, .andn { ty := .i32, d := 40, a := 41, b := .reg 42 false }, 8),
  (0x0000000152950120, .orn { ty := .i32, d := 40, a := 41, b := .reg 42 false }, 8),
  (0x0000000002950130, .not { ty := .i32, d := 40, a := 41 }, 8),
  (0x0000001F0000000003364141, .shl { ty := .i32, d := 50, a := 51, b := .imm 0x1F }, 12),
  (0x0000001F0000000003364151, .shr { ty := .i32, d := 50, a := 51, b := .imm 0x1F }, 12),
  (0x0000001F0000000003364161, .sra { ty := .i32, d := 50, a := 51, b := .imm 0x1F }, 12),
  (0x0000001F0000000003364171, .rot { ty := .i32, d := 50, a := 51, b := .imm 0x1F }, 12),
  (0x0000000003D78180, .clz { ty := .i32, d := 60, a := 61 }, 8),
  (0x0000000003D78190, .ctz { ty := .i32, d := 60, a := 61 }, 8),
  (0x0000000003D781A0, .popc { ty := .i32, d := 60, a := 61 }, 8),
  (0x0000000003D781B0, .brev { ty := .i32, d := 60, a := 61 }, 8),
  (0x000008040008000003D781C1, .bfx { ty := .n32, d := 60, a := 61, b := .imm 0x804 }, 12),
  (0x0003F001F3D781D0, .bfi { ty := .i32, d := 60, a := 61, b := .reg 62 false, c := 63 }, 8),
  (0x00909000304041E0, .sel { ty := .i64, sub := 1, d := 2, a := 4, b := .reg 6 false, c := 9 }, 8),
  (0x42E80000304041F0, .cmp { ty := .n8, sub := 5, pt := true, d := 2, a := 4, b := .reg 6 false }, 8),
  (0x0008300038404200, .lea { ty := .n32, d := 2, a := 4, b := .reg 7 false, c := 3 }, 8),
  (0x2010000030404210, .add64 { ty := .i64, sat := true, d := 2, a := 4, b := .reg 6 false }, 8),
  (0x0018000030404220, .sub64 { ty := .n64, d := 2, a := 4, b := .reg 6 false }, 8),
  (0x0018000038404230, .shl64 { ty := .n64, d := 2, a := 4, b := .reg 7 false }, 8),
  (0x000000410010000000404241, .shr64 { ty := .i64, d := 2, a := 4, b := .imm 0x41 }, 12),
  (0x0118000030406250, .cmp64 { ty := .n64, sub := 2, d := 3, a := 4, b := .reg 6 false }, 8),
  (0x0000000000506260, .mov { ty := .i32, d := 3, a := 5 }, 8),
  (0x800000000010000000008261, .mov { ty := .i64, d := 4, b := .imm 0x80000000 }, 12),
  (0x0123456789ABCDEF000000000000C272, .movw {} 6 0x0123456789ABCDEF, 16),
  (0x0000026A8000040000506281, .ldc { ty := .i32, d := 3, a := 5, ua := true, b := .const 2 77 }, 12),
  (0x0000010C0000000000012291, .srd {} 9 0x10C, 12),
  (0x0000027F00000400009002A1, .swr {} 9 true 0x27F, 12)
]

theorem test_words_int : ∀ x ∈ wordsInt, decodeWord 0 x.1 = .instr x.2.1 x.2.2 := by decide +kernel

/-- R125: words put together from the fields of R33 and the tables of the manual. -/
def wordsFlt : List (BitVec 128 × Instr × Nat) := [
  (0x3820000018202400, .fadd { ty := .f32, rm := .ru, sat := true, d := 1, a := 2, b := .reg 3 false }, 8),
  (0x0038000030404410, .fsub { ty := .f64, d := 2, a := 4, b := .reg 6 false }, 8),
  (0x0070000018202420, .fmul { ty := .f16x2, d := 1, a := 2, b := .reg 3 false }, 8),
  (0x0038800030404430, .ffma { ty := .f64, d := 2, a := 4, b := .reg 6 false, c := 8 }, 8),
  (0x0030000018202440, .fmin { ty := .bf16, d := 1, a := 2, b := .reg 3 false }, 8),
  (0x0028000018202450, .fmax { ty := .f16, d := 1, a := 2, b := .reg 3 false }, 8),
  (0x0078000000202460, .fabs { ty := .bf16x2, d := 1, a := 2 }, 8),
  (0x0038000000404470, .fneg { ty := .f64, d := 2, a := 4 }, 8),
  (0x43A0000018202480, .fcmp { ty := .f32, sub := 7, pt := true, d := 1, a := 2, b := .reg 3 false }, 8),
  (0x0820000000202490, .frcp { ty := .f32, rm := .rz, d := 1, a := 2 }, 8),
  (0x08200000002024B0, .fsqrt { ty := .f32, rm := .rz, d := 1, a := 2 }, 8),
  (0x10380000304044C0, .fdiv { ty := .f64, rm := .rd, d := 2, a := 4, b := .reg 6 false }, 8),
  (0x102000000478C4A0, .frsq { ty := .f32, rm := .rd, d := 70, a := 71 }, 8),
  (0x102000000478C4D0, .fex2 { ty := .f32, rm := .rd, d := 70, a := 71 }, 8),
  (0x102000000478C4E0, .flg2 { ty := .f32, rm := .rd, d := 70, a := 71 }, 8),
  (0x102000000478C4F0, .fsin { ty := .f32, rm := .rd, d := 70, a := 71 }, 8),
  (0x102000000478C500, .fcos { ty := .f32, rm := .rd, d := 70, a := 71 }, 8),
  (0x102000000478C510, .ftanh { ty := .f32, rm := .rd, d := 70, a := 71 }, 8),
  (0x0038000000202520, .fclass { ty := .f64, d := 1, a := 2 }, 8),
  (0x0820000000202530, .frnd { ty := .f32, rm := .rz, d := 1, a := 2 }, 8),
  (0xFFFFFFFF0028000000202541, .fscale { ty := .f16, d := 1, a := 2, b := .imm 0xFFFFFFFF }, 12),
  (0x0078400018202550, .fdp2 { ty := .bf16x2, d := 1, a := 2, b := .reg 3 false, c := 4 }, 8),
  (0x0A28000000202560, .cvt { ty := .f16, sub := 4, rm := .rz, d := 1, a := 2 }, 8),
  (0x0240000000202570, .cvtsr { ty := .n43, sub := 4, d := 1, a := 2 }, 8),
  (0x0820B00050908580, .qpk { ty := .f32, rm := .rz, d := 4, a := 9, b := .reg 10 false, c := 11 }, 8),
  (0x002000005080A590, .qupk { ty := .f32, d := 5, a := 8, b := .reg 10 false }, 8)
]

theorem test_words_flt : ∀ x ∈ wordsFlt, decodeWord 0 x.1 = .instr x.2.1 x.2.2 := by decide +kernel

/-- R141: words put together from the fields of R33 and the tables of the manual. -/
def wordsWarp : List (BitVec 128 × Instr × Nat) := [
  (0x0110000038404800, .shfl { ty := .i64, sub := 2, d := 2, a := 4, b := .reg 7 false }, 8),
  (0x0080000000304810, .vote { ty := .i32, sub := 1, d := 2, a := 3 }, 8),
  (0x0000000000304820, .bal { ty := .i32, d := 2, a := 3 }, 8),
  (0x0298000000404830, .redw { ty := .n64, sub := 5, d := 2, a := 4 }, 8),
  (0x002000000082A840, .scanw { ty := .f32, d := 21, a := 8 }, 8),
  (0x0000001F0000000000304851, .bcast { ty := .i32, d := 2, a := 3, b := .imm 0x1F }, 12),
  (0x0010000000404860, .matchw { ty := .i64, d := 2, a := 4 }, 8)
]

theorem test_words_warp : ∀ x ∈ wordsWarp, decodeWord 0 x.1 = .instr x.2.1 x.2.2 := by decide +kernel

/-- R326: words put together from the fields of R33 and the tables of the manual. -/
def wordsCtl : List (BitVec 128 × Instr × Nat) := [
  (0x0000021400000A0C, .nop { re := true, sw := true, g := 5, gn := true }, 8),
  (0xFFFFFFF00000000000000A11, .braUniform {} 0xFFFFFFF0, 12),
  (0x00000044000000380000001400000A12, .braDivergent { g := 5 } 0x38 0x44, 16),
  (0x0000040000600A20, .brx {} 6 true, 8),
  (0x000000200000000000000A31, .call {} 0x20, 12),
  (0x0000000000600A40, .calx {} 6 false, 8),
  (0x0000000007E00A50, .ret {} 126 false, 8),
  (0x0000000000000A60, .join {}, 8),
  (0x0000000C00000A70, .exit { g := 3 }, 8),
  (0x0000007F0000000000000A81, .trap {} 0x7F, 12),
  (0x0006500000000A90, .brk {} 101, 8),
  (0x0000000000000AA0, .yieldw {}, 8),
  (0x0000000048000AB0, .wait {} (.reg 9), 8),
  (0x000003E80000000000000AB1, .wait {} (.imm 1000), 12),
  (0x0000000F0000000000000AC1, .prog {} (.imm 15), 12)
]

theorem test_words_ctl : ∀ x ∈ wordsCtl, decodeWord 0 x.1 = .instr x.2.1 x.2.2 := by decide +kernel

/-- R266, R291, R292: words put together from the fields of R33 and the tables of the manual. -/
def wordsMem : List (BitVec 128 × Instr × Nat) := [
  (0xFFFFFFFC5B4840003860AC01, .ld { w := .b16, sx := true, rt := .si, ord := .acq, sc := .sys, last := true, d := 5, a := 6, b := 7, c := 4, x := some 0xFFFFFFFC }, 12),
  (0x0020040000610C00, .ld { w := .b128, d := 8, a := 6, ua := true }, 8),
  (0x0C98180038608C10, .st { w := .b64, rt := .wt, ord := .rel, sc := .die, d := 4, a := 6, b := 7, c := 1, ub := true }, 8),
  (0x004020004070AC20, .lds { sx := true, d := 5, a := 7, b := 8, c := 2 }, 8),
  (0x0420000000710C30, .sts { w := .b128, ord := .rel, d := 8, a := 7 }, 8),
  (0x081000004070AC40, .ldr { w := .b32, sc := .die, d := 5, a := 7, b := 8 }, 8),
  (0x000000400C1000004070AC51, .str { w := .b32, ord := .rel, sc := .die, d := 5, a := 7, b := 8, x := some 0x40 }, 12),
  (0x1618700040608C60, .atom { w := .b64, ord := .ar, sc := .dev, d := 4, a := 6, b := 8, c := 7 }, 8),
  (0x1C10C00048600C70, .red { w := .b32, ord := .rel, sc := .sys, a := 6, b := 9, c := 12 }, 8),
  (0x00000010101090003860AC81, .cas { w := .b32, sc := .dev, d := 5, a := 6, b := 7, c := 9, x := some 0x10 }, 12),
  (0x1E00000000000C90, .fence { ord := .ar, sc := .sys }, 8),
  (0x0800000038600CA0, .flush { sc := .die, a := 6, b := 7 }, 8),
  (0x000000801000000038600CB1, .inval { sc := .dev, a := 6, b := 7, x := some 0x80 }, 12),
  (0x0000000038600CC0, .discard { a := 6, b := 7 }, 8),
  (0x0100000038600CD0, .pref { rt := .si, a := 6, b := 7 }, 8),
  (0x1000000000000CE0, .icinv { sc := .dev }, 8),
  (0x0000000000600CF0, .mon { a := 6 }, 8),
  (0x0000000020006D00, .mwait { d := 3, b := 4 }, 8),
  (0xFFFFFFFF0000000000006D01, .mwait { d := 3, x := some 0xFFFFFFFF }, 12),
  (0x0000000000000D10, .wcdrain {  }, 8),
  (0x0000000000000D20, .pdwait {  }, 8),
  (0x0000000000000D30, .lnext {  }, 8),
  (0x00000000000010005880000030406D42, .cpmm { d := 3, a := 4, b := 6, rt := .wt, sc := .sys, last := true, len := 4096 }, 16),
  (0x000021BF0000004D1000000030406D52, .coll { d := 3, a := 4, b := 6, sc := .dev, count := 77, ty := .f32, op := .min, kind := .reduceScatter, group := 63 }, 16),
  (0x080088C1000000011800000030406D52, .coll { d := 3, a := 4, b := 6, sc := .sys, count := 1, root := 4097, ty := .n32, kind := .broadcast, group := 1 }, 16)
]

theorem test_words_mem : ∀ x ∈ wordsMem, decodeWord 0 x.1 = .instr x.2.1 x.2.2 := by decide +kernel

/-- R158, R208: words put together from the fields of R33 and the tables of the manual. -/
def wordsTile : List (BitVec 128 × Instr × Nat) := [
  (0x0000000028401000, .tdset {} 4 5, 8),
  (0x0000000028009010, .tdget {} 4 5, 8),
  (0x0000000028801020, .tlset {} 8 (.reg 5), 8),
  (0x000000FF0000000000801021, .tlset {} 8 (.imm 255), 12),
  (0x0000000028009030, .tlst {} 4 5, 8),
  (0x0000000028009040, .tlwait {} 4 5, 8),
  (0x0000000028001050, .tlfree {} 5, 8),
  (0x0000000028009060, .vclaim {} 4 5, 8),
  (0x0000000028001070, .vrel {} 5, 8),
  (0xFFFFFFFF0000001050C0000038007082, .cpin { d := 3, b := 7, edge := true, rt := .wt, sc := .dev, last := true, d0 := 16, d1 := 0xFFFFFFFF }, 16),
  (0xFFFFFFFF0000001010C0000038007092, .cpout { d := 3, b := 7, edge := true, rt := .wt, sc := .dev, d0 := 16, d1 := 0xFFFFFFFF }, 16),
  (0xFFFFFFFF0000001050C00000384070A2, .gth { d := 3, a := 4, b := 7, edge := true, rt := .wt, sc := .dev, last := true, d0 := 16, d1 := 0xFFFFFFFF }, 16),
  (0xFFFFFFFF0000001010C00000384070B2, .sct { d := 3, a := 4, b := 7, edge := true, rt := .wt, sc := .dev, d0 := 16, d1 := 0xFFFFFFFF }, 16),
  (0x00000000000010C0, .opfence {}, 8),
  (0x18000000004070D0, .post {} 3 4 .sys, 8),
  (0x00004000004070E0, .tkwait {} 3 4 4, 8),
  (0x00000000004070F0, .tktest {} 3 4, 8),
  (0x0000000000401100, .tkfree {} 4, 8),
  (0x0000000028401110, .fcset {} 4 (.reg 5), 8),
  (0x000000070000000000401111, .fcset {} 4 (.imm 7), 12),
  (0x0000000028401120, .fcpub {} 4 5, 8),
  (0x0000000028009130, .fcstat {} 4 5, 8)
]

theorem test_words_tile : ∀ x ∈ wordsTile, decodeWord 0 x.1 = .instr x.2.1 x.2.2 := by decide +kernel

/-- R340, R352: words put together from the fields of R33 and the tables of the manual. -/
def wordsSync : List (BitVec 128 × Instr × Nat) := [
  (0x14A0000028007400, .bara {} 3 (.reg 5) .team 0xA5, 8),
  (0x0000003F0018000000007401, .bara {} 3 (.imm 63) .job 0, 12),
  (0x0000000000407410, .barw {} 3 4, 8),
  (0x0008000028007420, .bars {} 3 (.reg 5) .band 0, 8),
  (0x0018F00000407430, .qpush {} 3 4 15 true true, 8),
  (0x0008100000407440, .qpop {} 3 4 1 true false, 8),
  (0x000000400000000000001451, .rgive {} (.imm 64), 12),
  (0x0010000028007460, .rclaim {} 3 (.reg 5) true, 8),
  (0x0008000000401470, .sint {} 4 true, 8),
  (0x000001000250C40050611481, .ship { d := 8, a := 6, ua := true, b := 10, c := 12, narg := 5, nres := 2, x := 0x100 }, 12),
  (0xFFFFFF000008000000611481, .ship { d := 8, a := 6, token := true, x := 0xFFFFFF00 }, 12)
]

theorem test_words_sync : ∀ x ∈ wordsSync, decodeWord 0 x.1 = .instr x.2.1 x.2.2 := by decide +kernel

/-- R419, R446: words put together from the fields of R33 and the tables of the manual. -/
def wordsSys : List (BitVec 128 × Instr × Nat) := [
  (0x0000000000401600, .sret {} 4, 8),
  (0x0010000028401610, .tlbinv {} .page 4 (.reg 5), 8),
  (0x0000FFFF0008000000001611, .tlbinv {} .asid 0 (.imm 0xFFFF), 12),
  (0x0000000028407620, .replay {} 3 4 5, 8),
  (0x0000000000401630, .ctxkill {} 4, 8),
  (0x0006400000007640, .xrd {} 3 100 false, 8),
  (0x0008000000301650, .xwr {} 3 false 0 true, 8),
  (0x0000000000407660, .lnch {} 3 4, 8),
  (0x0000000000509670, .gsave {} 4 5, 8),
  (0x0000000000509680, .grest {} 4 5, 8),
  (0x0000080028009690, .cntrd {} 4 (.reg 5) true, 8),
  (0x00000000004016A0, .trial {} 4 none, 8),
  (0x0000003F00080000004016A1, .trial {} 4 (some (.imm 63)), 12),
  (0x00000000200076B0, .wfi {} 3 4, 8)
]

theorem test_words_sys : ∀ x ∈ wordsSys, decodeWord 0 x.1 = .instr x.2.1 x.2.2 := by decide +kernel

/-- R32 -/
theorem test_fill_word : decodeWord 28 0x00000003 = .instr .fillWord 4 := by decide +kernel

/-- R3, R30: the bytes of the `nop` of R32 lie lowest first. -/
theorem test_bytes_of_nop : decodeBytes 8 [0x00, 0x0A, 0, 0, 0, 0, 0, 0] = .instr (.nop {}) 8 := by decide +kernel

/-- R31: where the lengths of R29 may start in a fetch block. -/
theorem test_last_places :
    decodeWord 24 0x0A00 = .instr (.nop {}) 8 ∧ decodeWord 28 0x0A00 = .reject .crossing ∧
    decodeWord 20 0x0A81 = .instr (.trap {} 0) 12 ∧ decodeWord 24 0x0A81 = .reject .crossing ∧
    decodeWord 16 0x0272 = .instr (.movw {} 0 0) 16 ∧ decodeWord 20 0x0272 = .reject .crossing := by decide +kernel

/-- R47, R50, R268, R292, R352, R419: words with a field that their entry does not allow. -/
theorem test_reserved_fields :
    (decodeWord 0 (0x000 * 16 + 4 * 2 ^ 51) = .reject .reserved ∧            -- add.f32
     decodeWord 0 (0x00E * 16 + 2 ^ 61) = .reject .reserved ∧                -- and with SAT
     decodeWord 0 (0x01F * 16 + 6 * 2 ^ 55) = .reject .reserved ∧            -- cmp with NUM on an integer
     decodeWord 0 (0x0C0 * 16 + 5 * 2 ^ 51) = .reject .reserved ∧            -- ld with W 5
     decodeWord 0 (0x0C0 * 16 + 2 * 2 ^ 57) = .reject .reserved ∧            -- ld with ORD rel
     decodeWord 0 (0x0C6 * 16 + 2 * 2 ^ 51 + 0xD * 2 ^ 44) = .reject .reserved ∧  -- atom with operation 0xD
     decodeWord 0 (0x0C6 * 16 + 3 * 2 ^ 51 + 9 * 2 ^ 44) = .reject .reserved ∧    -- fadd of 64 bits
     decodeWord 0 (0x029 * 16 + 1 + 0x014 * 2 ^ 64) = .reject .reserved ∧    -- srd of no register
     decodeWord 0 (0x02A * 16 + 1 + 0x00C * 2 ^ 64) = .reject .reserved ∧    -- swr of a read-only register
     decodeWord 0 (0x0D5 * 16 + 2 + 2 * 2 ^ 59 + 0 * 2 ^ 64) = .reject .reserved ∧  -- coll of no elements
     decodeWord 0 (0x148 * 16 + 1 + (9 * 2) * 2 ^ 51) = .reject .reserved ∧  -- ship of nine arguments
     decodeWord 0 (0x161 * 16 + 3 * 2 ^ 51) = .reject .reserved) := by decide +kernel  -- tlbinv of kind 3

/-! ### Ill-formed terms, one for each check -/

/-- R36, R38, R46, R47, R48: what the INT, FLT and WARP tables refuse. -/
theorem test_ill_formed_alu :
    (Instr.add { p := { gn := true } }).wellFormed = false ∧                        -- G = 0 with GN = 1
    (Instr.add { ty := .f32 }).wellFormed = false ∧                                 -- a type not listed
    (Instr.add { rm := .rz }).wellFormed = false ∧                                  -- RM without a meaning
    (Instr.add { sub := 1 }).wellFormed = false ∧ (Instr.and { sat := true }).wellFormed = false ∧
    (Instr.add { pt := true }).wellFormed = false ∧ (Instr.add { c := 1 }).wellFormed = false ∧
    (Instr.neg { b := .reg 1 false }).wellFormed = false ∧                          -- no source B
    (Instr.neg { b := .imm 0 }).wellFormed = false ∧                                -- no 96-bit form
    (Instr.qpk { ty := .f32, d := 4, b := .reg 1 true }).wellFormed = false ∧       -- UB reserved
    (Instr.ldc { b := .reg 1 false }).wellFormed = false ∧ (Instr.ldc { b := .imm 0 }).wellFormed = false ∧
    (Instr.add64 { ty := .i64, d := 1 }).wellFormed = false ∧ (Instr.add64 { ty := .i64, a := 1 }).wellFormed = false ∧
    (Instr.add64 { ty := .i64, b := .reg 1 false }).wellFormed = false ∧
    (Instr.ffma { ty := .f64, c := 1 }).wellFormed = false ∧ (Instr.lea { c := 8 }).wellFormed = false ∧
    (Instr.mov { b := .reg 1 false }).wellFormed = false ∧ (Instr.mov { a := 1, b := .imm 0 }).wellFormed = false ∧
    (Instr.qpk { ty := .f32, d := 0 }).wellFormed = false ∧ (Instr.qpk { ty := .f32, d := 6 }).wellFormed = false ∧
    (Instr.qpk { ty := .f32, d := 4, c := 7 }).wellFormed = false ∧ (Instr.qupk { ty := .f32, a := 6 }).wellFormed = false ∧
    (Instr.cvt { ty := .f16x2, sub := 14 }).wellFormed = false ∧                    -- a packed type to itself
    (Instr.cvt { ty := .f32, sub := 14, c := 2 }).wellFormed = false ∧ (Instr.cvt { ty := .f16x2, sub := 5 }).wellFormed = false ∧
    (Instr.cvt { ty := .f32, sub := 0, b := .reg 1 false }).wellFormed = false ∧
    (Instr.redw { ty := .f32, sub := 3 }).wellFormed = false ∧ (Instr.redw { ty := .i32, sub := 1, sat := true }).wellFormed = false ∧
    (Instr.redw { ty := .i32, rm := .ru }).wellFormed = false := by decide +kernel

/-- R49, R50, R268: what the MEM table refuses. -/
theorem test_ill_formed_mem :
    (Instr.ld { a := 1 }).wellFormed = false ∧ (Instr.ld { w := .b64, d := 1 }).wellFormed = false ∧
    (Instr.ld { w := .b128, d := 2 }).wellFormed = false ∧ (Instr.ld { w := .b32, sx := true }).wellFormed = false ∧
    (Instr.ld { c := 5 }).wellFormed = false ∧ (Instr.ld { ord := .rel }).wellFormed = false ∧
    (Instr.st { ord := .acq }).wellFormed = false ∧ (Instr.st { sx := true }).wellFormed = false ∧
    (Instr.lds { sc := .die }).wellFormed = false ∧ (Instr.lds { rt := .uc }).wellFormed = false ∧ (Instr.sts { last := true }).wellFormed = false ∧
    (Instr.ldr { sc := .team }).wellFormed = false ∧ (Instr.ldr { sc := .die, c := 1 }).wellFormed = false ∧ (Instr.str { sc := .sys }).wellFormed = false ∧
    (Instr.atom { w := .b8 }).wellFormed = false ∧ (Instr.atom { w := .b32, c := 13 }).wellFormed = false ∧
    (Instr.atom { w := .b64, c := 9 }).wellFormed = false ∧ (Instr.red { w := .b32, d := 1 }).wellFormed = false ∧
    (Instr.red { w := .b32, ord := .ar }).wellFormed = false ∧ (Instr.cas { w := .b64, c := 1 }).wellFormed = false ∧
    (Instr.fence {}).wellFormed = false ∧ (Instr.fence { ord := .acq, x := some 0 }).wellFormed = false ∧
    (Instr.flush { d := 1 }).wellFormed = false ∧ (Instr.inval { ord := .acq }).wellFormed = false ∧ (Instr.discard { sc := .dev }).wellFormed = false ∧
    (Instr.pref { rt := .wt }).wellFormed = false ∧ (Instr.icinv { a := 2 }).wellFormed = false ∧ (Instr.mon { b := 1 }).wellFormed = false ∧
    (Instr.mwait { a := 2 }).wellFormed = false ∧ (Instr.mwait { b := 1, x := some 0 }).wellFormed = false ∧
    (Instr.wcdrain { sc := .dev }).wellFormed = false ∧ (Instr.pdwait { d := 1 }).wellFormed = false ∧ (Instr.lnext { a := 2 }).wellFormed = false ∧
    (Instr.cpmm { a := 1 }).wellFormed = false ∧ (Instr.coll { sc := .die }).wellFormed = false ∧ (Instr.coll { count := 0 }).wellFormed = false ∧
    (Instr.coll { ty := .n64 }).wellFormed = false ∧ (Instr.coll { op := .max, kind := .allGather }).wellFormed = false ∧
    (Instr.coll { root := 1 }).wellFormed = false := by decide +kernel

/-- R69, R158, R208, R326, R340, R341, R352, R419, R446: what the other tables refuse. -/
theorem test_ill_formed_other :
    (Instr.movw {} 1 0).wellFormed = false ∧ (Instr.srd {} 1 0x014).wellFormed = false ∧ (Instr.srd {} 1 0x10D).wellFormed = false ∧
    (Instr.swr {} 1 false 0x000).wellFormed = false ∧ (Instr.swr {} 1 false 0x280).wellFormed = false ∧
    (Instr.brx {} 1 false).wellFormed = false ∧ (Instr.join { g := 1 }).wellFormed = false ∧ (Instr.yieldw { g := 1 }).wellFormed = false ∧
    (Instr.prog {} (.imm 16)).wellFormed = false ∧ (Instr.nop { gn := true }).wellFormed = false ∧
    (Instr.tdset {} 1 0).wellFormed = false ∧ (Instr.tdget {} 0 1).wellFormed = false ∧ (Instr.tdget {} 2 1).wellFormed = false ∧
    (Instr.tlset {} 0 (.reg 1)).wellFormed = false ∧ (Instr.tlset {} 4 (.reg 1)).wellFormed = false ∧ (Instr.tlset {} 8 (.imm 256)).wellFormed = false ∧
    (Instr.cpin { a := 2 }).wellFormed = false ∧ (Instr.cpout { last := true }).wellFormed = false ∧ (Instr.gth { a := 1 }).wellFormed = false ∧
    (Instr.sct { last := true }).wellFormed = false ∧ (Instr.post {} 1 1 .dev).wellFormed = false ∧ (Instr.tkwait {} 1 2 5).wellFormed = false ∧
    (Instr.tkwait {} 0 2 1).wellFormed = false ∧ (Instr.fcset {} 1 (.imm 256)).wellFormed = false ∧ (Instr.fcstat {} 6 1).wellFormed = false ∧
    (Instr.bara {} 1 (.imm 64) .team 0).wellFormed = false ∧ (Instr.bara {} 1 (.imm 0) .band 1).wellFormed = false ∧
    (Instr.bars { g := 1 } 1 (.imm 0) .band 0).wellFormed = false ∧ (Instr.barw { g := 1 } 1 1).wellFormed = false ∧
    (Instr.qpush {} 1 1 0 false false).wellFormed = false ∧ (Instr.qpop { g := 1 } 1 2 0 false false).wellFormed = false ∧
    (Instr.rgive {} (.imm 256)).wellFormed = false ∧ (Instr.rclaim { g := 1 } 1 (.imm 8) false).wellFormed = false ∧ (Instr.rclaim {} 1 (.imm 256) false).wellFormed = true ∧ (Instr.sint { g := 1 } 1 false).wellFormed = false ∧
    (Instr.ship { a := 1 }).wellFormed = false ∧ (Instr.ship { narg := 9 }).wellFormed = false ∧ (Instr.ship { nres := 5 }).wellFormed = false ∧
    (Instr.ship { token := true, c := 1 }).wellFormed = false ∧ (Instr.ship { b := 1 }).wellFormed = false ∧ (Instr.ship { d := 1 }).wellFormed = false ∧
    (Instr.sret {} 1).wellFormed = false ∧ (Instr.tlbinv {} .all 2 (.reg 0)).wellFormed = false ∧ (Instr.tlbinv {} .all 0 (.reg 1)).wellFormed = false ∧
    (Instr.tlbinv {} .asid 0 (.imm 65536)).wellFormed = false ∧ (Instr.xrd {} 1 1 true).wellFormed = false ∧ (Instr.xwr {} 1 false 1 true).wellFormed = false ∧
    (Instr.lnch {} 1 1).wellFormed = false ∧ (Instr.gsave { g := 1 } 2 1).wellFormed = false ∧ (Instr.cntrd {} 1 (.imm 0) false).wellFormed = false ∧
    (Instr.cntrd {} 2 (.imm 128) false).wellFormed = false ∧ (Instr.cntrd {} 2 (.imm 0) true).wellFormed = false ∧
    (Instr.trial {} 2 (some (.imm 64))).wellFormed = false ∧ (Instr.homeRead 0).wellFormed = false := by decide +kernel

/-! ### Single steps: results -/

/-- A register of the strand in focus after an instruction. -/
def after (i : Instr) (s : State) (r t : Nat) : Option Word :=
  match exec i s with
  | .next u => (u.strand? s.focus).map fun st => st.reg r t
  | _ => none

/-- `%sstat` of the strand in focus after an instruction. -/
def sstatAfter (i : Instr) (s : State) : Option Word :=
  match exec i s with
  | .next u => (u.strand? s.focus).map Strand.sstat
  | _ => none

/-- A strand of one thread. -/
def lone (rs : List (Nat × Nat × Word)) : State := small (strandOf rs fun k => { k with exm := 1 })

/-- A strand of one thread whose registers v2, v4 and v6 hold words and v3, v5 and v7 their high halves. -/
def abc (a b c : DWord) : State :=
  lone [(2, 0, a.extractLsb' 0 32), (3, 0, a.extractLsb' 32 32), (4, 0, b.extractLsb' 0 32), (5, 0, b.extractLsb' 32 32),
    (6, 0, c.extractLsb' 0 32), (7, 0, c.extractLsb' 32 32)]

def ops (ty : Ty) (sub : BitVec 4 := 0) (sat : Bool := false) (c : RegNo := 0) (rm : Rm := .rn) : Alu :=
  { ty := ty, sub := sub, sat := sat, rm := rm, d := 10, a := 2, b := .reg 4 false, c := c }

def one_ (ty : Ty) (sub : BitVec 4 := 0) (sat : Bool := false) (rm : Rm := .rn) : Alu :=
  { ty := ty, sub := sub, sat := sat, rm := rm, d := 10, a := 2 }

/-- R113 to R122: words by hand. -/
theorem test_int_results :
    after (.add (ops .i32)) (abc 0x7FFFFFFF 1 0) 10 0 = some 0x80000000 ∧ after (.add (ops .i32 0 true)) (abc 0x7FFFFFFF 1 0) 10 0 = some 0x7FFFFFFF ∧
    after (.add (ops .n8)) (abc 0xFF 2 0) 10 0 = some 1 ∧ after (.add (ops .i8)) (abc 0x7F 1 0) 10 0 = some 0xFFFFFF80 ∧
    after (.sub (ops .n32 0 true)) (abc 1 2 0) 10 0 = some 0 ∧ after (.sub (ops .i16)) (abc 0x8000 1 0) 10 0 = some 0x7FFF ∧
    after (.mul (ops .n16)) (abc 0xFFFF 0xFFFF 0) 10 0 = some 1 ∧ after (.mad (ops .i32 0 false 6)) (abc 0xFFFFFFFF 5 3) 10 0 = some 0xFFFFFFFE ∧
    after (.neg (one_ .i32 0 true)) (abc 0x80000000 0 0) 10 0 = some 0x7FFFFFFF ∧ after (.abs (one_ .i16)) (abc 0x8000 0 0) 10 0 = some 0xFFFF8000 ∧
    after (.min (ops .i32)) (abc 0xFFFFFFFF 1 0) 10 0 = some 0xFFFFFFFF ∧ after (.max (ops .n32)) (abc 0xFFFFFFFF 1 0) 10 0 = some 0xFFFFFFFF ∧
    after (.mulh (ops .i32)) (abc 0xFFFFFFFF 2 0) 10 0 = some 0xFFFFFFFF ∧ after (.mulh (ops .n32)) (abc 0xFFFFFFFF 2 0) 10 0 = some 1 ∧
    after (.mulw (ops .n32)) (abc 0xFFFFFFFF 0xFFFFFFFF 0) 11 0 = some 0xFFFFFFFE ∧ after (.mulw (ops .i32)) (abc 0xFFFFFFFF 2 0) 10 0 = some 0xFFFFFFFE ∧
    after (.addc (ops .n32 0 false 6)) (abc 0xFFFFFFFF 0 3) 10 0 = some 0 ∧ after (.addc (ops .n32 0 false 6)) (abc 0xFFFFFFFF 0 3) 11 0 = some 1 ∧
    after (.subb (ops .n32 0 false 6)) (abc 0 0 1) 10 0 = some 0xFFFFFFFF ∧ after (.subb (ops .n32 0 false 6)) (abc 0 0 1) 11 0 = some 1 ∧
    after (.div (ops .i32)) (abc 0xFFFFFFF9 2 0) 10 0 = some 0xFFFFFFFD ∧ after (.div (ops .i32)) (abc 0x80000000 0xFFFFFFFF 0) 10 0 = some 0x80000000 ∧
    after (.rem (ops .i32)) (abc 0xFFFFFFF9 2 0) 10 0 = some 0xFFFFFFFF ∧ after (.rem (ops .i32)) (abc 0x80000000 0xFFFFFFFF 0) 10 0 = some 0 := by
  decide +kernel

theorem test_bit_results :
    after (.and (ops .i32)) (abc 12 10 0) 10 0 = some 8 ∧ after (.or (ops .i32)) (abc 12 10 0) 10 0 = some 14 ∧
    after (.xor (ops .i32)) (abc 12 10 0) 10 0 = some 6 ∧ after (.andn (ops .i32)) (abc 12 10 0) 10 0 = some 4 ∧
    after (.orn (ops .i32)) (abc 12 0xFFFFFFFE 0) 10 0 = some 13 ∧ after (.not (one_ .i32)) (abc 12 0 0) 10 0 = some 0xFFFFFFF3 ∧
    after (.shl (ops .i32)) (abc 3 31 0) 10 0 = some 0x80000000 ∧ after (.shl (ops .i32)) (abc 3 32 0) 10 0 = some 0 ∧
    after (.shr (ops .i32)) (abc 0x80000000 31 0) 10 0 = some 1 ∧ after (.shr (ops .i32)) (abc 0x80000000 0x100000001 0) 10 0 = some 0x40000000 ∧
    after (.sra (ops .i32)) (abc 0x80000000 32 0) 10 0 = some 0xFFFFFFFF ∧ after (.sra (ops .i32)) (abc 0x80000000 4 0) 10 0 = some 0xF8000000 ∧
    after (.rot (ops .i32)) (abc 0x80000001 33 0) 10 0 = some 3 ∧ after (.clz (one_ .i32)) (abc 1 0 0) 10 0 = some 31 ∧
    after (.clz (one_ .i32)) (abc 0 0 0) 10 0 = some 32 ∧ after (.ctz (one_ .i32)) (abc 8 0 0) 10 0 = some 3 ∧
    after (.ctz (one_ .i32)) (abc 0 0 0) 10 0 = some 32 ∧ after (.popc (one_ .i32)) (abc 0xF0F 0 0) 10 0 = some 8 ∧
    after (.brev (one_ .i32)) (abc 1 0 0) 10 0 = some 0x80000000 ∧ after (.brev (one_ .i32)) (abc 6 0 0) 10 0 = some 0x60000000 ∧
    after (.bfx (ops .i32)) (abc 0xF00 0x0408 0) 10 0 = some 0xFFFFFFFF ∧ after (.bfx (ops .n32)) (abc 0xF00 0xFF08 0) 10 0 = some 0xF ∧
    after (.bfi (ops .i32 0 false 6)) (abc 0xFFFFFFFF 0x0804 0) 10 0 = some 0xFFFFF00F ∧
    after (.bfi (ops .i32 0 false 6)) (abc 0xFFFFFFFF 0x0120 0) 10 0 = some 0xFFFFFFFF := by decide +kernel

theorem test_wide_results :
    after (.add64 (ops .n64)) (abc 0xFFFFFFFF 1 0) 11 0 = some 1 ∧ after (.add64 (ops .i64 0 true)) (abc 0x7FFFFFFFFFFFFFFF 1 0) 11 0 = some 0x7FFFFFFF ∧
    after (.sub64 (ops .n64)) (abc 0 1 0) 11 0 = some 0xFFFFFFFF ∧ after (.sub64 (ops .n64 0 true)) (abc 0 1 0) 10 0 = some 0 ∧
    after (.shl64 (ops .n64)) (abc 1 63 0) 11 0 = some 0x80000000 ∧ after (.shl64 (ops .n64)) (abc 1 64 0) 11 0 = some 0 ∧
    after (.shr64 (ops .i64)) (abc 0x8000000000000000 64 0) 10 0 = some 0xFFFFFFFF ∧ after (.shr64 (ops .n64)) (abc 0x8000000000000000 64 0) 11 0 = some 0 ∧
    after (.sel (ops .i32 1 false 6)) (abc 1 2 0) 10 0 = some 2 ∧ after (.sel (ops .i32 0 false 6)) (abc 1 2 1) 10 0 = some 1 ∧
    after (.cmp (ops .i32 2)) (abc 0xFFFFFFFF 1 0) 10 0 = some 1 ∧ after (.cmp (ops .n32 2)) (abc 0xFFFFFFFF 1 0) 10 0 = some 0 ∧
    after (.cmp64 (ops .i64 4)) (abc 0x8000000000000000 1 0) 10 0 = some 0 ∧ after (.cmp64 (ops .n64 4)) (abc 0x8000000000000000 1 0) 10 0 = some 1 ∧
    after (.lea (ops .i32 0 false 3)) (abc 0x10 0xFFFFFFFF 0) 10 0 = some 8 ∧ after (.lea (ops .n32 0 false 3)) (abc 0 0xFFFFFFFF 0) 11 0 = some 7 ∧
    after (.mov { ty := .i64, d := 10, b := .imm 0x80000000 }) (abc 0 0 0) 11 0 = some 0xFFFFFFFF ∧ after (.mov (one_ .i32)) (abc 7 0 0) 10 0 = some 7 ∧
    after (.movw {} 10 0x123456789) (abc 0 0 0) 11 0 = some 1 := by decide +kernel

/-- R126 to R138: codes by hand. -/
theorem test_float_results :
    after (.fadd (ops .f32)) (abc 0x4B800000 0x3F800000 0) 10 0 = some 0x4B800000 ∧                 -- 2^24 + 1: tie to even
    after (.fadd (ops .f32 0 false 0 .ru)) (abc 0x4B800000 0x3F800000 0) 10 0 = some 0x4B800001 ∧
    sstatAfter (.fadd (ops .f32)) (abc 0x4B800000 0x3F800000 0) = some 0x10 ∧
    after (.fsub (ops .f32 0 false 0 .rd)) (abc 0x3F800000 0x3F800000 0) 10 0 = some 0x80000000 ∧   -- 1 - 1 rounded down
    after (.fmul (ops .f32)) (abc 0 0x7F800000 0) 10 0 = some 0x7FC00000 ∧ sstatAfter (.fmul (ops .f32)) (abc 0 0x7F800000 0) = some 1 ∧
    after (.ffma (ops .f32 0 false 6)) (abc 0x40400000 0x40A00000 0x3F800000) 10 0 = some 0x41800000 ∧
    after (.fdiv (ops .f32)) (abc 0x3F800000 0 0) 10 0 = some 0x7F800000 ∧ sstatAfter (.fdiv (ops .f32)) (abc 0x3F800000 0 0) = some 2 ∧
    after (.fsqrt (one_ .f32)) (abc 0x40800000 0 0) 10 0 = some 0x40000000 ∧ after (.frcp (one_ .f32)) (abc 0x40000000 0 0) 10 0 = some 0x3F000000 ∧
    after (.fmin (ops .f32)) (abc 0x80000000 0 0) 10 0 = some 0x80000000 ∧ after (.fmax (ops .f32)) (abc 0x7FC00000 0x3F800000 0) 10 0 = some 0x3F800000 ∧
    after (.fabs (one_ .f16)) (abc 0x8001 0 0) 10 0 = some 1 ∧ after (.fneg (one_ .f32)) (abc 0x3F800000 0 0) 10 0 = some 0xBF800000 ∧
    after (.fcmp (ops .f32 2)) (abc 0x3F800000 0x40000000 0) 10 0 = some 1 ∧ sstatAfter (.fcmp (ops .f32 2)) (abc 0x7FC00000 0 0) = some 1 ∧
    sstatAfter (.fcmp (ops .f32 0)) (abc 0x7FC00000 0 0) = some 0 ∧ after (.fclass (one_ .f32)) (abc 0xFF800000 0 0) 10 0 = some 4 ∧
    after (.frnd (one_ .f32)) (abc 0xBE99999A 0 0) 10 0 = some 0x80000000 ∧ after (.fscale (ops .f32)) (abc 0x3F800000 3 0) 10 0 = some 0x41000000 ∧
    after (.fdp2 (ops .f16x2 0 false 6)) (abc 0x40003C00 0x40003C00 0x3F800000) 10 0 = some 0x40C00000 := by decide +kernel

/-- R130: the rows that are exact. -/
theorem test_function_results :
    after (.frsq (one_ .f32)) (abc 0x40800000 0 0) 10 0 = some 0x3F000000 ∧ after (.fex2 (one_ .f32)) (abc 0x40400000 0 0) 10 0 = some 0x41000000 ∧
    sstatAfter (.fex2 (one_ .f32)) (abc 0x40400000 0 0) = some 0 ∧ after (.flg2 (one_ .f32)) (abc 0x41000000 0 0) 10 0 = some 0x40400000 ∧
    after (.fsin (one_ .f32)) (abc 0x80000000 0 0) 10 0 = some 0x80000000 ∧ after (.fcos (one_ .f32)) (abc 0 0 0) 10 0 = some 0x3F800000 ∧
    after (.ftanh (one_ .f32)) (abc 0xFF800000 0 0) 10 0 = some 0xBF800000 := by decide +kernel

/-- R88, R91, R94, R95, R135 to R138: conversions and blocks by hand. -/
theorem test_conversion_results :
    after (.cvt (one_ .i32 4)) (abc 0x40200000 0 0) 10 0 = some 2 ∧ after (.cvt (one_ .f32 0)) (abc 0xFFFFFFFF 0 0) 10 0 = some 0xBF800000 ∧
    after (.cvt (one_ .f16 4)) (abc 0x47800000 0 0) 10 0 = some 0x7C00 ∧ sstatAfter (.cvt (one_ .f16 4)) (abc 0x47800000 0 0) = some 0x14 ∧
    after (.cvt (one_ .i8 0 true)) (abc 0x100 0 0) 10 0 = some 0x7F ∧
    after (.qupk { ty := .f32, d := 10, a := 4, b := .reg 2 false }) (abc 32 0x18 0) 10 0 = some 0xC1000000 ∧      -- code 8 of KIND 00: -8
    after (.qpk { ty := .f32, d := 12, a := 2, b := .reg 4 false, c := 10 }) (abc 0x40400000 32 0) 12 0 = some 3 ∧
    after (.qpk { ty := .f32, d := 12, a := 2, b := .reg 4 false, c := 10 }) (abc 0x40400000 32 0) 10 0 = some 32 ∧
    after (.qpk { ty := .f32, d := 12, a := 2, b := .reg 4 false, c := 10 }) (abc 0x7FC00000 32 0) 10 0 = some 63 := by decide +kernel

/-- Four threads with v8 as in the example under R145. -/
def four (i : Instr) (t : Nat) : Option Word :=
  let s := small (strandOf [(8, 0, 0x4B800000), (8, 1, 0x3F800000), (8, 2, 0x3F800000), (8, 3, 0xCB800000)] fun k => { k with exm := 0xF })
  after i s 20 t

/-- The example under R145, and exchanges by hand. -/
theorem test_warp_results :
    (four (.redw { ty := .f32, d := 20, a := 8 }) 3 = some 0x40000000 ∧ four (.redw { ty := .f32, d := 20, a := 8 }) 4 = some 0 ∧
     four (.scanw { ty := .f32, d := 20, a := 8 }) 0 = some 0x4B800000 ∧ four (.scanw { ty := .f32, d := 20, a := 8 }) 1 = some 0x4B800000 ∧
     four (.scanw { ty := .f32, d := 20, a := 8 }) 2 = some 0x4B800001 ∧ four (.scanw { ty := .f32, d := 20, a := 8 }) 3 = some 0x40000000) ∧
    (four (.vote { ty := .i32, sub := 2, d := 20, a := 8 }) 0 = some 0 ∧ four (.bal { ty := .i32, d := 20, a := 8 }) 2 = some 0xF ∧
     four (.bcast { ty := .i32, d := 20, a := 8, b := .imm 9 }) 3 = some 0x4B800000 ∧ four (.matchw { ty := .i32, d := 20, a := 8 }) 1 = some 6 ∧
     four (.redw { ty := .n32, sub := 4, d := 20, a := 8 }) 0 = some 0xFF800000 ∧ four (.scanw { ty := .n32, sub := 8, d := 20, a := 8 }) 0 = some 0) := by
  decide +kernel

/-- R142, R321: the words of a `shfl` are on their way. -/
theorem test_shfl_down :
    (match exec (.shfl { ty := .i32, sub := 2, d := 20, a := 8, b := .imm 1 }) (small (strandOf [(8, 1, 5), (8, 2, 6), (8, 3, 7)] fun k => { k with exm := 0xE })) with
     | .next u => (u.strand? (.warp 0 0 0)).map Strand.inbound
     | _ => none) = some [{ reg := 20, vals := [(1, 6), (2, 7), (3, 7)] }] := by decide +kernel

/-! ### Witnesses: the hypotheses of the statements can be met

Each theorem `witness_<Statement>` shows states and operands that meet the hypotheses of that statement, clause by clause. -/

/-- `DecodedAndRejectedWords` at the edges of the fetch block and of the opcode map. -/
theorem witness_DecodedAndRejectedWords :
    (32 < 28 + lenBytes ((0xA00#128).extractLsb' 0 2)) ∧
    (28 + 4 ≤ 32 ∧ (7#128).extractLsb' 0 2 = 3#2 ∧ (7#128).extractLsb' 0 32 ≠ 3#32) ∧
    (0 + lenBytes ((0x1FF0#128).extractLsb' 0 2) ≤ 32 ∧ (0x1FF0#128).extractLsb' 0 2 ≠ 3#2 ∧ forms ((0x1FF0#128).extractLsb' 4 9) = []) ∧
    (0 + lenBytes ((0xA01#128).extractLsb' 0 2) ≤ 32 ∧ (0xA01#128).extractLsb' 0 2 ≠ 3#2 ∧ forms ((0xA01#128).extractLsb' 4 9) ≠ [] ∧
      (0xA01#128).extractLsb' 0 2 ∉ forms ((0xA01#128).extractLsb' 4 9)) := by decide +kernel

theorem witness_DecodeEncode :
    ∃ i bytes w, Instr.wellFormed i = true ∧ encode i = some (bytes, w) ∧ 16 + bytes ≤ 32 :=
  ⟨.movw {} 6 5, _, _, by decide +kernel, rfl, by decide +kernel⟩

theorem witness_EncodeDecode : decodeWord 24 0xA00 = .instr (.nop {}) 8 := by decide +kernel

/-- A split whose fetch block starts with a word. -/
def holding (w : BitVec 128) : State :=
  { small (strandOf [] fun k => { k with block := some { base := 0x10020, bytes := leBytes 32 w.toNat } }) with turn := some (.issue (.warp 0 0 0)) }

/-- `StepRunsDecoded`: an instruction, a word that is none, and no block. -/
theorem witness_StepRunsDecoded :
    (∀ w ∈ [0xA00#128, 0x1FF0#128], (holding w).turn = some (.issue (.warp 0 0 0)) ∧
      ∃ st b, (holding w).strand? (.warp 0 0 0) = some st ∧ (st.split 0).block = some b ∧ b.base = blockBase (st.split 0).pc ∧
        decodeBytes ((st.split 0).pc - b.base).toNat (b.bytes.drop ((st.split 0).pc - b.base).toNat) =
          (if w = 0xA00#128 then .instr (.nop {}) 8 else .reject .unlisted) ∧
        ∀ c < 16, ({ holding w with turn := none } : State).comparatorFires (.warp 0 0 0) c = false) ∧
    ∃ st, (small (strandOf [])).strand? (.warp 0 0 0) = some st ∧ ∀ b, (st.split 0).block = some b → b.base ≠ blockBase (st.split 0).pc := by
  refine ⟨?_, _, rfl, fun b h => by cases h⟩
  intro w hw
  simp only [List.mem_cons, List.not_mem_nil, or_false] at hw
  rcases hw with rfl | rfl <;> exact ⟨rfl, _, _, rfl, rfl, by decide +kernel, by decide +kernel, by decide +kernel⟩

/-- What an instruction finds on entry, before the checks of R54. -/
def Arrives (i : Instr) (s : State) (P : Env → Prop) : Prop :=
  ∃ e₀ e, s.env = some e₀ ∧ e₀.stall i s = none ∧ (s.enterRegion s.focus (instrPre i).re).env = some e ∧ P e

def arrived? (i : Instr) (s : State) : Option Env :=
  s.env.bind fun e₀ => if e₀.stall i s = none then (s.enterRegion s.focus (instrPre i).re).env else none

theorem arrives {i : Instr} {s : State} {P : Env → Prop} [∀ e, Decidable (P e)] (h : (arrived? i s).any (fun e => decide (P e)) = true) :
    Arrives i s P := by
  unfold arrived? at h
  cases h₀ : s.env with
  | none => rw [h₀] at h; cases h
  | some e₀ =>
    rw [h₀] at h
    simp only [Option.bind_some] at h
    split at h
    · rename_i hs
      cases he : (s.enterRegion s.focus (instrPre i).re).env with
      | none => rw [he] at h; cases h
      | some e => rw [he] at h; exact ⟨e₀, e, h₀, hs, he, of_decide_eq_true h⟩
    · cases h

/-- A section in thread 0 of a latency core. -/
def request : ShipReq :=
  { entry := 0x20000, dev := 0, pa := 0x5000, token := false, narg := 2, ctx := 0, asid := 1, thread := 3, core := 0, srcDev := 0, ret := 0, seq := 9,
    site := 0x10020, team := 0, lid := 0, args := [1, 2], jobTag := 0, stage := 0, launch := 0, key := 0, warp := 0 }

def section_ (st : Strand) : State :=
  { small (strandOf []) with focus := .lat 0 0, lcs := [(0, { t0 := { main := st, active := true, serving := some request } })] }

/-- `GateChecksAndRegions`, one case for each cause, and both ways into a region. -/
theorem witness_GateChecksAndRegions :
    Arrives (.sret {} 4) (small (strandOf [])) (fun e => e.handler = false ∧ e.priv = false) ∧
    Arrives (.tlbinv {} .all 0 (.reg 0)) (small (strandOf [])) (fun e => privOnly (.tlbinv {} .all 0 (.reg 0)) = true ∧ e.priv = false ∧ e.handler = false) ∧
    Arrives (.opfence {}) (latency (strandOf [] fun k => { k with exm := 1 })) (fun e => wideOnly (.opfence {}) = true ∧ e.lat = true) ∧
    Arrives (.ship {}) (section_ (strandOf [] fun k => { k with exm := 1 })) (fun e => e.lat = true ∧ e.serving = true ∧ e.st.nreg = 128) ∧
    Arrives (.add { a := 9 }) (small { strandOf [] with nreg := 8 }) (fun e => wideOnly (.add { a := 9 }) = false ∧ e.st.nreg < regTop (.add { a := 9 })) ∧
    (∀ fresh, ∃ st, (small (strandOf [] fun k => { k with fresh := fresh })).strand? (.warp 0 0 0) = some st ∧ 0 < st.splits.length ∧ (st.split 0).fresh = fresh) :=
  ⟨arrives (by decide +kernel), arrives (by decide +kernel), arrives (by decide +kernel), arrives (by decide +kernel), arrives (by decide +kernel),
    fun _ => ⟨_, rfl, Nat.zero_lt_one, rfl⟩⟩

def trap0 : Trap := { split := 0, ecause := 0x08, epc := 0x10020, eaddr := 0x123 }

/-- A warp whose handler image runs. -/
def handling (st : Strand) : State :=
  let wp : Warp := { main := { strandOf [] with splits := [{ split0 with st := .parked }] }, handler := some st, rp := 0x10000 }
  { small (strandOf []) with focus := .handler 0 0, teams := [(0, { core := some 0, spadBytes := 1024, warps := [wp] })] }

/-- `TrapEntry`: without and with a running handler. -/
theorem witness_TrapEntry :
    (∃ x wp, look (small (strandOf [])).teams 0 = some x ∧ x.warps[0]? = some wp ∧ wp.handler = none ∧
      ((small (strandOf [])).ctx x.ctx).stvecW ≠ 0 ∧ trap0.ecause.toNat % 256 ≠ 0x09) ∧
    ∃ x wp, look (handling (strandOf [])).teams 0 = some x ∧ x.warps[0]? = some wp ∧ wp.handler.isSome = true :=
  ⟨⟨_, _, rfl, rfl, rfl, by decide +kernel, by decide +kernel⟩, _, _, rfl, rfl, rfl⟩

/-- `FatalAndSectionTraps`. -/
theorem witness_FatalAndSectionTraps :
    (∃ x, look ((small (strandOf [])).killTeam 0).teams 0 = some x) ∧
    (∃ x wp, look (small (strandOf []) (c := { ctx0 with stvecW := 0 })).teams 0 = some x ∧ x.warps[0]? = some wp ∧ wp.handler = none ∧
      ((small (strandOf []) (c := { ctx0 with stvecW := 0 })).ctx x.ctx).stvecW = 0) ∧
    (∃ x wp, look (handling (strandOf [])).teams 0 = some x ∧ x.warps[0]? = some wp ∧ wp.handler.isSome = true) ∧
    ((section_ (strandOf [])).lc 0).t0.serving = some request ∧ ((section_ (strandOf [])).die (0 / 16)).waiters = [] :=
  ⟨⟨_, rfl⟩, ⟨_, _, rfl, rfl, rfl, by decide +kernel⟩, ⟨_, _, rfl, rfl, rfl⟩, rfl, rfl⟩

/-- A fault entry and a service event that are held. -/
def heldFault : FaultEntry :=
  { serial := 7, asid := 1, page := 5, write := false, kind := 1, cause := 1, level := 1, src := 0, site := 0, seq := 0, team := 0, clk := 0, held := true }

/-- A die whose fault queue and service ring of 4 entries lie at 0x100000. -/
def heldState (full : Bool) : State :=
  { mem := if full then [(0x100000, 4), (0x100004, 4), (0x100012, 0x11), (0x100018, 4), (0x10001C, 4)] else [(0x100000, 4), (0x100012, 0x11), (0x100018, 4)],
    dies := [(0, { fqbase := 0x100000, entries := [heldFault], heldSv := [{ kind := 1, ctx := 0, arg := 7 }] })] }

/-- A die whose service ring of `size` entries lies at 0x110000; it is full, or empty. -/
def svState (size : Byte) (full : Bool) : State :=
  { mem := [(0x100012, 0x11), (0x100018, size)] ++ (if full then [(0x10001C, size)] else []),
    dies := [(0, { fqbase := 0x100000, heldSv := [{ kind := 1, ctx := 0, arg := 7 }] })] }

/-- A context with an event ring of 4 records, whose head reads `head`. -/
def ringState (head : Byte) : State :=
  { mem := [(0x200058, head)], ctxs := [(0, { valid := true, cblk := 0x200000, evbase := 0x300000, evsize := 4, evtail := 8 })] }

/-- Where no latency core holds dirty bytes and no watch range is set. -/
theorem calm_of {s : State} (h : s.lcs = []) (hd : ∀ x ∈ s.dies, x.2.ranges = []) : s.calm := by
  refine ⟨fun d => ?_, fun x hx => by rw [h] at hx; cases hx⟩
  have : ∀ t : Sparse Die, (∀ x ∈ t, x.2.ranges = []) → (readOr {} t d).ranges = [] := by
    intro t
    induction t with
    | nil => intro _; rfl
    | cons p t ih =>
      intro ht
      simp only [readOr, look]
      split
      · exact ht p List.mem_cons_self
      · exact ih fun x hx => ht x (List.mem_cons_of_mem _ hx)
  exact this _ hd

theorem witness_EventAndHeldRecords :
    (let s := ringState 4
     ((s.ctx 0).evtail + 2 ^ 32 - leNat (s.homeRead ((s.ctx 0).cblk + 0x58) 4).2) % 2 ^ 32 = (s.ctx 0).evsize) ∧
    (let s := ringState 5
     ((s.ctx 0).evtail + 2 ^ 32 - leNat (s.homeRead ((s.ctx 0).cblk + 0x58) 4).2) % 2 ^ 32 ≠ (s.ctx 0).evsize ∧ 0 < (s.ctx 0).evsize ∧
       (s.ctx 0).evbase + 64 * (s.ctx 0).evsize ≤ hbmEnd) ∧
    (∀ full, (heldState full).calm ∧ ((heldState full).die 0).entries.find? FaultEntry.held = some heldFault) ∧
    (let s := heldState false
     ((s.fqWord 0 4).2 + 2 ^ 32 - (s.fqWord 0 8).2) % 2 ^ 32 ≠ (s.fqWord 0 0).2 ∧ 0 < (s.fqWord 0 0).2 ∧ (s.die 0).fqbase.toNat + 64 + 64 * (s.fqWord 0 0).2 ≤ hbmEnd) ∧
    (svState 4 false).svUsable 0 = false ∧
    (let s := svState 64 false
     s.svUsable 0 = true ∧ ((s.fqWord 0 0x1C).2 + 2 ^ 32 - (s.fqWord 0 0x20).2) % 2 ^ 32 ≠ (s.fqWord 0 0x18).2 ∧ 0 < (s.fqWord 0 0x18).2 ∧
       (s.die 0).fqbase.toNat + 0x28 ≤ (s.fqDword 0 0x10).2 ∧ (s.fqDword 0 0x10).2 + 32 * (s.fqWord 0 0x18).2 ≤ hbmEnd) ∧
    (let s := heldState true
     ((s.fqWord 0 4).2 + 2 ^ 32 - (s.fqWord 0 8).2) % 2 ^ 32 = (s.fqWord 0 0).2) ∧
    (∀ full, (svState 64 full).calm) ∧
    (let s := svState 64 true
     s.svUsable 0 = true ∧ ((s.fqWord 0 0x1C).2 + 2 ^ 32 - (s.fqWord 0 0x20).2) % 2 ^ 32 = (s.fqWord 0 0x18).2) :=
  ⟨by decide +kernel, by decide +kernel, fun full => ⟨calm_of rfl (by cases full <;> decide +kernel), by cases full <;> rfl⟩, by decide +kernel, by decide +kernel,
    by decide +kernel, by decide +kernel, fun full => calm_of rfl (by cases full <;> decide +kernel), by decide +kernel⟩

/-- A return pair in v4 and v5 of thread 0 of a handler image. -/
def returning (a : DWord) : State :=
  handling { strandOf [(4, 0, a.extractLsb' 0 32), (5, 0, a.extractLsb' 32 32)] with splits := [{ split0 with exm := 1 }] }

/-- `HandlerReturn`: a misaligned target, one beyond the address space, and a good one. -/
theorem witness_HandlerReturn :
    (∀ x ∈ [0x2#64, 0x200000000000000#64, 0x1FFFFFFFFFFFFFC#64],
      Meets (.sret {} 4) (returning x) fun _ e => e.who = .handler 0 0 ∧ e.acc = [] ∧ e.exm {} ≠ 0 ∧ e.pair 4 (Mask.lowest (e.exm {})) = x) ∧
    ∃ x wp, look (returning 0).teams 0 = some x ∧ x.warps[0]? = some wp ∧ wp.trapSplit < wp.main.splits.length ∧
      (wp.main.split wp.trapSplit).exm ≠ 0 ∧ wp.main.traps = [] := by
  refine ⟨?_, _, _, rfl, rfl, by decide, by decide, rfl⟩
  intro x hx
  simp only [List.mem_cons, List.not_mem_nil, or_false] at hx
  rcases hx with rfl | rfl | rfl <;> exact meets (by decide +kernel)

/-- The checks of a list of accesses by the strand in focus: the state after them and the pieces, where all pass. -/
def passes? (e : Env) (s : State) (k : Kind) (ws : List Want) : Option (State × List Piece) :=
  match (e.space s).1.checkAll (e.space s).2 k ws with
  | (u, .ok ps) => some (u, ps)
  | _ => none

theorem passes?_spec {e : Env} {s u : State} {k : Kind} {ws : List Want} {ps : List Piece} (h : passes? e s k ws = some (u, ps)) :
    e.space s = ((e.space s).1, (e.space s).2) ∧ (e.space s).1.checkAll (e.space s).2 k ws = (u, .ok ps) := by
  unfold passes? at h
  split at h
  · rename_i hx
    simp only [Option.some.injEq, Prod.mk.injEq] at h
    obtain ⟨rfl, rfl⟩ := h
    exact ⟨rfl, hx⟩
  · cases h

/-- The checks pass, and what they give meets a condition. -/
def Passes (e : Env) (s : State) (k : Kind) (ws : List Want) (P : State → List Piece → Prop) : Prop := ∃ u ps, passes? e s k ws = some (u, ps) ∧ P u ps

theorem passes {e : Env} {s : State} {k : Kind} {ws : List Want} {P : State → List Piece → Prop} [∀ u ps, Decidable (P u ps)]
    (h : (passes? e s k ws).any (fun x => decide (P x.1 x.2)) = true) : Passes e s k ws P := by
  cases hx : passes? e s k ws with
  | none => rw [hx] at h; cases h
  | some x => rw [hx] at h; exact ⟨x.1, x.2, hx, of_decide_eq_true h⟩

/-- The strand in focus. -/
def envOf (s : State) : Env := s.env.getD ⟨.lat 0 1, 0, {}, {}, 0, {}, .lat 0, 0, false, false, [], 0⟩

/-- A load that has failed in thread 0. -/
def failedLoad (c : Nat) : State :=
  { small (strandOf [] fun k => { k with score := [{ reg := 6, mask := 1 }] }) with
    loads := [(5, { who := .warp 0 0 0, pc := 0x10020, reg := 6, w := .b32, mask := 1, left := 0, eaddr := [(0, 0x500)], failed := some (0, c) })] }

/-- `FetchingAndWaking`: a block that is fetched, a word that is no instruction, waiting splits, and failed loads. -/
theorem witness_FetchingAndWaking :
    (let s := small (strandOf [] fun k => { k with st := .fetch })
     s.env = some (envOf s) ∧ (envOf s).k < (envOf s).st.splits.length ∧ (envOf s).sp.st = .fetch ∧
       Passes (envOf s) s .exec [{ thread := 0, va := 0x10020, bytes := 32 }] fun u ps => u.strand? (envOf s).who = s.strand? (envOf s).who ∧
         ∃ p ∈ ps, ps = [p] ∧ p.askew = false ∧ u.poisonedAt p = false ∧ p.at_.dev = u.dev ∧ p.at_.pa < hbmEnd ∧
           look (u.icache (envOf s).agent) (blockNo p.at_.dev p.at_.pa) = none ∧ look (u.die (envOf s).die).rdc (lineNo p.at_.dev p.at_.pa) = none) ∧
    (∀ x ∈ [(0x1FF0#128, Reject.unlisted), (0xA01#128, .undefinedForm), (7#128, .badFill)],
      (holding x.1).env = some (envOf (holding x.1)) ∧ (envOf (holding x.1)).sp.fetched = some (.reject x.2)) ∧
    (∀ x ∈ [(Wake.score, true), (.monitor, true), (.clocks, false), (.serviceRing, false)],
      let s := small (strandOf [] fun k => { k with st := .parked, park := some { reason := 1, cond := x.1, left := some 0 } })
      s.env = some (envOf s) ∧ (envOf s).k < (envOf s).st.splits.length ∧ ∃ k, (envOf s).sp.park = some k ∧ k.left = some 0 ∧ s.met (envOf s) k.cond = x.2) ∧
    (let s := small (strandOf [] fun k => { k with st := .parked, park := some { reason := 1, cond := .score, left := some 0 } }) fun x => { x with core := none }
     s.env = some (envOf s) ∧ s.away (envOf s).who = true ∧ ∃ k, (envOf s).sp.park = some k ∧ s.met (envOf s) k.cond = true) ∧
    (∀ x ∈ [(Late.refused, 0x0A), (.lost, 0x0C), (.dataError, 0x0C)],
      ∃ l st, look (failedLoad x.2).loads 5 = some l ∧ l.failed = some (0, x.2) ∧ l.left = 0 ∧ (failedLoad x.2).earliestFailed 5 l.who = true ∧
        (failedLoad x.2).strand? l.who = some st) := by
  refine ⟨⟨rfl, by decide +kernel, rfl, passes (by decide +kernel)⟩, ?_, ?_, ⟨rfl, by decide +kernel, _, rfl, by decide +kernel⟩, ?_⟩
  · intro x hx
    simp only [List.mem_cons, List.not_mem_nil, or_false] at hx
    rcases hx with rfl | rfl | rfl <;> exact ⟨rfl, by decide +kernel⟩
  · intro x hx
    simp only [List.mem_cons, List.not_mem_nil, or_false] at hx
    rcases hx with rfl | rfl | rfl | rfl <;> exact ⟨rfl, by decide +kernel, _, rfl, rfl, by decide +kernel⟩
  · intro x hx
    simp only [List.mem_cons, List.not_mem_nil, or_false] at hx
    rcases hx with rfl | rfl | rfl <;> exact ⟨_, _, rfl, rfl, rfl, by decide +kernel, rfl⟩

/-! Integers, floating point and the warp group -/

/-- An instruction enters, and its source B is a register. -/
def MeetsB (i : Instr) (o : Alu) (s : State) (P : Env → Prop) : Prop := ∃ s' e b, Enters i s s' e ∧ e.ReadsB o false s' s' b ∧ P e

theorem meetsB {i : Instr} {o : Alu} {s : State} {P : Env → Prop} (r : RegNo) (u : Bool) (ho : o.b = .reg r u) (h : Meets i s fun _ e => P e) : MeetsB i o s P :=
  let ⟨s', e, he, hp⟩ := h
  ⟨s', e, _, he, readsB_reg e o s' r u ho, hp⟩

theorem witness_PlacedIntegers : Ty.i16 ∈ [Ty.i32, .n32, .i64, .n64, .i16, .n16, .i8, .n8] ∧ minInt .i16 ≤ -32768 ∧ (-32768 : Int) ≤ maxInt .i16 := by decide

/-- The statements of the form `Gives`: every instruction enters on its own operands (here one of each statement). -/
theorem witness_Gives :
    ∀ i ∈ [Instr.add (ops .i32), .mulh (ops .i32), .and (ops .i32), .clz (ops .i32), .sel (ops .i32), .vote (ops .i32), .redw (ops .i32), .fadd (ops .f32), .fmin (ops .f32),
        .cvt (one_ .i32 4), .fclass (one_ .f32)], MeetsB i (ops .i32) (abc 1 2 3) fun e => e.exm {} = 1 := by
  intro i hi
  simp only [List.mem_cons, List.not_mem_nil, or_false] at hi
  rcases hi with rfl | rfl | rfl | rfl | rfl | rfl | rfl | rfl | rfl | rfl | rfl <;> exact meetsB 4 false rfl (meets (by decide +kernel))

/-- `Division`: no acting thread divides by zero, and one does. -/
theorem witness_Division :
    (∀ i ∈ [Instr.div (ops .i32), .rem (ops .i32)], MeetsB i (ops .i32) (abc 7 2 0) fun e => ∀ u < 32, (e.exm {}).getLsbD u = true → e.reg 4 u ≠ 0) ∧
    ∀ i ∈ [Instr.div (ops .i32), .rem (ops .i32)], MeetsB i (ops .i32) (abc 7 0 0) fun e => (e.exm {}).getLsbD 0 = true ∧ e.reg 4 0 = 0 := by
  refine ⟨?_, ?_⟩ <;>
  · intro i hi
    simp only [List.mem_cons, List.not_mem_nil, or_false] at hi
    rcases hi with rfl | rfl <;> exact meetsB 4 false rfl (meets (by decide +kernel))

/-- `SelectCompareMove`: `movw`, which has no source B, and both moves. -/
theorem witness_SelectCompareMove :
    Meets (.movw {} 6 5) (small (strandOf [])) (fun _ _ => True) ∧ MeetsB (.mov (ops .i32)) (ops .i32) (abc 1 2 3) (fun _ => True) :=
  ⟨meets (by decide +kernel), meetsB 4 false rfl (meets (by decide +kernel))⟩

/-- A launch with a constant window 2 at 0x6000. -/
def windowed (a : Word) : State :=
  { small (strandOf [(5, 0, a)] fun k => { k with exm := 1 }) with launches := [(0, { record := { wins := [0, 0, 0x6000] } })] }

def ldcOf (ty : Ty) (w : BitVec 3) (off : BitVec 17) : Alu := { ty := ty, d := 4, a := 5, b := .const w off }

/-- `SourceBAndConstants`: an index past the window, an absent window, an odd index of a pair, and words that are read. -/
theorem witness_SourceBAndConstants :
    Meets (.ldc (ldcOf .i32 2 0x1FFFF)) (windowed 1) (fun s e => e.exm {} = 1 ∧ 2 ^ 17 ≤ 0x1FFFF + (e.reg 5 0).toNat ∧ s.window e 2 ≠ 0) ∧
    Meets (.ldc (ldcOf .i32 1 0)) (windowed 1) (fun s e => e.exm {} = 1 ∧ s.window e 1 = 0) ∧
    Meets (.ldc (ldcOf .i64 2 0)) (windowed 1) (fun s e => e.exm {} = 1 ∧ s.window e 2 ≠ 0 ∧ (e.reg 5 0).toNat % 2 = 1) ∧
    Meets (.ldc (ldcOf .i64 2 0x1FFFE)) (windowed 0) (fun s e => e.exm {} = 1 ∧ s.window e 2 = 0x6000 ∧
      (match (e.space s).1.checkThreads (e.space s).2 .read true
          [{ thread := 0, va := 0x6000 + 4 * 0x1FFFE, bytes := 4 }, { thread := 0, va := 0x6000 + 4 * 0x1FFFF, bytes := 4 }] with
        | (u, .ok ps) => ps.all fun p => !p.askew && !u.poisonedAt p
        | _ => false) = true) :=
  ⟨meets (by decide +kernel), meets (by decide +kernel), meets (by decide +kernel), meets (by decide +kernel)⟩

/-- `SpecialOperandsAndChoices` and `RoundingEnds`. -/
theorem witness_RoundingEnds :
    f32 ∈ [f32, f16, bf16, f64] ∧ (0x7F7FFFFF < 2 * f32.signBit ∧ (f32.value 0x7F7FFFFF).isNan = false ∧ 0x7F7FFFFF % f32.signBit ≠ f32.infCode) ∧
    (let x : Real_ := { neg := true, m := 1, e := 128 }
     x.m ≠ 0 ∧ (f32.bias : Int) + 1 ≤ x.top) := by decide +kernel

/-- `Conversions`: the forms of R135, and `cvtsr`. -/
theorem witness_Conversions :
    MeetsB (.cvtsr (one_ .n43 4)) (one_ .n43 4) (abc 0x3F800000 0 0) (fun e => e.lat = false ∧ e.team = 0) ∧
    (∀ x ∈ [(Ty.i32, (4 : BitVec 4)), (.f16x2, 15), (.f16x2, 4), (.f32, 14)], MeetsB (.cvt (one_ x.1 x.2)) (one_ x.1 x.2) (abc 0x3F800000 0 0) fun _ => True) := by
  refine ⟨meetsB 0 false rfl (meets (by decide +kernel)), ?_⟩
  intro x hx
  simp only [List.mem_cons, List.not_mem_nil, or_false] at hx
  rcases hx with rfl | rfl | rfl | rfl <;> exact meetsB 0 false rfl (meets (by decide +kernel))

/-- `QuadBlocks`: with and without an enabled flag. -/
theorem witness_QuadBlocks :
    (let o : Alu := { ty := .f32, d := 12, a := 2, b := .reg 4 false, c := 15 + 1 }
     MeetsB (.qpk o) o (abc 0x40400000 32 0) fun e => e.reg 4 0 = 32) ∧
    (let o : Alu := { ty := .f32, d := 12, a := 4, b := .reg 2 false }
     MeetsB (.qupk o) o (abc 32 0x18 0) fun _ => True) :=
  ⟨meetsB 4 false rfl (meets (by decide +kernel)), meetsB 2 false rfl (meets (by decide +kernel))⟩

/-- `WarpExchange`: `shfl` of words and of pairs. -/
theorem witness_WarpExchange : ∀ ty ∈ [Ty.i32, .i64], MeetsB (.shfl (ops ty)) (ops ty) (abc 1 2 3) fun _ => True := by
  intro ty h
  simp only [List.mem_cons, List.not_mem_nil, or_false] at h
  rcases h with rfl | rfl <;> exact meetsB 4 false rfl (meets (by decide +kernel))

/-! Control flow -/

/-- A guard that splits the threads of a warp: v9 in each thread is 3 where 5 threads run. -/
def guarded (f : Split → Split := id) : State := small (strandOf [(9, 0, 3)] fun k => f { k with exm := 0x1F })

/-- A warp with four splits in use. -/
def fourSplits (depth : Nat) : State :=
  small { strandOf [(9, 0, 3)] with
    splits := { split0 with exm := 0x1F, stack := List.replicate depth { pc := 0, mask := 0, joinAt := 0 } } ::
      List.replicate 3 { split0 with exm := 0x20, st := .parked } }

/-- Guards without and with acting threads. -/
def none_ : Pre := { g := 8 }
def some_ : Pre := { g := 9 }

/-- `GoesOnAndTraps`: with and without acting threads; a count of zero and of one. -/
theorem witness_GoesOnAndTraps :
    ((small (strandOf [])).env = some (envOf (small (strandOf []))) ∧ (envOf (small (strandOf []))).k < (envOf (small (strandOf []))).st.splits.length) ∧
    (∀ i ∈ [Instr.nop {}, .yieldw {}, .nop { sw := true }], Meets i (small (strandOf [] fun k => { k with score := [{ reg := 6, mask := 1 }] })) fun _ e => e.sp.score ≠ []) ∧
    (∀ n ∈ [0#32, 1#32], Meets (.wait {} (.imm n)) (small (strandOf [])) fun _ e => e.exm {} ≠ 0 ∧ e.num (e.exm {}) (.imm n) = n ∧ e.sp.again = false) ∧
    Meets (.wait {} (.imm 1)) (small (strandOf [] fun k => { k with again := true, park := some { reason := 11, cond := .clocks, left := some 0 } }))
      (fun _ e => e.timedOut = true) ∧
    (∀ i ∈ [Instr.wait none_ (.imm 1), .prog none_ (.imm 3), .trap none_ 5, .brk none_ 5], Meets i guarded fun _ e => e.exm none_ = 0) ∧
    (∀ i ∈ [Instr.prog some_ (.imm 3), .trap some_ 5, .brk some_ 5], Meets i guarded fun s e => e.exm some_ ≠ 0 ∧ e.acc = [] ∧ s.debugged e.ctxNo = false) :=
  ⟨⟨rfl, by decide⟩, meetsAll (by decide +kernel), meetsAll (by decide +kernel), meets (by decide +kernel), meetsAll (by decide +kernel), meetsAll (by decide +kernel)⟩

/-- Two threads whose pairs v4, v5 hold two addresses. -/
def pairs (a b : DWord) : State :=
  small (strandOf [(4, 0, a.extractLsb' 0 32), (5, 0, a.extractLsb' 32 32), (4, 1, b.extractLsb' 0 32), (5, 1, b.extractLsb' 32 32)] fun k => { k with exm := 3 })

/-- The section of a latency core, whose v126 and v127 hold the return pair. -/
def returnPair : State := section_ (strandOf [(126, 0, 0xFFFFFFFC), (127, 0, 0xFFFFFFFF)] fun k => { k with exm := 1 })

/-- `Branches`: without threads, with some, with all; targets that are the same, different, misaligned and beyond the space. -/
theorem witness_Branches :
    (∀ i ∈ [Instr.braUniform none_ 16, .call none_ 16, .brx none_ 4 false, .calx none_ 4 true, .ret none_ 4 false], Meets i guarded fun _ e => e.exm none_ = 0) ∧
    (∀ i ∈ [Instr.braUniform some_ 16, .call some_ 16, .brx some_ 4 false, .ret some_ 4 true], Meets i guarded fun _ e => e.exm some_ ≠ 0 ∧ e.exm some_ ≠ e.sp.exm) ∧
    (∀ x ∈ [16#32, 18, 0x80000000], Meets (.call {} x) guarded fun _ e => e.exm {} ≠ 0 ∧ e.exm {} = e.sp.exm) ∧
    (∀ i ∈ [Instr.brx {} 4 false, .calx {} 4 false, .ret {} 4 false], Meets i (pairs 0x10000 0x10020) fun _ e => e.pair 4 1 ≠ e.pair 4 (Mask.lowest (e.exm {}))) ∧
    (∀ x ∈ [0x10000#64, 0x10002, 0x200000000000000], Meets (.calx {} 4 false) (pairs x x) fun _ e => ∀ u < 32, (e.exm {}).getLsbD u = true → e.pair 4 u = x) ∧
    Meets (.ret {} 126 true) returnPair (fun s e => e.who = .lat 0 0 ∧ (s.lc 0).t0.serving = some request ∧ (s.die 0).waiters = [] ∧ e.exm {} ≠ 0 ∧
      e.exm {} = e.sp.exm ∧ e.pair 126 (Mask.lowest (e.exm {})) = 0xFFFFFFFFFFFFFFFC) :=
  ⟨meetsAll (by decide +kernel), meetsAll (by decide +kernel), meetsAll (by decide +kernel), meetsAll (by decide +kernel), meetsAll (by decide +kernel),
    meets (by decide +kernel)⟩

/-- `DivergentBranch`: bad targets and joins, no division, a free split, and four splits at depth 15 and 16. -/
theorem witness_DivergentBranch :
    Meets (.braDivergent none_ 16 32) guarded (fun _ e => e.exm none_ = 0) ∧
    (∀ x ∈ [(18#32, 32#32), (16, 34)], Meets (.braDivergent some_ x.1 x.2) guarded fun _ e => e.exm some_ ≠ 0 ∧
      ((e.sp.pc + x.1.signExtend 64).extractLsb' 0 2 ≠ 0#2 ∨ (e.sp.pc + x.2.signExtend 64).extractLsb' 0 2 ≠ 0#2)) ∧
    Meets (.braDivergent {} 16 32) guarded (fun _ e => e.exm {} ≠ 0 ∧ e.exm {} = e.sp.exm) ∧
    Meets (.braDivergent some_ 16 32) guarded (fun _ e => e.exm some_ ≠ 0 ∧ e.exm some_ ≠ e.sp.exm ∧ e.who = .warp 0 0 0 ∧ (e.st.split 1).st = .free ∧
      (e.st.split e.k).st = .ready ∧ 1 ≤ e.st.splits.length) ∧
    (∀ n ∈ [15, 16], Meets (.braDivergent some_ 16 32) (fourSplits n) fun _ e => e.exm some_ ≠ 0 ∧ e.exm some_ ≠ e.sp.exm ∧ e.sp.stack.length = n ∧
      ∀ q < 4, (e.st.split q).st ≠ .free ∧ (e.st.split q).st ≠ .exited) :=
  ⟨meets (by decide +kernel), meetsAll (by decide +kernel), meets (by decide +kernel), meets (by decide +kernel), meetsAll (by decide +kernel)⟩

/-- A split at its join, under a stack entry or under a join record. -/
def joining (stack : List StackEntry) (live : Mask) : State :=
  small { strandOf [] with live := live, splits := [{ split0 with exm := 0xF, stack := stack, jrec := if stack = [] then [3] else [] }],
                           joins := [(3, { joinAt := 0x10020, depth := 0, expected := 0xFF, arrived := 0 })] }

/-- `Join`: both arms of a stack entry, a record that waits and one that completes, and no division. -/
theorem witness_Join :
    (∀ m ∈ [0xF0#32, 0], Meets (.join {}) (joining [{ pc := 0x10040, mask := m, joinAt := 0x10020 }] 0xFF) fun _ e =>
      ∃ top ∈ e.sp.stack, top.joinAt = e.sp.pc ∧ top.mask = m) ∧
    (∀ x ∈ [(0xFF#32, false), (0xF, true)], Meets (.join {}) (joining [] x.1) fun _ e => e.sp.stack = [] ∧ e.sp.jrec = [3] ∧
      ∃ r ∈ look e.st.joins 3, r.joinAt = e.sp.pc ∧ r.depth = e.sp.stack.length ∧ ((r.arrived ||| e.sp.exm = r.expected &&& e.st.live) = (x.2 = true))) ∧
    Meets (.join {}) guarded (fun _ e => e.sp.stack = [] ∧ e.sp.jrec = []) := by
  refine ⟨meetsAll (by decide +kernel), ?_, meets (by decide +kernel)⟩
  intro x hx
  simp only [List.mem_cons, List.not_mem_nil, or_false] at hx
  rcases hx with rfl | rfl
  · exact (meets (P := fun _ e => e.sp.stack = [] ∧ e.sp.jrec = [3] ∧ ∃ r ∈ look e.st.joins 3, r.joinAt = e.sp.pc ∧ r.depth = e.sp.stack.length ∧
      ¬(r.arrived ||| e.sp.exm = r.expected &&& e.st.live)) (by decide +kernel)).imp fun _ ⟨e, h, a, b, r, h1, h2, h3, h4⟩ =>
        ⟨e, h, a, b, r, h1, h2, h3, by simpa using h4⟩
  · exact (meets (P := fun _ e => e.sp.stack = [] ∧ e.sp.jrec = [3] ∧ ∃ r ∈ look e.st.joins 3, r.joinAt = e.sp.pc ∧ r.depth = e.sp.stack.length ∧
      r.arrived ||| e.sp.exm = r.expected &&& e.st.live) (by decide +kernel)).imp fun _ ⟨e, h, a, b, r, h1, h2, h3, h4⟩ =>
        ⟨e, h, a, b, r, h1, h2, h3, by simpa using h4⟩

/-- `Exit`: without threads, with a deferred fault, with an outstanding result, and free to go. -/
theorem witness_Exit :
    Meets (.exit none_) guarded (fun _ e => e.exm none_ = 0) ∧
    Meets (.exit {}) (small (strandOf []) fun x => { x with deferred := [{ op := 9, va := 0x500 }] }) (fun s e => e.exm {} ≠ 0 ∧
      ∃ x ∈ look s.teams 0, ∃ d ∈ x.deferred, d.warp = none) ∧
    Meets (.exit {}) (small (strandOf [] fun k => { k with score := [{ reg := 6, mask := 1 }] })) (fun _ e => ∃ r ∈ e.sp.score, r.mask &&& e.exm {} ≠ 0) ∧
    Meets (.exit {}) (small (strandOf [])) (fun s e => e.exm {} ≠ 0 ∧ e.sp.score = [] ∧ e.sp.mark = none ∧
      (s.release e.agent .dev e.releaser).drained e.agent e.who (s.release e.agent .dev e.releaser).nextKey false = true) :=
  ⟨meets (by decide +kernel), meets (by decide +kernel), meets (by decide +kernel), meets (by decide +kernel)⟩

/-! Memory -/

/-- The checks of a MEM instruction's accesses: the state after them, and the outcome. -/
def checked (e : Env) (o : Mem) (indexed : Bool) (k : Kind) (s : State) : State × Checked :=
  (e.space s).1.checkAll (e.space s).2 k (e.wants o indexed (e.exm o.p) o.w.bytes)

/-- An instruction enters, its accesses reach memory, and what they give meets a condition. -/
def Reaching (i : Instr) (o : Mem) (indexed : Bool) (k : Kind) (s : State) (P : Env → State → List Piece → Prop) : Prop :=
  ∃ s' e u ps, Enters i s s' e ∧ e.Reaches o indexed k s' u ps ∧ P e u ps

/-- An instruction enters, and the checks of its accesses end in a state and an outcome. -/
def Refused (i : Instr) (o : Mem) (indexed : Bool) (k : Kind) (s : State) (P : Checked → Prop) : Prop :=
  ∃ s' e u c, Enters i s s' e ∧ e.Checks o indexed k s' u c ∧ P c

def reaching? (i : Instr) (o : Mem) (indexed : Bool) (k : Kind) (s : State) (p : Env → State → List Piece → Bool) : Bool :=
  match entered? i s with
  | none => false
  | some x =>
    match checked x.2 o indexed k x.1 with
    | (u, .ok ps) => decide (u.strand? x.2.who = x.1.strand? x.2.who) && (ps.all fun q => !q.askew) && p x.2 u ps
    | _ => false

theorem reaching {i : Instr} {o : Mem} {indexed : Bool} {k : Kind} {s : State} {P : Env → State → List Piece → Prop}
    [∀ e u ps, Decidable (P e u ps)] (h : reaching? i o indexed k s (fun e u ps => decide (P e u ps)) = true) : Reaching i o indexed k s P := by
  unfold reaching? at h
  split at h
  · cases h
  · rename_i x hx
    split at h
    · rename_i u ps hc
      simp only [Bool.and_eq_true, decide_eq_true_eq, List.all_eq_true, Bool.not_eq_true'] at h
      exact ⟨_, _, u, ps, enters_of hx, ⟨⟨⟨_, _, rfl, hc⟩, h.1.1⟩, h.1.2⟩, h.2⟩
    · cases h

def refused? (i : Instr) (o : Mem) (indexed : Bool) (k : Kind) (s : State) (p : Checked → Bool) : Bool :=
  match entered? i s with
  | none => false
  | some x => decide ((checked x.2 o indexed k x.1).1.strand? x.2.who = x.1.strand? x.2.who) && p (checked x.2 o indexed k x.1).2

theorem refused {i : Instr} {o : Mem} {indexed : Bool} {k : Kind} {s : State} {P : Checked → Prop} [∀ c, Decidable (P c)]
    (h : refused? i o indexed k s (fun c => decide (P c)) = true) : Refused i o indexed k s P := by
  unfold refused? at h
  split at h
  · cases h
  · simp only [Bool.and_eq_true, decide_eq_true_eq] at h
    exact ⟨_, _, _, _, enters_of ‹_›, ⟨⟨_, _, rfl, rfl⟩, h.1⟩, h.2⟩

theorem refusedAll {α : Type} {l : List α} {i : α → Instr} {o : α → Mem} {x : α → Bool} {k : α → Kind} {s : α → State} {P : α → Checked → Prop}
    [∀ a c, Decidable (P a c)] (h : (l.all fun a => refused? (i a) (o a) (x a) (k a) (s a) fun c => decide (P a c)) = true) :
    ∀ a ∈ l, Refused (i a) (o a) (x a) (k a) (s a) (P a) := fun a ha => refused (List.all_eq_true.mp h a ha)

theorem reachingAll {α : Type} {l : List α} {i : α → Instr} {o : α → Mem} {x : α → Bool} {k : α → Kind} {s : α → State} {P : α → Env → State → List Piece → Prop}
    [∀ a e u ps, Decidable (P a e u ps)] (h : (l.all fun a => reaching? (i a) (o a) (x a) (k a) (s a) fun e u ps => decide (P a e u ps)) = true) :
    ∀ a ∈ l, Reaching (i a) (o a) (x a) (k a) (s a) (P a) := fun a ha => reaching (List.all_eq_true.mp h a ha)

/-- One thread whose pair v4, v5 holds an address, and v6, v7 data. -/
def at_ (a : DWord) (f : State → State := id) : State :=
  f (lone [(4, 0, a.extractLsb' 0 32), (5, 0, a.extractLsb' 32 32), (6, 0, 0x44332211), (7, 0, 0x88776655), (8, 0, 7)])

/-- The line of 0x7000 in L1. -/
def inL1 (s : State) : State :=
  { s with cores := [(0, { l1 := [(0xE0, { valid := BitVec.allOnes 128, data := 0x0403020180 })] })] }

/-- A queue at 0x7000 of the launch. -/
def queued (s : State) : State := { s with launches := [(0, { record := { queues := [(1, { depth := 4, elem := 32, base := 0x7000 })] } })] }

/-- The leaf of the first GiB of an SO page, and of device 1. -/
def strongPage (s : State) : State := { s with mem := [(0x1000, 1), (0x1002, 2), (0x2000, 1), (0x2002, 3), (0x3000, 0x7F), (0x3001, 3)] }
def farPage (s : State) : State := { s with mem := [(0x1000, 1), (0x1002, 2), (0x2000, 1), (0x2002, 3), (0x3000, 0x3F), (0x3001, 3), (0x3005, 0x10)] }

def mem_ (w : Width := .b32) (ord : Ord := .rlx) (rt : Rt := .cb) (c : RegNo := 0) : Mem := { w := w, ord := ord, rt := rt, d := 6, a := 4, b := 0, c := c }

/-- An access of one thread that lies in line 0xE0 of a device. -/
def single (e : Env) (u : State) (ps : List Piece) (n : Nat) (dev : Nat) : Bool :=
  decide (∃ p ∈ ps, ps = [p] ∧ p.off = 0 ∧ p.bytes = n ∧ p.units n = [(lineNo dev 0x7000, 0, n, 0)] ∧ e.exm {} = BitVec.ofNat 32 (2 ^ p.thread) ∧
    e.st.live.getLsbD p.thread = true ∧ p.at_.dev = dev ∧ p.at_.pa < hbmEnd ∧ look u.loads u.nextKey = none)

/-- `Loads`: no thread; a fatal walk; the Z4's own bytes; a hit and a miss; an SO page. -/
theorem witness_Loads :
    Meets (.ld { mem_ with p := none_ }) guarded (fun _ e => e.exm none_ = 0) ∧
    Refused (.ld (mem_)) (mem_) true .read (at_ 0x70000000) (fun c => c = .trap .translation 0x70000000) ∧
    Reaching (.ld (mem_)) (mem_) true .read (at_ 0x7000 queued) (fun e u ps => e.exm {} ≠ 0 ∧ ps.any (orderedAt u.dev) = false ∧
      (ps.all fun p => u.ownsPiece e.ctxNo p) = true ∧ e.exm {} &&& ~~~ e.st.live = 0) ∧
    (∀ x ∈ [(id, none), (inL1, some [0x80#8, 0x01, 0x02, 0x03])], Reaching (.ld (mem_)) (mem_) true .read (at_ 0x7000 x.1) fun e u ps => ps.any (orderedAt u.dev) = false ∧
      (ps.any fun p => u.ownsPiece e.ctxNo p) = false ∧ (∀ p ∈ ps, loadType u.dev (mem_) p.at_ = .cb) ∧
      single e u ps 4 0 = true ∧ u.hit e.agent e.ctx.asid 0xE0 0 4 = x.2) ∧
    Reaching (.ld (mem_)) (mem_) true .read (at_ 0x7000 strongPage) (fun e u ps => ps.any (orderedAt u.dev) = true ∧
      e.sp.mark = none ∧ u.drained e.agent e.who u.nextKey false = true) :=
  ⟨meets (by decide +kernel), refused (by decide +kernel), reaching (by decide +kernel), reachingAll (by decide +kernel), reaching (by decide +kernel)⟩

/-- Thread 1 of latency core 0 with the same address and data. -/
def latAt : State := latency (strandOf [(4, 0, 0x7000), (6, 0, 0x44332211)] fun k => { k with exm := 1 })

/-- `Stores`: no thread; a fatal walk; `cb`, `uc` and a store to another device; a releasing one of system scope. -/
theorem witness_Stores :
    Meets (.st { mem_ with p := none_ }) guarded (fun _ e => e.exm none_ = 0) ∧
    Refused (.st (mem_)) (mem_) true .write (at_ 0x70000000) (fun c => c = .trap .translation 0x70000000) ∧
    (∀ x ∈ [Rt.cb, .uc], Reaching (.st (mem_ .b32 .rlx x)) (mem_ .b32 .rlx x) true .write (at_ 0x7000) fun e u ps =>
      ps.any (orderedAt u.dev) = false ∧ single e u ps 4 0 = true ∧ e.agent = .wide 0 ∧ ∀ p ∈ ps, storeType (mem_ .b32 .rlx x) p.at_ = x) ∧
    Reaching (.st (mem_)) (mem_) true .write latAt (fun e u ps => ps.any (orderedAt u.dev) = false ∧ single e u ps 4 0 = true ∧ e.agent = .lat 0 ∧
      ∀ p ∈ ps, storeType (mem_) p.at_ = .cb) ∧
    Reaching (.st (mem_)) (mem_) true .write (at_ 0x7000 farPage) (fun e u ps => ps.any (orderedAt u.dev) = false ∧ single e u ps 4 1 = true ∧ u.dev = 0) ∧
    Reaching (.st { mem_ .b32 .rel with sc := .sys }) { mem_ .b32 .rel with sc := .sys } true .write (at_ 0x7000 farPage) (fun e u ps =>
      (∀ p ∈ ps, p.at_.dev ≠ u.dev) ∧ e.sp.mark = none ∧ (u.release e.agent .sys e.releaser).drained e.agent e.who (u.release e.agent .sys e.releaser).nextKey true = true) :=
  ⟨meets (by decide +kernel), refused (by decide +kernel), reachingAll (by decide +kernel), reaching (by decide +kernel), reaching (by decide +kernel), reaching (by decide +kernel)⟩

/-- A PROV tile over the scratchpad. -/
def prov (s : State) : State := s.mapTeam 0 fun x => { x with tiles := [(5, { spec := [0x100, 0x40, 0x400004], st := .prov })] }

/-- A load of the running strand that is under way. -/
def underWay (strong : Bool) (s : State) : State :=
  { s with loads := [(0, { who := .warp 0 0 0, pc := 0x10020, reg := 9, w := .b32, mask := 0xFFFFFFFF, left := 1, strong := strong })] }

/-- An access of 16 bytes of which one half is left. -/
def halfway (hi : Bool) (s : State) : State :=
  s.mapSplit (.warp 0 0 0) fun k => { k with again := true, park := some { reason := 15, cond := .half hi [(0, 0, 0x40, 7)] } }

def team1 (s : State) : State := s.mapTeam 0 fun x => { x with spad := [(0x40, 0x80), (0x41, 0x7F)] }

/-- `Scratchpad`: a misaligned offset, one past the end, a PROV tile, an earlier strong load, accesses of
16 bytes at both of their halves, and bytes that are read and written. -/
theorem witness_Scratchpad :
    (∀ x ∈ [(0x42#64, Cause.misaligned), (0x400, .permission)], Meets (.lds (mem_)) (at_ x.1) fun s e => (spadCheck 4 (e.ownAccesses (mem_) s)).map Prod.fst = some x.2) ∧
    Meets (.lds (mem_)) (at_ 0x40 prov) (fun s e => spadCheck 4 (e.ownAccesses (mem_) s) = none ∧
      ((e.ownAccesses (mem_) s).find? fun x => s.tileOver (x.team.getD 0) .prov x.off 4).isSome = true) ∧
    Meets (.lds (mem_)) (at_ 0x40 (underWay true)) (fun s e => e.halfDone = none ∧ spadCheck 4 (e.ownAccesses (mem_) s) = none ∧
      ((e.ownAccesses (mem_) s).find? fun x => s.tileOver (x.team.getD 0) .prov x.off 4) = none ∧ s.strongOf e (e.exm {}) = true) ∧
    (∀ i ∈ [Instr.lds (mem_ .b128), .sts (mem_ .b128), .ldr (mem_ .b128), .str (mem_ .b128)], Meets i (at_ 0x40 team1) fun s e =>
      e.halfDone = none ∧ spadCheck 16 (e.ownAccesses (mem_ .b128) s) = none ∧ spadCheck 16 (e.bandAccesses (mem_ .b128) s) = none ∧
      (e.ownAccesses (mem_ .b128) s).find? (fun x => s.tileOver (x.team.getD 0) .prov x.off 16) = none ∧ s.strongOf e (e.exm {}) = false ∧ e.exm {} ≠ 0) ∧
    (∀ x ∈ [(Instr.lds (mem_ .b128), true), (.sts (mem_ .b128), false), (.ldr (mem_ .b128), false), (.str (mem_ .b128), true)],
      Meets x.1 (halfway x.2 (at_ 0x40 team1)) fun _ e =>
        (e.halfDone.any fun h => h.1 == x.2 && !h.2.isEmpty && h.2.all fun y => decide (y.1 < 32)) = true) ∧
    (∀ i ∈ [Instr.lds (mem_), .sts (mem_), .ldr (mem_), .str (mem_)], Meets i (at_ 0x40 team1) fun s e => e.halfDone = none ∧ s.strongOf e (e.exm {}) = false ∧ spadCheck 4 (e.ownAccesses (mem_) s) = none ∧
      spadCheck 4 (e.bandAccesses (mem_) s) = none ∧ (e.ownAccesses (mem_) s).find? (fun x => s.tileOver (x.team.getD 0) .prov x.off 4) = none ∧ e.exm {} ≠ 0) ∧
    Meets (.sts (mem_ .b32 .rel)) (at_ 0x40 team1) (fun s e => spadCheck 4 (e.ownAccesses (mem_) s) = none ∧ e.sp.mark = none ∧
      (s.release e.agent .team e.releaser).drained e.agent e.who (s.release e.agent .team e.releaser).nextKey false = true) :=
  ⟨meetsAll (by decide +kernel), meets (by decide +kernel), meets (by decide +kernel), meetsAll (by decide +kernel), meetsAll (by decide +kernel),
    meetsAll (by decide +kernel), meets (by decide +kernel)⟩

/-- The three atomics. -/
def atomics : List (Instr × Mem) := [(.atom (mem_), mem_), (.red (mem_ .b32 .rlx .cb 4), mem_ .b32 .rlx .cb 4), (.cas (mem_ .b32 .rlx .cb 8), mem_ .b32 .rlx .cb 8)]

/-- `Atomics`: no thread, a misaligned address, a fatal walk, and the home; a releasing one to another device. -/
theorem witness_Atomics :
    (∀ i ∈ [Instr.atom { mem_ with p := none_ }, .red { mem_ with p := none_ }, .cas { mem_ with p := none_ }], Meets i guarded fun _ e => e.exm none_ = 0) ∧
    (∀ x ∈ atomics, Meets x.1 (at_ 0x7002) fun _ e => e.exm {} = 1 ∧ (e.address x.2 false 1 0).toNat % 4 ≠ 0) ∧
    (∀ x ∈ atomics, Refused x.1 x.2 false .atomic (at_ 0x70000000) fun c => c = .trap .translation 0x70000000) ∧
    (∀ x ∈ atomics, Reaching x.1 x.2 false .atomic (at_ 0x7000) fun e u ps => (ps.any fun p => decide (p.at_.ord = 1)) = false ∧ single e u ps 4 0 = true ∧
      (e.address x.2 false 1 0).toNat % 4 = 0) ∧
    Reaching (.atom (mem_ .b32 .rel)) (mem_ .b32 .rel) false .atomic (at_ 0x7000 farPage) (fun e u ps => single e u ps 4 1 = true ∧ e.sp.mark = none ∧
      (u.release e.agent .team e.releaser).drained e.agent e.who (u.release e.agent .team e.releaser).nextKey false = true) :=
  ⟨meetsAll (by decide +kernel), meetsAll (by decide +kernel), refusedAll (by decide +kernel), reachingAll (by decide +kernel), reaching (by decide +kernel)⟩

/-! Homes -/

/-- A write of four bytes of line 0xE0 on its way to its home. -/
def writeOp (f : WriteOp → WriteOp := id) : WriteOp := f { agent := .wide 0, who := some (.warp 0 0 0), line := 0xE0, mask := 0xF, data := 0x44332211 }

def writing (op : WriteOp) (f : State → State := id) : State := f { small (strandOf []) with out := [(3, op)], nextKey := 9 }

/-- Latency core 2 holds line 0xE0. -/
def shared (s : State) : State := { s with lcs := [(2, { cache := [(0xE0, { valid := BitVec.allOnes 128 })] })] }

/-- A load of four bytes of line 0xE0 on its way to its home. -/
def reading (f : ReadUnit → ReadUnit := id) : State :=
  { small (strandOf [] fun k => { k with score := [{ reg := 6, mask := 1 }] }) with
    reads := [(5, f { load := 4, agent := .wide 0, who := .warp 0 0 0, thread := 0, off := 0, line := 0xE0, pos := 8, bytes := 4 })],
    loads := [(4, { who := .warp 0 0 0, pc := 0x10020, reg := 6, w := .b32, mask := 1, left := 1 })], nextKey := 9 }

/-- A strand to which a word of v6 returns. -/
def returned : State :=
  small { strandOf [] fun k => { k with score := [{ reg := 6, mask := 1 }] } with inbound := [{ reg := 6, vals := [(0, 0x1234)] }] }

def addOp : AtomicOp := { op := 0, bytes := 4, pa := 0x7000, operand := 5, compare := 0, load := none, thread := 0 }

/-- `HomeAccesses`: a write that waits for an earlier one, one that is performed, an atomic, a line that a cache holds, a line of
another device, an invalidation and its acknowledgement; a read that waits, one that is performed, and a result that returns. -/
theorem witness_HomeAccesses :
    (∃ s : State, ∃ op, look s.out 3 = some op ∧ s.mayPerform 3 op = false) ∧
    (∀ op ∈ [writeOp, writeOp fun x => { x with atomic := some addOp }], let s := writing op
      look s.out 3 = some op ∧ s.mayPerform 3 op = true ∧ lineDev op.line = s.dev ∧ s.sharers op.line = [] ∧ s.calm ∧
      ∀ x ∈ op.atomic, s.poisoned x.pa x.bytes = false ∧ s.fencedAt x.pa = false ∧ s.ownedByZ4 x.pa x.bytes = false ∧ x.pa / 128 < 2 ^ 33 ∧ x.pa % 128 + x.bytes ≤ 128 ∧ x.load = none) ∧
    (let s := writing writeOp shared
     look s.out 3 = some writeOp ∧ s.mayPerform 3 writeOp = true ∧ lineDev (writeOp).line = s.dev ∧ s.sharers (writeOp).line = [6]) ∧
    (let op := writeOp fun x => { x with line := lineNo 1 0x7000 }
     look (writing op).out 3 = some op ∧ (writing op).mayPerform 3 op = true ∧ lineDev op.line ≠ (writing op).dev) ∧
    (∀ x ∈ [([], 6), ([2], 4)], ∃ op, look ({ shared {} with held := [(3, writeOp fun y => { y with awaits := [2, 6], silent := x.1 })] } : State).held 3 = some op ∧
      x.2 ∈ [4, 6] ∧ (6 ∈ op.awaits ∧ 6 ∉ op.silent)) ∧
    (let s : State := { held := [(3, writeOp fun y => { y with awaits := [6], silent := [6] })] }
     s.calm ∧ ∃ op, look s.held 3 = some op ∧ (∀ c ∈ op.awaits, c ∈ op.silent) ∧ s.mayPerform 3 op = true ∧ s.sharers op.line = [] ∧ op.atomic = none) ∧
    (let s := { reading with out := [(3, writeOp)] }
     ∃ u, look s.reads 5 = some u ∧ s.mayRead 5 u = false) ∧
    (let s := reading
     ∃ u l st, look s.reads 5 = some u ∧ u.txn = none ∧ s.mayRead 5 u = true ∧ lineDev u.line = s.dev ∧ u.fill = none ∧ u.bytes ≠ 0 ∧ u.pos + u.bytes ≤ 128 ∧
       s.poisoned (linePa u.line + u.pos) u.bytes = false ∧ s.fencedAt (linePa u.line) = false ∧ s.calm ∧ look s.loads u.load = some l ∧ l.left = 1 ∧ l.failed = none ∧
       l.acq = none ∧ l.reg ≠ 0 ∧ l.bytes = [] ∧ u.off = 0 ∧ u.bytes = l.w.bytes ∧ s.strand? l.who = some st ∧ Mask.threads l.mask = [u.thread] ∧ st.live.getLsbD u.thread = true) ∧
    (let s := reading fun u => { u with line := lineNo 1 0x7000 }
     ∃ u, look s.reads 5 = some u ∧ u.txn = none ∧ s.mayRead 5 u = true ∧ lineDev u.line ≠ s.dev ∧ u.fill ≠ some true) ∧
    ∃ st, returned.strand? returned.focus = some st ∧ st.inbound ≠ [] := by
  refine ⟨⟨{ writing writeOp with out := [(2, writeOp), (3, writeOp)] }, writeOp, rfl, by decide +kernel⟩, ?_, by decide +kernel, by decide +kernel, ?_,
    ⟨calm_of rfl (by decide), _, rfl, by decide +kernel, by decide +kernel, by decide +kernel, rfl⟩, ⟨_, rfl, by decide +kernel⟩, ?_, ⟨_, rfl, by decide +kernel⟩, ⟨_, rfl, by decide +kernel⟩⟩
  · intro op h
    simp only [List.mem_cons, List.not_mem_nil, or_false] at h
    rcases h with rfl | rfl <;> exact ⟨rfl, by decide +kernel, by decide +kernel, by decide +kernel, calm_of rfl (by decide), by decide +kernel⟩
  · intro x h
    simp only [List.mem_cons, List.not_mem_nil, or_false] at h
    rcases h with rfl | rfl <;> exact ⟨_, rfl, by decide +kernel⟩
  · exact ⟨_, _, _, rfl, rfl, by decide +kernel, by decide +kernel, rfl, by decide, by decide, by decide +kernel, by decide +kernel, calm_of rfl (by decide), rfl, rfl, rfl,
      rfl, by decide, rfl, rfl, rfl, rfl, by decide +kernel, by decide +kernel⟩

/-- The state that a step leaves. -/
def left (o : Out) : State :=
  match o with
  | .next t => t
  | _ => {}

def bytesIn (s : State) (a n : Nat) : List Byte := bytesAt s.mem a n

/-- R220, R222, R225, R234, R276: stores and atomics by hand. -/
theorem test_stores :
    (look ((left (exec (.st (mem_)) (at_ 0x7000))).core 0).l1 0xE0).map (fun l => (l.dirty, l.data)) = some (0xF, 0x44332211) ∧
    (look (left (exec (.st (mem_ .b32 .rlx .uc)) (at_ 0x7000))).out 1).map (fun w => (w.line, w.mask, w.data)) = some (0xE0, 0xF, 0x44332211) ∧
    bytesIn (left (exec (.homeWriteRequest 1) (left (exec (.st (mem_ .b16 .rlx .uc)) (at_ 0x7002))))) 0x7000 6 = [0, 0, 0x11, 0x22, 0, 0] ∧
    (look ((left (exec (.st (mem_)) (at_ 0x7000 farPage))).core 0).wcb (lineNo 1 0x7000)).map (fun w => (w.mask, w.data)) = some (0xF, 0x44332211) ∧
    bytesIn (left (exec (.homeWriteRequest 3) (writing (writeOp fun x => { x with atomic := some addOp }) fun s => { s with mem := setByte s.mem 0x7000 0xFE }))) 0x7000 4 = [3, 1, 0, 0] ∧
    bytesIn (left (exec (.homeWriteRequest 3) (writing (writeOp fun x => { x with atomic := some { addOp with op := 13 } })))) 0x7000 4 = [5, 0, 0, 0] := by decide +kernel

/-- R215, R273: loads by hand, with their extensions. -/
theorem test_loads :
    ((left (exec (.ld (mem_)) (at_ 0x7000 inL1))).strand? (.warp 0 0 0)).map Strand.inbound = some [{ reg := 6, vals := [(0, 0x03020180)] }] ∧
    ((left (exec (.ld { mem_ .b8 with sx := true }) (at_ 0x7000 inL1))).strand? (.warp 0 0 0)).map Strand.inbound = some [{ reg := 6, vals := [(0, 0xFFFFFF80)] }] ∧
    ((left (exec (.lds { mem_ .b8 with sx := true }) (at_ 0x40 team1))).strand? (.warp 0 0 0)).map Strand.inbound = some [{ reg := 6, vals := [(0, 0xFFFFFF80)] }] ∧
    ((left (exec (.lds (mem_ .b16)) (at_ 0x40 team1))).strand? (.warp 0 0 0)).map Strand.inbound = some [{ reg := 6, vals := [(0, 0x7F80)] }] ∧
    ((left (exec (.homeRead 5) { reading with mem := setByte (reading).mem 0x7008 0x99 })).strand? (.warp 0 0 0)).map Strand.inbound = some [{ reg := 6, vals := [(0, 0x99)] }] ∧
    (look (left (exec (.sts (mem_ .b16)) (at_ 0x40 team1))).teams 0).map Team.spad = some [(0x40, 0x11), (0x41, 0x22)] := by decide +kernel

/-! Fences, maintenance, monitors, other devices -/

def fenceOf (ord : Ord) (sc : Scope) : Mem := { ord := ord, sc := sc }

/-- A warp of a launch that runs early. -/
def early : State := { small (strandOf []) with launches := [(0, { pred := some 7, early := true })] }

/-- A packet of a store of the running warp to device 1. -/
def pending (s : State) : State :=
  { s with remote := [(4, { dev := 1, agent := .wide 0, who := some (.warp 0 0 0), type := 2, wcb := true, line := lineNo 1 0x7000 })], nextKey := 9, txn := 5 }

/-- The line of 0x7000 in L1, with dirty bytes. -/
def dirtied (s : State) : State :=
  { s with cores := [(0, { l1 := [(0xE0, { valid := BitVec.allOnes 128, dirty := 0xF, data := 0x0403020180 })] })] }

/-- `FencesAndDrains`: no thread; fences that go on, and one for each thing that they wait for; drains with and without open packets; a predecessor. -/
theorem witness_FencesAndDrains :
    (∀ i ∈ [Instr.fence { p := none_ }, .wcdrain { p := none_ }, .pdwait { p := none_ }, .lnext { p := none_ }], Meets i guarded fun _ e => e.exm none_ = 0) ∧
    (∀ x ∈ [fenceOf .rel .dev, fenceOf .acq .dev, fenceOf .ar .sys], Meets (.fence x) (inL1 (small (strandOf []))) fun s e =>
      let v := if x.ord ≠ .acq then s.release e.agent x.sc e.releaser else s
      let w := v.acquire e.agent e.ctx.asid x.sc e.releaser
      e.dropped = false ∧ s.strongOf e (e.exm {}) = false ∧ s.awaitsPath e.who (e.exm {}) = false ∧ w.acknowledged e.agent v.nextKey w.nextKey = true ∧
      e.exm {} ≠ 0 ∧ e.sp.mark = none ∧
      (s.release e.agent x.sc e.releaser).drained e.agent e.who (s.release e.agent x.sc e.releaser).nextKey true = true ∧ e.agent = .wide 0) ∧
    Meets (.fence (fenceOf .acq .dev)) (small (strandOf [] fun k => { k with again := true, park := some { reason := 15, cond := .acked 0 0 } })) (fun _ e => e.exm {} ≠ 0 ∧ e.dropped = true) ∧
    (∀ strong, Meets (.fence (fenceOf .acq .dev)) (underWay strong (small (strandOf []))) fun s e => e.exm {} ≠ 0 ∧ e.dropped = false ∧
      s.strongOf e (e.exm {}) = strong ∧ s.awaitsPath e.who (e.exm {}) = true) ∧
    Meets (.fence (fenceOf .acq .dev)) (dirtied (small (strandOf []))) (fun s e =>
      let w := s.acquire e.agent e.ctx.asid .dev e.releaser
      e.exm {} ≠ 0 ∧ e.dropped = false ∧ s.strongOf e (e.exm {}) = false ∧ s.awaitsPath e.who (e.exm {}) = false ∧ w.acknowledged e.agent s.nextKey w.nextKey = false) ∧
    Meets (.fence (fenceOf .rel .dev)) (writing writeOp) (fun s e => e.dropped = false ∧ e.exm {} ≠ 0 ∧ e.sp.mark = none ∧
      (s.release e.agent .dev e.releaser).drained e.agent e.who (s.release e.agent .dev e.releaser).nextKey false = false) ∧
    Meets (.wcdrain {}) (small (strandOf [])) (fun s e => e.exm {} ≠ 0 ∧ e.sp.again = false ∧ (s.core 0).wcb = [] ∧ s.remote = []) ∧
    (∀ again ∈ [true, false], Meets (.wcdrain {}) (pending (small (strandOf [] fun k => { k with again := again, park := if again then some { reason := 10, cond := .remoteWrites 9 } else none })))
      fun s e => e.exm {} ≠ 0 ∧ e.sp.again = again ∧ e.sp.park.map Park.cond = (if again then some (.remoteWrites 9) else none) ∧ (s.core 0).wcb = [] ∧
        ∃ x ∈ s.remote, x.2.born < s.nextKey ∧ x.2.wcb = true ∧ x.2.agent = e.agent ∧ e.ctxNo ∈ x.2.storers ∧ e.lat = false) ∧
    Meets (.pdwait {}) early (fun s e => e.exm {} ≠ 0 ∧ s.waitsFor e = true) ∧ Meets (.pdwait {}) (small (strandOf [])) (fun s e => e.exm {} ≠ 0 ∧ s.waitsFor e = false) ∧
    Meets (.lnext {}) (small (strandOf [])) (fun s e => e.exm {} ≠ 0 ∧ e.who = .warp 0 0 0 ∧ ∃ x ∈ look s.teams 0, x.warps[0]?.isSome = true) :=
  ⟨meetsAll (by decide +kernel), meetsAll (by decide +kernel), meets (by decide +kernel), fun strong => by cases strong <;> exact meets (by decide +kernel),
    meets (by decide +kernel), meets (by decide +kernel), meets (by decide +kernel), meetsAll (by decide +kernel), meets (by decide +kernel),
    meets (by decide +kernel), meets (by decide +kernel)⟩

/-- One thread with an address in v4, v5 and a length in v8. -/
def range (a : DWord) (n : Word) (f : State → State := id) : State := f (lone [(4, 0, a.extractLsb' 0 32), (5, 0, a.extractLsb' 32 32), (8, 0, n)])

def overs (sc : Scope := .dev) : Mem := { sc := sc, a := 4, b := 8 }

/-- A leaf that grants no W. -/
def readPage (s : State) : State := { s with mem := [(0x1000, 1), (0x1002, 2), (0x2000, 1), (0x2002, 3), (0x3000, 0x37), (0x3001, 3)] }

/-- `CacheMaintenance`: a dirty line is flushed, lines are invalidated, prefetched and discarded, and one that may not be. -/
theorem witness_CacheMaintenance :
    (∀ i ∈ [Instr.flush overs, .inval overs, .discard overs, .pref overs], Meets i (range 0x200000000000000 256) fun _ e => e.beyond overs = some 0) ∧
    (∀ sc ∈ [Scope.team, .dev, .sys], Meets (.flush (overs sc)) (range 0x7000 256 inL1) fun s e =>
      let (u, ls) := e.overLines (overs sc) .read coveredLines s
      let v := if sc = .team then u else ls.foldl (fun (s : State) (x : Nat × Place) =>
        let s := s.cleanLine e.agent x.1
        if sc = .sys then s.clearWay e.agent x.1 else s) u
      e.beyond (overs sc) = none ∧ u.strand? e.who = s.strand? e.who ∧ e.sp.mark = none ∧ ls.map Prod.fst = [0xE0, 0xE1] ∧ v.drained e.agent e.who v.nextKey (decide (sc = .sys)) = true) ∧
    Meets (.flush { overs with p := none_ }) guarded (fun s e => e.exm none_ = 0 ∧ e.beyond { overs with p := none_ } = none ∧
      (e.overLines { overs with p := none_ } .read coveredLines s).1.strand? e.who = s.strand? e.who) ∧
    (∀ i ∈ [Instr.inval overs, .pref overs], Meets i (range 0x7000 256 inL1) fun s e => e.beyond overs = none ∧
      (e.overLines overs .read coveredLines s).1.strand? e.who = s.strand? e.who ∧ (e.overLines overs .read coveredLines s).2.map Prod.fst = [0xE0, 0xE1]) ∧
    (∀ x ∈ [(readPage, true), (inL1, false)], Meets (.discard overs) (range 0x7000 256 x.1) fun s e =>
      e.exm {} = 1 ∧ e.beyond overs = none ∧ (((e.space s).1.discardRange (e.space s).2 0x7000 256).2.any fun y => decide (y.2.2 = .denied)) = x.2 ∧
        ((e.space s).1.discardRange (e.space s).2 0x7000 256).1.strand? e.who = s.strand? e.who) ∧
    Meets (.icinv { p := none_ }) guarded (fun _ e => e.exm none_ = 0 ∧ e.agent = .wide 0) ∧
    Meets (.icinv overs) (small (strandOf [])) (fun s e => e.agent = .wide 0 ∧ e.exm {} ≠ 0 ∧ e.sp.mark = none ∧
      (s.writeBackEvery 0 e.releaser).drained e.agent e.who (s.writeBackEvery 0 e.releaser).nextKey false = true) :=
  ⟨meetsAll (by decide +kernel), meetsAll (by decide +kernel), meets (by decide +kernel), meetsAll (by decide +kernel), meetsAll (by decide +kernel), meets (by decide +kernel),
    meets (by decide +kernel)⟩

/-- A split with a monitor. -/
def armed (m : Option Monitor) (f : Split → Split := id) : State := small (strandOf [] fun k => f { k with mon := m })

/-- `Monitors`: no thread; a line of this and of another device; each result of `mwait`, and one that parks. -/
theorem witness_Monitors :
    Refused (.mon { a := 4 }) { a := 4, w := .b8 } false .read (at_ 0x70000004) (fun c => c = .trap .translation 0x70000004) ∧
    Meets (.mon { a := 4 }) (at_ 0x200000000000000) (fun _ e => e.beyond { a := 4 } = some 0) ∧
    (∀ i ∈ [Instr.mon { p := none_ }, .mwait { p := none_ }], Meets i guarded fun _ e => e.exm none_ = 0) ∧
    (∀ x ∈ [(id, 0), (farPage, 1)], Meets (.mon { a := 4 }) (at_ 0x7004 x.1) fun s e => e.exm {} = 1 ∧ e.beyond { a := 4 } = none ∧ e.address { a := 4 } false 1 0 = 0x7004 ∧
      (passes? e s .read [{ thread := 0, va := 0x7004, bytes := 1 }]).any (fun y => decide (y.1.strand? e.who = s.strand? e.who ∧
        ∃ p ∈ y.2, y.2 = [p] ∧ p.askew = false ∧ p.at_.dev = x.2)) = true) ∧
    (∀ x ∈ [((none : Option Monitor), 5#32), (some { line := 0xE0, coarse := false, hit := true }, 5), (some { line := 0xE0, coarse := false, hit := false }, 0),
        (some { line := 0xE0, coarse := false, hit := false }, 5)],
      Meets (.mwait { x := some x.2 }) (armed x.1) fun _ e => e.exm {} ≠ 0 ∧ e.sp.mon = x.1 ∧ e.sp.again = false) ∧
    Meets (.mwait { x := some 5 }) (armed (some { line := 0xE0, coarse := false, hit := false })
      fun k => { k with again := true, park := some { reason := 5, cond := .monitor, left := some 0 } }) (fun _ e => e.timedOut = true) ∧
    (∀ m ∈ [(none : Option Monitor), some { line := 0xE0, coarse := true, hit := false }], (armed m).env = some (envOf (armed m)) ∧
      (envOf (armed m)).k < (envOf (armed m)).st.splits.length ∧ (envOf (armed m)).sp.mon = m) := by
  refine ⟨refused (by decide +kernel), meets (by decide +kernel), meetsAll (by decide +kernel), meetsAll (by decide +kernel), meetsAll (by decide +kernel), meets (by decide +kernel), ?_⟩
  intro m hm
  simp only [List.mem_cons, List.not_mem_nil, or_false] at hm
  rcases hm with rfl | rfl <;> exact ⟨rfl, by decide, rfl⟩

/-- A request of device 1 for four bytes of line 0xE0. -/
def asks (tag : Nat) (write : Bool := false) : RemoteReq :=
  { src := 1, tag := tag, txn := 3, pa := 0x7000, bytes := 4, write := write, mask := 0xF0, data := [1, 2, 3, 4, 5, 6, 7, 8] }

/-- A device with a grant for tag 5. -/
def granting : State := { hub := { grants := [(0, { tag := 5, base := 0x7000, limit := 0x8000, valid := true, r := true, w := true })] } }

/-- `RemoteTraffic`: requests without and with a grant, responses, losses and timeouts. -/
theorem witness_RemoteTraffic :
    ((asks 0).tag = 0 ∧ (asks 0 true).tag = 0) ∧
    (let r := asks 5 true
     r.write = true ∧ r.atomic = none ∧ r.isCas = false ∧ granting.fencedAt r.pa = false ∧ r.pa < hbmEnd ∧ r.pa % 128 = 0 ∧ granting.calm ∧
       granting.grantedTo r.tag (r.pa + (maskPlaces r.mask).headD 0) ((maskPlaces r.mask).getLastD 0 + 1 - (maskPlaces r.mask).headD 0) false true = true) ∧
    (∃ r, look (pending (small (strandOf []))).remote 4 = some r ∧ r.type = 2 ∧ (pending (small (strandOf []))).mayRun r.ctx = true ∧ r.read = none ∧ r.copy = none ∧
      r.ship = none ∧ r.atomic = none) ∧
    ∃ (s : State) (op : WriteOp), look s.held 3 = some op ∧ 6 ∈ op.awaits ∧ 6 ∉ op.silent :=
  ⟨⟨rfl, rfl⟩, ⟨rfl, rfl, rfl, by decide +kernel, by decide +kernel, by decide +kernel, calm_of rfl (by decide), by decide +kernel⟩, ⟨_, rfl, by decide +kernel⟩,
    { held := [(3, writeOp fun y => { y with awaits := [2, 6], silent := [2] })] }, _, rfl, by decide, by decide⟩

/-- R223, R225, R281, R286, R454: what a fence, an invalidation, a monitor and a packet leave. -/
theorem test_maintenance :
    (look ((left (exec (.fence (fenceOf .acq .dev)) (inL1 (small (strandOf []))))).core 0).l1 0xE0) = none ∧
    (look ((left (exec (.fence (fenceOf .rel .dev)) (inL1 (small (strandOf []))))).core 0).l1 0xE0).isSome = true ∧
    (look ((left (exec (.inval overs) (range 0x7000 256 inL1))).core 0).l1 0xE0) = none ∧
    after (.mwait { d := 9, x := some 5 }) (armed none) 9 0 = some 2 ∧
    after (.mwait { d := 9, x := some 5 }) (armed (some { line := 0xE0, coarse := false, hit := true })) 9 0 = some 1 ∧
    ((left (exec (.mon { a := 4 }) (at_ 0x7004))).strand? (.warp 0 0 0)).map (fun st => (st.split 0).mon) = some (some { line := 0xE0, coarse := false, hit := false }) ∧
    bytesIn (left (exec (.remoteRequest (asks 5 true)) granting)) 0x7000 10 = [0, 0, 0, 0, 5, 6, 7, 8, 0, 0] ∧
    bytesIn (left (exec (.remoteRequest (asks 0 true)) granting)) 0x7000 10 = [0, 0, 0, 0, 0, 0, 0, 0, 0, 0] := by decide +kernel

/-! Descriptors, tiles, tokens -/

/-- What the core writes back before a record is read. -/
def flushed (e : Env) (s : State) : State := match e.agent with | .wide c => s.writeBackAll c e.releaser | _ => s

/-- The record at pair A: the state after its read, and its bytes. -/
def record? (e : Env) (m : Mask) (a : RegNo) (align n : Nat) (s : State) : Option (State × List Byte) :=
  if m ≠ 0 ∧ (e.onePair m a).toNat % align = 0 ∧ e.sp.mark = none ∧ e.waitingOp = none ∧ (flushed e s).drained e.agent e.who (flushed e s).nextKey false = true then
    match (e.space (flushed e s)).1.checkAll (e.space (flushed e s)).2 .read [{ thread := 0, va := (e.onePair m a).toNat, bytes := n }] with
    | (u, .ok ps) =>
      if (∀ p ∈ ps, p.askew = false) ∧ (∀ p ∈ ps, u.poisonedAt p = false) then
        match u.gatherAfter e.agent { key := u.nextKey, ctx := e.ctxNo, die := e.die, who := some e.who, site := e.sp.pc } ps with
        | (z, some got) =>
          if ({ z with fetched := unlist z.fetched u.nextKey } : State).strand? e.who = s.strand? e.who
          then some ({ z with fetched := unlist z.fetched u.nextKey }, wantBytes got 0) else none
        | _ => none
      else none
    | _ => none
  else none

theorem record_spec {e : Env} {m : Mask} {a : RegNo} {align n : Nat} {s w : State} {bs : List Byte} (h : record? e m a align n s = some (w, bs)) :
    e.ReadsRecord m a align n s w bs := by
  unfold record? at h
  by_cases h₁ : m ≠ 0 ∧ (e.onePair m a).toNat % align = 0 ∧ e.sp.mark = none ∧ e.waitingOp = none ∧ (flushed e s).drained e.agent e.who (flushed e s).nextKey false = true
  swap
  · rw [if_neg h₁] at h; cases h
  rw [if_pos h₁] at h
  split at h
  · rename_i u ps hc
    by_cases h₂ : (∀ p ∈ ps, p.askew = false) ∧ (∀ p ∈ ps, u.poisonedAt p = false)
    swap
    · rw [if_neg h₂] at h; cases h
    rw [if_pos h₂] at h
    split at h
    · rename_i z got hg
      by_cases h₃ : ({ z with fetched := unlist z.fetched u.nextKey } : State).strand? e.who = s.strand? e.who
      · rw [if_pos h₃] at h
        simp only [Option.some.injEq, Prod.mk.injEq] at h
        obtain ⟨rfl, rfl⟩ := h
        exact ⟨h₁.1, h₁.2.1, h₁.2.2.1, h₁.2.2.2.1, h₁.2.2.2.2, ⟨_, _, u, ps, z, got, rfl, hc, h₂.1, h₂.2, hg, rfl, rfl⟩, h₃⟩
      · rw [if_neg h₃] at h; cases h
    · cases h
  · cases h

/-- An instruction enters and reads its record, and what it gives meets a condition. -/
def Records (i : Instr) (a : RegNo) (align n : Nat) (s : State) (P : Env → State → List Byte → Prop) : Prop :=
  ∃ s' e w bs, Enters i s s' e ∧ e.ReadsRecord (e.exm {}) a align n s' w bs ∧ P e w bs

theorem records {i : Instr} {a : RegNo} {align n : Nat} {s : State} {P : Env → State → List Byte → Prop} [∀ e w bs, Decidable (P e w bs)]
    (h : (entered? i s).any (fun x => (record? x.2 (x.2.exm {}) a align n x.1).any fun y => decide (P x.2 y.1 y.2)) = true) : Records i a align n s P := by
  cases hx : entered? i s with
  | none => rw [hx] at h; cases h
  | some x =>
    rw [hx] at h
    simp only [Option.any_some] at h
    cases hy : record? x.2 (x.2.exm {}) a align n x.1 with
    | none => rw [hy] at h; cases h
    | some y =>
      rw [hy] at h
      exact ⟨_, _, _, _, enters_of hx, record_spec hy, of_decide_eq_true h⟩

/-- A descriptor of 64 elements of F32 at 0x5000, and one that is forecastable with its history at 0x6000. -/
def descF32 : List Word := [0x5000, 0, 0, 0, 0, 64, 0, 0, 0, 0, 0, 0, 0, 0, 0, 0]
def descFc_ : List Word := [0x5000, 0, 0x400, 0, 0, 64, 0, 0, 0, 0, 0, 0, 0, 0, 0x6000, 0]

/-- A context with descriptors 1 and 2. -/
def ctxD : Ctx := { ctx0 with descs := [(1, descF32), (2, descFc_)] }

/-- The specification of a tile of 16 elements in slot 0, or in scratchpad. -/
def specV : List Word := [0x001, 0, 0x100001, 0, 0, 0, 0, 0]
def specS : List Word := [0x101, 0, 0x100001, 0, 0, 0, 0, 0]

/-- One thread with registers `rs`, in a team that holds slot 0 and has tiles. -/
def tiling (rs : List (Nat × Nat × Word)) (tiles : Sparse Tile := []) (f : Team → Team := id) : State :=
  small (strandOf rs fun k => { k with exm := 1 }) (fun x => f { x with held := [(0, ())], slots := [(0, 0)], tiles := tiles }) ctxD

/-- The same with a record in memory at 0x4000, and its address in v4, v5. -/
def recorded (ws : List Word) (tiles : Sparse Tile := []) (b : Word := 1) (f : Team → Team := id) : State :=
  let s := tiling [(4, 0, 0x4000), (8, 0, b)] tiles f
  { s with mem := setBytes s.mem 0x4000 (ws.flatMap fun w => leBytes 4 w.toNat) }

/-- All but one of the slots of the core are another team's. -/
def crowded (s : State) : State := { s with teams := s.teams ++ [(1, { core := some 0 })], cores := [(0, { slots := (List.range 63).map fun k => (k, 2) })] }

/-- `DescriptorsAndSlots`: records that are no descriptor and that are; the ranges of slots of each clause, at their edges. -/
theorem witness_DescriptorsAndSlots :
    (∀ x ∈ [(descF32, true), (specV ++ specV, false)], Records (.tdset {} 4 8) 4 64 64 (recorded x.1) fun e w bs => descValid (recordWords bs) = x.2 ∧ w.provBound e.ctxNo 1 = false) ∧
    Meets (.tdget {} 20 8) (tiling [(8, 0, 1)]) (fun s e => s.desc e.ctxNo ((e.one (e.exm {}) 8).toNat % 256) = some descF32) ∧
    (∀ b ∈ [0x000#32, 0x23F], ∀ i ∈ [Instr.vclaim {} 9 8, .vrel {} 8], Meets i (tiling [(8, 0, b)]) fun s e => (look s.teams e.team).isSome = true ∧ e.exm {} ≠ 0 ∧
      ((e.one (e.exm {}) 8).toNat / 256 % 128 = 0 ∨ 64 < (e.one (e.exm {}) 8).toNat % 64 + (e.one (e.exm {}) 8).toNat / 256 % 128)) ∧
    (∀ x ∈ [(0x100#32, true, true), (0x200, true, false), (0x13F, false, false)], Meets (.vclaim {} 9 8) (crowded (tiling [(8, 0, x.1)])) fun s e =>
      ∃ y ∈ look s.teams e.team, let n0 := (e.one (e.exm {}) 8).toNat % 64; let n := (e.one (e.exm {}) 8).toNat / 256 % 128
        n ≠ 0 ∧ n0 + n ≤ 64 ∧ ((look y.held n0).isSome = x.2.1) ∧ ((look y.held (n0 + n - 1)).isSome = x.2.2) ∧ (s.openSlots (y.core.getD 0)).length = 1) ∧
    Meets (.vclaim {} 9 8) (crowded (tiling [(8, 0, 0x201)])) (fun s e => ∃ y ∈ look s.teams e.team, (s.openSlots (y.core.getD 0)).length < 2 ∧ ∀ k < 2, look y.held (1 + k) = none) ∧
    (∀ x ∈ [(TileSt.empty, false), (.ready, true)], Meets (.vrel {} 8) (tiling [(8, 0, 0x100)] [(5, { spec := specV, st := x.1 })]) fun s e =>
      ∃ y ∈ look s.teams e.team, (look y.held 0).isSome = true ∧ y.backs 0 = x.2) := by
  refine ⟨?_, meets (by decide +kernel), ?_, meetsAll (by decide +kernel), meets (by decide +kernel), meetsAll (by decide +kernel)⟩
  · intro x hx
    simp only [List.mem_cons, List.not_mem_nil, or_false] at hx
    rcases hx with rfl | rfl <;> exact records (by decide +kernel)
  · intro b hb
    exact meetsAll (l := [Instr.vclaim {} 9 8, .vrel {} 8]) (i := id) (s := fun _ => tiling [(8, 0, b)])
      (P := fun _ s e => (look s.teams e.team).isSome = true ∧ e.exm {} ≠ 0 ∧
        ((e.one (e.exm {}) 8).toNat / 256 % 128 = 0 ∨ 64 < (e.one (e.exm {}) 8).toNat % 64 + (e.one (e.exm {}) 8).toNat / 256 % 128))
      (by simp only [List.mem_cons, List.not_mem_nil, or_false] at hb; rcases hb with rfl | rfl <;> decide +kernel)

/-- The tile that `tlset` names in v8: words 0 to 7 of its specification stand in v16 to v23. -/
def binding (sp : List Word) (tiles : Sparse Tile := []) (f : State → State := id) : State :=
  f (tiling (sp.zipIdx.map fun x => (16 + x.2, 0, x.1)) tiles)

def tlset_ : Instr := .tlset {} 16 (.imm 5)

/-- What the clauses of `tlset` ask: the binding's checks, the tile's entry, the tiles bound on the core. -/
def binds (s : State) (e : Env) : Option (Bool × Option (TileSt × Bool) × Bool) :=
  (look s.teams e.team).map fun x =>
    let sp := (List.range 8).map fun k => e.reg (16 + k) (Mask.lowest (e.exm {}))
    (bindingOk ((s.desc e.ctxNo (specDesc sp)).getD []) sp x.spadBytes, (look x.tiles 5).map (fun k => (k.st, decide (k.spec = sp))),
      decide (s.tilesOn (x.core.getD 0) < 1024) && (specLoc sp ≠ 0 || (look x.held (specSlot sp)).isSome))

/-- A capture of version 8 is under way, and a `tlset` of the same descriptor parks, or comes back from it. -/
def meetsCapture (again : Bool) : State :=
  { (small (strandOf ((specV.set 0 2).zipIdx.map fun x => (16 + x.2, 0, x.1)) fun k =>
      { k with exm := 1, again := again, park := if again then some { reason := 14, cond := .capture 3 } else none })
      (fun x => { x with held := [(0, ())], slots := [(0, 0)],
                         tiles := if again then [(5, { spec := specV.set 0 2, due := some (.warp 0 0 0, descFc_) })] else [] }) ctxD) with
    hists := [(3, { ctx := 0, base := 0x6000, vlast := 7, nhist := 1, capture := if again then none else some (8, 2), captor := none })], nextKey := 9 }

/-- `Tiles`: bindings that fail, that stand, that are taken and that find no entry; each state for `tlst`, `tlwait` and `tlfree`. -/
theorem witness_Tiles :
    (∀ x ∈ [(specV.set 1 0x20, ([] : Sparse Tile), (false, none, true)), (specV.set 0 0x401, [], (true, none, false)), (specV, [], (true, none, true)),
        (specV, [(5, { spec := specV, st := .ready })], (true, some (TileSt.ready, true), true)), (specS, [(5, { spec := specV, st := .ready })], (true, some (.ready, false), true)),
        (specS, [(5, { spec := specV })], (true, some (.empty, false), true)), (specV.set 0 0x002, [], (true, none, true))],
      Meets tlset_ (binding x.1 x.2.1) fun s e => binds s e = some x.2.2 ∧ e.exm {} ≠ 0 ∧ s.capturing e.ctxNo 0x6000 = none) ∧
    Meets tlset_ (binding specV [] fun s => { s with teams := s.teams ++ [(1, { core := some 0, tiles := (List.range 1024).map fun k => (k, {}) })] })
      (fun s e => binds s e = some (true, none, false)) ∧
    (∀ again ∈ [true, false], Meets tlset_ (meetsCapture again) fun s e => e.exm {} ≠ 0 ∧ e.fromCapture = again ∧
      binds s e = some (true, if again then some (.empty, true) else none, true) ∧ descFc descFc_ = true ∧ s.capturing e.ctxNo (descHist descFc_) = (if again then none else some 3) ∧
      ((look s.teams e.team).bind fun x => (look x.tiles 5).bind Tile.due) = (if again then some (e.who, descFc_) else none)) ∧
    (∀ st ∈ [TileSt.empty, .filling, .ready, .draining, .prov], ∀ i ∈ [Instr.tlst {} 9 8, .tlwait {} 9 8, .tlfree {} 8],
      Meets i (tiling [(8, 0, 5)] [(5, { spec := specV, st := st })]) fun s e => e.exm {} ≠ 0 ∧
        ∃ x ∈ look s.teams e.team, ((look x.tiles ((e.one (e.exm {}) 8).toNat % 256)).map fun k => (k.st, k.pins)) = some (st, []) ∧ x.deferred = []) ∧
    (∀ i ∈ [Instr.tlst {} 9 8, .tlwait {} 9 8, .tlfree {} 8], Meets i (tiling [(8, 0, 5)]) fun s e => e.exm {} ≠ 0 ∧
      ∃ x ∈ look s.teams e.team, look x.tiles ((e.one (e.exm {}) 8).toNat % 256) = none ∧ x.deferred = []) := by
  refine ⟨meetsAll (by decide +kernel), meets (by decide +kernel), meetsAll (by decide +kernel), ?_, meetsAll (by decide +kernel)⟩
  intro st _
  cases st <;> exact meetsAll (by decide +kernel)

/-! Engines -/

/-- A token for D: with no token in use an entry is free whatever index comes first. -/
theorem takes_of (e : Env) (d : RegNo) (sc : Scope) (key : Nat) (s : State) (x : Team) (hd : d ≠ 0) (hl : e.lat = false) (hx : look s.teams e.team = some x)
    (ht : x.tokens = []) (hn : s.tokensOn (x.core.getD 0) < 1024) : ∃ u tok v, e.Takes d sc key s u tok v := by
  have h : x.freeIndex (Config.pick s.oracle) = some (Config.pick s.oracle % 1024) := by
    unfold Team.freeIndex
    rw [ht, List.range_succ_eq_map, List.map_cons, List.find?_cons_of_pos rfl, Nat.add_zero]
  have h₂ : ∃ u i v, s.newToken e.team e.warp sc key = (u, some (i, v)) := by
    unfold State.newToken
    rw [hx]
    dsimp only
    rw [if_neg (by omega), h]
    exact ⟨_, _, _, rfl⟩
  obtain ⟨u, i, v, h⟩ := h₂
  exact ⟨u, some i, v, .inr ⟨hd, hl, i, rfl, h⟩⟩

/-- A record of a fill of tile 5 under descriptor 1, and one with a reserved kind. -/
def fillRecord (kind : Word) : List Word := [kind, 0x50000, 0, 0, 0x10000, 0, 0, 0, 0, 0, 0, 0, 0, 0, 0, 0]

/-- A group of devices 0 and 1. -/
def grouped (s : State) : State := { s with hub := { s.hub with groups := [(3, { n := 2, rank := 0, valid := true, base := 0x8000 })] }, mem := setByte s.mem 0x8002 1 }

/-- Thread 1 of latency core 0 waits for an operation that has ended. -/
def ended (s : State) : State :=
  { s with copies := [(7, { kind := .cpmm, ctx := 0, die := 0, agent := .lat 0, status := some 0 })],
           colls := [(7, { ctx := 0, agent := .lat 0, group := 3, n := 2, rank := 0, number := 0, send := 0, recv := 0, count := 1, root := 0, ty := .i32, op := .add, kind := .allReduce,
                           rt := .cb, sc := .dev, status := some 0 })] }

def onLat : State := ended (latency (strandOf [] fun k => { k with exm := 1, again := true, park := some { reason := 8, cond := .operation 7 } }))

def copyAt (edge : Bool := false) (d0 : Word := 0) : Copy := { a := 4, b := 8, edge := edge, d0 := d0 }

/-- `EngineWork`: each copy with its tile, records that pass and fail, ranges of `cpmm`, groups, waiting threads, `opfence`. -/
theorem witness_EngineWork :
    (∀ x ∈ [(Instr.cpin copyAt, TileSt.empty), (.gth copyAt, .empty), (.cpout copyAt, .ready), (.sct copyAt, .ready), (.cpout copyAt, .prov)],
      Meets x.1 (recorded [] [(5, { spec := specV, st := x.2 })] 5) fun s e => e.exm {} ≠ 0 ∧ (e.one (e.exm {}) 8).toNat % 256 = 5 ∧ (e.onePair (e.exm {}) 4).toNat % 4 = 0 ∧
        ∃ y ∈ look s.teams e.team, ∃ k ∈ look y.tiles 5, k.st = x.2 ∧ k.pins = [] ∧ (look y.held (specSlot k.spec)).isSome = true ∧
          outside ((s.desc e.ctxNo (specDesc k.spec)).getD []) (movedSpec k.spec 0 0) true = false) ∧
    Meets (.post none_ 0 4 .dev) guarded (fun _ e => e.exm none_ = 0) ∧
    (∀ x ∈ [(fillRecord 6, (some Cause.tileState)), (fillRecord 5, none)], Records (.post {} 0 4 .dev) 4 64 64 (recorded x.1 [(5, { spec := specV })]) fun e w bs =>
      ∃ y ∈ look w.teams e.team, w.recordCause e.ctxNo y (recordWords bs) = x.2) ∧
    (∀ x ∈ [(0x200#32, 0x200#32, true), (0x201, 0x200, false)], Meets (.cpmm { a := 4, b := 6, len := x.1 }) (lone [(4, 0, 0xFFFFFE00), (5, 0, 0x1FFFFFF), (6, 0, 0x5000)]) fun _ e =>
      e.exm {} ≠ 0 ∧ e.sp.again = false ∧ ((beyondSpace x.1.toNat (e.onePair 1 4) (e.onePair 1 6)).isNone = x.2.2) ∧ e.lat = false) ∧
    (∀ x ∈ [(2#6, 0#13, none), (3, 2, some 2), (3, 1, some 2)], Meets (.coll { a := 4, b := 6, group := x.1, root := x.2.1 }) (grouped (lone [(4, 0, 0x5000), (6, 0, 0x6000)])) fun s e =>
      e.exm {} ≠ 0 ∧ e.sp.again = false ∧ e.lat = false ∧ (s.groupHere x.1.toNat).map Group.n = x.2.2 ∧ (e.onePair 1 4).toNat % 4 = 0 ∧ (e.onePair 1 6).toNat % 4 = 0) ∧
    (∀ i ∈ [Instr.cpmm { d := 9 }, .coll { d := 9 }], Meets i onLat fun s e => e.exm {} ≠ 0 ∧ e.lat = true ∧ e.sp.again = true ∧ (∃ k ∈ e.sp.park, k.cond = .operation 7) ∧
      (∃ c ∈ look s.copies 7, c.status = some 0) ∧ ∃ c ∈ look s.colls 7, c.status = some 0) ∧
    (∀ sc ∈ [([] : List ScoreEntry), [{ reg := 6, mask := 1 }]], Meets (.opfence {}) (small (strandOf [] fun k => { k with score := sc })) fun s e => e.exm {} ≠ 0 ∧ e.who = .warp 0 0 0 ∧
      e.sp.score = sc ∧ ∃ x ∈ look s.teams 0, x.warps[0]?.isSome = true) := by
  refine ⟨meetsAll (by decide +kernel), meets (by decide +kernel), ?_, meetsAll (by decide +kernel), meetsAll (by decide +kernel), meetsAll (by decide +kernel), meetsAll (by decide +kernel)⟩
  intro x hx
  simp only [List.mem_cons, List.not_mem_nil, or_false] at hx
  rcases hx with rfl | rfl <;> exact records (by decide +kernel)

/-- A team with token 3 of generation 1, whose value stands in v8. -/
def tokened (done : Bool) (v : Word := 1027) : State :=
  tiling [(8, 0, v)] [] fun x => { x with tokens := [(3, { used := true, done := done, status := 0, words := [5] })] }

/-- A context with a history of descriptor 2. -/
def history (h : Hist → Hist := id) (st : Strand := strandOf [(4, 0, 8), (8, 0, 2)] fun k => { k with exm := 1 }) : State :=
  { small st (fun x => { x with held := [(0, ())], slots := [(0, 0)] }) ctxD with hists := [(3, h { ctx := 0, base := 0x6000, vlast := 7, nhist := 1 })], nextKey := 9 }

/-- `TokensAndForecasts`: stale, running and complete tokens; descriptors without and with a history, and each version. -/
theorem witness_TokensAndForecasts :
    (∀ i ∈ [Instr.tkwait {} 9 8 1, .tktest {} 9 8, .tkfree {} 8], Meets i (tokened true 2051) fun s e => e.exm {} ≠ 0 ∧ ∃ x ∈ look s.teams e.team, (x.current (e.one (e.exm {}) 8)).isNone = true) ∧
    (∀ done ∈ [true, false], ∀ i ∈ [Instr.tkwait {} 9 8 1, .tktest {} 9 8, .tkfree {} 8], Meets i (tokened done) fun s e => e.exm {} ≠ 0 ∧
      ∃ x ∈ look s.teams e.team, (x.current (e.one (e.exm {}) 8)).map (fun y => (y.1, y.2.done)) = some (3, done) ∧ x.deferred = []) ∧
    (∀ i ∈ [Instr.tkwait {} 9 8 1, .tktest {} 9 8], Meets i ((tokened false).mapTeam 0 fun x => { x with deferred := [{ warp := some 0, op := 7, token := some 3, va := 0x5000 }] }) fun s e =>
      e.exm {} ≠ 0 ∧ ∃ x ∈ look s.teams e.team, (x.current (e.one (e.exm {}) 8)).map Prod.fst = some 3 ∧ (x.due e.warp fun f => decide (f.token = some 3)).isSome = true) ∧
    (∀ x ∈ [(1#32, false), (2, true)], Meets (.fcset {} 4 (.imm x.1)) history fun s e => e.exm {} ≠ 0 ∧ ((s.forecastDesc e.ctxNo ((e.num (e.exm {}) (.imm x.1)).toNat % 256)).isSome = x.2)) ∧
    Meets (.fcset {} 4 (.imm 2)) history (fun s e => (s.histKey e.ctxNo 0x6000).2 = 3 ∧ ((s.histKey e.ctxNo 0x6000).1.hist 3).capture = none ∧
      (s.histKey e.ctxNo 0x6000).1.provOn e.ctxNo 0x6000 = false) ∧
    (∀ x ∈ [(8#32, 1), (7, 1), (5, 1), (5, 0)], Meets (.fcpub {} 4 8) (history (fun h => { h with vlast := x.1, nhist := x.2 })) fun s e => e.exm {} ≠ 0 ∧ e.sp.again = false ∧
      (s.forecastDesc e.ctxNo ((e.one (e.exm {}) 8).toNat % 256)) = some descFc_ ∧ (s.histKey e.ctxNo 0x6000).2 = 3 ∧ ((s.histKey e.ctxNo 0x6000).1.hist 3).capture = none ∧
        ((s.histKey e.ctxNo 0x6000).1.hist 3).vlast = x.1 ∧ ((s.histKey e.ctxNo 0x6000).1.hist 3).nhist = x.2 ∧ e.one (e.exm {}) 4 = 8) ∧
    Meets (.fcpub {} 4 8) (history (fun h => { h with captor := some (.warp 0 0 0), done := some true })
        (strandOf [] fun k => { k with exm := 1, again := true, park := some { reason := 9, cond := .capture 3 } })) (fun s e => e.exm {} ≠ 0 ∧ e.sp.again = true ∧
      (∃ k ∈ e.sp.park, k.cond = .capture 3) ∧ ∃ h ∈ look s.hists 3, h.captor = some e.who ∧ h.done = some true) ∧
    (∀ c ∈ [0x0A, 0x0C], Meets (.fcpub {} 4 8) (history (fun h => { h with captor := some (.warp 0 0 0), done := some false, failCause := c, failVa := 0x5000, seq := 6 })
        (strandOf [] fun k => { k with exm := 1, again := true, park := some { reason := 14, cond := .capture 3 } })) fun s e => e.exm {} ≠ 0 ∧ e.sp.again = true ∧
      (∃ k ∈ e.sp.park, k.cond = .capture 3) ∧ ∃ h ∈ look s.hists 3, h.captor = some e.who ∧ h.done = some false ∧ h.failCause ≠ 0) ∧
    (∀ good ∈ [true, false], Meets (.fcpub {} 4 8) (history (fun h => { h with captor := some (.warp 0 1 0), capture := some (9, 2), ended := [{ who := .warp 0 0 0, good := good, cause := 0x0C, va := 0x5000, site := 0x10020, seq := 6 }] })
        (strandOf [] fun k => { k with exm := 1, again := true, park := some { reason := 14, cond := .capture 3 } })) fun s e => e.exm {} ≠ 0 ∧ e.sp.again = true ∧
      (∃ k ∈ e.sp.park, k.cond = .capture 3) ∧ ∃ h ∈ look s.hists 3, h.captor ≠ some e.who ∧ ∃ r ∈ h.ended.find? fun r => r.who = e.who, r.good = good ∧ r.cause ≠ 0) ∧
    (∀ i ∈ [Instr.fcset {} 4 (.imm 2), .fcpub {} 4 8], Meets i (history fun h => { h with capture := some (8, 2), captor := some (.warp 0 1 0) }) fun s e => e.exm {} ≠ 0 ∧
      e.sp.again = false ∧ e.fromCapture = false ∧ s.forecastDesc e.ctxNo 2 = some descFc_ ∧ (e.num (e.exm {}) (.imm 2)).toNat % 256 = 2 ∧ (e.one (e.exm {}) 8).toNat % 256 = 2 ∧
      (s.histKey e.ctxNo 0x6000).2 = 3 ∧ ((s.histKey e.ctxNo 0x6000).1.hist 3).capture.isSome = true) ∧
    Meets (.fcset {} 4 (.imm 1)) (history id (strandOf [(4, 0, 8)] fun k => { k with exm := 1, again := true, keptDesc := descFc_, park := some { reason := 14, cond := .capture 3 } }))
      (fun s e => e.exm {} ≠ 0 ∧ e.fromCapture = true ∧ e.sp.keptDesc = descFc_ ∧ ((s.histKey e.ctxNo 0x6000).1.hist 3).capture = none ∧
        (s.histKey e.ctxNo 0x6000).1.provOn e.ctxNo 0x6000 = false) ∧
    Meets (.fcset {} 4 (.imm 2)) (history.mapTeam 0 fun x => { x with tiles := [(5, { spec := specV.set 0 2, st := .prov })] }) (fun s e => e.exm {} ≠ 0 ∧
      s.forecastDesc e.ctxNo 2 = some descFc_ ∧ ((s.histKey e.ctxNo 0x6000).1.hist 3).capture = none ∧ (s.histKey e.ctxNo 0x6000).1.provOn e.ctxNo 0x6000 = true) ∧
    Meets (.fcstat {} 20 8) history (fun _ _ => True) := by
  refine ⟨meetsAll (by decide +kernel), ?_, meetsAll (by decide +kernel), meetsAll (by decide +kernel), meets (by decide +kernel), meetsAll (by decide +kernel), meets (by decide +kernel), meetsAll (by decide +kernel), meetsAll (by decide +kernel), meetsAll (by decide +kernel),
    meets (by decide +kernel), meets (by decide +kernel), meets (by decide +kernel)⟩
  intro done _
  cases done <;> exact meetsAll (by decide +kernel)

/-! Engines at work -/

def fetch? (s : State) (ctx die : Nat) (o : Origin) (ws : List Want) : Option (State × List (Piece × List Byte)) :=
  match (s.engineSpace ctx die).1.reach (s.engineSpace ctx die).2 .engineRead ws with
  | (w, .ok ps) =>
    match w.gather o ps with
    | (z, some got) => some (z, got)
    | _ => none
  | _ => none

theorem fetches_of {s : State} {ctx die : Nat} {o : Origin} {ws : List Want} (h : (fetch? s ctx die o ws).isSome = true) : ∃ z got, Fetches s ctx die o ws z got := by
  unfold fetch? at h
  split at h
  · rename_i w ps hr
    split at h
    · rename_i z got hg
      exact ⟨z, got, _, _, w, ps, rfl, hr, hg⟩
    · cases h
  · cases h

def fill? (s : State) (ctx die : Nat) (ws : List Want) : Option (State × List Piece) :=
  match (s.engineSpace ctx die).1.reach (s.engineSpace ctx die).2 .engineWrite ws with
  | (w, .ok ps) => if w.lcs = [] ∧ (∀ x ∈ w.dies, x.2.ranges = []) ∧ ∀ p ∈ ps, p.at_.dev = w.dev ∧ p.at_.pa + p.bytes ≤ hbmEnd then some (w, ps) else none
  | _ => none

theorem fills_of {s : State} {ctx die : Nat} {ws : List Want} (h : (fill? s ctx die ws).isSome = true) : ∃ w ps, Fills s ctx die ws w ps := by
  unfold fill? at h
  split at h
  · rename_i w ps hr
    split at h
    · rename_i hc
      exact ⟨w, ps, _, _, rfl, hr, calm_of hc.1 hc.2.1, hc.2.2⟩
    · cases h
  · cases h

/-- A copy of tile 5 in slot 0 with the memory from 0x5000 on, under token 3. -/
def copyOp (kind : CopyKind) (f : CopyOp → CopyOp := id) : CopyOp :=
  f { kind := kind, ctx := 0, die := 0, agent := .wide 0, team := some 0, token := some 3, tile := 5, spec := specV, desc := descF32, list := 0x5000, dst := 0x6000, len := 8 }

def copying (c : CopyOp) : State :=
  let s := tiling [] [(5, { spec := specV, st := if c.kind = .cpin || c.kind = .gth then .filling else .draining, op := some 7 })]
    fun x => { x with tokens := [(3, { used := true, op := some 7 })], vat := [(0, 0x5A), (1, 0xA5)] }
  { s with copies := [(7, c)], nextKey := 9, mem := setBytes s.mem 0x5000 [0x11, 0x22, 0x33] }

/-- A collective of devices 0 and 1 on the running thread's behalf. -/
def collOp (f : CollOpn → CollOpn := id) : CollOpn :=
  f { ctx := 0, agent := .wide 0, group := 3, n := 2, rank := 0, number := 0, send := 0x5000, recv := 0x6000, count := 1, root := 0, ty := .i32, op := .add, kind := .allReduce,
      rt := .cb, sc := .team }

def colliding (f : CollOpn → CollOpn := id) : State :=
  let s := grouped (tiling [])
  { s with colls := [(7, collOp f)], nextKey := 9, mem := setBytes s.mem 0x5000 [0x11, 0x22] }

/-- The collective has read and sent its part. -/
def brought (c : CollOpn) : CollOpn := { c with own := some [0x11, 0x22, 0, 0] }

def peer (agree : Bool := true) : List CollPart := [{ rank := 1, alive := true, agree := agree, bytes := [0x10, 0, 0, 0] }]

/-- The accesses of an indexed copy whose list has been read. -/
def listRows (c : CopyOp) (got : List (Piece × List Byte)) : List Want :=
  let rows := rowsInside c.desc c.spec fun r => inside c.desc 1 ((leNat (((wantBytes got 0).drop (4 * r)).take 4) : Int) + c.bias)
  rowWants c.desc c.spec rows ++ scaleWants c.desc c.spec rows

/-- `CopiesAndCollectivesAtWork`: copies that wait, fail and run; collectives that wait, disagree, agree and fail. -/
theorem witness_CopiesAndCollectivesAtWork :
    (∀ kind ∈ [CopyKind.cpin, .cpout, .cpmm], let c := copyOp kind fun c => { c with deferred := true }
      look (copying c).copies 7 = some c ∧ ¬(copying c).copyRuns 7 c) ∧
    (∀ team ∈ [none, some 0], let c := copyOp .cpin fun c => { c with team := team }
      look (copying c).copies 7 = some c ∧ c.deferred = false ∧ c.status = none ∧ c.team = team ∧ ∃ x ∈ look (copying c).teams 0, ∃ w ∈ x.warps, w.main.live ≠ 0) ∧
    (∀ kind ∈ [CopyKind.cpin, .cpout, .gth, .sct, .cpmm], let c := copyOp kind
      look (copying c).copies 7 = some c ∧ (copying c).copyRuns 7 c ∧ c.written = false ∧ c.done = [] ∧ ∃ x ∈ look (copying c).teams 0, (∃ w ∈ x.warps, w.main.live ≠ 0) ∧
        (∃ tl ∈ look x.tiles 5, tl.op = some 7 ∧ tl.raced = []) ∧ specLoc c.spec = 0 ∧ ∃ q ∈ look x.tokens 3, q.freed = false) ∧
    (∀ kind ∈ [CopyKind.cpin, .cpmm], let c := copyOp kind fun c => { c with held := true }
      look (copying c).copies 7 = some c ∧ ¬(copying c).copyParts 7 c) ∧
    (∃ v got w ps, let c := copyOp .sct
      let rows := rowsInside c.desc c.spec fun r => inside c.desc 1 ((leNat (((wantBytes got 0).drop (4 * r)).take 4) : Int) + c.bias)
      Fetches (copying c).bump 0 0 (c.origin 7) [{ thread := 0, va := 0x5000, bytes := 4 * specRows c.spec }] v got ∧
        Fills (v.spend 1048576) 0 0 (rowWants c.desc c.spec rows ++ scaleWants c.desc c.spec rows) w ps) ∧
    (∃ v got z more, let c := copyOp .gth
      let rows := rowsInside c.desc c.spec fun r => inside c.desc 1 ((leNat (((wantBytes got 0).drop (4 * r)).take 4) : Int) + c.bias)
      Fetches (copying c).bump 0 0 (c.origin 7) [{ thread := 0, va := 0x5000, bytes := 4 * specRows c.spec }] v got ∧
        Fetches v 0 0 (c.origin 7) (rowWants c.desc c.spec rows ++ scaleWants c.desc c.spec rows) z more) ∧
    (let c := copyOp .cpin
     let rows := rowsInside c.desc c.spec fun r => inside c.desc 1 (specOrigin c.spec 1 + r)
     (∃ z got, Fetches (copying c).bump 0 0 (c.origin 7) (rowWants c.desc c.spec rows ++ scaleWants c.desc c.spec rows) z got) ∧
     ∃ w ps, Fills ((copying (copyOp .cpout)).bump.spend 1048576) 0 0 (rowWants c.desc c.spec rows ++ scaleWants c.desc c.spec rows) w ps) ∧
    (let c := copyOp .cpmm
     ∃ z got w ps, Fetches (copying c).bump 0 0 (c.origin 7) [{ thread := 0, va := 0x5000, bytes := 8 }] z got ∧ Fills z 0 0 [{ thread := 0, va := 0x6000, bytes := 8 }] w ps) ∧
    (let c := collOp
     look colliding.colls 7 = some c ∧ c.done = [] ∧ colliding.inPlace c.ctx c.team = true ∧ allPeers c [] = false ∧ colliding.awaiting 7 = false ∧ colliding.precedes c.agent c.who c.mark c.sc = true ∧
       c.own = none ∧ c.written = none ∧ c.team = none ∧
       (c.recv.toNat + recvBytes c.kind c.count (elemBytes c.ty) c.n ≤ c.send.toNat ∨ c.send.toNat + sendBytes c.kind c.count (elemBytes c.ty) c.n (c.rank = c.root) ≤ c.recv.toNat) ∧
       (collectiveResult c (rankParts c [0x11, 0x22, 0, 0] peer)).length = recvBytes c.kind c.count (elemBytes c.ty) c.n) ∧
    (let c := collOp
     (∃ z got w ps, Fetches colliding.bump 0 c.agent.die (c.origin 7) [{ thread := 0, va := 0x5000, bytes := 4 }] z got ∧ Fills z 0 c.agent.die [{ thread := 0, va := 0x6000, bytes := 4 }] w ps) ∧
     ∃ w ps, Fills colliding.bump 0 c.agent.die [{ thread := 0, va := 0x6000, bytes := 4 }] w ps) ∧
    (let c := collOp brought
     let s := colliding brought
     (look s.colls 7 = some c ∧ c.own.isSome = true ∧ c.team = none ∧ c.rank < c.n ∧ (∃ p ∈ [{ rank := 1, alive := false, agree := false, bytes := [] : CollPart }] ++ s.collected c, p.alive = false) ∧ s.inPlace c.ctx c.team = true ∧ s.awaiting 7 = false ∧ s.precedes c.agent c.who c.mark c.sc = true ∧
       (∀ a ∈ [true, false], allPeers c (peer a ++ s.collected c) = true ∧ ∀ p ∈ peer a ++ s.collected c, p.alive = true ∧ p.agree = a)) ∧
     ∃ w ps, Fills s.bump 0 c.agent.die [{ thread := 0, va := 0x6000, bytes := 4 }] w ps) := by
  have two : ∀ {s : State} {ctx die : Nat} {o : Origin} {ws vs : List Want}, ((fetch? s ctx die o ws).any fun x => (fill? x.1 ctx die vs).isSome) = true →
      ∃ z got w ps, Fetches s ctx die o ws z got ∧ Fills z ctx die vs w ps := by
    intro s ctx die o ws vs h
    unfold fetch? at h
    split at h
    · rename_i w ps hr
      split at h
      · rename_i z got hg
        obtain ⟨w', ps', hf⟩ := fills_of (s := z) h
        exact ⟨z, got, w', ps', ⟨_, _, w, ps, rfl, hr, hg⟩, hf⟩
      · cases h
    · cases h
  have listed : ∀ {s : State} {ctx die : Nat} {o : Origin} {ws : List Want} {f : State → List (Piece × List Byte) → Bool}, ((fetch? s ctx die o ws).any fun x => f x.1 x.2) = true →
      ∃ z got, Fetches s ctx die o ws z got ∧ f z got = true := by
    intro s ctx die o ws f h
    cases hx : fetch? s ctx die o ws with
    | none => rw [hx] at h; cases h
    | some x =>
      rw [hx] at h
      unfold fetch? at hx
      split at hx
      · rename_i w ps hr
        split at hx
        · rename_i z got hg
          cases hx
          exact ⟨z, got, ⟨_, _, w, ps, rfl, hr, hg⟩, h⟩
        · cases hx
      · cases hx
  refine ⟨?_, ?_, ?_, ?_, ?_, ?_, ⟨fetches_of (by decide +kernel), fills_of (by decide +kernel)⟩, two (by decide +kernel), by decide +kernel, ⟨two (by decide +kernel), fills_of (by decide +kernel)⟩, by decide +kernel, fills_of (by decide +kernel)⟩
  · intro kind hk
    exact ⟨rfl, fun h => absurd h.1 (by simp [copyOp])⟩
  · intro team hk
    exact ⟨rfl, rfl, rfl, rfl, _, rfl, _, List.mem_cons_self, by decide⟩
  · intro kind hk
    simp only [List.mem_cons, List.not_mem_nil, or_false] at hk
    rcases hk with rfl | rfl | rfl | rfl | rfl <;> exact ⟨rfl, ⟨rfl, rfl, rfl, rfl, rfl, rfl, by decide, rfl⟩, rfl, rfl, by decide +kernel⟩
  · intro kind hk
    exact ⟨rfl, fun h => absurd h.2.1 (by simp [copyOp])⟩
  · obtain ⟨v, got, h, hf⟩ := listed (s := (copying (copyOp .sct)).bump) (ctx := 0) (die := 0) (o := (copyOp .sct).origin 7) (ws := [{ thread := 0, va := 0x5000, bytes := 4 * specRows specV }])
      (f := fun v got => (fill? (v.spend 1048576) 0 0 (listRows (copyOp .sct) got)).isSome) (by decide +kernel)
    obtain ⟨w, ps, h'⟩ := fills_of hf
    exact ⟨v, got, w, ps, h, h'⟩
  · obtain ⟨v, got, h, hf⟩ := listed (s := (copying (copyOp .gth)).bump) (ctx := 0) (die := 0) (o := (copyOp .gth).origin 7) (ws := [{ thread := 0, va := 0x5000, bytes := 4 * specRows specV }])
      (f := fun v got => (fetch? v 0 0 ((copyOp .gth).origin 7) (listRows (copyOp .gth) got)).isSome) (by decide +kernel)
    obtain ⟨z, more, h'⟩ := fetches_of hf
    exact ⟨v, got, z, more, h, h'⟩

/-- A fill task on tile 5 that has been accepted, and one that runs. -/
def taskOf (kind : Word) (running : Bool) (sets : List Nat := []) : Task :=
  { ctx := 0, team := 0, core := 0, warp := 0, order := 7, record := fillRecord kind, descs := [descF32, descF32, descF32], token := some 3, running := running, sets := sets }

def tasking (k : Task) : State :=
  let s := tiling [] [(5, { spec := specV, st := .filling, op := some 7 })] fun x => { x with tokens := [(3, { used := true, op := some 7 })] }
  { s with tasks := [(7, k)], nextKey := 9 }

/-- A check of tile 5 against version 8 of history 3. -/
def checkOf (f : Check → Check := id) : Check := f { ctx := 0, team := 0, tile := 5, hist := 3, ver := 8, desc := descFc_ }

def checking (c : Check) (h : Hist → Hist := id) : State :=
  let s := history h
  { s with checks := [(6, c)] }.mapTeam 0 fun x => { x with tiles := [(5, { spec := specV.set 0 2, st := .prov, own := some 6, sets := [6] })] }

/-- The checks of an engine's accesses pass. -/
theorem reach_of {s : State} {sp : Space} {k : Kind} {ws : List Want} (h : (match s.reach sp k ws with | (_, .ok _) => true | _ => false) = true) :
    ∃ u ps, s.reach sp k ws = (u, .ok ps) := by
  split at h
  · exact ⟨_, _, ‹_›⟩
  · cases h

/-- Reads whose checks pass, a write whose checks pass, and the bytes read. -/
theorem readThenWrite {s : State} {sp : Space} {o : Origin} {ws vs : List Want}
    (h : (match s.reach sp .engineRead ws with
      | (c, .ok ps) => (match c.reach sp .engineWrite vs with | (u, .ok _) => (u.gather o ps).2.isSome | _ => false)
      | _ => false) = true) :
    ∃ c u z ps qs got, s.reach sp .engineRead ws = (c, .ok ps) ∧ c.reach sp .engineWrite vs = (u, .ok qs) ∧ u.gather o ps = (z, some got) := by
  split at h
  · rename_i c ps hr
    split at h
    · rename_i u qs hw
      obtain ⟨got, hg⟩ := Option.isSome_iff_exists.mp h
      exact ⟨c, u, (u.gather o ps).1, ps, qs, got, hr, hw, by rw [← hg]⟩
    · cases h
  · cases h

/-- A capture of version 8 of descriptor 2 into history 3. -/
def capturing : State := history fun h => { h with capture := some (8, 2), captor := some (.warp 0 0 0), desc := descFc_ }

def captureSpace : State × Space := capturing.bump.engineSpace 0 (capturing.agentOf (.warp 0 0 0)).die

/-- The capture's reads and its writes pass their checks, and the bytes can be had. -/
theorem capture_reads : (match captureSpace.1.reach captureSpace.2 .engineRead
      ((allRows descFc_).map fun x => { thread := x.row, va := x.addr descFc_ % 2 ^ 64, bytes := descSize descFc_ 0 * histWidth descFc_ }) with
    | (c, .ok ps) =>
      (match c.reach captureSpace.2 .engineWrite [{ thread := 0, va := planeAddr descFc_ 0 0, bytes := planeBytes descFc_ }] with
       | (u, .ok _) => (u.gather { key := 3, ctx := 0, die := 0, who := some (.warp 0 0 0), site := 0 } ps).2.isSome
       | _ => false)
    | _ => false) = true := by decide +kernel

/-- `TasksAndForecastsAtWork`: no task and one that issues; a task that waits, ends, and ends with checks; predictions, captures
and checks of each clause. -/
theorem witness_TasksAndForecastsAtWork :
    ((tiling []).nextTask 0 = none ∧ (tasking (taskOf 5 false)).nextTask 0 = some (7, taskOf 5 false, 0)) ∧
    (∀ k ∈ [taskOf 5 false, taskOf 5 true, taskOf 5 true [6]], ∃ x, look (tasking k).tasks 7 = some k ∧ look (tasking k).teams k.team = some x ∧ (∃ w ∈ x.warps, w.main.live ≠ 0) ∧ k.spoiled = [] ∧
      (tasking k).copies = [] ∧ recAcc k.record = false ∧ ∃ tl ∈ look x.tiles (recTo k.record), tl.op = some 7 ∧ tl.raced = []) ∧
    recAcc (taskOf 1 true).record = true ∧
    (∀ c ∈ [checkOf, checkOf fun c => { c with gone := true }, checkOf fun c => { c with written := true }], ∃ x tl, look (checking c).checks 6 = some c ∧ look (checking c).teams c.team = some x ∧
      look x.tiles c.tile = some tl ∧ tl.raced = [] ∧ specLoc tl.spec = 0 ∧ c.fault = none ∧ ∃ w ∈ x.warps, w.main.live ≠ 0) ∧
    (let s := (checking checkOf).mapTeam 0 fun x => { x with tiles := [(5, { spec := specS.set 0 0x102, st := .prov, own := some 6, sets := [6] })] }
     ∃ x tl, look s.checks 6 = some checkOf ∧ look s.teams 0 = some x ∧ look x.tiles 5 = some tl ∧ specLoc tl.spec ≠ 0 ∧ s.inPlace 0 none = true) ∧
    (let s := checking checkOf
     ∃ u v sp ps, s.bump.engineSpace 0 (s.teamDie 0) = (v, sp) ∧
       v.reach sp .engineRead ((predictionPlanes descFc_ (s.hist 3).vlast.toNat).flatMap fun p => planeWants descFc_ (specV.set 0 2) p) = (u, .ok ps)) ∧
    (∃ x, look capturing.hists 3 = some x ∧ x.capture = some (8, 2) ∧ x.captor = some (.warp 0 0 0) ∧ x.fault = none ∧ capturing.inPlace x.ctx none = true ∧ capturing.dies = [] ∧ capturing.lcs = [] ∧ capturing.awaiting 3 = false ∧
       capturing.planesFree 3 x 8 = true ∧ capturing.precedes (capturing.agentOf (.warp 0 0 0)) (.warp 0 0 0) x.mark .dev = true) ∧
    (∃ c₁ sp, capturing.bump.engineSpace 0 (capturing.agentOf (.warp 0 0 0)).die = (c₁, sp) ∧
      ∃ c₂ u z ps qs got, c₁.reach sp .engineRead ((allRows descFc_).map fun x => { thread := x.row, va := x.addr descFc_ % 2 ^ 64, bytes := descSize descFc_ 0 * histWidth descFc_ }) = (c₂, .ok ps) ∧
        c₂.reach sp .engineWrite [{ thread := 0, va := planeAddr descFc_ 0 0, bytes := planeBytes descFc_ }] = (u, .ok qs) ∧
        u.gather { key := 3, ctx := 0, die := 0, who := some (.warp 0 0 0), site := 0 } ps = (z, some got)) ∧
    (∃ x, look (tasking { taskOf 1 true with shadow := [(5, 7)] }).teams 0 = some x ∧ x.warps[recAw (taskOf 1 true).record]?.isSome = true) ∧
    (∃ w ps, let v := history.setHist 3 { history.hist 3 with vlast := 8, nhist := 0 }
      Fills v (v.hist 3).ctx 0 [{ thread := 0, va := (v.hist 3).base, bytes := 64 }] w ps) ∧
    (∀ x ∈ [(7#32, none), (8, some 4)], let c := checkOf fun c => { c with written := true, ready := x.2 }
      let s := checking c fun h => { h with vlast := x.1 }
      c.gone = false ∧ c.ready = x.2 ∧ s.inPlace c.ctx none = true ∧ s.checksAhead 6 c = 0 ∧ s.dies = [] ∧ s.lcs = [] ∧ s.tasks = [] ∧ s.copies = [] ∧
        ∃ x ∈ look s.teams c.team, ∃ tl ∈ look x.tiles c.tile, specLoc tl.spec = 0) := by
  refine ⟨by decide +kernel, ?_, rfl, ?_, ⟨_, _, rfl, rfl, rfl, by decide +kernel⟩, ?_, by decide +kernel, ?_, ⟨_, rfl, rfl⟩, fills_of (by decide +kernel), ?_⟩
  · intro k hk
    simp only [List.mem_cons, List.not_mem_nil, or_false] at hk
    rcases hk with rfl | rfl | rfl <;> exact ⟨_, rfl, rfl, by decide +kernel⟩
  · intro c hc
    simp only [List.mem_cons, List.not_mem_nil, or_false] at hc
    rcases hc with rfl | rfl | rfl <;> exact ⟨_, _, rfl, rfl, rfl, by decide +kernel⟩
  · obtain ⟨u, ps, h⟩ := reach_of (s := ((checking checkOf).bump.engineSpace 0 0).1) (sp := ((checking checkOf).bump.engineSpace 0 0).2) (k := .engineRead)
      (ws := (predictionPlanes descFc_ ((checking checkOf).hist 3).vlast.toNat).flatMap fun p => planeWants descFc_ (specV.set 0 2) p) (by decide +kernel)
    exact ⟨u, _, _, ps, rfl, h⟩
  · exact ⟨captureSpace.1, captureSpace.2, rfl, readThenWrite capture_reads⟩
  · intro x hx
    simp only [List.mem_cons, List.not_mem_nil, or_false] at hx
    rcases hx with rfl | rfl <;> decide +kernel

/-- R154, R166, R169, R174, R291, R295: what copies, a fill task and a collective leave. -/
theorem test_engines :
    (look (left (exec (.copyComplete 7 .none) (copying (copyOp .cpin)))).teams 0).map (fun x => (x.vat.take 4, (look x.tiles 5).map Tile.st, (look x.tokens 3).map Token.done)) =
      some ([(0, 0x11), (1, 0x22), (2, 0x33), (3, 0)], some .ready, some true) ∧
    bytesIn (left (exec (.cpmmComplete 7 .none) (copying (copyOp .cpmm)))) 0x6000 3 = [0x11, 0x22, 0x33] ∧
    bytesIn (left (exec (.collectiveComplete 7 .none peer) (colliding brought))) 0x6000 2 = [0x21, 0x22] ∧
    (look (left (exec (.taskComplete 7 .none) (tasking (taskOf 5 true)))).teams 0).map (fun x => ((look x.tiles 5).map Tile.st, (look x.tokens 3).map Token.done)) =
      some (some .ready, some true) := by decide +kernel

/-! Launches and residence -/

/-- A launch record of 2 teams of one warp with 16 registers each. -/
def recordBytes (lid : Nat := 5) : List Byte :=
  leBytes 8 0x10000 ++ leBytes 4 2 ++ leBytes 4 1 ++ leBytes 4 1 ++ leBytes 4 0x1001 ++ leBytes 4 0 ++ leBytes 4 0 ++ leBytes 4 lid ++ leBytes 4 0 ++
    leBytes 8 1 ++ leBytes 8 0 ++ leBytes 8 0

def launching (bs : List Byte) (n : Nat) : State :=
  { mem := tables, ctxs := [(0, { ctx0 with queue := [{ addr := 0x9000, bytes := bs }] })], launches := (List.range n).map fun k => (k, {}), nextKey := 20 }

/-- A launch of context 0 that waits for scratchpad, while context 1 holds a core of die 0. -/
def waiting (spad : Nat := 1) : State :=
  { mem := tables, ctxs := [(0, ctx0), (1, ctx0)], teams := [(0, { ctx := 1, core := some 0, warps := [{ main := strandOf [] fun k => { k with st := .fetch } }] })],
    launches := [(3, { record := { spad := spad, stages := [{ entry := 0x10000, teams := 1, roles := [1] }] } })], nextKey := 9 }

/-- Teams of context 1 hold every warp of die 0, and one more of its launch waits, as does one of context 0. -/
def contended : State :=
  let ws : List Warp := List.replicate 256 { main := {} }
  { mem := tables, ctxs := [(0, { ctx0 with poolsz := 2 ^ 30 }), (1, { ctx0 with poolsz := 2 ^ 30 })],
    teams := (List.range 64).map fun i => (i, { ctx := 1, core := some i, launch := 99, idx := 1 + i, band := 1 + i, warps := ws }),
    launches := [(98, { record := { stages := [{ entry := 0x10000, teams := 1, roles := [1] }] } }),
                 (99, { ctx := 1, placed := (List.range 64).map (· + 1), record := { tmx := 65, stages := [{ entry := 0x20000, teams := 65, roles := [1] }] } })], nextKey := 100 }

/-- Every lane of core 0 has a READY split. -/
def busyLanes : State :=
  { teams := [(0, { core := some 0, warps := (List.range 64).map fun i => { main := strandOf [], lane := i } })] }

/-- `LaunchesAndResidence`: queues that are empty or full, records that are valid and not; dies that may place and may not, a turn,
blocks that pass, a distributor that is dry and one that is not. -/
theorem witness_LaunchesAndResidence :
    (((waiting).ctx 0).queue = [] ∧ 8 ≤ (launching recordBytes 8).accepted 0) ∧
    (∀ x ∈ [(recordBytes 0, some 0x20), (recordBytes, none)], ∃ q, ((launching x.1 7).ctx 0).queue = [q] ∧ (launching x.1 7).accepted 0 < 8 ∧ ((launching x.1 7).ctx 0).valid = true ∧
      ((launching x.1 7).ctx 0).dying = false ∧ ((launching x.1 7).bump.setCtx 0 { (launching x.1 7).ctx 0 with queue := [] }).badRecord 0 q.bytes = x.2 ∧
      fieldAt q.bytes 0x30 8 = 0 ∧ fieldAt q.bytes 0x38 8 = 0) ∧
    (waiting.mayRun 9 = false ∧ waiting.mayRun 0 = true ∧ (waiting.die 0).fenced = false) ∧
    ((waiting.teams.map Prod.fst).Nodup ∧ (waiting.launches.map Prod.fst).Nodup ∧ (∀ x ∈ waiting.teams, x.1 < waiting.nextKey) ∧
      ∃ x, look waiting.teams 0 = some x ∧ x.core.isSome = true) ∧
    (((List.range 64).map fun i => ((waiting.die 0).turn + i) % 64).find? (waiting.waitsOn 0) = none ∧
      ((List.range 64).map fun i => (((waiting 557056).die 0).turn + i) % 64).find? ((waiting 557056).waitsOn 0) = some 0 ∧
      (State.roomBy 0 0 (((waiting 557056).victims 0 0).flatMap ((waiting 557056).teamsOn 0)) (waiting 557056).bump).isNone = true) ∧
    (((List.range 64).map fun i => ((contended.die 0).turn + i) % 64).find? (contended.waitsOn 0) = some 0 ∧ contended.victims 0 0 = [1] ∧ (contended.teams.map Prod.fst).Nodup ∧
      (State.roomBy 0 0 ((contended.victims 0 0).flatMap (contended.teamsOn 0)) contended.bump).map (fun u => (u.teams.filter fun x => x.2.core.isNone).map Prod.fst) = some [0]) ∧
    (let s : State := { waiting with ctxs := [(0, { ctx0 with poolWait := [(0, { launch := 3, band := 0 })] })] }
     s.mayRun 0 = true ∧ (s.die 0).fenced = false ∧ s.waitsForPool 0 0 = true) ∧
    (waiting.gatedLane 0 = true ∧ busyLanes.gatedLane 0 = false) ∧
    (waiting.core 0).blocks.length + (waiting.core 0).spare.length ≤ 16 ∧
    (∀ x ∈ [(0, false), (1, true)], waiting.dry x.1 = x.2) ∧ waiting.stolenChunks (waiting.victim 1) = [(3, 0)] := by
  refine ⟨by decide +kernel, ?_, by decide +kernel, ⟨by decide +kernel, by decide +kernel, ?_, _, rfl, rfl⟩, by decide +kernel, by decide +kernel, by decide +kernel, by decide +kernel, by decide +kernel, ?_, by decide +kernel⟩
  · intro x hx
    simp only [List.mem_cons, List.not_mem_nil, or_false] at hx
    rcases hx with rfl | rfl <;> exact ⟨_, rfl, by decide +kernel⟩
  · intro x hx
    simp only [waiting, List.mem_cons, List.not_mem_nil, or_false] at hx
    subst hx
    decide
  · intro x hx
    simp only [List.mem_cons, List.not_mem_nil, or_false] at hx
    rcases hx with rfl | rfl <;> decide +kernel

/-- 64 teams of one stage on die 0, the first of them parked on the launch's barrier 2, and an unplaced team of the other stage. -/
def gathered (p : Nat) : State :=
  let away : Strand := strandOf [] fun k => { k with st := .parked, park := some { reason := 6, cond := .barrier .launch 2 [p] true } }
  { mem := tables, ctxs := [(0, { ctx0 with poolsz := 2 ^ 30 })],
    teams := (List.range 64).map fun i => (i, { core := some i, launch := 99, stage := 1, idx := 1 + i, band := 1 + i,
                                                warps := [{ main := if i = 0 then away else strandOf [] }] }),
    launches := [(99, { placed := (List.range 64).map (· + 1), bars := [(2, { phase := 5 })],
                        record := { stages := [{ entry := 0x10000, teams := 1, roles := [1] }, { entry := 0x20000, teams := 64, roles := [1] }] } })], nextKey := 100 }

/-- R344: a team parked on the barrier's phase 5, which is incomplete, gives way, and the unplaced team takes its room; a team that
waits for phase 4 does not. -/
theorem test_barrier_preempts :
    let l : Launch := ((gathered 5).launches.map Prod.snd).headD {}
    ((gathered 5).barrierTeams 0 99 l).map Team.idx = [1] ∧ (gathered 4).barrierTeams 0 99 l = [] ∧
    ((gathered 5).placeOf 0 0 99 l).isNone = true ∧
    (((gathered 5).mapTeam 0 fun x => { x with core := none }).placeOf 0 0 99 l).map (fun t => (look t.teams 100).map Team.core) = some (some (some 0)) := by decide +kernel

/-! Barriers, queues, shipping -/

/-- A thread and team barrier 2 whose phase 1 is current; the thread has arrived `n` times. -/
def arrived (n : Nat) (rs : List (Nat × Nat × Word) := []) : State :=
  tiling rs [] fun x => { x with bars := [(2, { phase := 1, counts := [(0, n)] })] }

/-- The same thread as it waits in `bars` for phase 0, which has completed. -/
def waitsForPhase : State :=
  small (strandOf [] fun k => { k with exm := 1, again := true, park := some { reason := 3, cond := .barrier .team 2 [0] true } })
    fun x => { x with bars := [(2, { phase := 1, counts := [(0, 1)] })] }

/-- `Barriers`: IDs at each level's limit, a job barrier without an entry, a thread two phases ahead; arrivals; phases that are
complete and not; the second half of `bars`. -/
theorem witness_Barriers :
    (∀ x ∈ [(Level.team, 16#32), (.band, 4), (.launch, 4)], ∀ i ∈ [Instr.bara {} 9 (.imm x.2) x.1 0xFF, .bars {} 9 (.imm x.2) x.1 0xFF], Meets i (arrived 1) fun _ e => e.exm {} ≠ 0 ∧
      e.sp.again = false ∧ idLimit x.1 ≤ (e.num (e.exm {}) (.imm x.2)).toNat % 64) ∧
    (∀ i ∈ [Instr.bara {} 9 (.imm 5) .job 0xFF, .bars {} 9 (.imm 5) .job 0xFF], Meets i (arrived 1) fun s e => e.exm {} ≠ 0 ∧ e.sp.again = false ∧ (s.groupHere 5).isNone = true) ∧
    (∀ i ∈ [Instr.bara {} 9 (.imm 2) .team 0xFF, .bars {} 9 (.imm 2) .team 0xFF], Meets i (arrived 3) fun s e => e.exm {} ≠ 0 ∧ e.sp.again = false ∧
      ∃ a ∈ s.arrivals e (e.exm {}) .team 2, (s.barrier e .team 2).phase + 2 ≤ a) ∧
    (∀ lvl ∈ [Level.team, .band], Meets (.bara {} 9 (.imm 2) lvl 0xFF) (arrived 2) fun s e => e.exm {} ≠ 0 ∧ (look s.teams e.team).isSome = true ∧
      (lvl = .team → ∀ a ∈ s.arrivals e (e.exm {}) .team 2, a < (s.barrier e .team 2).phase + 2) ∧ (lvl = .band → ∀ a ∈ s.arrivals e (e.exm {}) .band 2, a < 2) ∧
      e.sp.mark = none ∧ (s.release e.agent (levelScope lvl) e.releaser).drained e.agent e.who (s.release e.agent (levelScope lvl) e.releaser).nextKey false = true) ∧
    (∀ x ∈ [(0x002#32, true), (0x102, false)], Meets (.barw {} 9 8) (arrived 2 [(8, 0, x.1)]) fun s e => e.exm {} = 1 ∧ (e.one (e.exm {}) 8).toNat / 64 % 4 = 0 ∧
      phaseDone (s.barrier e .team 2).phase ((e.reg 8 0).toNat / 256) = x.2) ∧
    Meets (.bars {} 9 (.imm 2) .team 0xFF) waitsForPhase (fun s e =>
      e.exm {} = 1 ∧ e.sp.again = true ∧ (∃ k ∈ e.sp.park, k.cond = .barrier .team 2 [0] true) ∧
        phaseDone (s.barrier e .team 2).phase (readOr 0 (s.barrier e .team 2).counts (s.barrierNo e .team 0) - 1) = true) := by
  refine ⟨?_, meetsAll (by decide +kernel), meetsAll (by decide +kernel), meetsAll (by decide +kernel), meetsAll (by decide +kernel), meets (by decide +kernel)⟩
  intro x hx
  simp only [List.mem_cons, List.not_mem_nil, or_false] at hx
  rcases hx with rfl | rfl | rfl <;> exact meetsAll (by decide +kernel)

/-- The pieces of a queue element's range, where it can be reached. -/
def element? (e : Env) (push spm : Bool) (addr : DWord) (n : Nat) (s : State) : Option (State × List Piece) :=
  if addr.toNat % 4 ≠ 0 then none
  else if spm then
    (if (s.ownSpad e).1.isSome = true ∧ addr.toNat + n ≤ (s.ownSpad e).2 ∧ (push = true → s.tileOver e.team .prov addr.toNat n = false) then some (s, []) else none)
  else
    match (e.space s).1.tryAll (e.space s).2 (if push then .read else .write)
      ((List.range (n / 4)).map fun j => { thread := Mask.lowest e.sp.exm, va := addr.toNat + 4 * j, bytes := 4 }) with
    | (u, .ok ps) => if u.strand? e.who = s.strand? e.who ∧ (∀ p ∈ ps, p.askew = false) then some (u, ps) else none
    | _ => none

theorem element_spec {e : Env} {push spm : Bool} {addr : DWord} {n : Nat} {s u : State} {ps : List Piece} (h : element? e push spm addr n s = some (u, ps)) :
    e.ReachesElement push spm addr n s u ps := by
  unfold element? at h
  by_cases ha : addr.toNat % 4 = 0
  swap
  · rw [if_pos ha] at h; cases h
  rw [if_neg (not_not_intro ha)] at h
  cases spm with
  | true =>
    rw [if_pos rfl] at h
    split at h
    · rename_i hc
      simp only [Option.some.injEq, Prod.mk.injEq] at h
      obtain ⟨rfl, rfl⟩ := h
      exact ⟨ha, rfl, by simpa using hc⟩
    · cases h
  | false =>
    rw [if_neg (by decide)] at h
    split at h
    · rename_i v qs hr
      split at h
      · rename_i hc
        simp only [Option.some.injEq, Prod.mk.injEq] at h
        obtain ⟨rfl, rfl⟩ := h
        exact ⟨ha, hc.1, _, _, rfl, hr, hc.2⟩
      · cases h
    · cases h

/-- A queue instruction enters, the range of its element can be reached, and what it finds meets a condition. -/
def Queues (i : Instr) (push spm : Bool) (s : State) (P : Env → Queue → State → List Piece → Prop) : Prop :=
  ∃ s' e l st x u ps, Enters i s s' e ∧ s'.queueSide e = some (l, st) ∧ s'.queue l 1 = some x ∧ e.ReachesElement push spm (e.elementAt 4 spm) x.elem s' u ps ∧ P e x u ps

theorem queues {i : Instr} {push spm : Bool} {s : State} {P : Env → Queue → State → List Piece → Prop} [∀ e x u ps, Decidable (P e x u ps)]
    (h : (entered? i s).any (fun y => (y.1.queueSide y.2).any fun z => (y.1.queue z.1 1).any fun x =>
      (element? y.2 push spm (y.2.elementAt 4 spm) x.elem y.1).any fun w => decide (P y.2 x w.1 w.2)) = true) : Queues i push spm s P := by
  obtain ⟨y, hy, h⟩ := (Option.any_eq_true _ _).mp h
  obtain ⟨z, hz, h⟩ := (Option.any_eq_true _ _).mp h
  obtain ⟨x, hx, h⟩ := (Option.any_eq_true _ _).mp h
  obtain ⟨w, hw, h⟩ := (Option.any_eq_true _ _).mp h
  exact ⟨_, _, _, _, x, _, _, enters_of hy, hz, hx, element_spec hw, of_decide_eq_true h⟩

theorem queuesAll {α : Type} {l : List α} {i : α → Instr} {push : α → Bool} {spm : Bool} {s : α → State} {P : α → Env → Queue → State → List Piece → Prop} [∀ a e x u ps, Decidable (P a e x u ps)]
    (h : (l.all fun a => (entered? (i a) (s a)).any (fun y => (y.1.queueSide y.2).any fun z => (y.1.queue z.1 1).any fun x =>
      (element? y.2 (push a) spm (y.2.elementAt 4 spm) x.elem y.1).any fun w => decide (P a y.2 x w.1 w.2))) = true) :
    ∀ a ∈ l, Queues (i a) (push a) spm (s a) (P a) := fun a ha => queues (List.all_eq_true.mp h a ha)

/-- Queue 1 of the launch, at 0x7000, with elements of 8 bytes; stage 0 is its producer and its consumer. -/
def queueing (items : List (List Word)) (side : Byte) (depth : Nat := 2) : State :=
  { tiling [(4, 0, 0x40)] with launches := [(0, { record := { stages := [{ entry := 0, teams := 2, roles := [1] }],
                                                              queues := [(1, { depth := depth, elem := 8, cons := side, prod := side, base := 0x7000, items := items })] } })] }

/-- The same queue once its only consumer stage has no team left. -/
def overQueue : State :=
  let q : Queue := { depth := 2, elem := 8, prod := 1, base := 0x7000 }
  { tiling [(4, 0, 0x40)] with launches := [(0, { record := { stages := [{ entry := 0, teams := 1, roles := [1] }], queues := [(1, q)] } })] }

def qpush_ (spm nb : Bool) : Instr := .qpush {} 9 4 1 spm nb
def qpop_ (spm nb : Bool) : Instr := .qpop {} 9 4 1 spm nb

/-- A warp of 16 registers whose team has a pool. -/
def pooled (pool : Nat) (sc : List ScoreEntry := []) : State :=
  small { strandOf [] fun k => { k with exm := 1, score := sc } with nreg := 16 } fun x => { x with pool := pool }

/-- `QueuesAndPool`: a split without threads; a team that is no producer; queues that are closed, full, empty and neither, in
memory and in scratchpad; register counts of each clause; software interrupts. -/
theorem witness_QueuesAndPool :
    (∀ i ∈ [qpush_ true false, qpop_ true false], Meets i (small (strandOf [] fun k => { k with exm := 0 })) fun _ e => e.sp.exm = 0) ∧
    (∀ i ∈ [qpush_ true false, qpop_ true false], Meets i (queueing [] 0xFE) fun s e => e.sp.exm ≠ 0 ∧ s.farSender e = false ∧ ∃ z ∈ s.queueSide e, ∃ x ∈ s.queue z.1 1, x.prod.getLsbD z.2 = false ∧ x.cons.getLsbD z.2 = false) ∧
    (∀ spm ∈ [true, false], ∀ x ∈ [(qpush_ spm true, true, [], true), (qpush_ spm false, true, [[1, 2], [3, 4]], false), (qpop_ spm false, false, ([] : List (List Word)), false),
        (qpop_ spm true, false, [[1, 2]], true)],
      Queues x.1 x.2.1 spm (queueing x.2.2.1 1) fun e q u ps => e.waitingOp = none ∧ e.hasQueued 1 x.2.1 = false ∧
        let v := if x.2.1 then u.release e.agent .dev e.releaser else u
        let z := e.touchElement x.2.1 ps v
        (∀ p ∈ z.2, p.at_.pa < hbmEnd) ∧ z.1.strand? e.who = u.strand? e.who ∧ z.1.queue 0 1 = some q ∧ ps.any (orderedAt u.dev) = false ∧ e.sp.exm ≠ 0 ∧ q.prod.getLsbD 0 = true ∧ q.cons.getLsbD 0 = true ∧ e.sp.mark = none ∧ v.drained e.agent e.who v.nextKey false = true ∧
          v.queueClosed 0 q x.2.1 = false ∧ v.queueGo q 1 x.2.1 e.who = x.2.2.2 ∧ v.slotPoisoned e q = false ∧ q.spoiled = false ∧ u.queue 0 1 = some q) ∧
    (∀ x ∈ [(qpush_ false false, true, Wake.queueRoom 1), (qpop_ false false, false, .queueElement 1)], Queues x.1 x.2.1 false
        ((queueing [[1, 2]] 1).mapSplit (.warp 0 0 0) fun k => { k with again := true, park := some { reason := 4, cond := x.2.2 } }) fun e _ u _ =>
      e.waitingOp = none ∧ e.hasQueued 1 x.2.1 = true ∧ u.strand? e.who ≠ none) ∧
    Queues (qpop_ false true) false false (strongPage (queueing [[1, 2]] 1)) (fun e _ u ps => e.waitingOp = none ∧ e.hasQueued 1 false = false ∧ ps.any (orderedAt u.dev) = true ∧
      e.sp.mark = none ∧ u.drained e.agent e.who u.nextKey false = true) ∧
    Queues (qpush_ false true) true false { queueing [] 1 with poison := [(0x44, true)] } (fun e q u _ => e.waitingOp = none ∧
      (let v := u.release e.agent .dev e.releaser
       v.queueClosed 0 q true = false ∧ v.queueGo q 1 true e.who = true ∧ v.poisoned 0x44 4 = true)) ∧
    (∀ spm ∈ [true, false], Queues (qpush_ spm false) true spm overQueue fun e q u _ =>
      (u.release e.agent .dev e.releaser).queueClosed 0 q true = true) ∧
    (∀ x ∈ [(12#32, false, true), (24, true, false), (8, true, true), (16, true, true)], Meets (.rgive {} (.imm x.1)) (pooled 0) fun s e => e.sp.exm ≠ 0 ∧ e.who = .warp 0 0 0 ∧
      countOk ((e.num e.sp.exm (.imm x.1)).toNat % 256) = x.2.1 ∧ (decide ((e.num e.sp.exm (.imm x.1)).toNat % 256 ≤ e.st.nreg) = x.2.2) ∧
      s.taskHolds e ((e.num e.sp.exm (.imm x.1)).toNat % 256) = false ∧ e.sp.score = []) ∧
    Meets (.rgive {} (.imm 8)) (pooled 0 [{ reg := 6, mask := 1 }]) (fun _ e => e.sp.score ≠ []) ∧
    (∀ x ∈ [(8#32, 0, false), (16, 0, true), (24, 7, true), (24, 8, true), (128, 8, true)], ∀ nb ∈ [true, false], Meets (.rclaim {} 9 (.imm x.1) nb) (pooled x.2.1) fun s e => e.sp.exm ≠ 0 ∧
      e.who = .warp 0 0 0 ∧ countOk ((e.num e.sp.exm (.imm x.1)).toNat % 256) = true ∧ (decide (e.st.nreg ≤ (e.num e.sp.exm (.imm x.1)).toNat % 256) = x.2.2) ∧ s.claimBefore e = false) ∧
    (∀ x ∈ [(63, false), (64, true)], ∀ svc ∈ [true, false], Meets (.sint {} 4 svc) ({ small (strandOf []) with ctxs := [(0, { ctx0 with sints := x.1 })] }) fun s e => e.sp.exm ≠ 0 ∧ e.sp.mark = none ∧
      (let v := s.release e.agent (if svc then .dev else .sys) e.releaser
       v.drained e.agent e.who v.nextKey (!svc) = true ∧ (decide (64 ≤ v.sintsOf e.ctxNo) = x.2))) := by
  have both : ∀ {P : Bool → Prop}, P true → P false → ∀ b ∈ [true, false], P b := fun h h' b _ => by cases b <;> assumption
  refine ⟨meetsAll (by decide +kernel), meetsAll (by decide +kernel), both (queuesAll (by decide +kernel)) (queuesAll (by decide +kernel)),
    queuesAll (by decide +kernel), queues (by decide +kernel), queues (by decide +kernel), both (queues (by decide +kernel)) (queues (by decide +kernel)), meetsAll (by decide +kernel), meets (by decide +kernel), ?_, ?_⟩
  · intro x hx
    simp only [List.mem_cons, List.not_mem_nil, or_false] at hx
    rcases hx with rfl | rfl | rfl | rfl | rfl <;> exact meetsAll (by decide +kernel)
  · intro x hx
    simp only [List.mem_cons, List.not_mem_nil, or_false] at hx
    rcases hx with rfl | rfl <;> exact meetsAll (by decide +kernel)

/-- R342, R343, R347, R349: a ticket, a status, an element pushed and registers claimed. -/
theorem test_sync :
    after (.bara {} 9 (.imm 2) .team 0xFF) (arrived 1) 9 0 = some 0x102 ∧ after (.barw {} 9 8) (arrived 2 [(8, 0, 2)]) 9 0 = some 0 ∧
    after (qpush_ true true) (queueing [[1, 2], [3, 4]] 1) 9 0 = some 2 ∧ after (qpop_ true true) (queueing [] 1) 9 0 = some 2 ∧ after (qpush_ true false) overQueue 9 0 = some 1 ∧
    ((left (exec (qpush_ true true) ((queueing [[7, 8]] 1).mapTeam 0 fun x => { x with spad := [(0x40, 5)] }))).queue 0 1).map Queue.items = some [[7, 8], [5, 0]] ∧
    after (.rclaim {} 9 (.imm 24) true) (pooled 8) 9 0 = some 1 ∧ after (.rclaim {} 9 (.imm 24) true) (pooled 7) 9 0 = some 0 ∧
    ((left (exec (.rgive {} (.imm 8)) (pooled 1))).teams.map fun x => x.2.pool) = [9] := by decide +kernel

def ship_ (token : Bool) (d : RegNo := 0) (x : Word := 16) : Ship := { d := d, a := 4, b := 8, c := 9, token := token, narg := 2, nres := 1, x := x }

/-- A split of one thread that has the result of its request. -/
def answered : State := small (strandOf [] fun k => { k with exm := 1, again := true, ships := [{ thread := 0, core := 0, seq := 5, res := some [1, 0x77] }] })

def lock_ : State := at_ 0x7000

/-- The result of the request at its home. -/
def result_ : ShipRes := { status := 0, ret := 0, thread := 0, core := 0, srcDev := 0, seq := 5, res := [7], key := 0, warp := 0, home := 0, mark := 1 }

/-- `Shipping`: no thread, a bad entry, requests with and without a token, a result, and a request, a section and a result on
their way. -/
theorem witness_Shipping :
    Meets (.ship { ship_ true with p := none_ }) guarded (fun _ e => e.sp.ships = [] ∧ e.exm none_ = 0) ∧
    Meets (.ship (ship_ true 0 18)) lock_ (fun _ e => e.sp.ships = [] ∧ e.exm {} ≠ 0 ∧ (e.sp.pc + (18#32).signExtend 64).extractLsb' 0 2 ≠ 0#2) ∧
    (∀ x ∈ [(false, 0#7), (true, 0), (true, 10)], Meets (.ship (ship_ x.1 x.2)) lock_ fun s e =>
      let c := (e.space s).1.checkAll (e.space s).2 .lock [{ thread := 0, va := 0x7000, bytes := 1 }]
      let ps := match c.2 with | .ok ps => ps | _ => []
      e.sp.ships = [] ∧ e.exm {} = 1 ∧ (e.sp.pc + (16#32).signExtend 64).extractLsb' 0 2 = 0#2 ∧ (e.sp.pc + (16#32).signExtend 64).extractLsb' 57 7 = 0#7 ∧ e.agent = .wide 0 ∧
        (e.srcPair (e.exm {}) 4 false 0).toNat = 0x7000 ∧ ps.map Piece.thread = [0] ∧ (∀ p ∈ ps, p.askew = false ∧ p.at_.dev = c.1.dev) ∧ c.1.strand? e.who = s.strand? e.who ∧
        c.1.shipRoom e (ship_ x.1 x.2) 1 = true ∧ e.sp.mark = none ∧
        (c.1.release e.agent .dev e.releaser).drained e.agent e.who (c.1.release e.agent .dev e.releaser).nextKey false = true) ∧
    Meets (.ship (ship_ false 10)) answered (fun _ e => ∃ w ∈ e.sp.ships, e.sp.ships = [w] ∧ w.res = some [1, 0x77] ∧ w.thread < 32 ∧ e.sp.exm.getLsbD w.thread = true) ∧
    (let s : State := { ctxs := [(0, ctx0)], cores := [(0, { sendq := [request] })] }
     request.srcDev = s.dev ∧ request.dev = s.dev ∧ (s.core request.core).sendq.head? = some request ∧ s.servable request = true ∧ (s.sectionCtx request).isSome = true ∧
       (s.die (lockHome request.pa / 16)).fenced = false ∧ s.homeRoom (lockHome request.pa) request = true) ∧
    (let s : State := { ctxs := [(0, ctx0)], lcs := [(3, { homeq := [request] })] }
     (s.lc 3).t0.serving = none ∧ (s.lc 3).homeq.find? s.servable = some request ∧ (s.lc 3).doorq = [] ∧ (s.die (3 / 16)).fenced = false ∧ s.sectionCtx request = some 0) ∧
    (let s : State := { ctxs := [(0, ctx0)], lcs := [(3, { t0 := { serving := some request, active := true, spent := 3200000 } })] }
     (s.lc 3).t0.serving = some request ∧ s.watchdog (s.lc 3).t0.ctx ≤ (s.lc 3).t0.spent ∧ ∀ w ∈ (s.die (3 / 16)).waiters, w.2 ≠ .split (.lat 3 0)) ∧
    (let s : State := { small (strandOf [] fun k => { k with ships := [{ thread := 0, core := 0, seq := 5 }] }) with results := [result_] }
     result_ ∈ s.results ∧ s.drained (.lat result_.home) (.lat result_.home 0) result_.mark (decide (result_.srcDev ≠ s.dev)) = true ∧ result_.srcDev = s.dev ∧ result_.ret.toNat / 1024 = 0 ∧
       ∃ x ∈ look s.teams result_.key, ∃ wp ∈ x.warps[result_.warp]?, 0 < wp.main.splits.length) := by
  refine ⟨meets (by decide +kernel), meets (by decide +kernel), meetsAll (by decide +kernel), meets (by decide +kernel), by decide +kernel, by decide +kernel, by decide +kernel, by decide +kernel⟩

/-- R362 to R366: a section starts with its arguments and stack pair, and a result answers its split. -/
theorem test_shipping :
    (let t := left (exec (.sectionStart 3) { ctxs := [(0, ctx0)], lcs := [(3, { homeq := [request] })] })
     (t.lc 3).t0.main.reg 4 0 = 1 ∧ (t.lc 3).t0.main.reg 5 0 = 2 ∧ (t.lc 3).t0.main.reg 126 0 = 0xFFFFFFFC ∧ ((t.lc 3).t0.main.split 0).pc = 0x20000) ∧
    after (.ship (ship_ false 10)) answered 9 0 = some 1 ∧ after (.ship (ship_ false 10)) answered 10 0 = some 0x77 ∧
    ((left (exec (.ship (ship_ false)) lock_)).core 0).sendq.map (fun r => (r.pa, r.entry, r.args)) = [(0x7000, 0x10030, [7, 0])] ∧
    ((left (exec (.shipResult result_) { small (strandOf [] fun k => { k with ships := [{ thread := 0, core := 0, seq := 5 }] }) with results := [result_] })).strand? (.warp 0 0 0)).map
      (fun st => (st.split 0).ships.map ShipWait.res) = some [some [0, 7]] := by decide +kernel

/-! The SYS group -/

/-- The privileged thread with registers. -/
def sysState (rs : List (Nat × Nat × Word)) (f : Split → Split := id) : State := latency (strandOf rs fun k => f { k with exm := 1 })

/-- `SpecialRegisters`: registers at once, counters and the clock; each group that `swr` writes. -/
theorem witness_SpecialRegisters :
    (∀ n ∈ [0x000#12, 0x009, 0x00C, 0x013, 0x200, 0x27F, 0x010], Meets (.srd {} 9 n) (lone []) fun _ e => e.exm {} ≠ 0 ∧ e.agent = .wide 0 ∧ e.lat = false) ∧
    (variableSpecial 0x000 = false ∧ variableSpecial 0x200 = true ∧ variableSpecial 0x010 = true) ∧
    Meets (.srd {} 9 0x009) (sysState []) (fun _ e => e.lat = true ∧ e.agent = .lat 0) ∧
    (∃ x l, look (lone []).teams 0 = some x ∧ look (lone []).launches x.launch = some l) ∧
    Meets (.swr none_ 4 false 0x10C) (sysState []) (fun _ e => e.exm none_ = 0) ∧
    Meets (.swr {} 4 false 0x10C) (sysState [(4, 0, 0xFFFFFFFF)]) (fun _ e => e.exm {} ≠ 0) ∧
    (∀ n ∈ [0x100#12, 0x104], Meets (.swr {} 4 false n) (handling (strandOf [(4, 0, 7)])) fun _ e => e.exm {} ≠ 0 ∧ e.who = .handler 0 0) ∧
    (∀ n ∈ [0x105#12, 0x106, 0x107, 0x108, 0x109, 0x10A, 0x10B, 0x200, 0x27F], Meets (.swr {} 4 false n) (sysState [(4, 0, 7)]) fun _ e => e.exm {} ≠ 0) := by
  refine ⟨meetsAll (by decide +kernel), by decide +kernel, meets (by decide +kernel), ⟨_, _, rfl, rfl⟩, meets (by decide +kernel), meets (by decide +kernel),
    meetsAll (by decide +kernel), meetsAll (by decide +kernel)⟩

/-- An entry with serial 7 for which split 0 of warp 0 waits. -/
def replaying (status : Word) (ser : Word) : State :=
  let w := small (strandOf [] fun k => { k with st := .parked, park := some { reason := 10, cond := .fault 0 7 0x500 } })
  { w with focus := .lat 0 1, lcs := [(0, { t1 := { main := strandOf [(4, 0, ser), (6, 0, status)] fun k => { k with exm := 1 }, active := true } })],
           dies := [(0, { entries := [heldFault], waiters := [(7, .split (.warp 0 0 0))] })] }

/-- The privileged thread ends context 5 of another team, which is live, dying or gone. -/
def killing (valid dying : Bool) (f : Split → Split := id) : State :=
  let s := sysState [(4, 0, 5)] f
  { s with ctxs := [(0, ctx0), (5, { ctx0 with valid := valid, dying := dying })], teams := [(9, { ctx := 5, core := some 3 })] }

/-- `SystemInstructions`: no thread; reads and writes of the trapped warp; each kind of `tlbinv` and its end; serials and status
words of `replay`; contexts that are gone, live and dying. -/
theorem witness_SystemInstructions :
    (∀ i ∈ [Instr.tlbinv none_ .all 0 (.imm 0), .replay none_ 9 4 6, .ctxkill none_ 4, .lnch none_ 9 4, .trial none_ 4 none, .wfi none_ 9 4, .gsave none_ 10 4, .grest none_ 10 4],
      Meets i (sysState []) fun _ e => e.exm none_ = 0) ∧
    (∀ x ∈ [(5#7, false), (127, false), (0, true)], Meets (.xrd {} 9 x.1 x.2) (handling (strandOf [])) fun s e => (decide (x.1.toNat < (s.trapped e.who).nreg) = true) ∧ s.heldTrapped e x.1.toNat = false) ∧
    (∀ x ∈ [(5#7, false), (0, true)], Meets (.xwr {} 4 false x.1 x.2) (handling (strandOf [(4, 0, 7)])) fun _ e => e.who = .handler 0 0 ∧ e.exm {} ≠ 0) ∧
    (∀ k ∈ [TlbKind.all, .asid, .page], Meets (.tlbinv {} k 4 (.imm 1)) (sysState [(4, 0, 0x5000)]) fun s e => e.exm {} ≠ 0 ∧ e.settling = none ∧ e.sp.mark = none ∧
      (s.release e.agent .dev e.releaser).drained e.agent e.who (s.release e.agent .dev e.releaser).nextKey false = true) ∧
    Meets (.tlbinv {} .all 4 (.imm 1)) (sysState [] fun k => { k with again := true, park := some { reason := 10, cond := .settled 5 } })
      (fun s e => e.exm {} ≠ 0 ∧ e.settling = some 5 ∧ s.settledBefore 5 = true) ∧
    (∀ x ∈ [(3#32, 7#32), (1, 8), (2, 8), (1, 7)], Meets (.replay {} 9 4 6) (replaying x.1 x.2) fun s e => e.exm {} ≠ 0 ∧ e.one (e.exm {}) 6 = x.1 ∧ e.one (e.exm {}) 4 = x.2 ∧
      e.sp.mark = none ∧ (let v := s.release e.agent .dev e.releaser
       v.drained e.agent e.who v.nextKey false = true) ∧ s.away (.warp 0 0 0) = false ∧
      (∃ y ∈ (s.die e.die).entries, y.serial = 7) ∧ (∀ w ∈ (s.die e.die).waiters, w.2 ≠ .split e.who) ∧
      ∃ m ∈ s.strand? (.warp 0 0 0), 0 < m.splits.length ∧ (m.split 0).park.map Park.cond = some (.fault e.die 7 0x500)) ∧
    Meets (.replay {} 9 4 6) ((replaying 1 7).mapTeam 0 fun x => { x with core := none }) (fun s e => e.exm {} ≠ 0 ∧ s.away (.warp 0 0 0) = true ∧
      ∃ m ∈ s.strand? (.warp 0 0 0), 0 < m.splits.length ∧ (m.split 0).park.map Park.cond = some (.fault e.die 7 0x500)) ∧
    (∀ x ∈ [(false, false), (true, true), (true, false)], Meets (.ctxkill {} 4) (killing x.1 x.2) fun s e => e.exm {} ≠ 0 ∧ e.sp.again = false ∧ (e.one (e.exm {}) 4).toNat % 64 = 5 ∧
      (s.ctx 5).valid = x.1 ∧ (s.ctx 5).dying = x.2) ∧
    Meets (.ctxkill {} 4) (killing true true fun k => { k with again := true, park := some { reason := 15, cond := .contextGone 5 } }) (fun s e => e.exm {} ≠ 0 ∧ e.sp.again = true ∧
      e.sp.park.map Park.cond = some (.contextGone 5) ∧ (s.ctx 5).valid = true ∧ (s.ctx 5).dying = true) :=
  ⟨meetsAll (by decide +kernel), meetsAll (by decide +kernel), meetsAll (by decide +kernel), meetsAll (by decide +kernel), meets (by decide +kernel), meetsAll (by decide +kernel), meets (by decide +kernel),
    meetsAll (by decide +kernel), meets (by decide +kernel)⟩

/-- A record of 128 bytes at 0x4000 for context 5, whose address stands in v4. -/
def launchRecord (lid : Nat) : List Byte := leBytes 28 0 ++ leBytes 4 5 ++ leBytes 4 lid ++ leBytes 92 0

def queuing (x : Ctx) : State :=
  let s := sysState [(4, 0, 0x4000)]
  { s with ctxs := [(0, ctx0), (5, x)], mem := setBytes s.mem 0x4000 (launchRecord 7) }

/-- An experiment's record: start, end, speed-up in 1/256 and clocks. -/
def trialRecord (lo hi sp dur : Nat) : List Byte := leBytes 8 lo ++ leBytes 8 hi ++ leBytes 4 sp ++ leBytes 4 dur ++ leBytes 8 0

def trialing (bs : List Byte) : State :=
  let s := lone [(4, 0, 0x4000)]
  { s with mem := setBytes s.mem 0x4000 bs }

/-- Job 6 of a group of this device alone. -/
def jobState (st : JobSt) (f : Job → Job := id) (g : Split → Split := id) (tag : Word := 6) : State :=
  let s := sysState [(4, 0, tag)] g
  { s with hub := { s.hub with groups := [(3, { n := 1, rank := 0, valid := true, base := 0x8000 })], jobs := [(2, f { tag := 6, st := st, grp := 3, serial := 4 })] } }

/-- `LaunchesAndExperiments`: contexts that are gone, that know the launch, that are full and that take it; counters; records of
experiments; the service ring; jobs for each result of `gsave` and `grest`. -/
theorem witness_LaunchesAndExperiments :
    (∀ x ∈ [(({} : Ctx), false, false, true), ({ ctx0 with queue := [{ addr := 0, bytes := launchRecord 7 }] }, true, true, true),
        ({ ctx0 with queue := List.replicate 64 { addr := 0, bytes := [] } }, true, false, false), (ctx0, true, false, true)],
      Records (.lnch {} 9 4) 4 64 128 (queuing x.1) fun e w bs => recordCtx bs = 5 ∧ (w.ctx 5).valid = x.2.1 ∧ (w.ctx 5).dying = false ∧ w.lidKnown 5 (recordLid bs) = x.2.2.1 ∧
        (decide ((w.ctx 5).queue.length < 64) = x.2.2.2) ∧ e.sp.mark = none ∧
        let v := w.release e.agent .dev e.releaser
        v.drained e.agent e.who v.nextKey false = true) ∧
    (∀ n ∈ [Sys2Proof.Num.imm 5, .reg 4], Meets (.cntrd {} 10 n false) (lone [(4, 0, 5)]) fun _ _ => True) ∧
    (∀ x ∈ [(trialRecord 8 8 0 5, false), (trialRecord 8 16 257 5, false), (trialRecord 8 16 256 0, true), (trialRecord 8 9 0 5, true)],
      Records (.trial {} 4 none) 4 8 32 (trialing x.1) fun e w bs => (decide (leNat (bs.take 8) < leNat ((bs.drop 8).take 8) ∧ leNat ((bs.drop 16).take 4) ≤ 256) = x.2) ∧
        (w.ctx e.ctxNo).trial = none ∧ (w.ctx e.ctxNo).valid = true) ∧
    (∀ x ∈ [(0#32, true, false), (0, false, false), (5, false, false), (5, false, true)], Meets (.wfi {} 9 4)
        { sysState [(4, 0, x.1)] (fun k => { k with again := x.2.2, park := if x.2.2 then some { reason := 15, cond := .serviceRing, left := some 0 } else none }) with
          mem := if x.2.1 then setByte tables 0x10001C 1 else tables, dies := [(0, { fqbase := 0x100000 })] } fun s e =>
      e.exm {} ≠ 0 ∧ e.served = false ∧ s.serviceReady e.die = x.2.1 ∧ e.one (e.exm {}) 4 = x.1 ∧ e.timedOut = x.2.2 ∧ e.sp.again = x.2.2) ∧
    Meets (.wfi {} 9 4) (sysState [(4, 0, 5)] fun k => { k with again := true, park := some { reason := 15, cond := .served, left := some 3 } })
      (fun s e => e.exm {} ≠ 0 ∧ e.served = true ∧ s.serviceReady e.die = false) ∧
    (∀ i ∈ [Instr.gsave {} 10 4, .grest {} 10 4], Meets i (jobState .off (fun j => { j with tag := 7 }) fun k => { k with again := true, park := some { reason := 15, cond := .gang 6 } })
      fun s e => e.exm {} ≠ 0 ∧ e.sp.again = true ∧ e.sp.park.map Park.cond = some (.gang 6) ∧ s.jobOf 6 = none) ∧
    (∀ i ∈ [Instr.gsave {} 10 4, .grest {} 10 4], Meets i (jobState .run id id 5) fun s e => e.exm {} ≠ 0 ∧ e.sp.again = false ∧ (s.jobOf ((e.one (e.exm {}) 4).toNat % 2 ^ 16)).isNone = true) ∧
    (∀ x ∈ [(Instr.gsave {} 10 4, JobSt.off), (.grest {} 10 4, .run), (.gsave {} 10 4, .run), (.grest {} 10 4, .off)], Meets x.1 (jobState x.2) fun s e => e.exm {} ≠ 0 ∧ e.sp.again = false ∧
      e.ctx.job ≠ 6 ∧ ∃ y ∈ s.jobOf ((e.one (e.exm {}) 4).toNat % 2 ^ 16), y.1 = 2 ∧ y.2.st = x.2 ∧ (s.jobMembers y.2).isSome = true) ∧
    (∀ x ∈ [(Instr.gsave {} 10 4, JobSt.run), (.grest {} 10 4, .off)], Meets x.1 (jobState x.2 fun j => { j with grp := 9 }) fun s e =>
      ∃ y ∈ s.jobOf ((e.one (e.exm {}) 4).toNat % 2 ^ 16), (s.jobMembers y.2).isNone = true) ∧
    (∀ r ∈ [([] : List (Who × Word × Word)), [(.lat 0 1, 0, 5)]], ∀ i ∈ [Instr.gsave {} 10 4, .grest {} 10 4],
      Meets i (jobState .off (fun j => { j with results := r }) fun k => { k with again := true, park := some { reason := 15, cond := .gang 6 } }) fun s e =>
        e.exm {} ≠ 0 ∧ e.sp.again = true ∧ e.sp.park.map Park.cond = some (.gang 6) ∧ (∃ y ∈ s.jobOf 6, (y.2.results.find? fun q => q.1 = e.who) = r.head?)) ∧
    (∃ s : State, ∃ x, (s.ctx 0).trial = some x ∧ x.left = 0) := by
  have two : ∀ {P : List (Who × Word × Word) → Prop}, P [] → P [(.lat 0 1, 0, 5)] → ∀ b ∈ [([] : List (Who × Word × Word)), [(.lat 0 1, 0, 5)]], P b := by
    intro P h h' b hb
    simp only [List.mem_cons, List.not_mem_nil, or_false] at hb
    rcases hb with rfl | rfl <;> assumption
  refine ⟨?_, meetsAll (by decide +kernel), ?_, meetsAll (by decide +kernel), meets (by decide +kernel), meetsAll (by decide +kernel), meetsAll (by decide +kernel), meetsAll (by decide +kernel), meetsAll (by decide +kernel),
    two (meetsAll (by decide +kernel)) (meetsAll (by decide +kernel)), { ctxs := [(0, { trial := some { lo := 0, hi := 4, s := 0, dur := 5, left := 0 } })] }, _, rfl, rfl⟩
  · intro x hx
    simp only [List.mem_cons, List.not_mem_nil, or_false] at hx
    rcases hx with rfl | rfl | rfl | rfl <;> exact records (by decide +kernel)
  · intro x hx
    simp only [List.mem_cons, List.not_mem_nil, or_false] at hx
    rcases hx with rfl | rfl | rfl | rfl <;> exact records (by decide +kernel)

/-- R72, R124, R422, R427, R430: registers and results by hand. -/
theorem test_system :
    sstatAfter (.swr {} 4 false 0x10C) (sysState [(4, 0, 0xFFFFFFFF)]) = some 0x1F1F ∧
    ((left (exec (.swr {} 4 false 0x107) (sysState [(4, 0, 0x1FF)]))).ctx 0).ptbaseW = 0xFF00001000 ∧
    after (.srd {} 9 0x013) { lone [] with launches := [(0, { record := { tmx := 2, tmy := 3, tmz := 4 } })] } 9 0 = some 24 ∧ after (.srd {} 9 0x009) (sysState []) 9 0 = some 256 ∧
    after (.xrd {} 9 5 false) (handling (strandOf [] fun k => { k with exm := 1 })) 9 0 = some 0 ∧
    after (.lnch {} 9 4) (queuing ctx0) 9 0 = some 0 ∧ after (.lnch {} 9 4) (queuing {}) 9 0 = some 1 ∧
    after (.lnch {} 9 4) (queuing { ctx0 with queue := [{ addr := 0, bytes := launchRecord 7 }] }) 9 0 = some 2 ∧
    after (.wfi {} 9 4) { sysState [(4, 0, 5)] with mem := setByte tables 0x10001C 1, dies := [(0, { fqbase := 0x100000 })] } 9 0 = some 1 ∧
    after (.gsave {} 10 4) (jobState .off) 10 0 = some 2 ∧ after (.gsave {} 10 4) (jobState .off) 11 0 = some 4 ∧ after (.grest {} 10 4) (jobState .off fun j => { j with grp := 9 }) 10 0 = some 1 ∧
    ((left (exec (.replay {} 9 4 6) (replaying 1 7))).die 0).entries.length = 0 ∧
    ((left (exec (.replay {} 9 4 6) (replaying 1 7))).strand? (.warp 0 0 0)).map (fun st => (st.split 0).pc) = some 0x10000 := by decide +kernel

/-! Gang switches and job barriers -/

/-- Job 6 in entry 2, of a group of devices 0 and 1; device 0 is this one; port 4 leads to device 1. -/
def gang (st : JobSt) (f : Job → Job := id) (h : Hub → Hub := id) : State :=
  { mem := setByte [] 0x8002 1, ctxs := [(0, { ctx0 with job := 9 })],
    hub := h { groups := [(3, { n := 2, rank := 0, valid := true, base := 0x8000 })], jobs := [(2, f { tag := 6, st := st, grp := 3, serial := 4 })],
               ports := [(4, { st := 2, peer := some (1, 7) })] } }

def commanded (c arg : Nat) (h : Hub) : Hub := { h with busy := true, mbcmd := c, mbarg := arg }

/-- A flit of job 6. -/
def late_ : Flit := { payload := 0, seq := 0, vc := 0, tag := 6, dst := 0, src := 1, pos := 3, type := 2, av := false, nak := false, aseq := 0, cvc := 0, ccnt := 0 }

/-- All markers but the one of port 4 and virtual channel 15. -/
def marksBut : List (Nat × Nat) := (List.range 15).map fun v => (4, v)

/-- `GangOff`: commands of each result; an unknown job; a stop; a close; markers of each clause; reports. -/
theorem witness_GangOff :
    ((gang .run).hub.busy = false ∧ (∀ off ∈ [true, false], let s := gang .run id (commanded (if off then 1 else 2) 5)
      s.hub.busy = true ∧ s.hub.mbcmd = (if off then 1 else 2) ∧ s.jobOf (s.hub.mbarg % 2 ^ 16) = none)) ∧
    (∀ off ∈ [true, false], ∀ st ∈ [JobSt.run, .off], let s := gang st id (commanded (if off then 1 else 2) 6)
      ∃ j x, s.hub.busy = true ∧ s.jobOf (s.hub.mbarg % 2 ^ 16) = some (j, x) ∧ x.st = st ∧ x.mailbox = false ∧ s.jobMembers x = some [0, 1]) ∧
    (∃ j x, (gang .run (fun j => { j with grp := 9 }) (commanded 1 6)).jobOf 6 = some (j, x) ∧ (gang .run (fun j => { j with grp := 9 })).jobMembers x = none) ∧
    (gang .run).jobOf 7 = none ∧
    (∃ x, (gang .run).jobOf 6 = some (2, x) ∧ (gang .run).job 2 = x ∧ x.st = .run) ∧
    (let s := gang .stopping
     ∃ x, s.jobOf 6 = some (2, x) ∧ s.job 2 = x ∧ x.st = .stopping ∧ x.closed = false ∧ s.quiet 6 = true ∧ (s.ctxs.all fun y => y.2.job ≠ 6) = true ∧ s.bufferedOf 6 = [] ∧
       s.allMarked x = false ∧ s.jobMembers x = some [0, 1] ∧ s.memberPorts [0, 1] = [(4, 1, 7)]) ∧
    (let s := { gang .stopping id (fun h => { h with waiting := [late_] }) with ctxs := [] }
     s.quiet 6 = false ∧ ∃ x, s.jobOf 6 = some (2, x) ∧ x.st = .stopping ∧ x.closed = false) ∧
    (∃ x, (gang .stopping fun j => { j with grp := 9 }).jobOf 6 = some (2, x) ∧ (gang .stopping fun j => { j with grp := 9 }).jobMembers x = none) ∧
    (let s := gang .stopping fun j => { j with closed := true, marks := marksBut, conductor := 1 }
     ∃ x, s.jobOf 6 = some (2, x) ∧ s.job 2 = x ∧ (s.jobMembers x).isSome = true ∧ x.st = .stopping ∧ x.serial = 4 ∧ x.closed = true ∧ x.sweptHere = false ∧ x.conductor < 8192 ∧
       x.conductor ≠ s.dev ∧ s.allMarked { x with marks := x.marks ++ [(4, 15)] } = true) ∧
    (∀ heard ∈ [[0], ([] : List Nat)], let s := gang .off fun j => { j with conducts := true, heard := heard, issuer := some (.lat 0 1) }
     ∃ x, s.jobOf 6 = some (2, x) ∧ s.job 2 = x ∧ s.jobMembers x = some [0, 1] ∧ x.conducts = true ∧ x.serial = 4 ∧ x.mailbox = false ∧ 1 ∉ x.heard ∧ x.heard = heard ∧
       x.issuer = some (.lat 0 1)) := by
  refine ⟨⟨rfl, by decide +kernel⟩, ?_, ⟨_, _, rfl, by decide +kernel⟩, by decide +kernel, ⟨_, rfl, by decide +kernel⟩, ⟨_, rfl, by decide +kernel⟩, ⟨by decide +kernel, _, rfl, by decide +kernel⟩,
    ⟨_, rfl, by decide +kernel⟩, ⟨_, rfl, by decide +kernel⟩, ?_⟩
  · intro off _ st hst
    simp only [List.mem_cons, List.not_mem_nil, or_false] at hst
    rcases hst with rfl | rfl <;> cases off <;> exact ⟨2, _, rfl, rfl, by decide +kernel⟩
  · intro h hh
    simp only [List.mem_cons, List.not_mem_nil, or_false] at hh
    rcases hh with rfl | rfl <;> exact ⟨_, rfl, by decide +kernel⟩

/-- A barrier 3 of context 0 on device `me` of a group of devices 0 and 1. -/
def jobBar (me : Nat) (b : Barrier) : State :=
  { mem := setByte [] 0x8002 1, ctxs := [(0, { ctx0 with jobBars := [(3, b)] })], hub := { devnum := me, groups := [(3, { n := 2, rank := me, valid := true, base := 0x8000 })] } }

/-- `GangBackAndJobBarriers`: messages that find the entry OFF, RUN and unknown; answers; the words to go and to stay; re-injection;
late flits; barriers' messages. -/
theorem witness_GangBackAndJobBarriers :
    ((1 : Nat) ≠ (gang .off).dev ∧ (gang .off).jobOf 7 = none ∧ ∀ st ∈ [JobSt.off, .run, .stopping], ∃ x, (gang st).jobOf 6 = some (2, x) ∧ x.st = st) ∧
    (∀ heard ∈ [[0], ([] : List Nat)], let s := gang .restoring fun j => { j with conducts := true, heard := heard }
     ∃ x, s.jobOf 6 = some (2, x) ∧ x.went = false ∧ s.job 2 = x ∧ s.jobMembers x = some [0, 1] ∧ x.conducts = true ∧ x.serial = 4 ∧ x.st = .restoring ∧ x.going = false ∧ x.mailbox = false ∧ x.dropped = [] ∧
       1 ∉ x.heard ∧ x.heard = heard) ∧
    (∀ heard ∈ [[0], ([] : List Nat)], ∀ st ∈ [JobSt.restoring, .run], let s := gang st fun j => { j with conducts := true, went := true, heard := heard, issuer := some (.lat 0 1) }
     ∃ x, s.jobOf 6 = some (2, x) ∧ s.jobMembers x = some [0, 1] ∧ x.conducts = true ∧ x.serial = 4 ∧ x.st = st ∧ x.went = true ∧ x.mailbox = false ∧ x.heard = heard ∧
       x.issuer = some (.lat 0 1)) ∧
    (let s : State := { jobBar 0 { phase := 5 } with ctxs := [(0, { ctx0 with job := 6 })], hub := (gang .off).hub }
     s.barrierWaits 0 = true) ∧
    ((jobBar 0 { phase := 5 }).barrierWaits 0 = false ∧ (jobBar 1 { phase := 5 }).barrierWaits 0 = false) ∧
    (let s := gang .restoring fun j => { j with going := true, conductor := 1 }
     ∃ x, s.jobOf 6 = some (2, x) ∧ x.st = .restoring ∧ x.going = true ∧ x.conductor ≠ s.dev ∧ readOr [] s.hub.replays 2 = []) ∧
    (let s := gang .restoring (fun j => { j with going := true, conductor := 1 }) fun h => { h with replays := [(2, [{ flit := late_, from_ := 4, out := 65 }])] }
     ∃ x, s.jobOf 6 = some (2, x) ∧ readOr [] s.hub.replays 2 ≠ []) ∧
    (let s := gang .off fun j => { j with late := 0x100000, latesz := 4 }
     late_.tag.toNat = 6 ∧ (gang .run).isLate 4 0 late_.tag.toNat = false ∧ s.calm ∧ s.isLate 4 0 late_.tag.toNat = true ∧
       ∃ x, s.jobOf late_.tag.toNat = some (2, x) ∧ x.latecnt < x.latesz ∧ x.late + 64 * x.latesz ≤ hbmEnd) ∧
    (((jobBar 0 {}).ctx 7).valid = false ∧ (readOr {} ((jobBar 0 { phase := 5 }).ctx 0).jobBars 3).phase % 2 ^ 24 ≠ 4) ∧
    (let s := jobBar 0 { phase := 5 }
     ∃ g, (s.ctx 0).valid = true ∧ s.groupHere 3 = some g ∧ (let b := readOr {} (s.ctx 0).jobBars 3
       b.phase % 2 ^ 24 = 5 ∧ 1 ∉ b.devs ∧ (∃ m ∈ s.members g, m ≠ 1 ∧ m ∉ b.devs) ∧ (∀ m ∈ s.members g, m / 32 = s.dev / 32) ∧ b.cur = none) ∧
       (s.ctx 0).jobBars.map Prod.fst = [3] ∧ (s.members g).head? = some s.dev) ∧
    (let s := jobBar 1 { phase := 5 }
     ∃ g, (s.ctx 0).valid = true ∧ s.groupHere 3 = some g ∧ (let b := readOr {} (s.ctx 0).jobBars 3
       b.phase % 2 ^ 24 = 5 ∧ b.cur = none ∧ b.next = none) ∧ (s.ctx 0).jobBars.map Prod.fst = [3] ∧ (s.members g).head? ≠ some s.dev ∧ leaderOf (s.members g) s.dev ≠ s.dev) := by
  refine ⟨⟨by decide, by decide +kernel, ?_⟩, ?_, ?_, by decide +kernel, by decide +kernel, ⟨_, rfl, by decide +kernel⟩, ⟨_, rfl, by decide +kernel⟩, ⟨rfl, by decide +kernel, calm_of rfl (by decide), by decide +kernel, _, rfl, by decide +kernel⟩,
    by decide +kernel, ⟨_, rfl, rfl, by decide +kernel⟩, ⟨_, rfl, rfl, by decide +kernel⟩⟩
  · intro st hst
    simp only [List.mem_cons, List.not_mem_nil, or_false] at hst
    rcases hst with rfl | rfl | rfl <;> exact ⟨_, rfl, rfl⟩
  · intro h hh
    simp only [List.mem_cons, List.not_mem_nil, or_false] at hh
    rcases hh with rfl | rfl <;> exact ⟨_, rfl, by decide +kernel⟩
  · intro h hh st hst
    simp only [List.mem_cons, List.not_mem_nil, or_false] at hh hst
    rcases hh with rfl | rfl <;> rcases hst with rfl | rfl <;> exact ⟨_, rfl, by decide +kernel⟩

/-! Links, the host, the debug unit, starts -/

/-- A flit of a packet of no job for device 1, as a port receives it with SEQ `seq`, and the same with a wrong CRC. -/
def wire (seq : Nat) (bad : Bool := false) (pos : BitVec 2 := 3) (tag : BitVec 16 := 0) : BitVec 384 :=
  BitVec.ofNat 384 (leNat (flitBytes { late_ with tag := tag, pos := pos, seq := BitVec.ofNat 12 seq, src := 1, dst := 0 })) ^^^ (if bad then 1 <<< 130 else 0)

def ported (x : Port) (h : Hub → Hub := id) : State := { hub := h { ports := [(4, x), (40, x)] } }

/-- `LinksAndPorts`: a port that does not operate; flits that are bad, early, repeated and accepted; replays; channels; maps; a port
that trains, goes down and comes up; routes; laser sources; spares. -/
theorem witness_LinksAndPorts :
    (∀ x ∈ [(0, false), (2, true)], ((ported { st := x.1 }).port 4).operates = x.2) ∧
    (badFlit (wire 5 true).toNat (flitOf (leBytes 48 (wire 5 true).toNat)) = true) ∧
    (let f := flitOf (leBytes 48 (wire 5).toNat)
     badFlit (wire 5).toNat f = false ∧ f.av = false ∧ f.type ≠ 0 ∧ f.type ≠ 11 ∧ f.seq.toNat = 5 ∧ f.pos = 3 ∧ (ported { st := 2, expect := 5 }).jobOf f.tag.toNat = none) ∧
    (let f := flitOf (leBytes 48 (wire 5 false 2).toNat)
     let s := ported { st := 2, expect := 5, follow := [(followKey f, 0x7E)] }
     badFlit (wire 5 false 2).toNat f = false ∧ f.pos = 2 ∧ readOr 0x7F (s.port 4).follow (followKey f) = 0x7E ∧ f.seq.toNat = (s.port 4).expect ∧ s.jobOf f.tag.toNat = none) ∧
    (let f := flitOf (leBytes 48 (wire 5 false 3 6).toNat)
     let s := ported { st := 2, expect := 5 } fun h => { h with jobs := [(2, { tag := 6, st := .run })] }
     badFlit (wire 5 false 3 6).toNat f = false ∧ f.av = false ∧ f.type ≠ 0 ∧ f.type ≠ 11 ∧ f.seq.toNat = (s.port 4).expect ∧ s.shareFull f.tag.toNat = true ∧ s.isLate 4 f.vc.toNat f.tag.toNat = false) ∧
    (∀ n ∈ [none, some 9], let x := (ported { st := 2, dipped := 2, heldNak := n }).port 4
      x.operates = true ∧ x.dipped.getLsbD 1 = true ∧ x.dipped &&& ~~~(1#16 <<< 1) = 0 ∧ x.heldNak = n) ∧
    (∀ m ∈ [1#16, 0xF#16], decide (((ported { st := 2, told := m }).port 4).told &&& ~~~(BitVec.ofNat 16 5 &&& fullMap 4) = 0 ∧
      ((ported { st := 2, told := m }).port 4).told ≠ BitVec.ofNat 16 5 &&& fullMap 4) = decide (m = 1)) ∧
    (let s := ported { st := 2, unacked := [late_] }
     (s.port 4).operates = true ∧ (s.port 4).tries < 7 ∧ (s.port 4).unacked ≠ []) ∧
    (let x := (ported { st := 2, rx := 0xF, dipped := 2, lost := 4, back := 4 }).port 4
     x.operates = true ∧ x.rx.getLsbD 1 = true ∧ x.dipped.getLsbD 1 = true ∧ fullMap 4 &&& ~~~(x.lost ||| 1#16 <<< 1) ≠ 0 ∧ x.st = 2 ∧ x.lost.getLsbD 2 = true ∧ x.back.getLsbD 2 = true) ∧
    (let x := (ported { st := 2, rx := 3, lost := 4, back := 4 }).port 4
     x.rx.getLsbD 2 = false ∧ x.lost.getLsbD 2 = true) ∧
    (let s := ported { st := 2 }
     (s.port 4).operates = true ∧ (BitVec.ofNat 16 5 &&& ~~~(s.port 4).dark &&& fullMap 4) ≠ 0 ∧ s.ctxs = [] ∧ (s.port 4).stripe = none) ∧
    ((ported { st := 3, stripe := some 7 }).port 4).stripe.isSome = true ∧
    (let s := ported { st := 1 }
     s.hub.mode ≠ .minimal ∧ isPort 4 = true ∧ portUnused 4 = false ∧ (s.port 4).disable = false ∧ (s.port 4).operates = false ∧ fullMap 4 &&& ~~~(s.port 4).dark ≠ 0 ∧ s.ctxs = []) ∧
    (let s := ported { st := 2, disable := true }
     (s.port 4).disable = true ∧ (s.port 4).operates = true ∧ (s.port 4).unacked = [] ∧ (∀ h ∈ s.hub.buffers, h.out ≠ 4)) ∧
    ((ported {} fun h => { h with mode := .minimal }).hub.mode = .minimal ∧ ((ported {} fun h => { h with mode := .minimal }).port 4).operates = false) ∧
    ((ported {}).hub.mode ≠ .minimal ∧ ((ported {}).port 4).disable = false ∧ ((ported {}).port 4).st = 0 ∧ isPort 4 = true ∧ portUnused 4 = false) ∧
    ((ported {}).routeTo 0 1 = none ∧ (1 : Nat) ∉ (ported {}).hub.unreachable ∧ (ported {}).remote = []) ∧
    (let s := ported { st := 2, peer := some (5, 26) } fun h => { h with unreachable := [5] }
     (s.routeTo s.dev 5).isSome = true ∧ 5 ∈ s.hub.unreachable) ∧
    (∀ x ∈ [(([] : Sparse Nat), ([] : Sparse Nat)), ([(7, 3)], []), ([], [(7, 3)])], let s : State := { hub := { spares := x.1, sparing := x.2 } }
      look s.hub.spares 7 = look x.1 7 ∧ look s.hub.sparing 7 = look x.2 7) := by
  refine ⟨?_, by decide +kernel, by decide +kernel, by decide +kernel, by decide +kernel, ?_, ?_, by decide +kernel, by decide +kernel, by decide +kernel, by decide +kernel, rfl, by decide +kernel, by decide +kernel, by decide +kernel, by decide +kernel, by decide +kernel,
    by decide +kernel, fun x _ => ⟨rfl, rfl⟩⟩
  · intro x hx
    simp only [List.mem_cons, List.not_mem_nil, or_false] at hx
    rcases hx with rfl | rfl <;> decide +kernel
  · intro n hn
    simp only [List.mem_cons, List.not_mem_nil, or_false] at hn
    rcases hn with rfl | rfl <;> decide +kernel
  · intro m hm
    simp only [List.mem_cons, List.not_mem_nil, or_false] at hm
    rcases hm with rfl | rfl <;> decide +kernel

/-- A context table at 0x100000 whose entry 5 names a block at 0x200000. -/
def tabled (v : Bool) (f : Ctx → Ctx := id) (valid : Bool := false) : State :=
  { mem := setBytes (setBytes (setBytes (setBytes [] 0x100050 [if v then 1 else 0, 0, 0x20]) 0x200004 [9]) 0x200020 [1]) 0x200050 ([16] ++ List.replicate 23 0 ++ [16]),
    ctxs := if valid then [(5, f ctx0)] else [], hub := { ctxbase := 0x100000 } }

/-- Context 5 with `n` queued launches, and one more whose LID is that of the staged record. -/
def belled (n : Nat) (valid known : Bool) : State :=
  let q : List Queued := List.replicate n { addr := 0, bytes := launchRecord 7 } ++ if known then [{ addr := 0, bytes := leBytes 128 0 }] else []
  tabled true (fun y => { y with queue := q }) valid

/-- A host command. -/
def boxed (c a : Nat) : State := { hub := { busy := true, mbcmd := c, mbarg := a } }

/-- `HostAndContexts`: table entries with and without V, blocks that are valid and not, dying contexts, each outcome of a doorbell, accesses, events and
commands. -/
theorem witness_HostAndContexts :
    ((tabled true id true).ctx 5).valid = true ∧ (tabled false).tableEntry 5 % 2 = 0 ∧
    (let s := tabled true
     s.calm ∧ s.hub.mode ≠ .minimal ∧ (s.ctx 5).valid = false ∧ s.tableEntry 5 % 2 = 1 ∧ s.tableEntry 5 / 4096 % 2 ^ 28 * 4096 = 0x200000 ∧ badBlock (s.homeRead 0x200000 0x600).2 = false ∧
       s.clashes 5 (s.homeRead 0x200000 0x600).2 = false) ∧
    (let s := tabled true (fun x => { x with dying := true }) true
     s.calm ∧ (s.ctx 5).valid = true ∧ (s.ctx 5).dying = true ∧ s.hub.ctxbase + 16 * 5 < hbmEnd ∧ s.jobOf (s.ctx 5).job = none) ∧
    (∀ x ∈ [(0, false, false), (0, true, true), (64, true, false), (63, true, false)], let s := belled x.1 x.2.1 x.2.2
      (s.ctx 5).valid = x.2.1 ∧ s.lidKnown 5 (recordLid ((List.range 128).map fun i => readOr 0 s.hub.staging (128 * 5 + i))) = x.2.2 ∧ (decide (64 ≤ (s.ctx 5).queue.length) = decide (x.1 = 64))) ∧
    ((State.reset).calm ∧ (State.reset).hub.mode ≠ .minimal) ∧
    (∀ st ∈ [JobSt.free, .off, .run], ((gang st).job 2).st = st) ∧
    ((State.reset).hub.evWait = [] ∧ (let s : State := { hub := { evWait := [[1]], evqbase := 0x1000, evqcfg := 0x10010 } }
      s.hub.evWait = [[1]] ∧ s.evqOpen = true) ∧ (State.reset).hub.filairDrop = false) ∧
    (∀ x ∈ [(3, 0), (4, 5), (4, 6), (5, 3), (5, 4)], (boxed x.1 x.2).hub.busy = true ∧ (boxed x.1 x.2).hub.mode ≠ .minimal ∧ (boxed x.1 x.2).hub.mbcmd = x.1 ∧ (boxed x.1 x.2).hub.mbarg = x.2) ∧
    (boxed 5 3).workOn 3 = [] ∧ ((boxed 5 3).die 3).fenced = false := by
  refine ⟨rfl, by decide +kernel, ⟨calm_of rfl (by decide), by decide +kernel⟩, ⟨calm_of rfl (by decide), by decide +kernel⟩, ?_, ⟨calm_of rfl (by decide), by decide⟩, ?_, by decide +kernel,
    fun x _ => ⟨rfl, by simp [boxed], rfl, rfl⟩, by decide +kernel, by decide +kernel⟩
  · intro x hx
    simp only [List.mem_cons, List.not_mem_nil, or_false] at hx
    rcases hx with rfl | rfl | rfl | rfl <;> decide +kernel
  · intro st hst
    simp only [List.mem_cons, List.not_mem_nil, or_false] at hst
    rcases hst with rfl | rfl | rfl <;> rfl

/-- A comparator at the split's address, in a mode. -/
def compared (mode : Nat) (f : Split → Split := id) : State :=
  { small (strandOf [] fun k => f { k with block := some { base := 0x10020, bytes := leBytes 32 0xA00 } }) with
    dies := [(0, { zctl := 1, comps := [(2, { lo := 0x10020, ctl := BitVec.ofNat 32 (2 ^ 31 + mode * 2 ^ 27 + 1) })] })] }

/-- A core whose places are sampled. -/
def sampledState : State :=
  let c : Ctx := { ctx0 with cblk := 0x200000, smbase := 0x300000, smsize := 16 }
  { small (strandOf []) id c with mem := [(0x200000, 2)] }

/-- Two splits at one address. -/
def twins (k : Split → Split := id) : State := small { strandOf [] with splits := [{ split0 with exm := 0xF }, k { split0 with exm := 0xF0 }, {}] }

/-- A split whose step has parked. -/
def waitingStep (k : Split) : Split := { k with st := .parked, stepping := true, stepped := true, park := some { reason := 7, cond := .score } }

/-- `DebugUnit`: comparators that fire in each mode and do not; splits that are stopped and not; detaching, putting back, killing
and sampling. -/
theorem witness_DebugUnit :
    ((small (strandOf [])).comparatorFires (.warp 0 0 0) 2 = false ∧ ∀ mode ∈ [0, 1, 2, 3], ∃ st, (compared mode).strand? (.warp 0 0 0) = some st ∧ 0 < st.splits.length ∧
      (compared mode).comparatorFires (.warp 0 0 0) 2 = true ∧ ((compared mode).comparator (.warp 0 0 0) 2).mode = mode) ∧
    (∀ stop ∈ [true, false], let s := small (strandOf [] fun k => { k with stop := stop })
      s.env = some (envOf s) ∧ (envOf s).k < (envOf s).st.splits.length ∧ (envOf s).sp.stop = stop ∧ (envOf s).sp.stepWaits = false) ∧
    (small (strandOf [] waitingStep)).env = some (envOf (small (strandOf [] waitingStep))) ∧ (envOf (small (strandOf [] waitingStep))).sp.stepWaits = true ∧
    (let st : Strand := { strandOf [] with splits := [{ split0 with exm := 0xF }, {}] }
     (small st).strand? (.warp 0 0 0) = some st ∧ st.freeSplit = some 1 ∧ st.detachable 0 3 = true ∧ st.detachable 0 4 = false ∧ (st.split 0).holdsResult 3 = false ∧
       ((strandOf [] fun k => { k with score := [{ reg := 6, mask := 8 }] }).split 0).holdsResult 3 = true) ∧
    (∃ st, twins.strand? (.warp 0 0 0) = some st ∧ 1 < st.splits.length ∧ (st.split 0).standWith (st.split 1) = true ∧ (st.split 0).exm ≠ 0 ∧ (st.split 1).exm ≠ 0 ∧ (st.split 0).stack = []) ∧
    (∃ x wp, look twins.teams 0 = some x ∧ x.warps[0]? = some wp) ∧
    (∀ i < 1024, State.reset.sampled? 0 i = none) ∧
    (sampledState.calm ∧ (sampledState.sampled? 0 0).isSome = true ∧ (let y := sampledState.ctx 0
      (y.smtail + 2 ^ 32 - leNat (sampledState.homeRead (y.cblk + 0x70) 4).2) % 2 ^ 32 ≠ y.smsize ∧ 0 < y.smsize ∧ y.smbase + 32 * y.smsize ≤ hbmEnd)) := by
  refine ⟨⟨by decide +kernel, ?_⟩, ?_, rfl, by decide +kernel, by decide +kernel, ⟨_, rfl, by decide +kernel⟩, ⟨_, _, rfl, rfl⟩, ?_, calm_of rfl (by decide), by decide +kernel⟩
  · intro m hm
    simp only [List.mem_cons, List.not_mem_nil, or_false] at hm
    rcases hm with rfl | rfl | rfl | rfl <;> exact ⟨_, rfl, by decide +kernel⟩
  · intro stop _
    cases stop <;> exact ⟨rfl, by decide +kernel⟩
  · intro i _
    rfl

/-- `StepKeepsMemoryForm` and `ResetAndStarts`. -/
theorem witness_StepKeepsMemoryForm :
    let s := { writing writeOp with turn := some (.event (.homeWriteRequest 3)) }
    s.memoryWf ∧ (∃ t, step s = .next t) ∧ (left (step s)).mem ≠ [] := by
  intro s
  have h : (match step s with | .next _ => true | _ => false) = true := by decide +kernel
  refine ⟨show Memory.wf s.mem = true by decide +kernel, ?_, by decide +kernel⟩
  cases e : step s <;> simp_all

theorem witness_ResetAndStarts :
    (∃ s : State, s.hub.mode = .starting ∧ s.hub.cold = true) ∧ (∃ s : State, s.hub.mode = .starting ∧ s.hub.cold = false) ∧ State.reset.hub.mode ≠ .starting :=
  ⟨⟨{ hub := { mode := .starting } }, rfl, rfl⟩, ⟨{ hub := { mode := .starting, cold := false } }, rfl, rfl⟩, by decide⟩

/-- R391, R437, R449, R464: what a context's block, a register write and a flit leave. -/
theorem test_hub :
    ((left (exec (.contextCreate 5) (tabled true))).ctx 5).asid = 9 ∧ ((left (exec (.contextCreate 5) (tabled false))).ctx 5).valid = false ∧
    (left (exec (.flitReceive 4 (wire 5)) (ported { st := 2, expect := 5 }))).hub.buffers.length = 1 ∧
    (left (exec (.flitReceive 4 (wire 5 true)) (ported { st := 2, expect := 5 }))).hub.buffers.length = 0 ∧
    ((left (exec (.flitReceive 4 (wire 5)) (ported { st := 2, expect := 5 }))).port 4).expect = 6 ∧ ((left (exec (.flitReceive 4 (wire 6)) (ported { st := 2, expect := 5 }))).port 4).nak = some 5 ∧
    readOr 0 (left (exec (.launchDoorbell 5) (belled 64 true false))).hub.lqstatus 5 = 3 ∧ ((left (exec (.launchDoorbell 5) (belled 0 true false))).ctx 5).queue.length = 1 ∧
    (left (exec (.hostBar2Access 0x7000 (.write [1, 2])) State.reset)).mem = [(0x7000, 1), (0x7001, 2)] ∧ (readOr {} (left (exec (.registerWrite 0x10030 4 0x80010002) State.reset)).hub.groups 3).rank = 1 := by
  decide +kernel

/-! Completion -/

/-- A float operation of one thread without an enabled flag. -/
def floatOp : Alu := { ty := .f32, d := 9, a := 6, b := .reg 7 false, c := 8 }

/-- The launch of `waiting` whose context has an image pool. -/
def placing : State := { waiting 0 with ctxs := [(0, { ctx0 with poolsz := 2 ^ 30 }), (1, ctx0)] }

/-- A band of context 0 that is swapped out, and nothing left to place. -/
def swapped : State :=
  { mem := tables, ctxs := [(0, ctx0)], launches := [(3, { placed := [0] })], nextKey := 9,
    teams := [(0, { core := none, launch := 3, warps := [{ main := strandOf [] fun k => { k with st := .fetch } }] })] }

/-- Two stages; the team of the first is parked, the second has no core yet. -/
def staged : State :=
  { mem := tables, ctxs := [(0, ctx0)], nextKey := 9,
    teams := [(0, { core := some 0, launch := 3, warps := [{ main := strandOf [] fun k => { k with st := .parked, park := some { reason := 4, cond := .queueElement 1 } } }] })],
    launches := [(3, { placed := [0], record := { tmx := 2, stages := [{ entry := 0x10000, teams := 1, roles := [1] }, { entry := 0x20000, teams := 1, roles := [1] }] } })] }

/-- The core on which a step seats a team. -/
def seatOf (o : Out) (k : Nat) : Option (Option Nat) := (look (left o).teams k).map Team.core

/-- R305, R310, R313: a placement, a resumption and a stage review leave teams on and off cores. -/
theorem test_residence :
    ((placing.spend 1).placeNew 0 0).map (fun t => (look t.teams 9).map Team.core) = some (some (some 1)) ∧
    ((swapped.spend 1).resumeBand 0 0).map (fun t => (look t.teams 0).map Team.core) = some (some (some 0)) ∧ seatOf (exec (.stageReview 0) staged) 0 = some none ∧ (look (left (exec (.stageReview 0) staged)).launches 3).map Launch.moved = some [(0, 1)] := by decide +kernel

/-- `Completions`: float instructions without enabled flags; `ldc` in its window; for the rest the states of the witnesses above,
with the job in each state and every answer but one. -/
theorem witness_Completions :
    (∀ i ∈ [Instr.fadd floatOp, .fsub floatOp, .fmul floatOp, .ffma floatOp, .frcp floatOp, .frsq floatOp, .fsqrt floatOp, .fdiv floatOp, .fex2 floatOp, .flg2 floatOp, .fsin floatOp,
        .fcos floatOp, .ftanh floatOp], Meets i (at_ 0x7000) fun s e => enables e.st.sstat = 0 ∧ ∃ b, e.ReadsB floatOp false s s b) ∧
    Meets (.ldc (ldcOf .i32 2 0x1FFFE)) (windowed 1) (fun s e => e.exm {} = 1 ∧ s.window e 2 ≠ 0 ∧ 0x1FFFE + (e.reg 5 0).toNat < 2 ^ 17 ∧
      (passes? e s .read [{ thread := 0, va := (s.window e 2 + BitVec.ofNat 64 (4 * (0x1FFFE + (e.reg 5 0).toNat))).toNat, bytes := 4 }]).isSome = true) ∧
    (∃ x, let s := tasking (taskOf 5 true)
      look s.tasks 7 = some (taskOf 5 true) ∧ look s.teams 0 = some x ∧ (∃ w ∈ x.warps, w.main.live ≠ 0) ∧ s.copies = []) ∧
    ((pending (small (strandOf []))).remote.map Prod.fst = [4]) ∧
    (placing.mayRun 0 = true ∧ (placing.die 0).fenced = false ∧ placing.turnTaken 0 0 = false ∧ (placing.spend 1).swappedBands 0 = [] ∧
      (((placing.spend 1).freshBands 0 0).find? fun n => ((placing.spend 1).planBand n.1 n.2.1 0 n.2.2).isSome).any
        (fun n => ((placing.spend 1).placeBand n.1 n.2.1 0 n.2.2).isSome && (placing.spend 1).poolRoom 0 ((placing.spend 1).bandTeams n.1 n.2.1 0 n.2.2)) = true) ∧
    (swapped.mayRun 0 = true ∧ (swapped.die 0).fenced = false ∧ swapped.turnTaken 0 0 = false ∧ (swapped.spend 1).freshBands 0 0 = [] ∧
      (swapped.spend 1).swappedBands 0 = [[0]] ∧ ((swapped.spend 1).seatAll 0 [0]).isSome = true) ∧
    ((staged.teams.map Prod.fst).Nodup ∧ (staged.stageMoves 0).map (fun m => (m.1, m.2.1, m.2.2.1)) = [(3, 0, 1)]) ∧
    (∀ went ∈ [true, false], ∀ st ∈ [JobSt.run, .stopping, .off, .restoring], ∃ x, let s := gang st fun j => { j with conducts := true, heard := [0], went := went }
      s.jobOf 6 = some (2, x) ∧ s.job 2 = x ∧ s.jobMembers x = some [0, 1] ∧ x.serial = 4 ∧ x.st = st ∧ x.closed = false ∧ x.going = false ∧ x.went = went ∧ x.conducts = true ∧ x.mailbox = false ∧
        x.heard = [0] ∧ s.quiet 6 = true ∧ (s.ctxs.all fun y => y.2.job ≠ 6) = true ∧ s.bufferedOf 6 = [] ∧ s.allMarked x = false) := by
  have h : ∀ i ∈ [Instr.fadd floatOp, .fsub floatOp, .fmul floatOp, .ffma floatOp, .frcp floatOp, .frsq floatOp, .fsqrt floatOp, .fdiv floatOp, .fex2 floatOp, .flg2 floatOp, .fsin floatOp,
      .fcos floatOp, .ftanh floatOp], Meets i (at_ 0x7000) fun _ e => enables e.st.sstat = 0 := meetsAll (by decide +kernel)
  refine ⟨fun i hi => ?_, meets (by decide +kernel), ⟨_, rfl, rfl, by decide +kernel⟩, rfl, by decide +kernel, by decide +kernel, by decide +kernel, ?_⟩
  · obtain ⟨s', e, he, hs⟩ := h i hi
    exact ⟨s', e, he, hs, _, readsB_reg e floatOp s' 7 false rfl⟩
  · intro went _ st hst
    simp only [List.mem_cons, List.not_mem_nil, or_false] at hst
    cases went <;> rcases hst with rfl | rfl | rfl | rfl <;> exact ⟨_, rfl, rfl, by decide +kernel⟩

end Sys2Proof.Tests
end

/-! The machine: every instruction with a word enters through `act`; the causes of its gate in the order of R54; region
entries (R52). -/

namespace Sys2Proof.Machine

/-! ### Entering through `act` -/

/-- The instructions of the INT, FLT and WARP groups, whichever way they compute, enter through `act`. -/
theorem runAlu_eq_act (i : Instr) (o : Alu) (wb : Bool) (body : Env → Mask → (Nat → DWord) → State → State) :
    ∃ b, ∀ s, runAlu i o wb s body = act i s b := ⟨_, fun _ => rfl⟩

theorem arith_eq_act (i : Instr) (o : Alu) (f : Int → Int → Int → Int) : ∃ b, ∀ s, arith i o f s = act i s b :=
  runAlu_eq_act i o _ _

theorem wordOp_eq_act (i : Instr) (o : Alu) (f : Word → Word → Word → Word) : ∃ b, ∀ s, wordOp i o f s = act i s b :=
  runAlu_eq_act i o _ _

theorem divide_eq_act (i : Instr) (o : Alu) (f : Int → Int → Int) : ∃ b, ∀ s, divide i o f s = act i s b :=
  runAlu_eq_act i o _ _

theorem compareInts_eq_act (i : Instr) (o : Alu) : ∃ b, ∀ s, compareInts i o s = act i s b :=
  runAlu_eq_act i o _ _

theorem floatCodes_eq_act (i : Instr) (o : Alu) (f : Nat → Nat → Nat → Nat × Flags) : ∃ b, ∀ s, floatCodes i o f s = act i s b :=
  runAlu_eq_act i o _ _

theorem floatOp_eq_act (i : Instr) (o : Alu) (f : Fp → Fp → Fp → Exact) : ∃ b, ∀ s, floatOp i o f s = act i s b :=
  floatCodes_eq_act i o _

/-- R54: every instruction that has a word is entered through `act`, which makes the checks before its operands are
looked at. The fill word and the events have meanings of their own. -/
theorem exec_eq_act (i : Instr) (h : i.raw.isSome = true) : ∃ body, ∀ s, exec i s = act i s body := by
  cases i with
  | add | sub | mul | mad | neg | abs | min | max | add64 | sub64 => dsimp only [exec]; exact arith_eq_act ..
  | mulh | and | or | xor | andn | orn | not | shl | shr | sra | rot | clz | ctz | popc | brev | bfx | bfi =>
    dsimp only [exec]; exact wordOp_eq_act ..
  | div | rem => dsimp only [exec]; exact divide_eq_act ..
  | cmp | cmp64 => dsimp only [exec]; exact compareInts_eq_act ..
  | addc | subb | mulw | sel | lea | shl64 | shr64 | mov | fcmp | fclass | fscale | fdp2 | cvt | cvtsr | qpk | qupk
  | shfl | vote | bal | redw | scanw | bcast | matchw => dsimp only [exec]; exact runAlu_eq_act ..
  | fadd | fsub | fmul | ffma | frcp | frsq | fsqrt | fdiv | fex2 | flg2 | fsin | fcos | ftanh =>
    dsimp only [exec]; exact floatOp_eq_act ..
  | fmin | fmax | fabs | fneg | frnd => dsimp only [exec]; exact floatCodes_eq_act ..
  | movw | ldc | srd | swr | nop | braUniform | braDivergent | brx | call | calx | ret | join | exit | trap | brk
  | yieldw | wait | prog | ld | st | lds | sts | ldr | str | atom | red | cas | fence | flush | inval | discard | pref
  | icinv | mon | mwait | wcdrain | pdwait | lnext | cpmm | coll | tdset | tdget | tlset | tlst | tlwait | tlfree
  | vclaim | vrel | cpin | cpout | gth | sct | opfence | post | tkwait | tktest | tkfree | fcset | fcpub | fcstat
  | bara | barw | bars | qpush | qpop | rgive | rclaim | sint | ship | sret | tlbinv | replay | ctxkill | xrd | xwr
  | lnch | gsave | grest | cntrd | trial | wfi => dsimp only [exec]; exact ⟨_, fun _ => rfl⟩
  | _ => cases h

/-! ### The causes of R54 steps 6 to 9 -/

/-- R10, R54: an instruction whose gate answers a cause takes the trap at its own address, and nothing else. -/
theorem exec_of_gate {i : Instr} {s : State} {e : Env} {c : Cause} (hr : i.raw.isSome = true) (he : s.env = some e)
    (hs : e.stall i s = none) (hg : gate i e = some c) : exec i s = .next (s.takeTrap e.who (e.trapOf c e.sp.pc)) := by
  obtain ⟨body, hx⟩ := exec_eq_act i hr
  exact (hx s).trans (act_gate body he hs hg)

section
variable {i : Instr} {e : Env}

theorem gate_handlerOnly (h : handlerOnly i = true ∧ e.handler = false) :
    gate i e = some (if e.priv then .illegal else .privileged) := by
  simp [gate, h]

theorem gate_privOnly (hh : ¬(handlerOnly i = true ∧ e.handler = false))
    (h : privOnly i = true ∧ e.priv = false ∧ ¬(e.handler = true ∧ handlerMay i = true)) : gate i e = some .privileged := by
  obtain ⟨hi, hp, hm⟩ := h
  have hm' : (e.handler && handlerMay i) = false := by simpa using hm
  unfold gate
  rw [if_neg (by simpa using hh), if_pos (by simp [hi, hp, hm'])]

variable (hh : ¬(handlerOnly i = true ∧ e.handler = false))
  (hp : ¬(privOnly i = true ∧ e.priv = false ∧ ¬(e.handler = true ∧ handlerMay i = true)))
include hh hp

theorem gate_coreKind (hw : wideOnly i = true ∧ e.lat = true) (hs : (∀ o, i ≠ .ship o) ∨ e.serving = false) :
    gate i e = some .coreKind := by
  unfold gate
  rw [if_neg (by simpa using hh), if_neg (by simpa using hp), if_pos (by simp [hw])]
  split
  · rename_i o
    rw [hs.resolve_left fun hx => hx o rfl]
    rfl
  · rfl

theorem gate_nestedShip (hw : wideOnly i = true ∧ e.lat = true) (hs : ∃ o, i = .ship o) (hv : e.serving = true) :
    gate i e = some .nestedShip := by
  obtain ⟨o, rfl⟩ := hs
  unfold gate
  rw [if_neg (by simpa using hh), if_neg (by simpa using hp), if_pos (by simp [hw]), hv]
  rfl

theorem gate_beyondCount (hw : ¬(wideOnly i = true ∧ e.lat = true)) (hn : e.nreg < regTop i) : gate i e = some .beyondCount := by
  unfold gate
  rw [if_neg (by simpa using hh), if_neg (by simpa using hp), if_neg (by simpa [and_comm] using hw), if_pos hn]

end

/-! ### Region entries -/

/-- R52, R191: a split at a region entry; where its region starts again, what it has consumed stays. -/
def Split.enter (k : Split) : Split := { k with rgn := k.pc, fresh := false, consumes := if k.redo then k.consumes else [] }

/-- R52: a strand one of whose splits may be at a region entry. -/
def Strand.enter (st : Strand) (k : Nat) (re : Bool) : Strand :=
  if re || (st.split k).fresh then st.mapSplit k Split.enter else st

theorem Strand.mapSplit_congr (st : Strand) {k : Nat} {f g : Split → Split} (h : f (st.split k) = g (st.split k)) :
    st.mapSplit k f = st.mapSplit k g := by
  simp only [Strand.mapSplit, h]

theorem State.strand?_mapSplit {s : State} {w : Who} {st : Strand} (f : Split → Split) (h : s.strand? w = some st) :
    (s.mapSplit w f).strand? w = some (st.mapSplit (splitNo w) f) := by
  rw [State.mapSplit, State.strand?_mapStrand, h, Option.map_some]

/-- A change of a team that keeps its warps is seen by no strand. -/
theorem State.strand?_mapTeam (s : State) (n : Nat) (f : Team → Team) (w : Who) (hf : ∀ x, (f x).warps = x.warps) :
    (s.mapTeam n f).strand? w = s.strand? w := by
  have key : ∀ {α : Type} (g : List Warp → Option α) (t : Nat),
      (look (s.mapTeam n f).teams t).bind (fun x => g x.warps) = (look s.teams t).bind fun x => g x.warps := by
    intro α g t
    by_cases ht : t = n
    · subst ht
      rw [look_mapTeam]
      cases look s.teams t with
      | none => rfl
      | some x => exact congrArg g (hf x)
    · exact congrArg (Option.bind · _) (look_adjust_ne _ _ ht)
  cases w with
  | warp t k _ => exact key (fun ws => ws[k]?.map Warp.main) t
  | handler t k => exact key (fun ws => ws[k]?.bind Warp.handler) t
  | lat _ _ => rfl

theorem State.strand?_freeTokens (s : State) (w : Who) (vs : List Word) (v : Who) :
    (s.freeTokens w vs).strand? v = s.strand? v := by
  cases w with
  | warp t _ _ => exact s.strand?_mapTeam t _ v fun _ => rfl
  | handler t _ => exact s.strand?_mapTeam t _ v fun _ => rfl
  | lat _ _ => rfl

@[simp] theorem State.freeTokens_mem (s : State) (w : Who) (vs : List Word) : (s.freeTokens w vs).mem = s.mem := by cases w <;> rfl
@[simp] theorem State.freeTokens_ctxs (s : State) (w : Who) (vs : List Word) : (s.freeTokens w vs).ctxs = s.ctxs := by cases w <;> rfl
@[simp] theorem State.freeTokens_cores (s : State) (w : Who) (vs : List Word) : (s.freeTokens w vs).cores = s.cores := by cases w <;> rfl
@[simp] theorem State.freeTokens_dies (s : State) (w : Who) (vs : List Word) : (s.freeTokens w vs).dies = s.dies := by cases w <;> rfl
@[simp] theorem State.freeTokens_hub (s : State) (w : Who) (vs : List Word) : (s.freeTokens w vs).hub = s.hub := by cases w <;> rfl

/-- A change of a strand leaves the tokens of every team. -/
theorem State.tokens_mapStrand (s : State) (w : Who) (f : Strand → Strand) {n : Nat} {x : Team} (h : look s.teams n = some x) :
    ∃ y, look (s.mapStrand w f).teams n = some y ∧ y.tokens = x.tokens := by
  have key : ∀ (t k : Nat) (g : Warp → Warp), ∃ y, look (s.mapWarp t k g).teams n = some y ∧ y.tokens = x.tokens := by
    intro t k g
    by_cases ht : n = t
    · subst ht
      refine ⟨x.mapWarp k g, by rw [State.mapWarp, look_mapTeam, h, Option.map_some], ?_⟩
      unfold Team.mapWarp
      split <;> rfl
    · exact ⟨x, (look_adjust_ne _ _ ht).trans h, rfl⟩
  cases w with
  | warp t k _ => exact key t k _
  | handler t k => exact key t k _
  | lat _ _ => exact ⟨x, h, rfl⟩

section
variable {s : State} {w : Who} {st : Strand}

theorem State.enterRegion_of_inside (h : s.strand? w = some st) (hf : (st.split (splitNo w)).fresh = false) :
    s.enterRegion w false = s := by
  simp [State.enterRegion, h, hf]

/-- R191: where a region starts again, only the split changes. -/
theorem State.enterRegion_of_redo {re : Bool} (h : s.strand? w = some st) (hr : (st.split (splitNo w)).redo = true) :
    s.enterRegion w re = s ∨ s.enterRegion w re = s.mapSplit w fun k => { k with rgn := k.pc, fresh := false } := by
  simp only [State.enterRegion, h, hr, if_true]
  split
  · exact .inr rfl
  · exact .inl rfl

theorem State.strand?_enterRegion (re : Bool) (h : s.strand? w = some st) :
    (s.enterRegion w re).strand? w = some (st.enter (splitNo w) re) := by
  simp only [State.enterRegion, Strand.enter, h]
  split
  · split
    · rename_i hr
      rw [State.strand?_mapSplit _ h]
      exact congrArg some (st.mapSplit_congr (by simp [Split.enter, hr]))
    · rename_i hr
      rw [State.strand?_freeTokens, State.strand?_mapSplit _ h]
      exact congrArg some (st.mapSplit_congr (by simp [Split.enter, hr]))
  · exact h

end

/-- R52: what a region entry leaves of the machine beside the teams and the strands of the latency cores. -/
theorem State.enterRegion_frame (s : State) (w : Who) (re : Bool) :
    (s.enterRegion w re).mem = s.mem ∧ (s.enterRegion w re).ctxs = s.ctxs ∧ (s.enterRegion w re).cores = s.cores ∧
      (s.enterRegion w re).dies = s.dies ∧ (s.enterRegion w re).hub = s.hub := by
  unfold State.enterRegion
  split
  · exact ⟨rfl, rfl, rfl, rfl, rfl⟩
  · dsimp only
    split
    · split <;> simp
    · exact ⟨rfl, rfl, rfl, rfl, rfl⟩

/-! ### What a region entry does to the strand -/

section
variable (st : Strand) (k : Nat) (re : Bool)

theorem Strand.enter_frame : (st.enter k re).regs = st.regs ∧ (st.enter k re).sstat = st.sstat ∧ (st.enter k re).aside = st.aside := by
  unfold Strand.enter
  split <;> exact ⟨rfl, rfl, rfl⟩

theorem Strand.split_enter_ne {j : Nat} (h : j ≠ k) : (st.enter k re).split j = st.split j := by
  unfold Strand.enter
  split
  · exact st.split_mapSplit_ne _ h
  · rfl

variable {st k} (h : k < st.splits.length)
include h

theorem Strand.split_enter_self :
    (st.enter k re).split k = if re || (st.split k).fresh then (st.split k).enter else st.split k := by
  unfold Strand.enter
  split
  · exact st.split_mapSplit_self _ _ h
  · rfl

theorem Strand.enter_pc_exm : ((st.enter k re).split k).pc = (st.split k).pc ∧ ((st.enter k re).split k).exm = (st.split k).exm := by
  rw [Strand.split_enter_self re h]
  split <;> exact ⟨rfl, rfl⟩

theorem Strand.enter_consumes (hr : (st.split k).redo = true) : ((st.enter k re).split k).consumes = (st.split k).consumes := by
  rw [Strand.split_enter_self re h]
  split
  · exact if_pos hr
  · rfl

theorem Strand.enter_rgn (he : re = true ∨ (st.split k).fresh = true) :
    ((st.enter k re).split k).rgn = (st.split k).pc ∧ ((st.enter k re).split k).fresh = false := by
  rw [Strand.split_enter_self re h, if_pos (by simpa using he)]
  exact ⟨rfl, rfl⟩

end

/-- Settles O5: an instruction enters through `act`, whose gate tries the causes in the order of R54; a region entry
changes one split, and tokens where the region does not start again. -/
theorem gateChecksAndRegions : Obligations.GateChecksAndRegions := by
  refine ⟨fun i s e hr he hs => ?_, fun s w re st hst hlen => ?_⟩
  · have raises : ∀ {c}, gate i e = some c → _ := exec_of_gate hr he hs
    exact ⟨fun ho => raises (gate_handlerOnly ho), fun ho hf => raises (gate_privOnly ho hf),
      fun ho hf hw hs => raises (gate_coreKind ho hf hw hs), fun ho hf hw hs hv => raises (gate_nestedShip ho hf hw hs hv),
      fun ho hf hw hn => raises (gate_beyondCount ho hf hw hn)⟩
  · obtain ⟨hregs, hsstat, haside⟩ := st.enter_frame (splitNo w) re
    obtain ⟨hpc, hexm⟩ := Strand.enter_pc_exm re hlen
    have hent := State.strand?_enterRegion re hst
    refine ⟨?_, fun hr => ⟨_, hent, Strand.enter_consumes re hlen hr, ?_⟩, _, hent, ?_, hsstat, haside,
      Strand.enter_rgn re hlen, hpc, hexm, fun j hj => st.split_enter_ne _ re hj, s.enterRegion_frame w re⟩
    · rintro rfl hf
      exact State.enterRegion_of_inside hst hf
    · obtain h | h := State.enterRegion_of_redo (re := re) hst hr <;> rw [h]
      · exact ⟨rfl, fun i x hx => ⟨x, hx, rfl⟩⟩
      · exact ⟨s.mapSplit_tasks .., fun i x hx => s.tokens_mapStrand w _ hx⟩
    · intro n u _
      simp only [Strand.reg, hregs]

end Sys2Proof.Machine

/-! Instruction words (R29 to R34, R53, R54, R73): the fields of a word fill it up to its length, and the decoder
reads back the instruction whose fields they are. -/

namespace Sys2Proof

open Laws.Fields

/-! ### Fields and words -/

/-- R29: an extension lies within the length. -/
def Raw.Fits (r : Raw) : Prop := r.x.toNat < 2 ^ (8 * lenBytes r.len - 64)

/-- R33: bits [63:0] of the word of a set of fields. -/
def Raw.header (r : Raw) : BitVec 64 :=
  r.f ++ r.c ++ BitVec.ofBool r.ub ++ BitVec.ofBool r.ua ++ BitVec.ofBool r.gn ++ r.g ++ r.b ++ r.a ++
    r.d ++ r.op ++ BitVec.ofBool r.re ++ BitVec.ofBool r.sw ++ r.len

theorem Raw.pack_eq_append (r : Raw) : r.pack = r.x ++ r.header := by
  simp only [Raw.pack, Raw.header, BitVec.append_assoc, BitVec.cast_eq]

theorem Raw.toNat_pack (r : Raw) : r.pack.toNat = r.x.toNat * 2 ^ 64 + r.header.toNat := by
  rw [Raw.pack_eq_append, BitVec.toNat_append, ← Nat.shiftLeft_add_eq_or_of_lt r.header.isLt, Nat.shiftLeft_eq]

/-- Two fields that stand side by side are one field. -/
theorem extract_join {w : Nat} (x : BitVec w) {j k m : Nat} (n : Nat) (h : j = k + m) :
    x.extractLsb' j n ++ x.extractLsb' k m = x.extractLsb' k (n + m) := by
  subst h
  ext i hi
  simp only [BitVec.getElem_extractLsb', BitVec.getElem_append]
  split
  · rfl
  · congr 1; omega

theorem ofBool_getLsbD {w : Nat} (x : BitVec w) (k : Nat) : BitVec.ofBool (x.getLsbD k) = x.extractLsb' k 1 := by
  ext i hi
  obtain rfl : i = 0 := by omega
  simp

theorem Raw.header_unpack (w : BitVec 128) : (Raw.unpack w).header = w.extractLsb' 0 64 := by
  simp (disch := rfl) only [Raw.header, Raw.unpack, ofBool_getLsbD, extract_join]

/-- R29: the word of the fields that have been read from a word, up to the bits beyond its length. -/
theorem Raw.toNat_pack_unpack (w : BitVec 128) (hl : (Raw.unpack w).len ≠ 3) :
    (Raw.unpack w).pack.toNat = w.toNat % 2 ^ (8 * lenBytes (Raw.unpack w).len) := by
  rw [Raw.toNat_pack, Raw.header_unpack]
  simp only [Raw.unpack] at hl ⊢
  have hw := w.isLt
  generalize w.extractLsb' 0 2 = l at hl
  match l with
  | 0 => simp [lenBytes]
  | 1 => simp [lenBytes]; omega
  | 2 => simp [lenBytes]; omega
  | 3 => exact absurd rfl hl

/-- R29: the bits of the extension that a length takes. -/
theorem Raw.Fits.extension {r : Raw} (h : r.Fits) (hl : r.len ≠ 3) :
    (match r.len.toNat with | 0 => 0 | 1 => (r.x.extractLsb' 0 32).setWidth 64 | _ => r.x) = r.x := by
  unfold Raw.Fits at h
  generalize r.len = l at h hl
  apply BitVec.eq_of_toNat_eq
  match l with
  | 0 =>
    have hx : r.x.toNat < 1 := h
    exact (Nat.lt_one_iff.mp hx).symm
  | 1 =>
    have hx : r.x.toNat < 2 ^ 32 := h
    simp
    omega
  | 2 => rfl
  | 3 => exact absurd rfl hl

theorem Raw.unpack_pack {r : Raw} (h : r.Fits) (hl : r.len ≠ 3) : Raw.unpack r.pack = r := by
  have hx := h.extension hl
  obtain ⟨len, sw, re, op, d, a, b, g, gn, ua, ub, c, f, x⟩ := r
  dsimp only at hx
  simp (disch := omega) only [Raw.unpack, Raw.pack, extract_low, extract_high, bit_low, bit_high, extract_all, bit_ofBool,
    Nat.reduceSub]
  exact congrArg _ hx


/-! ### Fields and instructions -/

/-- R33, R73: the fields of an instruction's word name the instruction, whichever it is. -/
theorem Raw.instr_of_raw {i : Instr} {r : Raw} (h : i.raw = some r) : r.instr = some i := by
  have fields : Statement i := by
    cases i with
    | add | addc | sub | subb | mul | mulh | mulw | mad | div | rem | neg | abs | min | max | and | or | xor | andn | orn | not
    | shl | shr | sra | rot | clz | ctz | popc | brev | bfx | bfi | sel | cmp | lea | add64 | sub64 | shl64 | shr64 | cmp64 | mov
    | ldc | fadd | fsub | fmul | ffma | fmin | fmax | fabs | fneg | fcmp | frcp | frsq | fsqrt | fdiv | fex2 | flg2 | fsin | fcos
    | ftanh | fclass | frnd | fscale | fdp2 | cvt | cvtsr | qpk | qupk | shfl | vote | bal | redw | scanw | bcast | matchw =>
      exact fields_alu rfl rfl
    | ld | st | lds | sts | ldr | str | atom | red | cas | fence | flush | inval | discard | pref | icinv | mon | mwait | wcdrain
    | pdwait | lnext => exact fields_mem rfl rfl (fun _ => rfl) rfl
    | movw => exact movw _ _ _
    | srd => exact srd _ _ _
    | swr => exact swr _ _ _ _
    | nop => exact nop _
    | braUniform => exact braUniform _ _
    | braDivergent => exact braDivergent _ _ _
    | brx => exact brx _ _ _
    | call => exact call _ _
    | calx => exact calx _ _ _
    | ret => exact ret _ _ _
    | join => exact join _
    | exit => exact exit _
    | trap => exact trap _ _
    | brk => exact brk _ _
    | yieldw => exact yieldw _
    | wait => exact wait _ _
    | prog => exact prog _ _
    | cpmm => exact cpmm _
    | coll => exact coll _
    | tdset => exact tdset _ _ _
    | tdget => exact tdget _ _ _
    | tlset => exact tlset _ _ _
    | tlst => exact tlst _ _ _
    | tlwait => exact tlwait _ _ _
    | tlfree => exact tlfree _ _
    | vclaim => exact vclaim _ _ _
    | vrel => exact vrel _ _
    | cpin => exact cpin _
    | cpout => exact cpout _
    | gth => exact gth _
    | sct => exact sct _
    | opfence => exact opfence _
    | post => exact post _ _ _ _
    | tkwait => exact tkwait _ _ _ _
    | tktest => exact tktest _ _ _
    | tkfree => exact tkfree _ _
    | fcset => exact fcset _ _ _
    | fcpub => exact fcpub _ _ _
    | fcstat => exact fcstat _ _ _
    | bara => exact bara _ _ _ _ _
    | barw => exact barw _ _ _
    | bars => exact bars _ _ _ _ _
    | qpush => exact qpush _ _ _ _ _ _
    | qpop => exact qpop _ _ _ _ _ _
    | rgive => exact rgive _ _
    | rclaim => exact rclaim _ _ _ _
    | sint => exact sint _ _ _
    | ship => exact ship _
    | sret => exact sret _ _
    | tlbinv => exact tlbinv _ _ _ _
    | replay => exact replay _ _ _ _
    | ctxkill => exact ctxkill _ _
    | xrd => exact xrd _ _ _ _
    | xwr => exact xwr _ _ _ _ _
    | lnch => exact lnch _ _ _
    | gsave => exact gsave _ _ _
    | grest => exact grest _ _ _
    | cntrd => exact cntrd _ _ _ _
    | trial => exact trial _ _ _
    | wfi => exact wfi _ _ _
    | _ => exact fields_event rfl
  exact fields r h

/-! ### Lengths and forms -/

/-- R73: no entry of the opcode map has the length of a fill word. -/
theorem len_ne_of_mem_forms {l : BitVec 2} {op : BitVec 9} (h : l ∈ forms op) : l ≠ 3 := by
  rintro rfl
  unfold forms at h
  split at h
  · rename_i r _
    cases r.f64 <;> cases r.f96 <;> simp at h
  · split at h <;> simp at h

/-- R29, R73: the fields stand in a form of their opcode, the extension within the length. -/
def Raw.Formed (r : Raw) : Prop := r.Fits ∧ r.len ∈ forms r.op

theorem Raw.fits_of_no_extension {r : Raw} (hx : r.x = 0) : r.Fits := by
  simp [Raw.Fits, hx]

theorem Raw.fits_of_setWidth {r : Raw} {n : Nat} (v : BitVec n) (hx : r.x = v.setWidth 64) (hl : r.len = 1) (hn : n ≤ 32) :
    r.Fits := by
  unfold Raw.Fits
  rw [hx, hl, BitVec.toNat_setWidth]
  calc v.toNat % 2 ^ 64 ≤ v.toNat := Nat.mod_le _ _
    _ < 2 ^ n := v.isLt
    _ ≤ 2 ^ 32 := Nat.pow_le_pow_right (by decide) hn

theorem Raw.fits_of_long {r : Raw} (hl : r.len = 2) : r.Fits := by
  unfold Raw.Fits
  rw [hl]
  exact r.x.isLt

theorem Alu.formed {op : BitVec 9} {o : Alu} (h : o.ok op = true) : (o.raw op).Formed := by
  unfold Alu.ok at h
  split at h
  · cases h
  · rename_i row hrow
    simp only [Bool.and_eq_true] at h
    cases hb : o.b with
    | reg b u =>
      have hf : row.f64 = true := by grind
      exact ⟨Raw.fits_of_no_extension (by simp [Alu.raw, hb, Pre.raw]), by simp [Alu.raw, hb, Pre.raw, forms, hrow, hf]⟩
    | imm x =>
      have hf : row.f96 = true := by grind
      exact ⟨Raw.fits_of_setWidth x (by simp [Alu.raw, hb]) (by simp [Alu.raw, hb, Pre.raw]) (by decide),
        by simp [Alu.raw, hb, Pre.raw, forms, hrow, hf]⟩
    | const w e =>
      have hf : row.f96 = true := by grind
      exact ⟨Raw.fits_of_setWidth (e ++ w) (by simp [Alu.raw, hb]) (by simp [Alu.raw, hb, Pre.raw]) (by decide),
        by simp [Alu.raw, hb, Pre.raw, forms, hrow, hf]⟩

theorem Mem.formed_short {op : BitVec 9} {o : Mem} (hx : o.x = none) (hf : (forms op).contains 0 = true) : (o.raw op).Formed :=
  ⟨Raw.fits_of_no_extension (by simp [Mem.raw, hx, Pre.raw]), by simpa [Mem.raw, hx, Pre.raw] using hf⟩

theorem Mem.formed_either {op : BitVec 9} {o : Mem} (h0 : (forms op).contains 0 = true) (h1 : (forms op).contains 1 = true) :
    (o.raw op).Formed := by
  cases hx : o.x with
  | none => exact Mem.formed_short hx h0
  | some x =>
    exact ⟨Raw.fits_of_setWidth x (by simp [Mem.raw, hx]) (by simp [Mem.raw, hx]) (by decide), by simpa [Mem.raw, hx, Pre.raw] using h1⟩

/-- R266: a MEM instruction that has no 96-bit form has no displacement. -/
theorem Mem.x_of_ok {op : BitVec 9} {o : Mem} (ho : op.toNat ∈ [0x0C9, 0x0CE, 0x0D1, 0x0D2, 0x0D3]) (h : o.ok op = true) : o.x = none := by
  unfold Mem.ok at h
  simp only [List.mem_cons, List.not_mem_nil, or_false] at ho
  rcases ho with ho | ho | ho | ho | ho <;> simp [ho] at h <;> simp [h]

theorem Instr.formed_of_memView {i : Instr} {op : BitVec 9} {o : Mem} (hv : i.memView = some (op, o)) (h : o.ok op = true) :
    (o.raw op).Formed := by
  cases i with
  | ld | st | lds | sts | ldr | str | atom | red | cas | flush | inval | discard | pref | mon | mwait =>
    cases hv
    exact Mem.formed_either rfl rfl
  | fence | icinv | wcdrain | pdwait | lnext =>
    cases hv
    exact Mem.formed_short (Mem.x_of_ok (by decide) h) rfl
  | _ => cases hv

theorem Num.formed_put {n : Num} {r : Raw} (hx : r.x = 0) (h0 : (forms r.op).contains 0 = true) (h1 : (forms r.op).contains 1 = true) :
    (n.put r).Formed := by
  cases n with
  | reg b => exact ⟨Raw.fits_of_no_extension hx, by simpa [Num.put] using h0⟩
  | imm x => exact ⟨Raw.fits_of_setWidth x rfl rfl (by decide), by simpa [Num.put] using h1⟩

theorem Instr.formed_of_rawOther {i : Instr} {r : Raw} (h : i.rawOther = some r) : r.Formed := by
  have short : ∀ {r : Raw}, r.x = 0 → (forms r.op).contains r.len = true → r.Formed :=
    fun hx hf => ⟨Raw.fits_of_no_extension hx, List.mem_of_elem_eq_true hf⟩
  have long : ∀ {r : Raw}, r.len = 2 → (forms r.op).contains r.len = true → r.Formed :=
    fun hl hf => ⟨Raw.fits_of_long hl, List.mem_of_elem_eq_true hf⟩
  have middle : ∀ {r : Raw} {n : Nat} (v : BitVec n), r.x = v.setWidth 64 → r.len = 1 → n ≤ 32 →
      (forms r.op).contains r.len = true → r.Formed :=
    fun v hx hl hn hf => ⟨Raw.fits_of_setWidth v hx hl hn, List.mem_of_elem_eq_true hf⟩
  cases i with
  | nop | brx | calx | ret | join | exit | brk | yieldw | tdset | tdget | tlst | tlwait | tlfree | vclaim | vrel | opfence | post
  | tkwait | tktest | tkfree | fcpub | fcstat | barw | qpush | qpop | sint | sret | replay | ctxkill | xrd | xwr | lnch | gsave
  | grest | wfi =>
    cases h
    exact short rfl rfl
  | movw | braDivergent | cpmm | coll | cpin | cpout | gth | sct =>
    cases h
    exact long rfl rfl
  | srd _ _ v | swr _ _ _ v | braUniform _ v | call _ v | trap _ v =>
    cases h
    exact middle v rfl rfl (by decide) rfl
  | ship o =>
    cases h
    exact middle o.x rfl rfl (by decide) rfl
  | wait | prog | tlset | fcset | bara | bars | rgive | rclaim | tlbinv | cntrd =>
    cases h
    exact Num.formed_put rfl rfl rfl
  | trial _ _ ctx =>
    cases ctx with
    | none => cases h; exact short rfl rfl
    | some n => cases h; exact Num.formed_put rfl rfl rfl
  | _ => cases h

/-- R29, R73: the word of a well-formed instruction stands in a form of its opcode. -/
theorem Instr.formed_of_raw {i : Instr} {r : Raw} (h : i.raw = some r) (hw : i.wellFormed = true) : r.Formed := by
  unfold Instr.raw at h
  unfold Instr.wellFormed at hw
  cases ha : i.aluView with
  | some v =>
    obtain ⟨op, o⟩ := v
    simp only [ha, Option.some.injEq] at h hw
    exact h ▸ Alu.formed hw
  | none =>
    cases hm : i.memView with
    | some v =>
      obtain ⟨op, o⟩ := v
      simp only [ha, hm, Option.some.injEq] at h hw
      exact h ▸ Instr.formed_of_memView hm hw
    | none =>
      simp only [ha, hm] at h
      exact Instr.formed_of_rawOther h

/-! ### Decoding -/

theorem encode_of_raw {i : Instr} {r : Raw} (h : i.raw = some r) : encode i = some (lenBytes r.len, r.pack) := by
  unfold encode
  split
  · cases h
  · rw [h, Option.map_some]

theorem raw_of_encode {i : Instr} {bytes : Nat} {w : BitVec 128} (hi : i ≠ .fillWord) (h : encode i = some (bytes, w)) :
    ∃ r, i.raw = some r ∧ bytes = lenBytes r.len ∧ w = r.pack := by
  unfold encode at h
  split at h
  · exact absurd rfl hi
  · obtain ⟨r, hr, he⟩ := Option.map_eq_some_iff.mp h
    cases he
    exact ⟨r, hr, rfl, rfl⟩

/-- R32: a fill word is read wherever it lies. -/
theorem decodeWord_fill {off : Nat} (h : off + 4 ≤ 32) : decodeWord off 3 = .instr .fillWord 4 := by
  have hl : ¬off + lenBytes (Raw.unpack 3).len > 32 := Nat.not_lt.mpr h
  simp only [decodeWord, if_neg hl]
  rfl

/-- R53, R54: the decoder reads the instruction whose fields a word has. -/
theorem decodeWord_of_raw {i : Instr} {off : Nat} {w : BitVec 128} (hraw : i.raw = some (Raw.unpack w)) (hw : i.wellFormed = true)
    (hoff : off + lenBytes (Raw.unpack w).len ≤ 32) : decodeWord off w = .instr i (lenBytes (Raw.unpack w).len) := by
  obtain ⟨-, hform⟩ := Instr.formed_of_raw hraw hw
  have hlen : (Raw.unpack w).len ≠ 3#2 := len_ne_of_mem_forms hform
  simp [decodeWord, Nat.not_lt.mpr hoff, hlen, List.ne_nil_of_mem hform, hform, Raw.instr_of_raw hraw, hw, hraw]

/-- R53, R54: what the decoder reads is a fill word, or the instruction whose fields the word has. -/
theorem decodeWord_eq_instr {i : Instr} {off bytes : Nat} {w : BitVec 128} (h : decodeWord off w = .instr i bytes) :
    off + bytes ≤ 32 ∧
    ((i = .fillWord ∧ bytes = 4 ∧ w.extractLsb' 0 32 = 3) ∨
     ((Raw.unpack w).len ≠ 3 ∧ bytes = lenBytes (Raw.unpack w).len ∧ i.wellFormed = true ∧ i.raw = some (Raw.unpack w))) := by
  unfold decodeWord at h
  dsimp only at h
  split at h
  · cases h
  · rename_i hoff
    split at h
    · rename_i hl
      split at h
      · rename_i hf
        cases h
        rw [beq_iff_eq.mp hl] at hoff
        exact ⟨Nat.not_lt.mp hoff, .inl ⟨rfl, rfl, beq_iff_eq.mp hf⟩⟩
      · cases h
    · rename_i hl
      split at h
      · cases h
      · split at h
        · cases h
        · split at h
          · cases h
          · split at h
            · rename_i hi
              cases h
              obtain ⟨hw, hr⟩ := (Bool.and_eq_true _ _).mp hi
              exact ⟨Nat.not_lt.mp hoff, .inr ⟨by simpa using hl, rfl, hw, beq_iff_eq.mp hr⟩⟩
            · cases h

/-- Settles O2: the fields of the instruction fill its word, and the decoder reads them back. -/
theorem decodeEncode : Obligations.DecodeEncode := by
  intro i bytes w hw he off hoff
  by_cases hi : i = .fillWord
  · subst hi
    cases he
    exact decodeWord_fill hoff
  · obtain ⟨r, hr, rfl, rfl⟩ := raw_of_encode hi he
    obtain ⟨hfits, hform⟩ := Instr.formed_of_raw hr hw
    have hu := Raw.unpack_pack hfits (len_ne_of_mem_forms hform)
    have hd := decodeWord_of_raw (i := i) (off := off) (w := r.pack) (by rw [hu, hr]) hw (by rw [hu]; exact hoff)
    rwa [hu] at hd

theorem lenBytes_cases (l : BitVec 2) : lenBytes l = 4 ∨ lenBytes l = 8 ∨ lenBytes l = 12 ∨ lenBytes l = 16 := by
  unfold lenBytes
  split <;> simp

/-- Settles O3: the decoder answers only an instruction whose fields it has read. -/
theorem encodeDecode : Obligations.EncodeDecode := by
  intro off w i bytes h
  obtain ⟨hoff, ⟨rfl, rfl, hf⟩ | ⟨hl, rfl, hw, hr⟩⟩ := decodeWord_eq_instr h
  · refine ⟨hoff, .inl rfl, 3, rfl, ?_, fun hn => absurd rfl hn⟩
    simpa [BitVec.extractLsb'_toNat] using (congrArg BitVec.toNat hf).symm
  · exact ⟨hoff, lenBytes_cases _, _, encode_of_raw hr, Raw.toNat_pack_unpack w hl, fun _ => hw⟩

end Sys2Proof

/-! Words that are no instruction (R53 to R55), and the turn of a strand (R54, R314, R384). -/

namespace Sys2Proof

/-! ### Rejected words -/

section
variable {off : Nat} {w : BitVec 128}

theorem decodeWord_crossing (h : 32 < off + lenBytes (w.extractLsb' 0 2)) : decodeWord off w = .reject .crossing :=
  if_pos h

theorem decodeWord_badFill (h : off + 4 ≤ 32) (hl : w.extractLsb' 0 2 = 3#2) (hw : w.extractLsb' 0 32 ≠ 3#32) :
    decodeWord off w = .reject .badFill := by
  have hc : ¬off + lenBytes 3#2 > 32 := by simpa [lenBytes] using h
  simp only [decodeWord, Raw.unpack, hl, if_neg hc]
  simp [hw]

theorem decodeWord_unlisted (h : off + lenBytes (w.extractLsb' 0 2) ≤ 32) (hl : w.extractLsb' 0 2 ≠ 3#2)
    (hf : forms (w.extractLsb' 4 9) = []) : decodeWord off w = .reject .unlisted := by
  simp [decodeWord, Raw.unpack, Nat.not_lt.mpr h, hl, hf]

theorem decodeWord_undefinedForm (h : off + lenBytes (w.extractLsb' 0 2) ≤ 32) (hl : w.extractLsb' 0 2 ≠ 3#2)
    (hf : forms (w.extractLsb' 4 9) ≠ []) (hm : w.extractLsb' 0 2 ∉ forms (w.extractLsb' 4 9)) :
    decodeWord off w = .reject .undefinedForm := by
  simp [decodeWord, Raw.unpack, Nat.not_lt.mpr h, hl, hf, hm]

end

/-- Settles O1: the manual's words by evaluation, the rejections by the order in which the decoder tries them. -/
theorem decodedAndRejectedWords : Obligations.DecodedAndRejectedWords := by
  refine ⟨by decide +kernel, fun _ _ => decodeWord_crossing, fun _ _ => decodeWord_badFill, fun _ _ => decodeWord_unlisted,
    fun _ _ => decodeWord_undefinedForm, ?_⟩
  decide +kernel

namespace Machine

/-! ### What issue counts -/

/-- A strand has the registers of another one, and its split n the place and the threads. -/
def Strand.SameAt (n : Nat) (st st' : Strand) : Prop :=
  st'.regs = st.regs ∧ (st'.split n).pc = (st.split n).pc ∧ (st'.split n).exm = (st.split n).exm

/-- What a change of a split keeps of every split, it keeps of each split of the strand. -/
theorem Strand.split_mapSplit_of_keeps {α : Type} (st : Strand) (k j : Nat) {f : Split → Split} (g : Split → α)
    (hf : ∀ x, g (f x) = g x) : g ((st.mapSplit k f).split j) = g (st.split j) := by
  by_cases hj : j = k
  · subst hj
    by_cases hlen : j < st.splits.length
    · rw [st.split_mapSplit_self j f hlen, hf]
    · simp only [Strand.mapSplit, Strand.split, List.getD_eq_getElem?_getD]
      rw [List.getElem?_eq_none (by rw [length_setNth]; omega), List.getElem?_eq_none (by omega)]
  · rw [st.split_mapSplit_ne f hj]

theorem Strand.SameAt.mapSplit {n : Nat} {st st' : Strand} (h : st.SameAt n st') {f : Split → Split}
    (hf : ∀ k, (f k).pc = k.pc ∧ (f k).exm = k.exm) : st.SameAt n (st'.mapSplit n f) := by
  obtain ⟨hr, hpc, hexm⟩ := h
  exact ⟨hr, (st'.split_mapSplit_of_keeps n n Split.pc fun k => (hf k).1).trans hpc,
    (st'.split_mapSplit_of_keeps n n Split.exm fun k => (hf k).2).trans hexm⟩

/-- The strand of an actor is there with the registers of `st`, and its split with place and threads; the actor is in focus, and
memory is `m`. -/
def State.Holds (s : State) (w : Who) (st : Strand) (m : List Host.Cell) : Prop :=
  s.focus = w ∧ s.mem = m ∧ ∃ st', s.strand? w = some st' ∧ st.SameAt (splitNo w) st'

section
variable {s : State} {w : Who} {st : Strand} {m : List Host.Cell} (h : s.Holds w st m)
include h

theorem State.Holds.mapSplit {f : Split → Split} (hf : ∀ k, (f k).pc = k.pc ∧ (f k).exm = k.exm) : (s.mapSplit w f).Holds w st m := by
  obtain ⟨hw, hm, st', hst, hs⟩ := h
  exact ⟨by rw [State.mapSplit_focus, hw], by rw [State.mapSplit_mem, hm], _, State.strand?_mapSplit f hst, hs.mapSplit hf⟩

theorem State.Holds.setCtx (c : Nat) (x : Ctx) : (s.setCtx c x).Holds w st m := by
  obtain ⟨hw, hm, st', hst, hs⟩ := h
  exact ⟨hw, hm, st', by rw [← hst]; cases w <;> rfl, hs⟩

theorem State.Holds.setCore (c : Nat) (x : Core) : (s.setCore c x).Holds w st m := by
  obtain ⟨hw, hm, st', hst, hs⟩ := h
  exact ⟨hw, hm, st', by rw [← hst]; cases w <;> rfl, hs⟩

theorem State.Holds.count (d c code n : Nat) : (s.count d c code n).Holds w st m := by
  unfold State.count
  dsimp only
  split
  · exact h
  · split
    · exact h
    · exact h.setCtx _ _

theorem State.Holds.onLane (pc : DWord) : (s.onLane w pc).Holds w st m := by
  unfold State.onLane
  split
  · split
    · exact h.setCore _ _
    · exact h
  · split
    · exact h.setCore _ _
    · exact h
  · exact h

theorem State.Holds.charge (k : Split) (clocks : Nat) : (s.charge w k clocks).Holds w st m := by
  unfold State.charge
  dsimp only
  split
  · split
    · exact (h.setCtx _ _).mapSplit fun _ => ⟨rfl, rfl⟩
    · exact h
  · exact h

theorem State.Holds.counted (k : Split) (i : Instr) : (s.counted w k i).Holds w st m :=
  (((((h.count _ _ _ _).count _ _ _ _).count _ _ _ _).onLane _).charge _ _).mapSplit fun _ => ⟨rfl, rfl⟩

end

/-- R384, R389: an instruction takes its effect with its strand in focus and as it was; memory is as it was. -/
theorem State.holds_issuing {s : State} {w : Who} {st : Strand} (k : Split) (i : Instr) (h : s.strand? w = some st) :
    (s.issuing w k i).Holds w st s.mem := by
  have hs : ({ s with focus := w } : State).Holds w st s.mem := ⟨rfl, rfl, st, by rw [← h]; cases w <;> rfl, rfl, rfl, rfl⟩
  unfold State.issuing
  dsimp only
  split
  · exact hs
  · split
    · exact hs.mapSplit fun _ => ⟨rfl, rfl⟩
    · exact hs.counted k i

/-! ### The turn of a strand -/

theorem step_of_turn {s : State} {w : Who} (h : s.turn = some (.issue w)) : step s = issue w { s with turn := none } := by
  simp only [step, h, runTurn]

section
variable {s : State} {w : Who} {st : Strand} (h : s.strand? w = some st)
include h

theorem issue_unfetched (hf : (st.split (splitNo w)).fetched = none) :
    issue w s = ending w (exec .instructionFetch { s with focus := w }) := by
  simp only [issue, h, hf]

variable (hc : ∀ c < 16, s.comparatorFires w c = false)
include hc

theorem issue_instr {i : Instr} {n : Nat} (hf : (st.split (splitNo w)).fetched = some (.instr i n)) :
    issue w s = ending w (exec i (s.issuing w (st.split (splitNo w)) i)) := by
  have hn : (List.range 16).find? (s.comparatorFires w) = none :=
    List.find?_eq_none.mpr fun c hm => by simp [hc c (List.mem_range.mp hm)]
  simp only [issue, h, hf, hn]

theorem issue_reject {r : Reject} (hf : (st.split (splitNo w)).fetched = some (.reject r)) :
    issue w s = ending w (exec .notAnInstruction ({ s with focus := w }.mapSplit w fun k => { k with stepped := k.stepping })) := by
  have hn : (List.range 16).find? (s.comparatorFires w) = none :=
    List.find?_eq_none.mpr fun c hm => by simp [hc c (List.mem_range.mp hm)]
  simp only [issue, h, hf, hn]

end

theorem Split.fetched_of_block {k : Split} {b : FetchBlock} (h : k.block = some b) (hb : b.base = blockBase k.pc) :
    k.fetched = some (decodeBytes (k.pc - b.base).toNat (b.bytes.drop (k.pc - b.base).toNat)) := by
  simp only [Split.fetched, h, if_pos hb]

theorem Split.fetched_of_no_block {k : Split} (h : ∀ b, k.block = some b → b.base ≠ blockBase k.pc) : k.fetched = none := by
  unfold Split.fetched
  split
  · rfl
  · rename_i b hb
    exact if_neg (h b hb)

theorem ending_eq (w : Who) (o : Out) : ending w o = (match o with | .next t => .next (t.endStep w) | r => r) := by
  cases o <;> rfl

/-- Settles O4: a turn issues what the split's fetch block holds at its address. -/
theorem stepRunsDecoded : Obligations.StepRunsDecoded := by
  intro s w st ht hst k s₀
  have hst₀ : s₀.strand? w = some st := by rw [← hst]; cases w <;> rfl
  refine ⟨fun b i n hb hbase hd hc => ?_, fun b r hb hbase hd hc => ?_, fun hb => ?_⟩
  · obtain ⟨hfocus, hmem, hstrand⟩ := State.holds_issuing k i hst₀
    refine ⟨?_, hfocus, hmem, hstrand⟩
    rw [step_of_turn ht, issue_instr hst₀ hc ((Split.fetched_of_block hb hbase).trans (congrArg some hd))]
    exact ending_eq w _
  · rw [step_of_turn ht, issue_reject hst₀ hc ((Split.fetched_of_block hb hbase).trans (congrArg some hd))]
    exact ending_eq w _
  · rw [step_of_turn ht, issue_unfetched hst₀ (Split.fetched_of_no_block hb)]
    exact ending_eq w _

end Machine
end Sys2Proof

/-! Instructions that only go on or trap: a fill word, `nop`, `yield`, `wait`, `prog`, `trap` and `brk` (R32, R334 to R339). -/

namespace Sys2Proof.Machine

/-! ### Going on -/

/-- An instruction that has left its split at an address. -/
theorem Ran.of_mapSplit {e : Env} {s t : State} {f : Split → Split} {pc : DWord} (h : Only e.who s t (e.st.mapSplit e.k f))
    (hsp : e.sp = e.st.split e.k) (hlen : e.k < e.st.splits.length) (hpc : (f e.sp).pc = pc) (hexm : (f e.sp).exm = e.sp.exm) :
    Ran e s t pc e.st.reg e.st.sstat := by
  have hself : (e.st.mapSplit e.k f).split e.k = f e.sp := by rw [e.st.split_mapSplit_self e.k f hlen, hsp]
  exact ⟨_, h.strand, fun _ _ _ => rfl, rfl, rfl, by rw [hself, hpc], by rw [hself, hexm], fun j hj => e.st.split_mapSplit_ne f hj,
    h.rest, fun a => by rw [State.mem_of_elsewhere h.rest]⟩

/-- A strand that has retired an instruction in a state where it was as at the entry. -/
theorem Only.retired {e : Env} {s t : State} (h : Only e.who s t e.st) (hk : e.k = splitNo e.who) (i : Instr) (n : Nat) :
    Only e.who s { e.retire i t with oracle := n } (e.st.leave e.k (e.next i) (instrPre i).sw (endsRegion i) t.nextKey) :=
  hk ▸ (h.retire i).oracle n

theorem Ran.of_leave {e : Env} {s t : State} {pc : DWord} {sw ends : Bool} {now : Nat}
    (h : Only e.who s t (e.st.leave e.k pc sw ends now)) (hsp : e.sp = e.st.split e.k) (hlen : e.k < e.st.splits.length) :
    Ran e s t pc e.st.reg e.st.sstat :=
  Ran.of_mapSplit h hsp hlen (Split.leave_pc ..) (Split.leave_exm ..)

/-- An instruction whose effect is to go on leaves its split behind itself. -/
theorem Enters.retires {i : Instr} {s s' : State} {e : Env} {body : Env → State → State} (h : Enters i s s' e)
    (hx : exec i s = act i s body) (hb : body e s' = e.retire i s') :
    ∃ t, exec i s = .next t ∧ Ran e s' t (e.next i) e.st.reg e.st.sstat ∧
      t.strand? e.who = some (e.st.leave e.k (e.next i) (instrPre i).sw (endsRegion i) s'.nextKey) := by
  obtain ⟨n, hn⟩ := h.run body
  obtain ⟨hst, hk, hsp, -⟩ := State.env_fields h.env
  have ho := (Only.refl hst).retired hk i n
  exact ⟨_, by rw [hx, hn, hb], Ran.of_leave ho hsp h.split, ho.strand⟩

/-- R51: a split parks behind its instruction where the switch marker is set and results are outstanding. -/
theorem Split.leave_parked (k : Split) (pc : DWord) (sw ends : Bool) (now : Nat) :
    (k.leave pc sw ends now).st = .parked ↔ sw = true ∧ k.score ≠ [] := by
  have hgo : ∀ x : Split, (Split.go x pc now).st ≠ .parked := by
    intro x
    unfold Split.go
    dsimp only
    split <;> [skip; simp]
    split <;> simp
  unfold Split.leave
  dsimp only
  split
  · rename_i hb
    simpa [Split.busy, Split.go] using hb
  · rename_i hb
    constructor
    · intro hp
      exact absurd hp (hgo _)
    · rintro ⟨hs, hne⟩
      exact absurd (by simpa [Split.busy, Split.go] using ⟨hs, hne⟩) hb

theorem Enters.retires_parked {i : Instr} {s s' : State} {e : Env} {body : Env → State → State} (h : Enters i s s' e)
    (hx : exec i s = act i s body) (hb : body e s' = e.retire i s') :
    ∃ t, exec i s = .next t ∧ Ran e s' t (e.next i) e.st.reg e.st.sstat ∧
      ∀ st, t.strand? e.who = some st → ((st.split e.k).st = .parked ↔ (instrPre i).sw = true ∧ e.sp.score ≠ []) := by
  obtain ⟨-, -, hsp, -⟩ := State.env_fields h.env
  obtain ⟨t, hn, hran, hst⟩ := h.retires hx hb
  refine ⟨t, hn, hran, fun st hst' => ?_⟩
  cases hst.symm.trans hst'
  rw [Strand.leave, e.st.split_mapSplit_self _ _ h.split, ← hsp]
  exact Split.leave_parked ..

/-- A warp without a task that holds its registers takes no free values beside its effect. -/
theorem Enters.run_unheld {i : Instr} {s s' : State} {e : Env} (h : Enters i s s' e) (ha : e.acc = []) (body : Env → State → State) :
    act i s body = .next (body e s') := by
  obtain ⟨⟨e₀, h₀, hs, hg⟩, he, henv, -⟩ := h
  subst he
  rw [act_run body h₀ hs hg henv, ha]
  rfl

/-! ### Each instruction -/

theorem exec_fillWord {s : State} {e : Env} (he : s.env = some e) (hlen : e.k < e.st.splits.length) :
    ∃ t, exec .fillWord s = .next t ∧ Ran e s t (e.sp.pc + 4) e.st.reg e.st.sstat := by
  obtain ⟨hst, hk, hsp, -⟩ := State.env_fields he
  have ho : Only e.who s (s.bump.mapSplit e.who fun k => (Split.go k (e.sp.pc + 4) s.nextKey).passing k) _ :=
    (Only.refl hst).bump.mapStrand fun st => st.mapSplit (splitNo e.who) _
  refine ⟨_, ?_, Ran.of_mapSplit (hk ▸ ho) hsp hlen rfl rfl⟩
  show execFillWord s = _
  rw [execFillWord, he]

section
variable {p : Pre} {n : Num} {s s' : State} {e : Env}

theorem exec_wait_passes (h : Enters (.wait p n) s s' e) (hp : e.exm p = 0 ∨ e.num (e.exm p) n = 0 ∨ e.timedOut = true) :
    PassesOn e (.wait p n) s s' := by
  have hx : exec (.wait p n) s = execWait p n s := rfl
  unfold execWait at hx
  refine h.passes hx ?_
  rcases hp with hp | hp | hp <;> simp [hp]

theorem exec_wait_parks (h : Enters (.wait p n) s s' e) (hm : e.exm p ≠ 0) (hn : e.num (e.exm p) n ≠ 0) (ha : e.sp.again = false) :
    ∃ t, exec (.wait p n) s = .next t ∧ Parks e s' t 11 .clocks (some (e.num (e.exm p) n).toNat) := by
  have hn' : (e.num (e.exm p) n).toNat ≠ 0 := fun h0 => hn (BitVec.eq_of_toNat_eq h0)
  have hx : exec (.wait p n) s = execWait p n s := rfl
  unfold execWait at hx
  refine h.parks hx ?_
  simp only [hm, hn', Env.timedOut, ha, decide_false, Bool.or_self, Bool.false_and, Bool.false_eq_true, if_false]

/-- R339: a context with one progress counter advanced. -/
def Ctx.progressed (x : Ctx) (k : Nat) : Ctx := { x with prog := write 0 x.prog k (readOr 0 x.prog k + 1) }

theorem Ctx.prog_progressed (x : Ctx) (k j : Nat) :
    readOr 0 (x.progressed k).prog j = if j = k then readOr 0 x.prog j + 1 else readOr 0 x.prog j := by
  simp only [Ctx.progressed, readOr_write]
  split
  · rename_i hj
    rw [hj]
  · rfl

theorem exec_prog (h : Enters (.prog p n) s s' e) (hm : e.exm p ≠ 0) :
    ∃ t, exec (.prog p n) s = .next t ∧ Ran e { s' with ctxs := t.ctxs } t (e.next (.prog p n)) e.st.reg e.st.sstat ∧
      (∀ c, c ≠ e.ctxNo → t.ctx c = s'.ctx c) ∧
      t.ctx e.ctxNo = (s'.ctx e.ctxNo).progressed ((e.num (e.exm p) n).toNat % 16) := by
  obtain ⟨hst, hk, hsp, -⟩ := State.env_fields h.env
  obtain ⟨k, hrun⟩ := h.run fun e s =>
    if e.exm p = 0 then e.retire (.prog p n) s
    else e.retire (.prog p n) (s.setCtx e.ctxNo ((s.ctx e.ctxNo).progressed ((e.num (e.exm p) n).toNat % 16)))
  rw [if_neg hm] at hrun
  generalize (s'.ctx e.ctxNo).progressed ((e.num (e.exm p) n).toNat % 16) = x at hrun ⊢
  have hst' : (s'.setCtx e.ctxNo x).strand? e.who = some e.st := by rw [← hst]; cases e.who <;> rfl
  have hctxs : ({ e.retire (.prog p n) (s'.setCtx e.ctxNo x) with oracle := k } : State).ctxs = (s'.setCtx e.ctxNo x).ctxs :=
    State.mapStrand_ctxs ..
  refine ⟨_, hrun, ?_, fun c hc => ?_, ?_⟩
  · rw [hctxs]
    exact Ran.of_leave ((Only.refl hst').retired hk (.prog p n) k) hsp h.split
  · exact (congrArg (readOr ({} : Ctx) · c) hctxs).trans (readOr_write_ne _ hc)
  · exact (congrArg (readOr ({} : Ctx) · e.ctxNo) hctxs).trans (State.ctx_setCtx ..)

end

theorem ecauseOf_explicit (code : Byte) : ecauseOf .explicit code.toNat 0 = 0x40 + (code.setWidth 32 <<< 8) := by
  apply BitVec.eq_of_toNat_eq
  simp [ecauseOf, fields, causeCode, Nat.shiftLeft_eq]

theorem exec_trap {p : Pre} {code : Byte} {s s' : State} {e : Env} (h : Enters (.trap p code) s s' e) (hm : e.exm p ≠ 0) :
    ∃ t, exec (.trap p code) s = .next t ∧ Traps e s' t
      { split := e.k, ecause := 0x40 + (code.setWidth 32 <<< 8), epc := e.sp.pc, eaddr := e.sp.pc, after := true, len := 12 } := by
  obtain ⟨n, hn⟩ := h.run fun e s =>
    if e.exm p = 0 then e.retire (.trap p code) s else e.raiseAfter .explicit code.toNat (instrSize (.trap p code)) s
  rw [if_neg hm, Env.raiseAfter, ecauseOf_explicit] at hn
  exact ⟨_, hn, s'.oracle, n, rfl⟩

/-- R335: what `brk` reports to the debug service. -/
def Env.brkReport (e : Env) (s : State) (tag : BitVec 7) : DebugReport :=
  let n := s.nameOf e.who e.sp.pc
  { cause := 0x30, ctx := e.ctxNo, mode := 0, flags := bit n.async 0, tag := tag.toNat, site := n.site, seq := n.seq, team := n.team }

/-- R335: `brk` goes on behind itself, and reports to the debug service or in an event record. -/
theorem exec_brk {p : Pre} {tag : BitVec 7} {s s' : State} {e : Env} (h : Enters (.brk p tag) s s' e) (ha : e.acc = []) (hm : e.exm p ≠ 0) :
    exec (.brk p tag) s = .next (
      let u := e.retire (.brk p tag) s'
      if u.debugged e.ctxNo then (u.debugReport e.die (e.brkReport s' tag)).debugStop e.who 0
      else u.eventRecord e.ctxNo e.die 3 0 0x30 e.sp.pc 0 (s'.nameOf e.who e.sp.pc) tag.toNat) := by
  have hx : exec (.brk p tag) s = execBrk p tag s := rfl
  unfold execBrk at hx
  rw [hx, h.run_unheld ha, if_neg hm]
  rfl

/-- R334 to R339: without an acting thread each of these instructions goes on. -/
theorem passes_without_threads {i : Instr} {p : Pre} {s s' : State} {e : Env} (h : Enters i s s' e) (hm : e.exm p = 0)
    (hi : (∃ n, i = .prog p n) ∨ (∃ code, i = .trap p code) ∨ ∃ tag, i = .brk p tag) : PassesOn e i s s' := by
  obtain ⟨n, rfl⟩ | ⟨code, rfl⟩ | ⟨tag, rfl⟩ := hi
  · have hx : exec (.prog p n) s = execProg p n s := rfl
    unfold execProg at hx
    exact h.passes hx (if_pos hm)
  · have hx : exec (.trap p code) s = execTrap p code s := rfl
    unfold execTrap at hx
    exact h.passes hx (if_pos hm)
  · have hx : exec (.brk p tag) s = execBrk p tag s := rfl
    unfold execBrk at hx
    exact h.passes hx (if_pos hm)

/-- Settles O25: each of these instructions retires, parks or raises one cause. -/
theorem goesOnAndTraps : Obligations.GoesOnAndTraps := by
  refine ⟨⟨fun s e => exec_fillWord, ?_, ?_, ?_⟩, ?_, ?_⟩
  · rintro i p (rfl | rfl) s s' e h
    · exact h.retires_parked (body := fun e s => e.retire (.nop p) s) rfl rfl
    · exact h.retires_parked (body := fun e s => e.retire (.yieldw p) s) rfl rfl
  · exact fun p n s s' e h => ⟨exec_wait_passes h, exec_wait_parks h⟩
  · refine fun p n s s' e h => ⟨fun hm => passes_without_threads h hm (.inl ⟨n, rfl⟩), fun hm => ?_⟩
    obtain ⟨t, hn, hran, hne, hself⟩ := exec_prog h hm
    refine ⟨t, hn, hran, hne, fun x => by rw [hself]; rfl, fun k => ?_⟩
    rw [hself]
    exact Ctx.prog_progressed ..
  · exact fun p code s s' e h => ⟨fun hm => passes_without_threads h hm (.inr (.inl ⟨code, rfl⟩)), exec_trap h⟩
  · refine fun p tag s s' e h ha => ⟨fun hm => passes_without_threads h hm (.inr (.inr ⟨tag, rfl⟩)), fun hm =>
      ⟨e.retire (.brk p tag) s', ?_, fun hd => ?_, fun hd => ⟨e.brkReport s' tag, ?_, rfl, rfl, rfl, rfl, rfl, rfl, rfl⟩⟩⟩
    · obtain ⟨hst, hk, hsp, -⟩ := State.env_fields h.env
      exact Ran.of_leave ((Only.refl hst).retired hk (.brk p tag) _) hsp h.split
    · exact (exec_brk h ha hm).trans (by simp only [hd, Bool.false_eq_true, if_false])
    · exact (exec_brk h ha hm).trans (by simp only [hd, if_true])

end Sys2Proof.Machine

/-! Atomics (R50, R222, R270, R276, R277): requests that leave for their homes, and what an atomic writes there. -/

namespace Sys2Proof.Machine

/-! ### Requests that leave -/

/-- R234, R241, R276: from state `s` on only requests have left for homes and other devices: strands, memory and loads are as they
were, and so are the requests that had been sent before. -/
structure Sends (s t : State) : Prop where
  teams : t.teams = s.teams
  lcs   : t.lcs = s.lcs
  mem   : t.mem = s.mem
  loads : t.loads = s.loads
  key   : s.nextKey ≤ t.nextKey
  out   : ∀ k < s.nextKey, look t.out k = look s.out k

theorem Sends.refl (s : State) : Sends s s := ⟨rfl, rfl, rfl, rfl, Nat.le_refl _, fun _ _ => rfl⟩

theorem Sends.trans {s t u : State} (h : Sends s t) (h' : Sends t u) : Sends s u where
  teams := h'.teams.trans h.teams
  lcs   := h'.lcs.trans h.lcs
  mem   := h'.mem.trans h.mem
  loads := h'.loads.trans h.loads
  key   := Nat.le_trans h.key h'.key
  out k hk := (h'.out k (Nat.lt_of_lt_of_le hk h.key)).trans (h.out k hk)

/-- A state finds the strands of another one that has the same teams and latency cores. -/
theorem State.strand?_congr {s t : State} (hT : t.teams = s.teams) (hL : t.lcs = s.lcs) (w : Who) : t.strand? w = s.strand? w := by
  cases w with
  | warp | handler => simp only [State.strand?, hT]
  | lat => unfold State.strand? State.lc; rw [hL]

theorem Sends.strand? {s t : State} (h : Sends s t) (w : Who) : t.strand? w = s.strand? w := State.strand?_congr h.teams h.lcs w

theorem Sends.foldl {α : Type} {f : State → α → State} (hf : ∀ s x, Sends s (f s x)) (xs : List α) (s : State) : Sends s (xs.foldl f s) := by
  induction xs generalizing s with
  | nil => exact .refl s
  | cons x xs ih => exact (hf s x).trans (ih _)

theorem sends_setCore (s : State) (c : Nat) (x : Core) : Sends s (s.setCore c x) := ⟨rfl, rfl, rfl, rfl, Nat.le_refl _, fun _ _ => rfl⟩

theorem sends_send (s : State) (op : WriteOp) : Sends s (s.send op) where
  teams := rfl
  lcs   := rfl
  mem   := rfl
  loads := rfl
  key   := Nat.le_succ _
  out _ hk := look_place_ne _ _ (Nat.ne_of_lt hk)

theorem sends_sendRemote (s : State) (op : RemoteOp) : Sends s (s.sendRemote op) :=
  ⟨rfl, rfl, rfl, rfl, Nat.le_succ _, fun _ _ => rfl⟩

theorem sends_writeBack (s : State) (c line : Nat) (by_ : Option Releaser) : Sends s (s.writeBack c line by_) := by
  unfold State.writeBack
  split
  · exact .refl s
  · split
    · exact .refl s
    · exact (sends_send s _).trans (sends_setCore _ _ _)

theorem sends_writeBackAll (s : State) (c : Nat) (by_ : Option Releaser) : Sends s (s.writeBackAll c by_) :=
  Sends.foldl (fun s line => sends_writeBack s c line by_) _ s

theorem sends_sendWcb (s : State) (c line : Nat) : Sends s (s.sendWcb c line) := by
  unfold State.sendWcb
  split
  · exact .refl s
  · exact (sends_setCore s _ _).trans (sends_sendRemote _ _)

/-- R223: a release sends the dirty bytes of its core. -/
theorem sends_release (s : State) (a : Agent) (sc : Scope) (by_ : Option Releaser) : Sends s (s.release a sc by_) := by
  unfold State.release
  dsimp only
  split
  · exact .refl s
  · exact (sends_writeBackAll s _ _).trans (Sends.foldl (fun s line => sends_sendWcb s _ line) _ _)
  · exact sends_writeBackAll s _ _
  · exact .refl s

theorem sends_spoilQueues (s : State) (c : Nat) (ps : List Piece) : Sends s (s.spoilQueues c ps) := by
  unfold State.spoilQueues
  refine Sends.foldl (fun s x => ?_) _ s
  obtain ⟨l, q⟩ := x
  exact ⟨rfl, rfl, rfl, rfl, Nat.le_refl _, fun _ _ => rfl⟩

/-! ### An atomic on its way -/

/-- R276, R277: a request on its way home that is the atomic of a piece. -/
def AtomicLeft (e : Env) (o : Mem) (op : Nat) (load : Option Nat) (b c : DWord) (p : Piece) (w : WriteOp) : Prop :=
  w.agent = e.agent ∧ w.line = lineNo p.at_.dev p.at_.pa ∧ w.ord = o.ord ∧ w.sc = o.sc ∧
    w.atomic = some { op := op, bytes := p.bytes, pa := p.at_.pa, operand := if op = 13 then c else b, compare := b, load := load,
                      thread := p.thread, pc := e.sp.pc, va := BitVec.ofNat 64 p.va }

/-- R276: the issuing core gives up the line of an atomic before it leaves. -/
theorem sends_clearLine (s : State) (a : Agent) (line : Nat) :
    Sends s (match a with | .wide k => ((s.writeBack k line).dropCached a line).sendWcb k line | _ => s) := by
  split
  · exact ((sends_writeBack s _ _ _).trans (sends_setCore _ _ _)).trans (sends_sendWcb _ _ _)
  · exact .refl s

theorem atomicUnit_leaves (s : State) (e : Env) (o : Mem) (op : Nat) (load : Option Nat) (b c : DWord) (p : Piece) :
    Sends s (s.atomicUnit e o op load b c p) ∧
      ∃ k < (s.atomicUnit e o op load b c p).nextKey, ∃ w, look (s.atomicUnit e o op load b c p).out k = some w ∧
        AtomicLeft e o op load b c p w := by
  unfold State.atomicUnit
  refine ⟨(sends_clearLine s e.agent _).trans (sends_send _ _), _, Nat.lt_succ_self _, _, look_place_self .., ?_⟩
  exact ⟨rfl, rfl, rfl, rfl, rfl⟩

/-- R277: the atomics of the acting threads leave in thread order. -/
theorem atomics_leave (e : Env) (o : Mem) (op : Nat) (load : Option Nat) (b c : Piece → DWord) (ps : List Piece) (s : State) :
    let t := ps.foldl (fun s p => s.atomicUnit e o op load (b p) (c p) p) s
    Sends s t ∧ ∀ p ∈ ps, ∃ k < t.nextKey, ∃ w, look t.out k = some w ∧ AtomicLeft e o op load (b p) (c p) p w := by
  induction ps generalizing s with
  | nil => exact ⟨.refl s, by simp⟩
  | cons p ps ih =>
    obtain ⟨hs, k, hk, w, hw, hleft⟩ := atomicUnit_leaves s e o op load (b p) (c p) p
    obtain ⟨ht, hrest⟩ := ih (s.atomicUnit e o op load (b p) (c p) p)
    refine ⟨hs.trans ht, fun q hq => ?_⟩
    rcases List.mem_cons.mp hq with rfl | hq
    · exact ⟨k, Nat.lt_of_lt_of_le hk ht.key, w, (ht.out k hk).trans hw, hleft⟩
    · exact hrest q hq

/-! ### An instruction that has sent its atomics -/

/-- Only the splits of a strand have changed, and every split stands where it stood. -/
structure Strand.Stands (st st' : Strand) : Prop where
  rest   : { st' with splits := st.splits } = st
  length : st'.splits.length = st.splits.length
  places : ∀ j, (st'.split j).pc = (st.split j).pc ∧ (st'.split j).exm = (st.split j).exm

theorem Strand.Stands.refl (st : Strand) : st.Stands st := ⟨rfl, rfl, fun _ => ⟨rfl, rfl⟩⟩

theorem Strand.stands_mapSplit (st : Strand) (k : Nat) {f : Split → Split} (hf : ∀ k, (f k).pc = k.pc ∧ (f k).exm = k.exm) :
    st.Stands (st.mapSplit k f) where
  rest   := rfl
  length := length_setNth ..
  places j := ⟨st.split_mapSplit_of_keeps k j Split.pc fun x => (hf x).1, st.split_mapSplit_of_keeps k j Split.exm fun x => (hf x).2⟩

/-- A strand whose splits stood where they did at the entry leaves its instruction. -/
theorem Advances.of_leave {e : Env} {t : State} {st : Strand} {pc : DWord} {sw ends : Bool} {now : Nat}
    (h : t.strand? e.who = some (st.leave e.k pc sw ends now)) (hs : e.st.Stands st) (hsp : e.sp = e.st.split e.k)
    (hlen : e.k < e.st.splits.length) : Advances e t pc := by
  obtain ⟨hrest, hlength, hplaces⟩ := hs
  have hself : (st.leave e.k pc sw ends now).split e.k = (st.split e.k).leave pc sw ends now :=
    st.split_mapSplit_self _ _ (by rw [hlength]; exact hlen)
  refine ⟨_, h, fun n u _ => ?_, ?_, ?_, ?_, ?_, ?_, ?_, ?_, ?_, fun j hj => ?_⟩
  · rw [← hrest]; rfl
  · rw [← hrest]; rfl
  · rw [← hrest]; rfl
  · rw [← hrest]; rfl
  · rw [← hrest]; rfl
  · rw [← hrest]; rfl
  · rw [← hrest]; rfl
  · rw [hself, Split.leave_pc]
  · rw [hself, Split.leave_exm, (hplaces _).2, hsp]
  · rw [Strand.leave, st.split_mapSplit_ne _ hj]
    exact hplaces j

/-- R51, R314: SCORE takes the registers of a load in one split of the strand; the rest of the machine is as it was. -/
theorem score_keeps {e : Env} {s : State} {st : Strand} (h : s.strand? e.who = some st) (d : RegNo) (n : Nat) (m : Mask) :
    (∃ st', (e.score d n m s).strand? e.who = some st' ∧ st.Stands st') ∧
    (e.score d n m s).mem = s.mem ∧ (e.score d n m s).loads = s.loads := by
  unfold Env.score
  split
  · exact ⟨⟨st, h, .refl st⟩, rfl, rfl⟩
  · exact ⟨⟨_, State.strand?_mapSplit _ h, st.stands_mapSplit _ fun _ => ⟨rfl, rfl⟩⟩, State.mapSplit_mem .., State.mapSplit_loads ..⟩

/-- R276: what a state holds in which the atomics of an instruction are on their way from state `u`. -/
structure AtomicsSent (e : Env) (o : Mem) (op : Nat) (value : Bool) (ps : List Piece) (u t : State) : Prop where
  strand : ∃ st, t.strand? e.who = some st ∧ e.st.Stands st
  mem    : t.mem = u.mem
  left   : ∃ load : Option Nat, load.isSome = value ∧
    (∀ key, load = some key → ∃ l, look t.loads key = some l ∧ l.who = e.who ∧ l.reg = o.d.toNat ∧ l.w = o.w ∧ l.mask = e.exm o.p ∧
      l.left = ps.length) ∧
    ∀ p ∈ ps, ∃ k w, look t.out k = some w ∧
      AtomicLeft e o op load (e.atomicOperand o (e.exm o.p) o.b o.ub p.thread) (e.atomicOperand o (e.exm o.p) o.c false p.thread) p w

/-- R276: the load that waits for the old values of an atomic. -/
def Env.atomicLoad (e : Env) (o : Mem) (ps : List Piece) : LoadOp :=
  { who := e.who, pc := e.sp.pc, reg := o.d.toNat, w := o.w, mask := e.exm o.p, left := ps.length, strong := true, acq := acquireScope o,
    eaddr := (Mask.threads (e.exm o.p)).map fun t => (t, e.address o false (e.exm o.p) t) }

/-- R276, R314: a state in which the load of an atomic waits for its old values. -/
def Env.awaitOld (e : Env) (o : Mem) (ps : List Piece) (s : State) : State :=
  e.score o.d o.w.regs (e.exm o.p) { s with loads := place s.loads s.nextKey (e.atomicLoad o ps), nextKey := s.nextKey + 1 }

theorem startAtomics_eq (e : Env) (o : Mem) (op : Nat) (value : Bool) (ps : List Piece) (s : State) :
    e.startAtomics o op value ps s =
      ps.foldl (fun t p => t.atomicUnit e o op (if value then some s.nextKey else none)
        (e.atomicOperand o (e.exm o.p) o.b o.ub p.thread) (e.atomicOperand o (e.exm o.p) o.c false p.thread) p)
        (if value then e.awaitOld o ps s else s) := by
  cases value <;> rfl

theorem awaitOld_keeps {e : Env} {s : State} (h : s.strand? e.who = some e.st) (o : Mem) (ps : List Piece) :
    (∃ st, (e.awaitOld o ps s).strand? e.who = some st ∧ e.st.Stands st) ∧ (e.awaitOld o ps s).mem = s.mem ∧
      look (e.awaitOld o ps s).loads s.nextKey = some (e.atomicLoad o ps) := by
  have hst : ({ s with loads := place s.loads s.nextKey (e.atomicLoad o ps), nextKey := s.nextKey + 1 } : State).strand? e.who = some e.st := by
    rw [← h]
    exact State.strand?_congr rfl rfl _
  obtain ⟨hstrand, hmem, hloads⟩ := score_keeps hst o.d o.w.regs (e.exm o.p)
  exact ⟨hstrand, hmem, by rw [Env.awaitOld, hloads]; exact look_place_self ..⟩

theorem startAtomics_sent {e : Env} {u : State} (h : u.strand? e.who = some e.st) (o : Mem) (op : Nat) (value : Bool) (ps : List Piece) :
    AtomicsSent e o op value ps u (e.startAtomics o op value ps u) := by
  obtain ⟨hs, hleft⟩ := atomics_leave e o op (if value then some u.nextKey else none) (fun p => e.atomicOperand o (e.exm o.p) o.b o.ub p.thread)
    (fun p => e.atomicOperand o (e.exm o.p) o.c false p.thread) ps (if value then e.awaitOld o ps u else u)
  rw [← startAtomics_eq] at hs hleft
  have hout : ∀ p ∈ ps, ∃ k w, look (e.startAtomics o op value ps u).out k = some w ∧ _ := fun p hp => by
    obtain ⟨k, -, w, hw, hl⟩ := hleft p hp
    exact ⟨k, w, hw, hl⟩
  cases value with
  | false => exact ⟨⟨e.st, (hs.strand? e.who).trans h, .refl _⟩, hs.mem, none, rfl, (fun _ hk => nomatch hk), hout⟩
  | true =>
    obtain ⟨⟨st, hst, hstands⟩, hmem, hload⟩ := awaitOld_keeps h o ps
    refine ⟨⟨st, (hs.strand? e.who).trans hst, hstands⟩, hs.mem.trans hmem, some u.nextKey, rfl, fun key hkey => ?_, hout⟩
    cases hkey
    exact ⟨e.atomicLoad o ps, (congrArg (look · u.nextKey) hs.loads).trans hload, rfl, rfl, rfl, rfl, rfl⟩

/-- R276: `atom`, `red` and `cas`, whose operation is `op`; `value` where the old values return. -/
def IsAtomic (i : Instr) (o : Mem) (op : Nat) (value : Bool) : Prop :=
  (i = .atom o ∧ op = o.c.toNat % 16 ∧ value = true) ∨ (i = .red o ∧ op = o.c.toNat % 16 ∧ value = false) ∨ (i = .cas o ∧ op = 13 ∧ value = true)

section
variable {i : Instr} {o : Mem} {op : Nat} {value : Bool} {s s' : State} {e : Env}

theorem IsAtomic.exec_eq (h : IsAtomic i o op value) (s : State) :
    exec i s = act i s fun e s => e.atomicAccess i o s fun ps s => e.atomicRun i o op value ps s := by
  obtain ⟨rfl, rfl, rfl⟩ | ⟨rfl, rfl, rfl⟩ | ⟨rfl, rfl, rfl⟩ := h <;> rfl

/-- R222: every acting thread's address is aligned. -/
def Env.Aligned (e : Env) (o : Mem) : Prop :=
  ∀ u < 32, (e.exm o.p).getLsbD u = true → (e.address o false (e.exm o.p) u).toNat % o.w.bytes = 0

theorem Env.Aligned.access (h : e.Aligned o) (i : Instr) (s : State) (body : List Piece → State → State) :
    e.atomicAccess i o s body = e.global i o false o.w.bytes .atomic s body := by
  have hnone : (Mask.threads (e.exm o.p)).find? (fun t => (e.address o false (e.exm o.p) t).toNat % o.w.bytes ≠ 0) = none :=
    List.find?_eq_none.mpr fun u hu => by
      obtain ⟨hlt, hm⟩ := Mask.mem_threads.mp hu
      simp [h u hlt hm]
  unfold Env.atomicAccess
  dsimp only
  rw [hnone]

theorem Env.aligned_of_no_threads (hm : e.exm o.p = 0) : e.Aligned o := fun u _ hu => by
  rw [hm] at hu
  simp at hu

theorem Env.global_of_no_threads (hm : e.exm o.p = 0) (i : Instr) (idx : Bool) (n : Nat) (k : Kind) (s : State) (body : List Piece → State → State) :
    e.global i o idx n k s body = e.retire i s := if_pos hm

/-- R270: the checks of an access decide how it goes on. -/
theorem Env.global_of_checks {u : State} {c : Checked} {k : Kind} {idx : Bool} (hm : e.exm o.p ≠ 0) (hc : e.Checks o idx k s u c) (i : Instr)
    (body : List Piece → State → State) : e.global i o idx o.w.bytes k s body = e.checked k (u, c) body := by
  obtain ⟨⟨v, sp, hv, hu⟩, -⟩ := hc
  unfold Env.global
  simp only [if_neg hm, hv, hu]

theorem Env.checked_ok {u : State} {ps : List Piece} (k : Kind) (hp : ∀ p ∈ ps, p.askew = false) (body : List Piece → State → State) :
    e.checked k (u, .ok ps) body = body ps u := by
  have hnone : (if k = .lock then none else ps.find? Piece.askew) = none := by
    split
    · rfl
    · exact List.find?_eq_none.mpr fun p h => by simp [hp p h]
  simp only [Env.checked, hnone]

/-- R270, R402: an instruction whose checks fail is turned away. -/
theorem Enters.turned {u : State} {c : Checked} {k : Kind} {body : Env → State → State} {ok : List Piece → State → State}
    (h : Enters i s s' e) (hx : exec i s = act i s body) (hb : body e s' = e.checked k (u, c) ok) : Turned e i s u k c := by
  obtain ⟨n, hn⟩ := h.run body
  rw [hb, ← hx] at hn
  cases c with
  | ok ps => trivial
  | trap c a => exact ⟨_, hn, u.oracle, n, rfl⟩
  | queue va c l a => exact ⟨n, hn⟩

theorem Env.exists_misaligned (h : ¬e.Aligned o) : ∃ u ∈ Mask.threads (e.exm o.p),
    (Mask.threads (e.exm o.p)).find? (fun t => (e.address o false (e.exm o.p) t).toNat % o.w.bytes ≠ 0) = some u ∧
      (e.address o false (e.exm o.p) u).toNat % o.w.bytes ≠ 0 := by
  cases hf : (Mask.threads (e.exm o.p)).find? (fun t => (e.address o false (e.exm o.p) t).toNat % o.w.bytes ≠ 0) with
  | some u => exact ⟨u, List.mem_of_find?_eq_some hf, rfl, by simpa using List.find?_some hf⟩
  | none =>
    refine absurd (fun u hu hm => ?_) h
    simpa using List.find?_eq_none.mp hf u (Mask.mem_threads.mpr ⟨hu, hm⟩)

/-- R240: the state in which a releasing atomic has sent what it releases. -/
def Env.released (e : Env) (o : Mem) (u : State) : State :=
  if (decide (o.ord = .rel) || decide (o.ord = .ar)) && decide (o.sc ≠ .team) then u.release e.agent o.sc e.releaser else u

theorem sends_released (e : Env) (o : Mem) (u : State) : Sends u (e.released o u) := by
  unfold Env.released
  split
  · exact sends_release ..
  · exact .refl u

/-- R230, R240: what an atomic that waits for earlier accesses waits for. -/
def Env.AtomicReady (e : Env) (o : Mem) (op : Nat) (ps : List Piece) (u : State) : Prop :=
  let so := ps.any fun p => decide (p.at_.ord = 1)
  let far := ps.any fun p => decide (p.at_.dev ≠ u.dev)
  let rel := (decide (o.ord = .rel) || decide (o.ord = .ar)) && decide (o.sc ≠ .team)
  let v := e.released o u
  so = true ∨ (rel = true ∧ (far = true ∨ (o.sc = .sys ∧ op ≠ 13))) →
    e.sp.mark = none ∧ v.drained e.agent e.who v.nextKey (rel && decide (o.sc = .sys) && (far || decide (op ≠ 13))) = true

theorem Env.drain_ready {sys : Bool} {start body : State → State} (hm : e.sp.mark = none)
    (hd : (start s).drained e.agent e.who (start s).nextKey sys = true) : e.drain sys start body s = body (start s) := by
  simp only [Env.drain, hm, hd, if_true]

/-- R240, R276: an atomic that need not wait leaves, and its instruction goes on. -/
theorem atomicRun_ready {u : State} {ps : List Piece} (h : e.AtomicReady o op ps u) :
    e.atomicRun i o op value ps u = e.retire i (e.startAtomics o op value ps ((e.released o u).spoilQueues e.ctxNo ps)) := by
  unfold Env.AtomicReady Env.released at h
  unfold Env.atomicRun Env.released
  dsimp only at h ⊢
  generalize ps.any (fun p => decide (p.at_.ord = 1)) = so at h ⊢
  generalize ps.any (fun p => decide (p.at_.dev ≠ u.dev)) = far at h ⊢
  generalize ((decide (o.ord = .rel) || decide (o.ord = .ar)) && decide (o.sc ≠ .team)) = rel at h ⊢
  by_cases hA : (rel && (decide (op ≠ 13) && (so || decide (o.sc = .sys)) || far)) = true
  · obtain ⟨rfl, hA'⟩ := Bool.and_eq_true_iff.mp hA
    rw [if_pos hA]
    obtain ⟨hm, hd⟩ := h (by cases so <;> cases far <;> simp_all)
    refine (Env.drain_ready hm ?_).trans rfl
    convert hd using 1
    cases far <;> simp_all
  · rw [if_neg hA]
    unfold Env.ordered
    cases so with
    | false => rfl
    | true =>
      rw [if_pos rfl]
      obtain ⟨hm, hd⟩ := h (Or.inl rfl)
      refine Env.drain_ready (start := id) hm ?_
      convert hd using 1
      cases rel <;> cases far <;> simp_all

end

/-- R276: the instruction of atomics that are on their way goes on. -/
theorem AtomicsSent.advances {i : Instr} {o : Mem} {op : Nat} {value : Bool} {s s' u v : State} {e : Env} {ps : List Piece}
    (h : Enters i s s' e) (hv : AtomicsSent e o op value ps u v) (n : Nat) : Advances e { e.retire i v with oracle := n } (e.next i) := by
  obtain ⟨-, hk, hsp, -⟩ := State.env_fields h.env
  obtain ⟨st, hst, hstands⟩ := hv.strand
  have hbump : v.bump.strand? e.who = some st := (State.strand?_bump ..).trans hst
  have hgone : ({ e.retire i v with oracle := n } : State).strand? e.who =
      some (st.leave (splitNo e.who) (e.next i) (instrPre i).sw (endsRegion i) v.nextKey) :=
    (State.strand?_congr rfl rfl _).trans ((State.strand?_mapStrand ..).trans (congrArg _ hbump))
  exact Advances.of_leave (hk ▸ hgone) hstands hsp h.split

theorem atomics_leave_home {i : Instr} {o : Mem} {op : Nat} {value : Bool} {s s' u : State} {e : Env} {ps : List Piece}
    (h : Enters i s s' e) (hi : IsAtomic i o op value) (hm : e.exm o.p ≠ 0) (ha : e.Aligned o) (hr : e.Reaches o false .atomic s' u ps)
    (hready : e.AtomicReady o op ps u) :
    ∃ t v, exec i s = .next t ∧ Advances e t (e.next i) ∧ AtomicsSent e o op value ps u v ∧ t.mem = v.mem ∧ t.loads = v.loads ∧ t.out = v.out := by
  obtain ⟨hc, hp⟩ := hr
  obtain ⟨hst, -⟩ := State.env_fields h.env
  obtain ⟨n, hn⟩ := h.run fun e s => e.atomicAccess i o s fun ps s => e.atomicRun i o op value ps s
  rw [ha.access, Env.global_of_checks hm hc, Env.checked_ok _ hp, atomicRun_ready hready] at hn
  have hs := (sends_released e o u).trans (sends_spoilQueues _ e.ctxNo ps)
  have hsent := startAtomics_sent ((hs.strand? e.who).trans (hc.2.trans hst)) o op value ps
  refine ⟨_, _, (hi.exec_eq s).trans hn, hsent.advances h n, { hsent with mem := hsent.mem.trans hs.mem }, ?_, ?_, ?_⟩
  · exact State.mapStrand_mem ..
  · exact State.mapStrand_loads ..
  · exact State.mapStrand_out ..

/-! ### What an atomic writes -/

/-- R276: the signed value of a word, as an atomic compares it. -/
theorem toInt_ofNat_word {x : Nat} (hx : x < 2 ^ 32) : (if 2 ^ 32 / 2 ≤ x then (x : Int) - (2 ^ 32 : Nat) else x) = (BitVec.ofNat 32 x).toInt := by
  rw [BitVec.toInt_eq_toNat_cond, BitVec.toNat_ofNat, Nat.mod_eq_of_lt hx]
  split <;> split <;> omega

theorem atomicResult_word {old b : Nat} (ho : old < 2 ^ 32) (hb : b < 2 ^ 32) :
    let signed (x : Nat) : Int := (BitVec.ofNat 32 x).toInt
    atomicResult 0 4 old b = (old + b) % 2 ^ 32 ∧
    (signed old ≤ signed b → atomicResult 1 4 old b = old ∧ atomicResult 2 4 old b = b) ∧
    (signed b ≤ signed old → atomicResult 1 4 old b = b ∧ atomicResult 2 4 old b = old) ∧
    atomicResult 3 4 old b = (BitVec.ofNat 32 old &&& BitVec.ofNat 32 b).toNat ∧
    atomicResult 4 4 old b = (BitVec.ofNat 32 old ||| BitVec.ofNat 32 b).toNat ∧
    atomicResult 5 4 old b = (BitVec.ofNat 32 old ^^^ BitVec.ofNat 32 b).toNat ∧
    atomicResult 6 4 old b = b ∧
    (atomicResult 7 4 old b = if b ≤ old then 0 else old + 1) ∧
    (atomicResult 8 4 old b = if old = 0 ∨ b < old then b else old - 1) := by
  intro signed
  have hword {x : Nat} (hx : x < 2 ^ 32) : (BitVec.ofNat 32 x).toNat = x := Nat.mod_eq_of_lt hx
  have hmin : atomicResult 1 4 old b = if signed old ≤ signed b then old else b := by
    simp only [signed, ← toInt_ofNat_word ho, ← toInt_ofNat_word hb]
    rfl
  have hmax : atomicResult 2 4 old b = if signed b ≤ signed old then old else b := by
    simp only [signed, ← toInt_ofNat_word ho, ← toInt_ofNat_word hb]
    rfl
  have hinj : signed old = signed b → old = b := fun h => by
    have := congrArg BitVec.toNat (BitVec.eq_of_toInt_eq h)
    rwa [hword ho, hword hb] at this
  refine ⟨rfl, fun h => ?_, fun h => ?_, ?_, ?_, ?_, rfl, rfl, ?_⟩
  · rw [hmin, hmax, if_pos h]
    split
    · rename_i h'
      exact ⟨rfl, hinj (Int.le_antisymm h h')⟩
    · exact ⟨rfl, rfl⟩
  · rw [hmin, hmax, if_pos h]
    split
    · rename_i h'
      exact ⟨hinj (Int.le_antisymm h' h), rfl⟩
    · exact ⟨rfl, rfl⟩
  · rw [BitVec.toNat_and, hword ho, hword hb]; rfl
  · rw [BitVec.toNat_or, hword ho, hword hb]; rfl
  · rw [BitVec.toNat_xor, hword ho, hword hb]; rfl
  · simp [atomicResult]

theorem AtomicOp.written_cas {a : AtomicOp} (h : a.op = 13) (old : Nat) :
    a.written old = if old = a.compare.toNat % 2 ^ (8 * a.bytes) then some (a.operand.toNat % 2 ^ (8 * a.bytes)) else none := if_pos h

/-- Settles O33: an atomic that need not wait leaves through `atomicRun_ready`, its requests by induction over the threads' pieces. -/
theorem atomics : Obligations.Atomics := by
  unfold Obligations.Atomics
  refine ⟨fun o i op value hi s s' e h => ?_, fun old b ho hb => ?_⟩
  · have hx : exec i s = _ := IsAtomic.exec_eq hi s
    refine ⟨fun hm => ?_, fun hna => ?_, fun u c hm ha hc => ?_, fun u ps hm ha hr hready => ?_⟩
    · exact h.passes hx (((Env.aligned_of_no_threads hm).access i s' _).trans (Env.global_of_no_threads hm ..))
    · obtain ⟨u, hu, hf, hne⟩ := Env.exists_misaligned hna
      obtain ⟨t, ht, htr⟩ := h.raises hx (c := .misaligned) (a := e.address o false (e.exm o.p) u) (by simp only [Env.atomicAccess, hf])
      exact ⟨t, u, ht, htr, (Mask.mem_threads.mp hu).2, hne⟩
    · exact h.turned hx ((Env.Aligned.access ha i s' _).trans (Env.global_of_checks hm hc ..))
    · obtain ⟨t, v, ht, hadv, hsent, hmem, hloads, hout⟩ := atomics_leave_home h hi hm ha hr hready
      obtain ⟨load, hsome, hload, hleft⟩ := hsent.left
      refine ⟨t, ht, hadv, fun a => by rw [hmem, hsent.mem], fun n p hp => ?_⟩
      obtain ⟨k, w, hw, hagent, hline, hord, hsc, hatomic⟩ := hleft p (List.mem_of_getElem? hp)
      refine ⟨k, w, hout ▸ hw, hagent, hline, _, hatomic, rfl, rfl, rfl, rfl, ?_, rfl, hsome, hord, hsc, fun key hkey => ?_⟩
      · split <;> rfl
      · rw [hloads]
        exact hload key hkey
  · obtain ⟨h0, h1, h2, h3, h4, h5, h6, h7, h8⟩ := atomicResult_word ho hb
    exact ⟨h0, h1, h2, h3, h4, h5, h6, h7, h8, fun a h => AtomicOp.written_cas h old⟩

end Sys2Proof.Machine

/-! What strands keep while accesses are checked, made at homes and fetched: all but the marks of their monitors (R285). -/

namespace Sys2Proof.Machine

/-! ### Strands apart from their monitors -/

/-- R285: a strand apart from the monitors of its splits. -/
def Strand.unwatched (st : Strand) : Strand := { st with splits := st.splits.map fun k => { k with mon := none } }

/-- What of a strand is not in its splits is alike where the strands are, monitors apart. -/
theorem Strand.keeps_of_unwatched {α : Type} {st st' : Strand} (g : Strand → α) (hg : ∀ x ks, g { x with splits := ks } = g x)
    (h : st'.unwatched = st.unwatched) : g st' = g st := by
  rw [← hg st' (st'.splits.map fun k => { k with mon := none }), ← hg st (st.splits.map fun k => { k with mon := none })]
  exact congrArg g h

theorem Strand.length_of_unwatched {st st' : Strand} (h : st'.unwatched = st.unwatched) : st'.splits.length = st.splits.length := by
  simpa [Strand.unwatched] using congrArg (fun x : Strand => x.splits.length) h

theorem Strand.split_unwatched (st : Strand) (j : Nat) : st.unwatched.split j = { st.split j with mon := none } := by
  simp only [Strand.unwatched, Strand.split, List.getD_eq_getElem?_getD, List.getElem?_map]
  cases st.splits[j]? <;> rfl

theorem Strand.split_of_unwatched {α : Type} {st st' : Strand} (g : Split → α) (hg : ∀ x m, g { x with mon := m } = g x)
    (h : st'.unwatched = st.unwatched) (j : Nat) : g (st'.split j) = g (st.split j) := by
  rw [← hg (st'.split j) none, ← hg (st.split j) none, ← Strand.split_unwatched, ← Strand.split_unwatched, h]

/-- R285: from state `s` to state `t` strands have changed in nothing but their monitors. -/
structure Unmoved (s t : State) : Prop where
  strands : ∀ w, (t.strand? w).map Strand.unwatched = (s.strand? w).map Strand.unwatched

theorem Unmoved.refl (s : State) : Unmoved s s := ⟨fun _ => rfl⟩

theorem Unmoved.trans {s t u : State} (h : Unmoved s t) (h' : Unmoved t u) : Unmoved s u := ⟨fun w => (h'.strands w).trans (h.strands w)⟩

theorem Unmoved.foldl {α : Type} {f : State → α → State} (hf : ∀ s x, Unmoved s (f s x)) (xs : List α) (s : State) : Unmoved s (xs.foldl f s) := by
  induction xs generalizing s with
  | nil => exact .refl s
  | cons x xs ih => exact (hf s x).trans (ih _)

theorem Unmoved.foldl_fst {α β : Type} {f : State × β → α → State × β} (hf : ∀ a x, Unmoved a.1 (f a x).1) (xs : List α) (a : State × β) :
    Unmoved a.1 (xs.foldl f a).1 := by
  induction xs generalizing a with
  | nil => exact .refl a.1
  | cons x xs ih => exact (hf a x).trans (ih _)

/-- A strand of a state that has not been moved. -/
theorem Unmoved.strand {s t : State} {w : Who} {st : Strand} (h : Unmoved s t) (hs : s.strand? w = some st) :
    ∃ st', t.strand? w = some st' ∧ st'.unwatched = st.unwatched := by
  have hw := h.strands w
  rw [hs] at hw
  exact Option.map_eq_some_iff.mp hw

/-- The strands of a state are those of its teams and of its latency cores' threads. -/
theorem State.strand?_of_threads {s t : State} (hT : t.teams = s.teams) (hL : ∀ l th, (t.lc l).thread th = (s.lc l).thread th) (w : Who) :
    t.strand? w = s.strand? w := by
  cases w with
  | warp | handler => simp only [State.strand?, hT]
  | lat l th => simp only [State.strand?, hL]

theorem Unmoved.of_threads {s t : State} (hT : t.teams = s.teams) (hL : ∀ l th, (t.lc l).thread th = (s.lc l).thread th) : Unmoved s t :=
  ⟨fun w => by rw [State.strand?_of_threads hT hL]⟩

theorem Unmoved.of_lcs {s t : State} (hT : t.teams = s.teams) (hL : t.lcs = s.lcs) : Unmoved s t :=
  .of_threads hT fun l th => by rw [State.lc, State.lc, hL]

theorem unmoved_spend (s : State) (n : Nat) : Unmoved s (s.spend n) := .of_lcs rfl rfl

theorem unmoved_setDie (s : State) (d : Nat) (x : Die) : Unmoved s (s.setDie d x) := .of_lcs rfl rfl

theorem unmoved_setCore (s : State) (c : Nat) (x : Core) : Unmoved s (s.setCore c x) := .of_lcs rfl rfl

/-- A latency core that changes, threads apart. -/
theorem unmoved_setLc (s : State) (l : Nat) (x : Lc) (h : ∀ th, x.thread th = (s.lc l).thread th) : Unmoved s (s.setLc l x) := by
  refine .of_threads rfl fun l' th => ?_
  by_cases hl : l' = l
  · rw [hl, State.lc_setLc, h]
  · rw [State.lc, State.setLc, readOr_write_ne _ hl]
    rfl

/-! ### Homes -/

theorem Split.record_unwatched (line : Nat) (k : Split) : { k.record line with mon := none } = ({ k with mon := none } : Split) := by
  unfold Split.record
  repeat' split
  all_goals rfl

theorem Strand.recordLine_unwatched (line : Nat) (st : Strand) : (st.recordLine line).unwatched = st.unwatched := by
  simp only [Strand.unwatched, Strand.recordLine, List.map_map, Function.comp_def, Split.record_unwatched]

theorem State.lc_recordLine (s : State) (line l : Nat) :
    (s.recordLine line).lc l = { s.lc l with t0 := (s.lc l).t0.recordLine line, t1 := (s.lc l).t1.recordLine line } := by
  have h := look_mapVals s.lcs (fun _ x => { x with t0 := x.t0.recordLine line, t1 := x.t1.recordLine line }) l
  simp only [State.lc, readOr]
  refine (congrArg (·.getD {}) h).trans ?_
  cases look s.lcs l <;> rfl

/-- R285: a record reaches every strand. -/
theorem State.strand?_recordLine (s : State) (line : Nat) (w : Who) :
    (s.recordLine line).strand? w = (s.strand? w).map (Strand.recordLine line) := by
  have hteam (t : Nat) : look (s.recordLine line).teams t =
      (look s.teams t).map fun x => { x with warps := x.warps.map (Warp.recordLine line) } :=
    look_mapVals s.teams (fun _ x => { x with warps := x.warps.map (Warp.recordLine line) }) t
  cases w with
  | warp t n k =>
    simp only [State.strand?, hteam]
    cases look s.teams t with
    | none => rfl
    | some x =>
      simp only [Option.map_some, Option.bind_some, List.getElem?_map]
      cases x.warps[n]? <;> rfl
  | handler t n =>
    simp only [State.strand?, hteam]
    cases look s.teams t with
    | none => rfl
    | some x =>
      simp only [Option.map_some, Option.bind_some, List.getElem?_map]
      cases x.warps[n]? <;> rfl
  | lat l th =>
    have hth : ((s.recordLine line).lc l).thread th = ((s.lc l).thread th).recordLine line := by
      rw [State.lc_recordLine, Lc.thread, Lc.thread]
      split <;> rfl
    simp only [State.strand?, hth]
    generalize (s.lc l).thread th = h
    obtain ⟨main, -, -, -, active, handler, -⟩ := h
    cases active <;> cases handler <;> rfl

theorem unmoved_recordLine (s : State) (line : Nat) : Unmoved s (s.recordLine line) := by
  refine ⟨fun w => ?_⟩
  rw [State.strand?_recordLine, Option.map_map]
  congr 1
  funext st
  exact Strand.recordLine_unwatched line st

theorem unmoved_merge (s : State) (line : Nat) (mask : BitVec 128) (data : BitVec 1024) : Unmoved s (s.merge line mask data) := by
  unfold State.merge
  refine Unmoved.trans ?_ (unmoved_recordLine _ line)
  exact .of_lcs rfl rfl

/-- Latency cores whose caches change. -/
theorem Unmoved.of_adjust {s t : State} {k : Nat} {f : Lc → Lc} (hT : t.teams = s.teams) (hL : t.lcs = adjust s.lcs k f)
    (hf : ∀ x th, (f x).thread th = x.thread th) : Unmoved s t := by
  refine .of_threads hT fun l th => ?_
  simp only [State.lc, readOr, hL]
  by_cases hl : l = k
  · simp only [hl, look_adjust_self]
    cases look s.lcs k with
    | none => rfl
    | some x => exact hf x th
  · rw [look_adjust_ne _ _ hl]

theorem unmoved_recall (s : State) (line : Nat) : Unmoved s (s.recall line) := by
  unfold State.recall
  refine Unmoved.foldl (fun s x => ?_) _ s
  dsimp only
  split
  · exact .refl s
  · split
    · exact .refl s
    · refine (unmoved_merge s line _ _).trans (.of_adjust rfl rfl fun x th => ?_)
      unfold Lc.thread
      split <;> rfl

theorem unmoved_homeRead (s : State) (pa n : Nat) : Unmoved s (s.homeRead pa n).1 := Unmoved.foldl unmoved_recall _ s

theorem unmoved_dropSharers (s : State) (line : Nat) : Unmoved s (s.dropSharers line) := by
  refine .of_threads rfl fun l th => ?_
  have h := look_mapVals s.lcs (fun _ x => { x with cache := unlist x.cache line }) l
  simp only [State.lc, readOr]
  refine (congrArg (fun x => (x.getD {}).thread th) h).trans ?_
  cases look s.lcs l with
  | none => rfl
  | some x =>
    simp only [Option.map_some, Option.getD_some, Lc.thread]

theorem unmoved_homeWriteLine (s : State) (pa : Nat) (bs : List Byte) : Unmoved s (s.homeWriteLine pa bs) := by
  unfold State.homeWriteLine
  generalize lineBytes (pa % 128) bs = mask
  exact ((unmoved_recall s _).trans (unmoved_dropSharers _ _)).trans (unmoved_merge _ _ mask.1 mask.2)

theorem unmoved_homeWrite (s : State) (pa : Nat) (bs : List Byte) : Unmoved s (s.homeWrite pa bs) := by
  unfold State.homeWrite
  split
  · exact .refl s
  · refine Unmoved.foldl (fun s p => ?_) _ s
    exact unmoved_homeWriteLine s p.1 p.2

/-! ### Checks of accesses -/

theorem unmoved_setAccess (s : State) (pa : Nat) (e : DWord) (w : Bool) : Unmoved s (s.setAccess pa e w).1 := by
  unfold State.setAccess
  extract_lets e'
  split
  · exact .refl s
  · dsimp only
    exact unmoved_homeWrite s pa _

theorem unmoved_cacheTables (s : State) (d : Nat) (ts : List TableEntry) : Unmoved s (s.cacheTables d ts) := by
  unfold State.cacheTables
  split
  · exact .refl s
  · exact unmoved_setDie ..

theorem unmoved_cacheLeaf (s : State) (a : Agent) (x : TlbEntry) : Unmoved s (s.cacheLeaf a x) := by
  unfold State.cacheLeaf
  dsimp only
  split
  · exact .of_lcs rfl rfl
  · exact .of_lcs rfl rfl

theorem unmoved_touch (s : State) (a : Agent) (w : Bool) (p : Place) : Unmoved s (s.touch a w p) := by
  unfold State.touch
  split
  · exact .refl s
  · exact ((unmoved_setAccess s _ _ _).trans (unmoved_cacheTables _ _ _)).trans (unmoved_cacheLeaf _ _ _)

theorem unmoved_touchAll (s : State) (a : Agent) (k : Kind) (c : Checked) : Unmoved s (s.touchAll a k c).1 := by
  cases c with
  | ok ps =>
    simp only [State.touchAll]
    split
    · exact .refl s
    · exact Unmoved.foldl (fun s p => unmoved_touch s a _ _) _ s
  | trap | queue => exact .refl s

theorem unmoved_mapped (s : State) (sp : Space) (k : Kind) (va : Nat) : Unmoved s (s.mapped sp k va).1 := by
  refine .of_lcs ?_ ?_ <;>
  · unfold State.mapped
    dsimp only
    repeat' split
    all_goals rfl

theorem unmoved_resolve (s : State) (sp : Space) (k : Kind) (va : Nat) : Unmoved s (s.resolve sp k va).1 := unmoved_mapped s sp k va

theorem unmoved_translateAll (s : State) (sp : Space) (k : Kind) (ws : List Want) : Unmoved s (s.translateAll sp k ws).1 := by
  induction ws generalizing s with
  | nil => exact .refl s
  | cons w ws ih =>
    unfold State.translateAll
    dsimp only
    refine Unmoved.trans ?_ (ih _)
    refine Unmoved.foldl_fst (fun a x => ?_) _ (s, [])
    exact unmoved_resolve a.1 sp k x.1

theorem unmoved_checkThreads (s : State) (sp : Space) (k : Kind) (go : Bool) (ws : List Want) : Unmoved s (s.checkThreads sp k go ws).1 := by
  unfold State.checkThreads
  dsimp only
  split
  · exact unmoved_translateAll ..
  · split
    · exact (unmoved_translateAll s sp k _).trans (unmoved_touchAll _ _ _ _)
    · exact unmoved_translateAll ..

theorem unmoved_envSpace (e : Env) (s : State) : Unmoved s (e.space s).1 := by
  refine .of_lcs ?_ ?_ <;>
  · unfold Env.space State.space
    dsimp only
    repeat' split
    all_goals rfl

/-! ### Constants -/

theorem constWord_spend (s : State) (born : Nat) (p : Place) : (s.constWord born p).1 = s ∨ (s.constWord born p).1 = s.spend 1 := by
  unfold State.constWord
  split
  · exact .inr rfl
  · split
    · exact .inl rfl
    · exact .inr rfl

/-- R44: reading constants changes nothing but the model's own counter. -/
theorem constWords_spend (s : State) (born : Nat) (ps : List Piece) : ∃ n, (s.constWords born ps).1 = { s with oracle := n } := by
  induction ps generalizing s with
  | nil => exact ⟨s.oracle, rfl⟩
  | cons p ps ih =>
    unfold State.constWords
    dsimp only
    obtain ⟨n, hn⟩ := ih (s.constWord born p.at_).1
    refine ⟨n, hn.trans ?_⟩
    rcases constWord_spend s born p.at_ with h | h <;> rw [h]
    rfl

/-! ### Fetches -/

theorem unmoved_serviceWord (s : State) (off : Nat) : Unmoved s (s.serviceWord off).1 := by
  refine .of_lcs ?_ ?_ <;>
  · unfold State.serviceWord
    dsimp only
    repeat' split
    all_goals rfl

theorem unmoved_regWord (s : State) (off : Nat) : Unmoved s (s.regWord off).1 := by
  unfold State.regWord
  dsimp only
  repeat' split
  all_goals simp only [Unmoved.refl, unmoved_spend, unmoved_serviceWord]

theorem unmoved_deviceRead (s : State) (pa n : Nat) : Unmoved s (s.deviceRead pa n).1 := by
  unfold State.deviceRead
  split
  · refine Unmoved.foldl_fst (fun a k => ?_) _ (s, [])
    exact unmoved_regWord a.1 _
  · exact .refl s
  · exact unmoved_spend s 1
  · exact .refl s

theorem unmoved_codeBytes (s : State) (d : Nat) (p : Place) : Unmoved s (s.codeBytes d p).1 := by
  unfold State.codeBytes
  dsimp only
  split
  · split
    · exact .refl s
    · split
      · exact unmoved_homeRead ..
      · exact unmoved_spend ..
  · split
    · split
      · exact unmoved_homeRead ..
      · exact unmoved_deviceRead ..
    · exact unmoved_spend ..

theorem unmoved_fetchBlock (s : State) (a : Agent) (d : Nat) (p : Place) : Unmoved s (s.fetchBlock a d p).1 := by
  unfold State.fetchBlock
  dsimp only
  split
  · split
    · exact unmoved_spend s 1
    · exact (unmoved_spend s 1).trans (unmoved_codeBytes _ d p)
  · exact unmoved_codeBytes s d p

theorem unmoved_fillIcache (s : State) (a : Agent) (n : Nat) (bs : List Byte) : Unmoved s (s.fillIcache a n bs) := by
  cases a with
  | wide c => exact unmoved_setCore ..
  | lat l =>
    refine unmoved_setLc s l _ fun th => ?_
    unfold Lc.thread
    split <;> rfl
  | _ => exact .refl s

end Sys2Proof.Machine

/-! Fetching, waking and late failures (R31, R53 to R57, R286, R314, R322, R401, R485). -/

namespace Sys2Proof.Machine

/-! ### Fetching -/

/-- R270, R402: the checks turn an instruction away whose effect is to make them. -/
theorem Turned.of_checked {e : Env} {i : Instr} {s u : State} {k : Kind} {c : Checked} {ok : List Piece → State → State}
    (h : exec i s = .next (e.checked k (u, c) ok)) : Turned e i s u k c := by
  cases c with
  | ok ps => trivial
  | trap c a => exact ⟨_, h, u.oracle, _, rfl⟩
  | queue va c l a => exact ⟨_, h⟩

/-- R31, R314: what a split does with the block that its fetch has reached. -/
def Env.receive (e : Env) (ps : List Piece) (s : State) : State :=
  match ps with
  | p :: _ =>
    if s.poisonedAt p then e.raise .dataError e.sp.pc s
    else
      let x := s.fetchBlock e.agent e.die p.at_
      let t := x.1.fillIcache e.agent (blockNo p.at_.dev p.at_.pa) x.2
      t.bump.mapSplit e.who fun k => k.fed (blockBase e.sp.pc) x.2 t.nextKey
  | [] => s

theorem fetch_eq {e : Env} {s v u : State} {sp : Space} {c : Checked}
    (hv : e.space (s.mapSplit e.who fun k => { k with stepped := k.stepping }) = (v, sp))
    (hu : v.checkAll sp .exec [{ thread := Mask.lowest e.sp.exm, va := (blockBase e.sp.pc).toNat, bytes := 32 }] = (u, c)) :
    e.fetch s = e.checked .exec (u, c) e.receive := by
  unfold Env.fetch
  simp only [hv, hu]
  rfl

theorem exec_instructionFetch {s : State} {e : Env} (he : s.env = some e) (hst : e.sp.st = .fetch ∨ e.sp.st = .ready) :
    exec .instructionFetch s = .next (e.fetch s) := by
  show execInstructionFetch s = _
  simp only [execInstructionFetch, he]
  rw [if_pos (by simpa using hst)]

/-- R57: what no cache holds is fetched from memory. -/
theorem fetchBlock_of_memory {s : State} {a : Agent} {d : Nat} {p : Place} (hdev : p.dev = s.dev) (hpa : p.pa < hbmEnd)
    (hi : look (s.icache a) (blockNo p.dev p.pa) = none) (hr : look (s.die d).rdc (lineNo p.dev p.pa) = none) :
    s.fetchBlock a d p = s.homeRead p.pa 32 := by
  simp only [State.fetchBlock, hi, State.codeBytes, hr, if_pos hdev, if_pos hpa]

theorem Strand.reg_of_regs {st st' : Strand} (h : st'.regs = st.regs) (n t : Nat) : st'.reg n t = st.reg n t := by
  simp only [Strand.reg, h]

/-- R31, R314: a fetch that is not turned away gives the split its block. -/
theorem receive_block {e : Env} {s u : State} {p : Piece} (he : s.env = some e) (hlen : e.k < e.st.splits.length)
    (hst : e.sp.st = .fetch ∨ e.sp.st = .ready) (hpoison : u.poisonedAt p = false)
    (hu : u.strand? e.who = (s.mapSplit e.who fun k => { k with stepped := k.stepping }).strand? e.who) :
    ∃ (st : Strand) (b : FetchBlock), (e.receive [p] u).strand? e.who = some st ∧ (st.split e.k).block = some b ∧
      b.base = blockBase e.sp.pc ∧ b.bytes = (u.fetchBlock e.agent e.die p.at_).2 ∧ (st.split e.k).st = .ready ∧ (st.split e.k).pc = e.sp.pc ∧
      (∀ n r, st.reg n r = e.st.reg n r) ∧ st.sstat = e.st.sstat := by
  obtain ⟨hs, hk, hsp, -⟩ := State.env_fields he
  rw [State.strand?_mapSplit _ hs] at hu
  have hmoved := (unmoved_fetchBlock u e.agent e.die p.at_).trans
    (unmoved_fillIcache _ e.agent (blockNo p.at_.dev p.at_.pa) (u.fetchBlock e.agent e.die p.at_).2)
  obtain ⟨st', hst', halike⟩ := hmoved.strand hu
  have hlength := Strand.length_of_unwatched halike
  have hpc : (st'.split e.k).pc = e.sp.pc := by
    rw [Strand.split_of_unwatched Split.pc (fun _ _ => rfl) halike, ← hk, Strand.split_mapSplit_self _ _ _ hlen, hsp]
  have hstate : (st'.split e.k).st = e.sp.st := by
    rw [Strand.split_of_unwatched Split.st (fun _ _ => rfl) halike, ← hk, Strand.split_mapSplit_self _ _ _ hlen, hsp]
  unfold Env.receive
  dsimp only
  rw [if_neg (by simp [hpoison])]
  refine ⟨_, { base := blockBase e.sp.pc, bytes := (u.fetchBlock e.agent e.die p.at_).2 }, State.strand?_mapSplit _ ((State.strand?_bump ..).trans hst'), ?_⟩
  rw [← hk, Strand.split_mapSplit_self _ _ _ ?_]
  · refine ⟨rfl, rfl, rfl, ?_, hpc, fun n r => ?_, ?_⟩
    · rcases hst with h | h <;> simp [Split.fed, hstate, h]
    · exact Strand.reg_of_regs (st' := st') (Strand.keeps_of_unwatched Strand.regs (fun _ _ => rfl) halike) n r
    · exact (Strand.keeps_of_unwatched Strand.sstat (fun _ _ => rfl) halike : st'.sstat = _)
  · rw [hlength]
    simpa only [Strand.mapSplit, length_setNth] using hlen

theorem exec_notAnInstruction {s : State} {e : Env} {r : Reject} (he : s.env = some e) (hf : e.sp.fetched = some (.reject r)) :
    ∃ t, exec .notAnInstruction s = .next t ∧ Traps e s t (e.trapOf (rejectCause r e.sp.pc).1 (rejectCause r e.sp.pc).2) := by
  refine ⟨e.raise (rejectCause r e.sp.pc).1 (rejectCause r e.sp.pc).2 s, ?_, s.oracle, _, rfl⟩
  show execNotAnInstruction s = _
  simp only [execNotAnInstruction, he, hf]

/-! ### Waking -/

theorem Team.mapWarp_core (x : Team) (n : Nat) (f : Warp → Warp) : (x.mapWarp n f).core = x.core := by
  unfold Team.mapWarp
  split <;> rfl

theorem State.away_mapStrand (s : State) (w : Who) (f : Strand → Strand) : (s.mapStrand w f).away w = s.away w := by
  have h (t n : Nat) (g : Warp → Warp) :
      (look (s.mapTeam t fun x => x.mapWarp n g).teams t).any (fun x => x.core.isSome) = (look s.teams t).any fun x => x.core.isSome := by
    rw [look_mapTeam]
    cases look s.teams t with
    | none => rfl
    | some x => simp only [Option.map_some, Option.any_some, Team.mapWarp_core]
  cases w with
  | warp t n => exact congrArg (!·) (h t n _)
  | handler t n => exact congrArg (!·) (h t n _)
  | lat => rfl

theorem State.strand?_imageDue (s : State) (w v : Who) : (s.imageDue w).strand? v = s.strand? v := by
  unfold State.imageDue
  split
  · split
    · exact State.strand?_mapTeam s _ _ v fun _ => rfl
    · exact State.strand?_mapTeam s _ _ v fun _ => rfl
    · rfl
  · rfl

theorem State.mem_imageDue (s : State) (w : Who) : (s.imageDue w).mem = s.mem := by
  unfold State.imageDue
  split
  · split <;> rfl
  · rfl

/-- R322, R401: the split of a strand that wakes. -/
def Env.woken (e : Env) (s : State) (k : Split) : Split :=
  if k.stop || s.away e.who then { k with wake := true } else e.charge (k.awake s.nextKey)

theorem wake_eq (e : Env) (s : State) : e.wake s = (s.bump.mapSplit e.who (e.woken s)).imageDue e.who := rfl

theorem wake_strand {e : Env} {s : State} (h : s.strand? e.who = some e.st) :
    (e.wake s).strand? e.who = some (e.st.mapSplit (splitNo e.who) (e.woken s)) := by
  rw [wake_eq, State.strand?_imageDue]
  exact State.strand?_mapSplit _ ((State.strand?_bump ..).trans h)

theorem wake_mem (e : Env) (s : State) : (e.wake s).mem = s.mem := by
  rw [wake_eq, State.mem_imageDue, State.mapSplit_mem]
  rfl

theorem wake_only {e : Env} {s : State} (h : s.strand? e.who = some e.st) (ha : s.away e.who = false) :
    Only e.who s (e.wake s) (e.st.mapSplit (splitNo e.who) (e.woken s)) := by
  have haway : (s.bump.mapSplit e.who (e.woken s)).away e.who = false :=
    (State.away_mapStrand _ _ _).trans (by cases hw : e.who <;> rw [hw] at ha <;> exact ha)
  have himage : (s.bump.mapSplit e.who (e.woken s)).imageDue e.who = s.bump.mapSplit e.who (e.woken s) := if_neg (by simp [haway])
  rw [wake_eq, himage]
  exact (Only.refl h).bump.mapStrand _

/-- R322: what a split keeps that wakes, and where it goes on. -/
theorem woken_kept {e : Env} {s : State} {k : Split} (hs : k.stop = true ∨ s.away e.who = true) : e.woken s k = { k with wake := true } :=
  if_pos (by simpa using hs)

theorem Env.charge_keeps {α : Type} (g : Split → α) (hg : ∀ k n, g { k with paid := n } = g k) (e : Env) (k : Split) : g (e.charge k) = g k := by
  unfold Env.charge
  split
  · exact hg ..
  · rfl

theorem Split.awake_st (k : Split) (now : Nat) : (k.awake now).st = .ready ∨ (k.awake now).st = .fetch := by
  simp only [Split.awake, Split.go]
  exact ite_eq_or_eq ..

theorem woken_awake {e : Env} {s : State} {k : Split} (hs : k.stop = false) (ha : s.away e.who = false) :
    e.woken s k = e.charge (k.awake s.nextKey) :=
  if_neg (by simp [hs, ha])

/-- R286, R322, R338, R430: which instruction of the model wakes a split that waits so. -/
def Wakes (e : Env) (s : State) (k : Park) (i : Instr) : Prop :=
  (i = .splitWake ∧ s.met e k.cond = true) ∨ (i = .mwaitTimeout ∧ k.cond = .monitor ∧ k.left = some 0) ∨
    (i = .waitExpiry ∧ k.cond = .clocks ∧ k.left = some 0) ∨ (i = .wfiTimeout ∧ k.cond = .serviceRing ∧ k.left = some 0)

/-- R430: a split that has been woken by its condition knows the event. -/
def Split.knowing (i : Instr) (k : Split) : Split := if i = .splitWake then { k with park := k.park.map Park.event } else k

theorem Split.knowing_keeps {α : Type} (g : Split → α) (hg : ∀ k p, g { k with park := p } = g k) (i : Instr) (k : Split) :
    g (k.knowing i) = g k := by
  unfold Split.knowing
  split
  · exact hg ..
  · rfl

theorem Split.knowing_park (i : Instr) (k : Split) : (k.knowing i).park = k.park.map fun p => if i = .splitWake then p.event else p := by
  unfold Split.knowing
  split
  · rfl
  · exact (Option.map_id' ..).symm

theorem Split.knowing_of_park {i : Instr} {k : Split} {p : Park} (h : k.park = some p) :
    ({ k with wake := true } : Split).knowing i = { k with wake := true, park := some (if i = .splitWake then p.event else p) } := by
  unfold Split.knowing
  split
  · simp only [h, Option.map_some]
  · rw [← h]

/-- R322: a split that wakes goes on where it waited. -/
theorem Env.awake_knowing (e : Env) (k : Split) (now : Nat) (i : Instr) :
    let k' := (e.charge (k.awake now)).knowing i
    k'.pc = k.pc ∧ k'.exm = k.exm ∧ k'.score = k.score ∧ k'.mon = k.mon ∧ (k'.st = .ready ∨ k'.st = .fetch) ∧ k'.again = k.again ∧
      k'.park = if k.again then k.park.map fun p => if i = .splitWake then p.event else p else none := by
  have hkeep {α : Type} (g : Split → α) (hp : ∀ k p, g { k with park := p } = g k) (hn : ∀ k n, g { k with paid := n } = g k) :
      g ((e.charge (k.awake now)).knowing i) = g (k.awake now) :=
    (Split.knowing_keeps g hp i _).trans (e.charge_keeps g hn _)
  refine ⟨hkeep Split.pc ?_ ?_, hkeep Split.exm ?_ ?_, hkeep Split.score ?_ ?_, hkeep Split.mon ?_ ?_, ?_, hkeep Split.again ?_ ?_, ?_⟩
  case refine_9 =>
    rw [hkeep Split.st (fun _ _ => rfl) fun _ _ => rfl]
    exact k.awake_st now
  case refine_12 =>
    rw [Split.knowing_park, e.charge_keeps Split.park fun _ _ => rfl]
    exact apply_ite (Option.map _) (k.again = true) k.park none
  all_goals exact fun _ _ => rfl

theorem Strand.mapSplit_mapSplit (st : Strand) {k : Nat} (f g : Split → Split) (h : k < st.splits.length) :
    (st.mapSplit k f).mapSplit k g = st.mapSplit k fun x => g (f x) := by
  rw [Strand.mapSplit, Strand.split_mapSplit_self st k f h]
  simp only [Strand.mapSplit, setNth_setNth]

/-- R322, R401: between states `s` and `t` instruction `i` of the model has woken the split of `e`. -/
structure Woken (e : Env) (s t : State) (i : Instr) : Prop where
  strand : t.strand? e.who = some (e.st.mapSplit e.k fun k => (e.woken s k).knowing i)
  mem    : t.mem = s.mem
  rest   : s.away e.who = false → t.elsewhere e.who = s.elsewhere e.who

section
variable {s : State} {e : Env} {k : Park} {i : Instr} (he : s.env = some e) (hpark : e.sp.park = some k)
include he hpark

theorem splitWake_unmet (hm : s.met e k.cond = false) : exec .splitWake s = .next s.bump := by
  show execSplitWake s = _
  simp [execSplitWake, he, hpark, hm]

variable (hwait : e.sp.st = .parked ∨ e.sp.st = .interlock)
include hwait

theorem splitWake_met (hm : s.met e k.cond = true) :
    exec .splitWake s = .next ((e.wake s).mapSplit e.who fun k => { k with park := k.park.map Park.event }) := by
  have hw : e.waits = true := by simpa [Env.waits] using hwait
  show execSplitWake s = _
  simp [execSplitWake, he, hpark, hm, hw]

theorem wakeOnTime_wakes (hl : k.left = some 0) (hi : i ≠ .splitWake) (hx : exec i s = wakeOnTime k.cond s) :
    ∃ t, exec i s = .next t ∧ Woken e s t i := by
  obtain ⟨hst, hk, -⟩ := State.env_fields he
  have hw : e.waits = true := by simpa [Env.waits] using hwait
  refine ⟨e.wake s, hx.trans (by simp [wakeOnTime, he, hpark, hl, hw]), ?_, wake_mem e s, fun ha => (wake_only hst ha).rest⟩
  simp only [wake_strand hst, Split.knowing, if_neg hi, hk]

/-- R286, R322, R338, R401, R430: the strand of a split that wakes. -/
theorem exec_wakes (hlen : e.k < e.st.splits.length) (h : Wakes e s k i) : ∃ t, exec i s = .next t ∧ Woken e s t i := by
  obtain ⟨hst, hk, -⟩ := State.env_fields he
  rcases h with ⟨rfl, hm⟩ | ⟨rfl, hc, hl⟩ | ⟨rfl, hc, hl⟩ | ⟨rfl, hc, hl⟩
  · refine ⟨_, splitWake_met he hpark hwait hm, ?_, (State.mapSplit_mem ..).trans (wake_mem e s), fun ha => ?_⟩
    · rw [State.strand?_mapSplit _ (wake_strand hst), ← hk, Strand.mapSplit_mapSplit _ _ _ hlen]
      rfl
    · exact ((wake_only hst ha).mapStrand _).rest
  · exact wakeOnTime_wakes he hpark hwait hl (by decide) (hc ▸ rfl)
  · exact wakeOnTime_wakes he hpark hwait hl (by decide) (hc ▸ rfl)
  · exact wakeOnTime_wakes he hpark hwait hl (by decide) (hc ▸ rfl)

end

/-! ### Late failures -/

/-- R485: of a split the registers that leave SCORE change SCORE alone. -/
theorem Split.scored_keeps {α : Type} (g : Split → α) (hg : ∀ k x, g { k with score := x } = g k) (r n : Nat) (m : Mask) (k : Split) :
    g ((List.range n).foldl (fun k j => k.scored (r + j) m) k) = g k := by
  generalize List.range n = js
  induction js generalizing k with
  | nil => rfl
  | cons j js ih => exact (ih _).trans (hg ..)

theorem Split.mem_scored {k : Split} {r : Nat} {m : Mask} {x : ScoreEntry} (h : x ∈ (k.scored r m).score) :
    (x.reg = r → x.mask &&& m = 0) ∧ ∃ y ∈ k.score, x.reg = y.reg ∧ (y.mask &&& m = 0 → x.mask &&& m = 0) := by
  simp only [Split.scored, List.mem_filter, List.mem_map] at h
  obtain ⟨⟨y, hy, rfl⟩, -⟩ := h
  split
  · have hm : y.mask &&& ~~~m &&& m = 0 := by
      rw [BitVec.and_assoc, BitVec.and_comm (~~~m), BitVec.and_not_self]
      exact BitVec.and_zero
    exact ⟨fun _ => hm, y, hy, rfl, fun _ => hm⟩
  · rename_i hr
    exact ⟨fun h => absurd h hr, y, hy, rfl, id⟩

/-- R485: the registers of a load that leave SCORE do so in its threads. -/
theorem Split.mem_foldl_scored {js : List Nat} {r : Nat} {m : Mask} {k : Split} {x : ScoreEntry}
    (h : x ∈ (js.foldl (fun k j => k.scored (r + j) m) k).score) :
    (∀ j ∈ js, x.reg = r + j → x.mask &&& m = 0) ∧ ∃ y ∈ k.score, x.reg = y.reg ∧ (y.mask &&& m = 0 → x.mask &&& m = 0) := by
  induction js generalizing k with
  | nil => exact ⟨by simp, x, h, rfl, id⟩
  | cons j js ih =>
    obtain ⟨hjs, y, hy, hreg, hmask⟩ := ih h
    obtain ⟨hj, w, hw, hreg', hmask'⟩ := Split.mem_scored hy
    refine ⟨fun i hi hx => ?_, w, hw, hreg.trans hreg', hmask ∘ hmask'⟩
    rcases List.mem_cons.mp hi with rfl | hi
    · exact hmask (hj (hreg ▸ hx))
    · exact hjs i hi hx

/-- R485: a strand that a failed load has left. -/
def Strand.dropped (st : Strand) (l : LoadOp) : Strand :=
  { st with splits := st.splits.map fun k => (List.range l.w.regs).foldl (fun k j => k.scored (l.reg + j) l.mask) k }

theorem dropLoad_strand {s : State} {l : LoadOp} {st : Strand} (h : s.strand? l.who = some st) (key : Nat) :
    (s.dropLoad key l).strand? l.who = some (st.dropped l) := by
  have hs : ({ s with loads := unlist s.loads key, reads := keep s.reads fun _ u => u.load ≠ key } : State).strand? l.who = some st :=
    (State.strand?_of_threads rfl (fun _ _ => rfl) _).trans h
  unfold State.dropLoad
  rw [State.strand?_mapStrand, hs]
  rfl

theorem dropLoad_gone (s : State) (key : Nat) (l : LoadOp) :
    look (s.dropLoad key l).loads key = none ∧ (∀ x ∈ (s.dropLoad key l).reads, x.2.load ≠ key) ∧ (s.dropLoad key l).mem = s.mem := by
  unfold State.dropLoad
  rw [State.mapStrand_loads, State.mapStrand_reads, State.mapStrand_mem]
  refine ⟨look_unlist_self .., fun x hx => ?_, rfl⟩
  simpa using (List.mem_filter.mp hx).2

theorem Strand.split_dropped (st : Strand) (l : LoadOp) {j : Nat} (hj : j < st.splits.length) :
    (st.dropped l).split j = (List.range l.w.regs).foldl (fun k j => k.scored (l.reg + j) l.mask) (st.split j) := by
  simp only [Strand.dropped, Strand.split, List.getD_eq_getElem?_getD, List.getElem?_map, List.getElem?_eq_getElem hj, Option.map_some,
    Option.getD_some]

theorem exec_lateAccessFailure {s : State} {key : Nat} {why : Late} {l : LoadOp} {n c : Nat} {st : Strand} (hl : look s.loads key = some l)
    (hf : l.failed = some (n, c)) (hleft : l.left = 0) (hc : c = causeCode (Late.cause why)) (he : s.earliestFailed key l.who = true)
    (hst : s.strand? l.who = some st) :
    exec (.lateAccessFailure key why) s = .next ((s.bump.dropLoad key l).takeTrap (splitOf l.who (st.holder n))
      { split := st.holder n, ecause := BitVec.ofNat 32 c, epc := l.pc, eaddr := ((l.eaddr.find? fun x => x.1 = n).map Prod.snd).getD 0, late := true }) := by
  show execLateAccessFailure key why s = _
  simp [execLateAccessFailure, hl, hf, hleft, hc, he, hst]

/-- Settles O10: a fetch through `receive_block`, a wake through `exec_wakes`, a late failure through `exec_lateAccessFailure`. -/
theorem fetchingAndWaking : Obligations.FetchingAndWaking := by
  unfold Obligations.FetchingAndWaking
  refine ⟨⟨fun s e v sp u c he hlen hst => ?_, fun s e r he hf => ?_⟩,
    fun s e k he hlen hpark hwait => ⟨fun hm => ?_, fun i => ?_⟩, fun s key why l n c st hl hf hleft hc hearly hst => ?_⟩
  · intro s₁ hv hu hstrand
    have hx : exec .instructionFetch s = .next (e.checked .exec (u, c) e.receive) := by rw [exec_instructionFetch he hst, fetch_eq hv hu]
    refine ⟨Turned.of_checked hx, fun p hp haskew hpoison => ?_⟩
    subst hp
    rw [Env.checked_ok _ (by simpa using haskew)] at hx
    obtain ⟨st, b, hst', hb, hbase, hbytes, hstate, hpc, hregs, hsstat⟩ := receive_block he hlen hst hpoison hstrand
    refine ⟨_, st, b, hx, hst', hb, hbase, hstate, hpc, fun n r _ => hregs n r, hsstat, fun hdev hpa hi hr => ?_⟩
    rw [hbytes, fetchBlock_of_memory hdev hpa hi hr]
  · obtain ⟨t, ht, htrap⟩ := exec_notAnInstruction he hf
    exact ⟨t, ht, by cases r <;> exact htrap⟩
  · exact ⟨_, splitWake_unmet he hpark hm, rfl⟩
  · intro park hi
    obtain ⟨-, -, hsp, -⟩ := State.env_fields he
    obtain ⟨t, ht, ⟨hst, hmem, hrest⟩⟩ := exec_wakes he hpark hwait hlen hi
    have hself : (e.st.mapSplit e.k fun k => (e.woken s k).knowing i).split e.k = (e.woken s e.sp).knowing i := by
      rw [Strand.split_mapSplit_self _ _ _ hlen, hsp]
    refine ⟨t, _, ht, hst, rfl, fun j hj => Strand.split_mapSplit_ne _ _ hj, fun _ _ _ => rfl, hmem, fun ha => ?_, fun hs => ?_, fun hs ha => ?_⟩
    · exact ⟨hst, fun _ _ _ => rfl, rfl, rfl, hrest ha, fun a => by rw [hmem]⟩
    · rw [hself, woken_kept hs, Split.knowing_of_park hpark]
    · rw [hself, woken_awake hs ha]
      obtain ⟨hpc, hexm, hscore, hmon, hstate, hagain, hp⟩ := Env.awake_knowing e e.sp s.nextKey i
      refine ⟨hpc, hexm, hscore, hmon, hstate, hagain, hp.trans ?_⟩
      rw [hpark]
      rfl
  · have hb : s.bump.strand? l.who = some st := (State.strand?_bump ..).trans hst
    obtain ⟨hgone, hreads, hmem⟩ := dropLoad_gone s.bump key l
    have hcause : c = causeCode (Late.cause why) := hc.trans (by cases why <;> rfl)
    refine ⟨_, _, exec_lateAccessFailure hl hf hleft hcause hearly hst, hgone, hreads, dropLoad_strand hb key, rfl, rfl, rfl, fun j hj => ?_, hmem⟩
    rw [Strand.split_dropped st l hj]
    refine ⟨Split.scored_keeps Split.pc (fun _ _ => rfl) .., Split.scored_keeps Split.exm (fun _ _ => rfl) .., fun x hx i hi hreg => ?_⟩
    exact (Split.mem_foldl_scored hx).1 i (List.mem_range.mpr hi) hreg

end Sys2Proof.Machine

/-! Source B and constant windows (R40 to R44, R123). -/

namespace Sys2Proof.Machine

/-! ### Source B -/

section
variable {e : Env} {o : Alu} {s : State}

/-- R40: source B as a register or a pair. -/
theorem readsB_register {r : RegNo} {u : Bool} (h : o.b = .reg r u) (wide : Bool) :
    e.ReadsB o wide s s fun t => if wide then e.srcPair (e.exm o.p) r u t else (e.src (e.exm o.p) r u t).setWidth 64 := by
  refine ⟨fun body => ?_, rfl⟩
  simp only [Env.withB, h]

/-- R41, R42: source B as an immediate. -/
theorem readsB_imm {x : Word} (h : o.b = .imm x) (wide : Bool) :
    e.ReadsB o wide s s fun _ => if wide then widenOp o.ty x else x.setWidth 64 := by
  refine ⟨fun body => ?_, rfl⟩
  simp only [Env.withB, h]

section
variable {w : BitVec 3} {off : BitVec 17} (h : o.b = .const w off) (hm : e.exm o.p ≠ 0) (wide : Bool) (ext : Word → DWord)
  (body : (Nat → DWord) → State → State)
include h hm

/-- R43: a reference to an absent window traps. -/
theorem withB_absent (hw : s.window e w.toNat = 0) :
    e.withB (e.exm o.p) o.b wide ext s body = e.raise .permission (BitVec.ofNat 64 (4 * off.toNat)) s := by
  simp only [Env.withB, h, if_neg hm, if_pos hw]

/-- R43: a reference to a pair at an odd offset traps. -/
theorem withB_odd (hw : s.window e w.toNat ≠ 0) (hodd : off.toNat % 2 = 1) :
    e.withB (e.exm o.p) o.b true ext s body = e.raise .misaligned (s.window e w.toNat + BitVec.ofNat 64 (4 * off.toNat)) s := by
  simp only [Env.withB, h, if_neg hm, if_neg hw, hodd, decide_true, Bool.and_self, if_true]

end
end

/-! ### Registers on their way -/

/-- R321: a strand is as another one was but for SCORE and the results `xs` that have been sent to it. -/
structure Strand.Due (st st' : Strand) (xs : List Inbound) : Prop where
  regs    : st'.regs = st.regs
  sstat   : st'.sstat = st.sstat
  length  : st'.splits.length = st.splits.length
  exm     : ∀ j, (st'.split j).exm = (st.split j).exm
  inbound : st'.inbound = st.inbound ++ xs

theorem Strand.Due.trans {st st' st'' : Strand} {xs ys : List Inbound} (h : st.Due st' xs) (h' : st'.Due st'' ys) : st.Due st'' (xs ++ ys) where
  regs    := h'.regs.trans h.regs
  sstat   := h'.sstat.trans h.sstat
  length  := h'.length.trans h.length
  exm j   := (h'.exm j).trans (h.exm j)
  inbound := by rw [h'.inbound, h.inbound, List.append_assoc]

theorem Strand.due_of_unwatched {st st' : Strand} (h : st'.unwatched = st.unwatched) : st.Due st' [] where
  regs    := Strand.keeps_of_unwatched Strand.regs (fun _ _ => rfl) h
  sstat   := Strand.keeps_of_unwatched Strand.sstat (fun _ _ => rfl) h
  length  := Strand.length_of_unwatched h
  exm j   := Strand.split_of_unwatched Split.exm (fun _ _ => rfl) h j
  inbound := by rw [List.append_nil]; exact Strand.keeps_of_unwatched Strand.inbound (fun _ _ => rfl) h

/-- R321: the result that is on its way to a register. -/
def dueTo (m : Mask) (d : RegNo) (f : Nat → Word) : List Inbound :=
  if d = 0 ∨ m = 0 then [] else [{ reg := d.toNat, vals := (Mask.threads m).map fun t => (t, f t) }]

theorem Only.later_due {e : Env} {s t : State} {st : Strand} (h : Only e.who s t st) (m : Mask) (d : RegNo) (f : Nat → Word) :
    ∃ st', Only e.who s (e.later m d f t) st' ∧ st.Due st' (dueTo m d f) := by
  refine ⟨_, h.later m d f, ?_⟩
  unfold dueTo
  split
  · exact ⟨rfl, rfl, rfl, fun _ => rfl, (List.append_nil _).symm⟩
  · have hexm (j : Nat) := st.split_mapSplit_of_keeps e.k j (f := fun k => { k with score := k.score ++ [{ reg := d.toNat, mask := m }] })
      Split.exm fun _ => rfl
    exact ⟨rfl, rfl, length_setNth .., hexm, rfl⟩

/-! ### `ldc` -/

/-- R123: the check of a thread's reference. -/
theorem constRef_cause (base : DWord) (wide : Bool) (k : Nat) :
    (constRef base wide k).1 = if 2 ^ 17 ≤ k then some .permission else if base = 0 then some .permission
      else if wide && k % 2 = 1 then some .misaligned else none := by
  unfold constRef
  dsimp only
  repeat' split
  all_goals rfl

theorem constRef_addr (base : DWord) (wide : Bool) (k : Nat) : (constRef base wide k).2 = base + BitVec.ofNat 64 (4 * k) := by
  unfold constRef
  dsimp only
  repeat' split
  all_goals rfl

theorem Mask.find?_threads_some {m : Mask} {p : Nat → Bool} {u : Nat} (hu : u < 32) (hm : m.getLsbD u = true) (hp : p u = true)
    (hlow : ∀ v < u, m.getLsbD v = true → p v = false) : (Mask.threads m).find? p = some u := by
  rw [Mask.threads, List.find?_filter, List.find?_range_eq_some]
  refine ⟨by simp [hm, hp], List.mem_range.mpr hu, fun v hv => ?_⟩
  cases h : m.getLsbD v with
  | false => rfl
  | true => simp [hlow v hv h]

section
variable {o : Alu} {w : BitVec 3} {off : BitVec 17} {s s' : State} {e : Env}

/-- R123: the reference of a thread. -/
def Env.ldcRef (e : Env) (o : Alu) (w : BitVec 3) (off : BitVec 17) (s : State) (u : Nat) : Option Cause × DWord :=
  constRef (s.window e w.toNat) o.ty.wide (off.toNat + (e.src (e.exm o.p) o.a o.ua u).toNat)

/-- R123: what the threads below one read. -/
def Env.ldcWants (e : Env) (o : Alu) (w : BitVec 3) (off : BitVec 17) (s : State) (n : Nat) : List Want :=
  ((Mask.threads (e.exm o.p)).filter fun u => u < n).flatMap fun u =>
    (if o.ty.wide then [0, 4] else [0]).map fun d => { thread := u, va := ((e.ldcRef o w off s u).2.toNat + d) % 2 ^ 64, bytes := 4 }

/-- R123: the words of checked references are on their way, or one of them cannot be read. -/
def Env.ldcDone (e : Env) (o : Alu) (w : BitVec 3) (off : BitVec 17) (s : State) (ps : List Piece) (t : State) : State :=
  match ps.find? fun p => t.poisonedAt p with
  | some p => e.raise .dataError (e.ldcRef o w off s p.thread).2 t
  | none => e.retire (.ldc o) (e.ldcValues (e.exm o.p) o ps t)

/-- R123: what `ldc` does once it has been entered. -/
def Env.ldc (e : Env) (o : Alu) (w : BitVec 3) (off : BitVec 17) (s : State) : State :=
  let bad := (Mask.threads (e.exm o.p)).find? fun u => (e.ldcRef o w off s u).1.isSome
  let x := e.space s
  e.checked .read (x.1.checkThreads x.2 .read bad.isNone (e.ldcWants o w off s (bad.getD 32))) fun ps t =>
    match bad with
    | some u => e.raise ((e.ldcRef o w off s u).1.getD .permission) (e.ldcRef o w off s u).2 x.1
    | none => e.ldcDone o w off s ps t

theorem exec_ldc (hb : o.b = .const w off) (s : State) : exec (.ldc o) s = act (.ldc o) s fun e s => e.ldc o w off s := by
  have hx : exec (.ldc o) s = execLdc o s := rfl
  unfold execLdc at hx
  rw [hx, hb]
  rfl

/-- R123: the lowest-numbered failing thread decides. -/
theorem ldc_failing {s₁ s₂ : State} {sp : Space} {got : Checked} {u : Nat} {c : Cause} (hsp : e.space s = (s₁, sp)) (hu : u < 32)
    (hm : (e.exm o.p).getLsbD u = true) (hc : (e.ldcRef o w off s u).1 = some c)
    (hlow : ∀ v < u, (e.exm o.p).getLsbD v = true → (e.ldcRef o w off s v).1 = none)
    (hgot : s₁.checkThreads sp .read false (e.ldcWants o w off s u) = (s₂, got)) :
    e.ldc o w off s = e.checked .read (s₂, got) fun _ _ => e.raise c (e.ldcRef o w off s u).2 s₁ := by
  have hbad : (Mask.threads (e.exm o.p)).find? (fun u => (e.ldcRef o w off s u).1.isSome) = some u :=
    Mask.find?_threads_some hu hm (by rw [hc]; rfl) fun v hv hmv => by rw [hlow v hv hmv]; rfl
  simp only [Env.ldc, hbad, hsp, Option.isNone_some, Option.getD_some, hgot, hc]

theorem ldc_passing {s₁ s₂ : State} {sp : Space} {got : Checked} (hsp : e.space s = (s₁, sp))
    (hnone : ∀ u < 32, (e.exm o.p).getLsbD u = true → (e.ldcRef o w off s u).1 = none)
    (hgot : s₁.checkThreads sp .read true (e.ldcWants o w off s 32) = (s₂, got)) :
    e.ldc o w off s = e.checked .read (s₂, got) (e.ldcDone o w off s) := by
  have hbad : (Mask.threads (e.exm o.p)).find? (fun u => (e.ldcRef o w off s u).1.isSome) = none :=
    List.find?_eq_none.mpr fun u hu => by
      obtain ⟨hlt, hm⟩ := Mask.mem_threads.mp hu
      simp [hnone u hlt hm]
  simp only [Env.ldc, hbad, hsp, Option.isNone_none, Option.getD_none, hgot]

/-- R123: the value of a thread's register j of an `ldc`. -/
def Env.ldcVal (e : Env) (o : Alu) (vs : List Word) (j u : Nat) : Word :=
  vs.getD ((if o.ty.wide then 2 else 1) * ((Mask.threads (e.exm o.p)).idxOf u) + j) 0

/-- R123: the results that an `ldc` sends. -/
def Env.ldcDue (e : Env) (o : Alu) (vs : List Word) : List Inbound :=
  if o.d = 0 ∨ e.exm o.p = 0 then [] else
    (List.range (if o.ty.wide then 2 else 1)).map fun j =>
      { reg := o.d.toNat + j, vals := (Mask.threads (e.exm o.p)).map fun u => (u, e.ldcVal o vs j u) }

theorem ldcDue_narrow (hw : o.ty.wide = false) (vs : List Word) : e.ldcDue o vs = dueTo (e.exm o.p) o.d (e.ldcVal o vs 0) := by
  simp only [Env.ldcDue, dueTo, hw]
  rfl

theorem ldcDue_wide (hw : o.ty.wide = true) (heven : o.d.toNat % 2 = 0) (hd : o.d ≠ 0) (vs : List Word) :
    e.ldcDue o vs = dueTo (e.exm o.p) o.d (e.ldcVal o vs 0) ++ dueTo (e.exm o.p) (o.d + 1) (e.ldcVal o vs 1) := by
  have hnext : (o.d + 1).toNat = o.d.toNat + 1 := by bv_omega
  have hne : o.d + 1 ≠ 0 := fun h => by rw [h] at hnext; cases hnext
  by_cases hm : e.exm o.p = 0
  · simp only [Env.ldcDue, dueTo, hm, or_true, if_true, List.append_nil]
  · simp only [Env.ldcDue, dueTo, hm, hd, hne, hnext, hw, or_self, if_false, if_true]
    rfl

theorem ldcDue_zero (hd : o.d = 0) (vs : List Word) : e.ldcDue o vs = dueTo (e.exm o.p) o.d (e.ldcVal o vs 0) := by
  simp only [Env.ldcDue, dueTo, hd, true_or, if_true]

/-- R123, R272: the values of an `ldc` leave for D, or for D and the next register, where the constants have been read. -/
theorem ldcValues_eq (ps : List Piece) (t : State) :
    e.ldcValues (e.exm o.p) o ps t =
      let x := t.constWords (((t.launchOf e).map Launch.born).getD 0) ps
      let u := e.later (e.exm o.p) o.d (e.ldcVal o x.2 0) x.1
      if o.ty.wide = true ∧ o.d ≠ 0 then e.later (e.exm o.p) (o.d + 1) (e.ldcVal o x.2 1) u else u := by
  unfold Env.ldcValues
  exact if_congr (by cases o.ty.wide <;> simp) rfl rfl

theorem ldcValues_due {t : State} {st : Strand} (hst : t.strand? e.who = some st) (heven : o.ty.wide = true → o.d.toNat % 2 = 0) (ps : List Piece) :
    ∃ st', (e.ldcValues (e.exm o.p) o ps t).strand? e.who = some st' ∧ (e.ldcValues (e.exm o.p) o ps t).mem = t.mem ∧
      st.Due st' (e.ldcDue o (t.constWords (((t.launchOf e).map Launch.born).getD 0) ps).2) := by
  obtain ⟨n, hn⟩ := constWords_spend t (((t.launchOf e).map Launch.born).getD 0) ps
  rw [ldcValues_eq]
  dsimp only
  generalize (t.constWords (((t.launchOf e).map Launch.born).getD 0) ps).2 = vs
  generalize (t.constWords (((t.launchOf e).map Launch.born).getD 0) ps).1 = u at hn ⊢
  have hu : u.strand? e.who = some st := by rw [hn, State.strand?_oracle, hst]
  have hmem : u.mem = t.mem := by rw [hn]
  obtain ⟨st₀, h₀, hdue₀⟩ := (Only.refl hu).later_due (e.exm o.p) o.d (e.ldcVal o vs 0)
  split
  · rename_i hw
    obtain ⟨hwide, hd⟩ := hw
    obtain ⟨st₁, h₁, hdue₁⟩ := h₀.later_due (e.exm o.p) (o.d + 1) (e.ldcVal o vs 1)
    rw [ldcDue_wide hwide (heven hwide) hd]
    exact ⟨st₁, h₁.strand, (State.mem_of_elsewhere h₁.rest).trans hmem, hdue₀.trans hdue₁⟩
  · rename_i hw
    refine ⟨st₀, h₀.strand, (State.mem_of_elsewhere h₀.rest).trans hmem, ?_⟩
    cases hwide : o.ty.wide with
    | false => rwa [ldcDue_narrow hwide]
    | true => rwa [ldcDue_zero (by simpa [hwide] using hw)]

/-- R123: an `ldc` whose references can all be read goes on. -/
theorem ldcDone_goes {t : State} {st : Strand} {ps : List Piece} (hst : t.strand? e.who = some st) (hlen : e.k < st.splits.length)
    (hk : e.k = splitNo e.who) (heven : o.ty.wide = true → o.d.toNat % 2 = 0) (hps : ∀ p ∈ ps, t.poisonedAt p = false) (n : Nat) :
    ∃ st', ({ e.ldcDone o w off s ps t with oracle := n } : State).strand? e.who = some st' ∧
      st.Due st' (e.ldcDue o (t.constWords (((t.launchOf e).map Launch.born).getD 0) ps).2) ∧
      (st'.split e.k).pc = e.next (.ldc o) ∧ (e.ldcDone o w off s ps t).mem = t.mem := by
  have hnone : ps.find? (fun p => t.poisonedAt p) = none := List.find?_eq_none.mpr fun p hp => by simp [hps p hp]
  obtain ⟨st₁, hst₁, hmem, hdue⟩ := ldcValues_due (e := e) (o := o) hst heven ps
  have hdone : e.ldcDone o w off s ps t = e.retire (.ldc o) (e.ldcValues (e.exm o.p) o ps t) := by simp only [Env.ldcDone, hnone]
  have h := ((Only.refl hst₁).retire (.ldc o)).oracle n
  rw [← hk] at h
  rw [hdone]
  refine ⟨_, h.strand, ?_, ?_, (State.mem_of_elsewhere h.rest).trans hmem⟩
  · exact ⟨hdue.regs, hdue.sstat, (length_setNth ..).trans hdue.length,
      fun j => (st₁.split_mapSplit_of_keeps e.k j Split.exm fun _ => Split.leave_exm ..).trans (hdue.exm j), hdue.inbound⟩
  · rw [Strand.leave, Strand.split_mapSplit_self _ _ _ (hdue.length ▸ hlen), Split.leave_pc]

/-- R43, R123: the strand of an instruction after its checks. -/
theorem checkThreads_strand {s₁ s₂ : State} {sp : Space} {got : Checked} {st : Strand} {k : Kind} {go : Bool} {ws : List Want}
    (hst : s.strand? e.who = some st) (hsp : e.space s = (s₁, sp)) (hgot : s₁.checkThreads sp k go ws = (s₂, got)) :
    ∃ st', s₂.strand? e.who = some st' ∧ st.Due st' [] := by
  have h₁ : Unmoved s s₁ := by
    have := unmoved_envSpace e s
    rwa [hsp] at this
  have h₂ : Unmoved s₁ s₂ := by
    have := unmoved_checkThreads s₁ sp k go ws
    rwa [hgot] at this
  obtain ⟨st', hst', h⟩ := (h₁.trans h₂).strand hst
  exact ⟨st', hst', Strand.due_of_unwatched h⟩

end

/-- Settles O17: source B by the cases of `withB`; `ldc` by `ldc_failing` and `ldc_passing`, its results by `ldcValues_due`. -/
theorem sourceBAndConstants : Obligations.SourceBAndConstants := by
  unfold Obligations.SourceBAndConstants
  refine ⟨fun e o s => ⟨fun r u h => ⟨readsB_register h false, readsB_register h true⟩, fun x h => ⟨readsB_imm h false, fun hty => ?_, fun hty => ?_⟩,
    fun w off wide body h hm => ⟨fun hw => withB_absent h hm wide _ body hw, fun hw hwide hodd => ?_⟩⟩,
    fun o w off s s' e hb heven h => ?_⟩
  · have hr := readsB_imm (e := e) (s := s) h true
    rw [hty] at hr
    exact hr
  · have hr := readsB_imm (e := e) (s := s) h true
    rw [hty] at hr
    exact hr
  · subst hwide
    exact withB_odd h hm _ body hw hodd
  · intro m idx addr cause want s₁ sp s₂ got hsp
    obtain ⟨hst, hk, hsplit, -⟩ := State.env_fields h.env
    have hcause (u : Nat) : (e.ldcRef o w off s' u).1 = cause u := constRef_cause ..
    have haddr (u : Nat) : (e.ldcRef o w off s' u).2 = addr u := constRef_addr ..
    have hwant (n : Nat) : e.ldcWants o w off s' n = want n := by simp only [Env.ldcWants, haddr]; rfl
    refine ⟨fun u c hu hmu hc hlow hgot haskew => ?_, fun hnone hgot => ?_⟩
    · have hb' := ldc_failing (s₂ := s₂) (got := got) hsp hu hmu ((hcause u).trans hc) (fun v hv hmv => (hcause v).trans (hlow v hv hmv)) (by rw [hwant]; exact hgot)
      refine ⟨h.turned (exec_ldc hb s) hb', fun ⟨ps, hps⟩ => ?_⟩
      obtain ⟨n, hn⟩ := h.run fun e s => e.ldc o w off s
      subst hps
      rw [hb', Env.checked_ok _ (haskew ps rfl), haddr] at hn
      exact ⟨_, (exec_ldc hb s).trans hn, s₁.oracle, n, rfl⟩
    · have hb' := ldc_passing (s₂ := s₂) (got := got) hsp (fun u hu hmu => (hcause u).trans (hnone u hu hmu)) (by rw [hwant]; exact hgot)
      refine ⟨h.turned (exec_ldc hb s) hb', fun ps hps hall => ?_⟩
      obtain ⟨n, hn⟩ := h.run fun e s => e.ldc o w off s
      subst hps
      rw [hb', Env.checked_ok _ fun p hp => (hall p hp).1] at hn
      obtain ⟨st₂, hst₂, hdue₂⟩ := checkThreads_strand hst hsp hgot
      obtain ⟨st, hst', hdue, hpc, hmem⟩ := ldcDone_goes (w := w) (off := off) (s := s') hst₂ (hdue₂.length ▸ h.split) hk heven
        (fun p hp => (hall p hp).2) n
      have hfrom := hdue₂.trans hdue
      refine ⟨_, st, (exec_ldc hb s).trans hn, hst', hsplit ▸ hfrom.exm e.k, fun r u _ => Strand.reg_of_regs hfrom.regs r u, hfrom.sstat, hfrom.inbound,
        hpc, fun a => by rw [hmem]⟩

end Sys2Proof.Machine

/-! Special registers (R69 to R72, R124, R389, R394): what `srd` reads and what `swr` writes. -/

namespace Sys2Proof.Machine

/-! ### Values that are read -/

/-- R389: the special registers from 0x200 on are the counters of the context. -/
theorem State.special_counter (s : State) (e : Env) (u : Nat) {n : Nat} (hn : n < 128) :
    s.special e (0x200 + n) u = (readOr 0 e.ctx.cnt n).extractLsb' 0 32 := by
  have hge : 0x200 ≤ 0x200 + n := Nat.le_add_right ..
  have hindex : (0x200 + n - 0x200) % 128 = n := by omega
  generalize 0x200 + n = r at hge hindex ⊢
  unfold State.special
  dsimp only
  split
  case h_34 => rw [hindex]; rfl
  all_goals omega

/-- R71: the registers that name a thread's place in its launch read as zero on a latency core. -/
theorem State.special_of_lat {e : Env} (he : e.lat = true) (s : State) (u : Nat) {n : Nat} (hn : n ≤ 0x008 ∨ n = 0x013) :
    s.special e n u = 0 := by
  obtain hle | rfl := hn
  · interval_cases n <;> simp only [State.special, he, if_true]
  · simp only [State.special, he, if_true]

/-! ### Results of `srd` -/

theorem lowWord_setWidth (x : Word) : lowWord (x.setWidth 64) = x := by
  unfold lowWord
  rw [BitVec.extractLsb'_setWidth_of_le (by decide), BitVec.extractLsb'_eq_self]

/-- A word in the threads of a mask, and the next instruction. -/
theorem Ran.of_setAll {e : Env} {s : State} (he : s.env = some e) (hlen : e.k < e.st.splits.length) (i : Instr) (m : Mask) (d : RegNo)
    (f : Nat → Word) (n : Nat) :
    Ran e s { e.retire i (e.setAll m d f s) with oracle := n } (e.next i) (e.withWord m d f) e.st.sstat := by
  obtain ⟨hst, hk, hsp, -⟩ := State.env_fields he
  have hlow : (fun u => lowWord ((f u).setWidth 64)) = f := funext fun u => lowWord_setWidth (f u)
  rw [← hlow]
  exact (Only.refl hst).finish hk hsp hlen rfl rfl (fun _ _ _ => rfl) i m d false (fun u => (f u).setWidth 64) n

theorem Split.leave_score (k : Split) (pc : DWord) (sw ends : Bool) (now : Nat) : (k.leave pc sw ends now).score = k.score := by
  simp only [Split.leave, Split.go]
  repeat' split
  all_goals rfl

/-- R321: a split that has been promised the word of a register. -/
def Split.promised (k : Split) (m : Mask) (d : RegNo) : Split := { k with score := k.score ++ [{ reg := d.toNat, mask := m }] }

/-- R321: a strand to whose split k the word of a register is on its way. -/
def Strand.promised (st : Strand) (k : Nat) (m : Mask) (d : RegNo) (f : Nat → Word) : Strand :=
  { st.mapSplit k fun x => x.promised m d with
    inbound := st.inbound ++ [{ reg := d.toNat, vals := (Mask.threads m).map fun u => (u, f u) }] }

theorem Strand.split_promised_self (st : Strand) {k : Nat} (hk : k < st.splits.length) (m : Mask) (d : RegNo) (f : Nat → Word) :
    (st.promised k m d f).split k = (st.split k).promised m d :=
  st.split_mapSplit_self k (fun x => x.promised m d) hk

theorem Strand.split_promised_ne (st : Strand) {k j : Nat} (hj : j ≠ k) (m : Mask) (d : RegNo) (f : Nat → Word) :
    (st.promised k m d f).split j = st.split j := st.split_mapSplit_ne (fun x => x.promised m d) hj

theorem Strand.length_promised (st : Strand) (k : Nat) (m : Mask) (d : RegNo) (f : Nat → Word) :
    (st.promised k m d f).splits.length = st.splits.length := length_setNth ..

theorem Strand.split_leave_self (st : Strand) {k : Nat} (hk : k < st.splits.length) (pc : DWord) (sw ends : Bool) (now : Nat) :
    (st.leave k pc sw ends now).split k = (st.split k).leave pc sw ends now := st.split_mapSplit_self k _ hk

/-- R321: the word of one register is on its way, and the strand has gone on. -/
theorem RanLater.of_later {e : Env} {s t : State} (h : Only e.who s t e.st) (hk : e.k = splitNo e.who) (hsp : e.sp = e.st.split e.k)
    (hlen : e.k < e.st.splits.length) (i : Instr) (m : Mask) (d : RegNo) (f : Nat → DWord) (n : Nat) :
    RanLater e s { e.retire i (e.later m d (fun u => lowWord (f u)) t) with oracle := n } (e.next i) (lateWords m d false f) := by
  have ho := ((h.later m d fun u => lowWord (f u)).retire i).oracle n
  have hmem (a : Nat) := congrArg (byteAt · a) (State.mem_of_elsewhere ho.rest)
  rw [← hk] at ho
  unfold lateWords
  by_cases hd : d = 0 ∨ m = 0
  · rw [if_pos hd] at ho ⊢
    refine ⟨_, ho.strand, fun _ _ _ => rfl, rfl, (List.append_nil _).symm, ?_, rfl, ?_, ?_, fun j hj => Strand.split_mapSplit_ne _ _ hj, ho.rest, hmem⟩
    · rw [e.st.split_leave_self hlen, Split.leave_score, hsp, List.map_nil, List.append_nil]
    · rw [e.st.split_leave_self hlen, Split.leave_pc]
    · rw [e.st.split_leave_self hlen, Split.leave_exm, hsp]
  · rw [if_neg hd] at ho ⊢
    have hlen' : e.k < (e.st.promised e.k m d fun u => lowWord (f u)).splits.length := by rwa [Strand.length_promised]
    have hself := (Strand.split_leave_self _ hlen' (e.next i) (instrPre i).sw (endsRegion i) (e.later m d (fun u => lowWord (f u)) t).nextKey)
    rw [e.st.split_promised_self hlen, ← hsp] at hself
    refine ⟨_, ho.strand, fun _ _ _ => rfl, rfl, rfl, ?_, rfl, ?_, ?_, fun j hj => ?_, ho.rest, hmem⟩
    · exact (congrArg Split.score hself).trans (Split.leave_score ..)
    · exact (congrArg Split.pc hself).trans (Split.leave_pc ..)
    · exact (congrArg Split.exm hself).trans (Split.leave_exm ..)
    · exact (Strand.split_mapSplit_ne _ _ hj).trans (e.st.split_promised_ne hj ..)

theorem RanLater.strand {e : Env} {s t : State} {pc : DWord} {rs : List (RegNo × Mask × (Nat → Word))} (h : RanLater e s t pc rs) :
    ∃ st, t.strand? e.who = some st ∧ st.clkh = e.st.clkh ∧ (st.split e.k).pc = pc := by
  obtain ⟨st, hst, -, -, -, -, haside, hpc, -⟩ := h
  have hclkh : ({ st.aside with inbound := e.st.inbound } : Strand).clkh = e.st.aside.clkh := by rw [haside]
  exact ⟨st, hst, hclkh, hpc⟩

/-! ### The latch of `%clkh` -/

/-- A table after one value has been written at each place of a list. -/
theorem readOr_foldl_write {α : Type} [DecidableEq α] {d : α} (us : List Nat) (t : Sparse α) (x : α) (u : Nat) :
    readOr d (us.foldl (fun t u => write d t u x) t) u = if u ∈ us then x else readOr d t u := by
  induction us generalizing t with
  | nil => simp
  | cons v us ih =>
    rw [List.foldl_cons, ih, readOr_write]
    by_cases hu : u ∈ us
    · simp [hu]
    · simp [hu]

/-- R70: the latch after the threads of a mask have read `%clk`. -/
def Strand.latched (st : Strand) (m : Mask) (hi : Word) : Strand :=
  { st with clkh := (Mask.threads m).foldl (fun h t => write 0 h t hi) st.clkh }

theorem Strand.clkh_latched (st : Strand) (m : Mask) (hi : Word) {u : Nat} (hu : u < 32) :
    readOr 0 (st.latched m hi).clkh u = if m.getLsbD u then hi else readOr 0 st.clkh u := by
  rw [Strand.latched, readOr_foldl_write]
  simp only [Mask.mem_threads, hu, true_and]

theorem State.latchClk_of_wide {e : Env} {c : Nat} (hc : e.agent = .wide c) (s : State) (m : Mask) :
    s.latchClk e m = s.mapStrand e.who fun st => st.latched m ((s.core c).clk.extractLsb' 32 32) := by
  simp only [State.latchClk, hc]
  rfl

theorem State.special_clk {e : Env} {c : Nat} (hc : e.agent = .wide c) (s : State) (u : Nat) :
    s.special e 0x010 u = lowWord (s.core c).clk := by
  simp only [State.special, hc]

/-- The effect of an instruction that has been entered; only the counter of free values may go on beside it. -/
theorem Enters.next {i : Instr} {s s' u : State} {e : Env} {body : Env → State → State} (h : Enters i s s' e)
    (hx : exec i s = act i s body) (hb : body e s' = u) : ∃ n, exec i s = .next { u with oracle := n } := by
  obtain ⟨n, hn⟩ := h.run body
  exact ⟨n, hb ▸ hx.trans hn⟩

section
variable {p : Pre} {d : RegNo} {n : BitVec 12} {s s' : State} {e : Env}

theorem exec_srd_at_once (h : Enters (.srd p d n) s s' e) (hv : variableSpecial n.toNat = false) :
    ∃ t, exec (.srd p d n) s = .next t ∧ Ran e s' t (e.next (.srd p d n)) (e.withWord (e.exm p) d (s'.special e n.toNat)) e.st.sstat := by
  have hx : exec (.srd p d n) s = execSrd p d n s := rfl
  have hclk : n ≠ 0x010 := by
    rintro rfl
    cases hv
  unfold execSrd at hx
  obtain ⟨k, hk⟩ := h.next hx (u := e.retire (.srd p d n) (e.setAll (e.exm p) d (s'.special e n.toNat) s'))
    (by simp only [hv, if_neg hclk, Bool.false_eq_true, if_false])
  exact ⟨_, hk, Ran.of_setAll h.env h.split ..⟩

theorem exec_srd_later (h : Enters (.srd p d n) s s' e) (hv : variableSpecial n.toNat = true) (hclk : n ≠ 0x010) :
    ∃ t, exec (.srd p d n) s = .next t ∧
      RanLater e s' t (e.next (.srd p d n)) (lateWords (e.exm p) d false fun u => (s'.special e n.toNat u).setWidth 64) := by
  have hx : exec (.srd p d n) s = execSrd p d n s := rfl
  unfold execSrd at hx
  obtain ⟨hst, hno, hsp, -⟩ := State.env_fields h.env
  obtain ⟨k, hk⟩ := h.next hx (u := e.retire (.srd p d n) (e.later (e.exm p) d (fun u => lowWord ((s'.special e n.toNat u).setWidth 64)) s'))
    (by simp only [hv, if_neg hclk, if_true, lowWord_setWidth])
  exact ⟨_, hk, RanLater.of_later (Only.refl hst) hno hsp h.split ..⟩

/-- R70: a read of `%clk` gives its low word and latches its high word. -/
theorem exec_srd_clk {c : Nat} (h : Enters (.srd p d 0x010) s s' e) (hc : e.agent = .wide c) :
    ∃ t, exec (.srd p d 0x010) s = .next t ∧
      RanLater { e with st := e.st.latched (e.exm p) ((s'.core c).clk.extractLsb' 32 32) } s' t (e.next (.srd p d 0x010))
        (lateWords (e.exm p) d false fun _ => (s'.core c).clk) := by
  have hx : exec (.srd p d 0x010) s = execSrd p d 0x010 s := rfl
  unfold execSrd at hx
  obtain ⟨hst, hno, hsp, -⟩ := State.env_fields h.env
  have hval : s'.special e (BitVec.toNat (0x010 : BitVec 12)) = fun _ => lowWord (s'.core c).clk := funext (State.special_clk hc s')
  obtain ⟨k, hk⟩ := h.next hx (u := e.retire (.srd p d 0x010) (e.later (e.exm p) d (fun _ => lowWord (s'.core c).clk)
      (s'.mapStrand e.who fun st => st.latched (e.exm p) ((s'.core c).clk.extractLsb' 32 32))))
    (by simp only [hval, State.latchClk_of_wide hc, if_true]; rfl)
  exact ⟨_, hk, RanLater.of_later (e := { e with st := e.st.latched (e.exm p) ((s'.core c).clk.extractLsb' 32 32) })
    ((Only.refl hst).mapStrand fun st => st.latched (e.exm p) ((s'.core c).clk.extractLsb' 32 32)) hno hsp h.split ..⟩

end

/-! ### What `swr` writes -/

/-- R72, R394: the trap registers of a strand after the word v has been written to register n of them. -/
def Strand.withTrapReg (st : Strand) (n : BitVec 12) (v : Word) : Strand :=
  { st with
    epc    := if n = 0x100 then withLow st.epc v else if n = 0x101 then withHigh st.epc v else st.epc
    ecause := if n = 0x102 then v &&& 0x1FFFFF else st.ecause
    eaddr  := if n = 0x103 then withLow st.eaddr v else if n = 0x104 then withHigh st.eaddr v else st.eaddr }

/-- R72, R389, R394: a context after the word v has been written to its special register n. -/
def Ctx.withSpecial (x : Ctx) (by_ : Who) (n : BitVec 12) (v : Word) : Ctx :=
  { x with
    asidW   := if n = 0x105 then v.toNat % 65536 else x.asidW
    asidBy  := if n = 0x105 then some by_ else x.asidBy
    ptbaseW := if n = 0x106 then x.ptbaseW / 2 ^ 32 * 2 ^ 32 + v.toNat / 4096 * 4096
      else if n = 0x107 then v.toNat % 256 * 2 ^ 32 + x.ptbaseW % 2 ^ 32 else x.ptbaseW
    stvecW  := if n = 0x10A then withLow x.stvecW v else if n = 0x10B then withHigh x.stvecW v else x.stvecW
    cnt     := if 0x200 ≤ n.toNat then write 0 x.cnt (n.toNat - 0x200) (v.setWidth 64) else x.cnt }

theorem Ctx.withSpecial_counter (x : Ctx) (by_ : Who) {n : BitVec 12} (v : Word) (hn : 0x200 ≤ n.toNat) :
    x.withSpecial by_ n v = { x with cnt := write 0 x.cnt (n.toNat - 0x200) (v.setWidth 64) } := by
  have hne {r : BitVec 12} (hr : r.toNat < 0x200) : n ≠ r := by
    rintro rfl
    omega
  have h105 := @hne 0x105 (by decide)
  have h106 := @hne 0x106 (by decide)
  have h107 := @hne 0x107 (by decide)
  have h10A := @hne 0x10A (by decide)
  have h10B := @hne 0x10B (by decide)
  simp only [Ctx.withSpecial, if_neg h105, if_neg h106, if_neg h107, if_neg h10A, if_neg h10B, if_pos hn]

theorem Ctx.cnt_withSpecial (x : Ctx) (by_ : Who) (n : BitVec 12) (v : Word) (k : Nat) :
    readOr 0 (x.withSpecial by_ n v).cnt k = if n.toNat = 0x200 + k then v.setWidth 64 else readOr 0 x.cnt k := by
  simp only [Ctx.withSpecial]
  split
  · rw [readOr_write]
    exact if_congr (by omega) rfl rfl
  · rw [if_neg (by omega)]

/-- R394: a die after the word v has been written to the low or the high half of FQBASE. -/
def Die.withFqbase (x : Die) (n : BitVec 12) (v : Word) : Die :=
  { x with fqbase := (if n = 0x108 then withLow x.fqbase v else withHigh x.fqbase v) &&& 0xFFFFFFFFC0#64 }

section
variable (s : State) (e : Env) (v : Word) {n : BitVec 12}

theorem State.setSpecial_trap {k w j : Nat} (hw : e.who = .warp k w j ∨ e.who = .handler k w) (hlo : 0x100 ≤ n.toNat) (hhi : n.toNat ≤ 0x104) :
    s.setSpecial e n.toNat v = s.mapStrand (.warp k w j) fun st => st.withTrapReg n v := by
  have hn : n = 0x100 ∨ n = 0x101 ∨ n = 0x102 ∨ n = 0x103 ∨ n = 0x104 := by bv_omega
  unfold State.setSpecial
  obtain hw | hw := hw <;> rw [hw] <;> obtain rfl | rfl | rfl | rfl | rfl := hn <;> rfl

theorem State.setSpecial_ctx (hn : (0x105 ≤ n.toNat ∧ n.toNat ≤ 0x107) ∨ n = 0x10A ∨ n = 0x10B ∨ (0x200 ≤ n.toNat ∧ n.toNat < 0x280)) :
    s.setSpecial e n.toNat v = s.setCtx e.ctxNo ((s.ctx e.ctxNo).withSpecial e.who n v) := by
  obtain ⟨hlo, hhi⟩ | rfl | rfl | ⟨hlo, hhi⟩ := hn
  · have hn : n = 0x105 ∨ n = 0x106 ∨ n = 0x107 := by bv_omega
    obtain rfl | rfl | rfl := hn <;> rfl
  · rfl
  · rfl
  · have hindex : (n.toNat - 0x200) % 128 = n.toNat - 0x200 := Nat.mod_eq_of_lt (by omega)
    rw [Ctx.withSpecial_counter _ _ _ hlo, ← hindex]
    generalize n.toNat = r at hlo
    unfold State.setSpecial
    dsimp only
    split
    case h_14 => rfl
    all_goals omega

theorem State.setSpecial_fqbase (hn : n = 0x108 ∨ n = 0x109) :
    s.setSpecial e n.toNat v = s.setDie e.die ((s.die e.die).withFqbase n v) := by
  obtain rfl | rfl := hn <;> rfl

end

/-! ### `swr` -/

theorem Env.retire_ctxs (e : Env) (i : Instr) (s : State) : (e.retire i s).ctxs = s.ctxs := State.mapStrand_ctxs ..
theorem Env.retire_dies (e : Env) (i : Instr) (s : State) : (e.retire i s).dies = s.dies := State.mapStrand_dies ..

theorem Env.retire_mapStrand_frame (e : Env) (i : Instr) (s : State) (w : Who) (f : Strand → Strand) :
    (e.retire i (s.mapStrand w f)).ctxs = s.ctxs ∧ (e.retire i (s.mapStrand w f)).dies = s.dies ∧
      (e.retire i (s.mapStrand w f)).cores = s.cores :=
  ⟨(e.retire_ctxs i _).trans (s.mapStrand_ctxs w f), (e.retire_dies i _).trans (s.mapStrand_dies w f),
    (State.mapStrand_cores ..).trans (s.mapStrand_cores w f)⟩

/-- What a change of a warp keeps of it is found as before. -/
theorem State.bind_warp_mapWarp {α : Type} (s : State) (k w : Nat) {f : Warp → Warp} (r : Warp → Option α) (hr : ∀ x, r (f x) = r x) :
    ((look (s.mapWarp k w f).teams k).bind fun x => x.warps[w]?.bind r) = (look s.teams k).bind fun x => x.warps[w]?.bind r := by
  simp only [State.mapWarp, look_mapTeam]
  cases look s.teams k with
  | none => rfl
  | some x =>
    simp only [Option.map_some, Option.bind_some, Team.getElem?_mapWarp]
    cases x.warps[w]? with
    | none => rfl
    | some y => exact hr y

theorem State.strand?_handler_mapStrand_warp (s : State) (k w j : Nat) (f : Strand → Strand) :
    (s.mapStrand (.warp k w j) f).strand? (.handler k w) = s.strand? (.handler k w) :=
  s.bind_warp_mapWarp k w Warp.handler fun _ => rfl

theorem State.strand?_warp_mapStrand_handler (s : State) (k w j : Nat) (f : Strand → Strand) :
    (s.mapStrand (.handler k w) f).strand? (.warp k w j) = s.strand? (.warp k w j) := by
  simp only [State.strand?, Option.map_eq_bind]
  exact s.bind_warp_mapWarp k w (some ∘ Warp.main) fun _ => rfl

theorem State.strand?_warp_of_handler {s : State} {k w : Nat} {st : Strand} (h : s.strand? (.handler k w) = some st) (j : Nat) :
    ∃ m, s.strand? (.warp k w j) = some m := by
  obtain ⟨x, hx, h⟩ := Option.bind_eq_some_iff.mp h
  obtain ⟨y, hy, -⟩ := Option.bind_eq_some_iff.mp h
  exact ⟨y.main, by simp only [State.strand?, hx, Option.bind_some, hy, Option.map_some]⟩

/-- A strand that has kept its registers, status and splits, and has gone on. -/
theorem Writes.of_retire {e : Env} {s t : State} {st : Strand} (hst : t.strand? e.who = some st) (hk : e.k = splitNo e.who)
    (hsp : e.sp = e.st.split e.k) (hlen : e.k < e.st.splits.length) (hregs : st.regs = e.st.regs) (hsstat : st.sstat = e.st.sstat)
    (hsplits : st.splits = e.st.splits) (hmem : t.mem = s.mem) (i : Instr) (n : Nat) :
    Writes e s { e.retire i t with oracle := n } (e.next i) e.st.reg := by
  have ho := ((Only.refl hst).retire i).oracle n
  rw [← hk] at ho
  have hself := st.split_leave_self (hsplits ▸ hlen) (e.next i) (instrPre i).sw (endsRegion i) t.nextKey
  have hbefore : st.split e.k = e.sp := by rw [hsp, Strand.split, hsplits]; rfl
  refine ⟨⟨_, ho.strand, fun r u _ => Strand.reg_of_regs hregs r u, hsstat, ?_, ?_⟩, fun a => ?_⟩
  · rw [hself, Split.leave_pc]
  · rw [hself, Split.leave_exm, hbefore]
  · rw [State.mem_of_elsewhere ho.rest, hmem]

section
variable {p : Pre} {a : RegNo} {ua : Bool} {n : BitVec 12} {s s' : State} {e : Env} (h : Enters (.swr p a ua n) s s' e)
include h

theorem exec_swr_without_threads (hm : e.exm p = 0) : PassesOn e (.swr p a ua n) s s' := by
  have hx : exec (.swr p a ua n) s = execSwr p a ua n s := rfl
  unfold execSwr at hx
  exact h.passes hx (by simp only [if_pos hm])

theorem exec_swr (hm : e.exm p ≠ 0) {u : State} (hu : s'.setSpecial e n.toNat (e.one (e.exm p) a) = u) :
    ∃ k, exec (.swr p a ua n) s = .next { e.retire (.swr p a ua n) u with oracle := k } := by
  have hx : exec (.swr p a ua n) s = execSwr p a ua n s := rfl
  unfold execSwr at hx
  exact h.next hx (by simp only [if_neg hm, hu])

theorem exec_swr_sstat (hm : e.exm p ≠ 0) (hn : n = 0x10C) :
    ∃ t, exec (.swr p a ua n) s = .next t ∧ Ran e s' t (e.next (.swr p a ua n)) e.st.reg (e.one (e.exm p) a &&& 0x1F1F) := by
  subst hn
  obtain ⟨hst, hk, hsp, -⟩ := State.env_fields h.env
  obtain ⟨k, hx⟩ := exec_swr h hm (u := s'.mapStrand e.who fun st => { st with sstat := e.one (e.exm p) a &&& 0x1F1F }) rfl
  have ho := (Only.refl hst).mapStrand fun st => { st with sstat := e.one (e.exm p) a &&& 0x1F1F }
  exact ⟨_, hx, ((ho.retire _).oracle k).ran hk hsp h.split rfl rfl (fun _ _ _ => rfl) rfl⟩

/-- R72, R403: the trap registers of a warp, written by its splits or by its handler image. -/
theorem exec_swr_trap (hm : e.exm p ≠ 0) {k w j : Nat} (hw : e.who = .warp k w j ∨ e.who = .handler k w) (hlo : 0x100 ≤ n.toNat)
    (hhi : n.toNat ≤ 0x104) :
    ∃ (t : State) (m : Strand) (ks : List Split), exec (.swr p a ua n) s = .next t ∧ s'.strand? (.warp k w j) = some m ∧
      t.strand? (.warp k w j) = some { m.withTrapReg n (e.one (e.exm p) a) with splits := ks } ∧
      Writes e s' t (e.next (.swr p a ua n)) e.st.reg ∧ t.ctxs = s'.ctxs ∧ t.dies = s'.dies ∧ t.cores = s'.cores := by
  obtain ⟨hst, hk, hsp, -⟩ := State.env_fields h.env
  obtain ⟨c, hx⟩ := exec_swr h hm (State.setSpecial_trap s' e _ hw hlo hhi)
  have hframe := e.retire_mapStrand_frame (.swr p a ua n) s' (.warp k w j) fun st => st.withTrapReg n (e.one (e.exm p) a)
  obtain hw | hw := hw
  · rw [← hw] at hx hframe ⊢
    have ho := (Only.refl hst).mapStrand fun st => st.withTrapReg n (e.one (e.exm p) a)
    exact ⟨_, e.st, _, hx, hst, ((ho.retire _).oracle c).strand,
      Writes.of_retire ho.strand hk hsp h.split rfl rfl rfl (State.mapStrand_mem ..) _ c, hframe⟩
  · obtain ⟨m, hmain⟩ := State.strand?_warp_of_handler (hw ▸ hst) j
    have hself : (s'.mapStrand (.warp k w j) fun st => st.withTrapReg n (e.one (e.exm p) a)).strand? e.who = some e.st := by
      rw [hw, State.strand?_handler_mapStrand_warp, ← hw, hst]
    refine ⟨_, m, m.splits, hx, hmain, ?_,
      Writes.of_retire hself hk hsp h.split rfl rfl rfl (State.mapStrand_mem ..) _ c, hframe⟩
    rw [State.strand?_oracle, Env.retire_eq, hw, State.strand?_warp_mapStrand_handler, State.strand?_bump, State.strand?_mapStrand, hmain]
    rfl

theorem exec_swr_ctx (hm : e.exm p ≠ 0)
    (hn : (0x105 ≤ n.toNat ∧ n.toNat ≤ 0x107) ∨ n = 0x10A ∨ n = 0x10B ∨ (0x200 ≤ n.toNat ∧ n.toNat < 0x280)) :
    ∃ t, exec (.swr p a ua n) s = .next t ∧ Writes e s' t (e.next (.swr p a ua n)) e.st.reg ∧ (∀ c, c ≠ e.ctxNo → t.ctx c = s'.ctx c) ∧
      t.ctx e.ctxNo = (s'.ctx e.ctxNo).withSpecial e.who n (e.one (e.exm p) a) := by
  obtain ⟨hst, hk, hsp, -⟩ := State.env_fields h.env
  obtain ⟨k, hx⟩ := exec_swr h hm (State.setSpecial_ctx s' e _ hn)
  generalize (s'.ctx e.ctxNo).withSpecial e.who n (e.one (e.exm p) a) = x at hx ⊢
  have hst' : (s'.setCtx e.ctxNo x).strand? e.who = some e.st := (State.strand?_congr rfl rfl _).trans hst
  have hctx (c : Nat) := congrArg (readOr ({} : Ctx) · c) (Env.retire_ctxs e (.swr p a ua n) (s'.setCtx e.ctxNo x))
  exact ⟨_, hx, Writes.of_retire hst' hk hsp h.split rfl rfl rfl rfl _ k,
    fun c hc => (hctx c).trans (readOr_write_ne _ hc), (hctx e.ctxNo).trans (State.ctx_setCtx ..)⟩

theorem exec_swr_fqbase (hm : e.exm p ≠ 0) (hn : n = 0x108 ∨ n = 0x109) :
    ∃ t, exec (.swr p a ua n) s = .next t ∧ Writes e s' t (e.next (.swr p a ua n)) e.st.reg ∧ t.ctxs = s'.ctxs ∧
      (∀ d, d ≠ e.die → t.die d = s'.die d) ∧ t.die e.die = (s'.die e.die).withFqbase n (e.one (e.exm p) a) := by
  obtain ⟨hst, hk, hsp, -⟩ := State.env_fields h.env
  obtain ⟨k, hx⟩ := exec_swr h hm (State.setSpecial_fqbase s' e _ hn)
  generalize (s'.die e.die).withFqbase n (e.one (e.exm p) a) = x at hx ⊢
  have hst' : (s'.setDie e.die x).strand? e.who = some e.st := (State.strand?_congr rfl rfl _).trans hst
  have hdie (d : Nat) := congrArg (readOr ({} : Die) · d) (Env.retire_dies e (.swr p a ua n) (s'.setDie e.die x))
  exact ⟨_, hx, Writes.of_retire hst' hk hsp h.split rfl rfl rfl rfl _ k, Env.retire_ctxs ..,
    fun d hd => (hdie d).trans (readOr_write_ne _ hd), (hdie e.die).trans (State.die_setDie ..)⟩

end

/-- Settles O49: `srd` by the kind of its register, the values by `State.special`, `swr` by the state that its register belongs to. -/
theorem specialRegisters : Obligations.SpecialRegisters := by
  unfold Obligations.SpecialRegisters
  refine ⟨fun p d n s s' e h => ⟨exec_srd_at_once h, exec_srd_later h, ?_⟩, fun s e u he => ?_, fun s e u x he hx => ?_, fun s e u => ?_,
    fun p a ua n s s' e h => ⟨exec_swr_without_threads h, fun hm => ⟨exec_swr_sstat h hm, fun k j w hw hlo hhi => ?_, fun hn => ?_, exec_swr_fqbase h hm⟩⟩⟩
  · rintro c rfl hc
    obtain ⟨t, hx, hran⟩ := exec_srd_clk h hc
    obtain ⟨st, hst, hclkh, hpc⟩ := hran.strand
    refine ⟨t, st, hx, hst, hpc, fun u hu => ?_, ?_⟩
    · rw [hclkh]; exact e.st.clkh_latched _ _ hu
    · rw [hclkh]; exact hran
  · refine ⟨fun n => s.special_of_lat he u, ?_, ?_, ?_, fun l hl => ?_⟩
    · simp only [State.special, he, if_true]
    · simp only [State.special, he, if_true]
    · simp only [State.special, Env.nreg, he, if_true]; rfl
    · simp only [State.special, Env.coreNo, hl]
  · have hnum {y : Word} : (if e.lat = true then 0 else y) = y := if_neg (by simp [he])
    refine ⟨hnum, hnum, ?_, ?_, ?_, fun l hl => ?_⟩
    iterate 3 · simp only [State.special, hnum, hx]; rfl
    refine ⟨?_, ?_, ?_, ?_⟩ <;> simp only [State.special, hnum, hx, Option.bind_some, hl] <;> rfl
  · refine ⟨fun he => ⟨?_, ?_⟩, rfl, rfl, rfl, rfl, fun n hn => s.special_counter e u hn⟩
    · simp only [State.special, he]; rfl
    · simp only [State.special, Env.nreg, he]; rfl
  · obtain ⟨t, m, ks, hx, hmain, hmain', hwrites, hkept⟩ := exec_swr_trap h hm hw hlo hhi
    exact ⟨t, m, _, hx, hmain, hmain', rfl, rfl, rfl, fun _ _ _ => rfl, rfl, hwrites, hkept⟩
  · obtain ⟨t, hx, hwrites, hne, hself⟩ := exec_swr_ctx h hm hn
    refine ⟨t, hx, hwrites, hne, ?_⟩
    rw [hself]
    exact ⟨rfl, rfl, rfl, Ctx.cnt_withSpecial _ _ _ _, rfl, rfl, rfl⟩

end Sys2Proof.Machine

/-! The ends of rounding (R84, R85): values that a code means, and values beyond the largest magnitude. -/

namespace Sys2Proof.Machine

/-- A value in whole units of the last place that is kept is delivered unchanged. -/
theorem Real_.roundAt_self (neg : Bool) (m : Nat) (e : Int) (rm : Rm) :
    ({ neg, m, e } : Real_).roundAt rm e = (m, true) := by
  simp [Real_.roundAt, roundsAway]

/-- What is kept of a value has all the bits down to the last place. -/
theorem Real_.le_roundAt {x : Real_} (hx : x.m ≠ 0) (rm : Rm) (n : Nat) : 2 ^ n ≤ (x.roundAt rm (x.top - n)).1 := by
  have hlog : 2 ^ Nat.log2 x.m ≤ x.m := Nat.log2_self_le hx
  unfold Real_.roundAt Real_.top
  split
  case isTrue h =>
    refine le_trans ?_ (Nat.le_add_right _ _)
    rw [Nat.le_div_iff_mul_le (by positivity), ← pow_add]
    exact le_trans (Nat.pow_le_pow_right (by decide) (by omega)) hlog
  case isFalse h =>
    refine le_trans ?_ (Nat.le_add_right _ _)
    calc 2 ^ n = 2 ^ Nat.log2 x.m * 2 ^ (x.e - (x.e + Nat.log2 x.m - n)).toNat := by rw [← pow_add]; congr 1; omega
      _ ≤ _ := Nat.mul_le_mul_right _ hlog

namespace Ieee

theorem round_overflow {f : Ieee} {x : Real_} (hx : x.m ≠ 0) (hb : 2 ^ f.ebits = 2 * f.bias + 2) (htop : (f.bias : Int) + 1 ≤ x.top) (rm : Rm) (sat : Bool) :
    f.round rm sat x = ((if x.neg then f.signBit else 0) + (if sat then f.infCode - 1 else overflowCode rm x.neg (f.infCode - 1) f.infCode),
      fOverflow ||| fInexact) := by
  have hmax : max x.top f.emin = x.top := by unfold emin; omega
  have hkept := Real_.le_roundAt hx rm f.fbits
  have hmag : f.infCode ≤ (x.top - f.emin).toNat * 2 ^ f.fbits + (x.roundAt rm (x.top - f.fbits)).1 := by
    have hexp : 2 * f.bias ≤ (x.top - f.emin).toNat := by unfold emin; omega
    have := Nat.mul_le_mul_right (2 ^ f.fbits) hexp
    unfold infCode
    rw [hb, show 2 * f.bias + 2 - 1 = 2 * f.bias + 1 by omega, Nat.add_mul]
    omega
  simp only [round, hmax, hmag, if_true]

/-- A value in units of the last place of its exponent, below infinity, is delivered as it is. -/
theorem round_exact {f : Ieee} {neg : Bool} {m k : Nat} (rm : Rm) (sat : Bool)
    (hk : max (({ neg, m, e := f.emin - f.fbits + k } : Real_).top) f.emin = f.emin + k) (hlt : k * 2 ^ f.fbits + m < f.infCode) :
    f.round rm sat { neg, m, e := f.emin - f.fbits + k } = ((if neg then f.signBit else 0) + (k * 2 ^ f.fbits + m), 0) := by
  have hlsb : f.emin + k - f.fbits = f.emin - f.fbits + k := by omega
  have hsub : (f.emin + k - f.emin).toNat = k := by omega
  simp only [round, hk, hlsb, hsub, Real_.roundAt_self, Nat.not_le.mpr hlt, if_false]
  simp

/-- The exponent field of a code, and the fields below its sign. -/
def expField (f : Ieee) (c : Nat) : Nat := c / 2 ^ f.fbits % 2 ^ f.ebits

theorem expField_lt (f : Ieee) (c : Nat) : f.expField c < 2 ^ f.ebits := Nat.mod_lt _ (by positivity)

theorem mod_signBit (f : Ieee) (c : Nat) : c % f.signBit = f.expField c * 2 ^ f.fbits + c % 2 ^ f.fbits := by
  rw [show f.signBit = 2 ^ f.fbits * 2 ^ f.ebits by rw [signBit, Nat.add_comm, Nat.pow_add], Nat.mod_mul, expField]
  ring

theorem value_eq (f : Ieee) (c : Nat) : f.value c =
    let neg := decide (c / f.signBit % 2 = 1)
    if f.expField c = 2 ^ f.ebits - 1 then
      if c % 2 ^ f.fbits = 0 then .inf neg else .nan (c % 2 ^ f.fbits < 2 ^ (f.fbits - 1))
    else if f.expField c = 0 then .fin neg (c % 2 ^ f.fbits) (f.emin - f.fbits)
    else .fin neg (2 ^ f.fbits + c % 2 ^ f.fbits) (f.emin - f.fbits + (f.expField c - 1 : Nat)) := rfl

/-- A code is its sign and the fields below it. -/
theorem sign_add_fields {f : Ieee} {c : Nat} (hc : c < 2 * f.signBit) :
    (if decide (c / f.signBit % 2 = 1) = true then f.signBit else 0) + (f.expField c * 2 ^ f.fbits + c % 2 ^ f.fbits) = c := by
  have hq : c / f.signBit < 2 := Nat.div_lt_of_lt_mul (by omega)
  have hdiv := Nat.div_add_mod c f.signBit
  rw [← mod_signBit]
  interval_cases h : c / f.signBit <;> simp only [Nat.zero_mod, Nat.one_mod, zero_ne_one, decide_false, decide_true, if_true, Bool.false_eq_true, if_false] <;> omega

theorem le_infCode {f : Ieee} {k : Nat} (hk : k < 2 ^ f.ebits) : k * 2 ^ f.fbits ≤ f.infCode := Nat.mul_le_mul_right _ (by omega)

/-- A magnitude below the normal ones is its own code. -/
theorem round_subnormal {f : Ieee} {neg : Bool} {m : Nat} (rm : Rm) (sat : Bool) (hf : 1 < 2 ^ f.ebits) (h0 : m ≠ 0) (hm : m < 2 ^ f.fbits) :
    f.round rm sat { neg, m, e := f.emin - f.fbits } = ((if neg then f.signBit else 0) + m, 0) := by
  have hlog : Nat.log2 m < f.fbits := (Nat.log2_lt h0).mpr hm
  have hlt := le_infCode hf
  simpa using round_exact (neg := neg) (m := m) (k := 0) rm sat (by simp only [Real_.top]; omega) (by omega)

/-- A normal magnitude is the code of its fields. -/
theorem round_normal {f : Ieee} {neg : Bool} {e m : Nat} (rm : Rm) (sat : Bool) (h0 : e ≠ 0) (he : e + 1 < 2 ^ f.ebits) (hm : m < 2 ^ f.fbits) :
    f.round rm sat { neg, m := 2 ^ f.fbits + m, e := f.emin - f.fbits + (e - 1 : Nat) } = ((if neg then f.signBit else 0) + (e * 2 ^ f.fbits + m), 0) := by
  have hlog : Nat.log2 (2 ^ f.fbits + m) = f.fbits := by
    rw [Nat.log2_eq_iff (by positivity)]; constructor <;> omega
  have hfields : (e - 1) * 2 ^ f.fbits + (2 ^ f.fbits + m) = e * 2 ^ f.fbits + m := by
    rw [← Nat.add_assoc, ← Nat.succ_mul, Nat.succ_eq_add_one, Nat.sub_add_cancel (by omega)]
  have hlt := le_infCode he
  rw [Nat.add_mul] at hlt
  rw [round_exact rm sat (by simp only [Real_.top, hlog]; omega) (by omega), hfields]

/-- R84: a code that is no NaN stands for a value that is delivered as that code. -/
theorem deliver_value {f : Ieee} (hf : 1 < 2 ^ f.ebits) (rm : Rm) (sat : Bool) {c : Nat} (hc : c < 2 * f.signBit)
    (hnan : (f.value c).isNan = false) (hsat : sat = true → c % f.signBit ≠ f.infCode) : f.deliver rm sat (f.value c).exact = (c, 0) := by
  have hcode := sign_add_fields hc
  have hlt := f.expField_lt c
  have hm : c % 2 ^ f.fbits < 2 ^ f.fbits := Nat.mod_lt _ (by positivity)
  rw [mod_signBit] at hsat
  rw [value_eq] at hnan ⊢
  generalize decide (c / f.signBit % 2 = 1) = neg at *
  generalize f.expField c = e at *
  generalize c % 2 ^ f.fbits = m at *
  rw [← hcode]
  by_cases hinf : e = 2 ^ f.ebits - 1
  · by_cases hm0 : m = 0
    · have hs : sat = false := by by_contra h; exact hsat (by simpa using h) (by rw [hinf, hm0]; rfl)
      simp [hinf, hm0, hs, Fp.exact, deliver, infCode]
    · simp [hinf, hm0, Fp.isNan] at hnan
  by_cases he : e = 0
  · subst he
    by_cases hm0 : m = 0
    · simp [hinf, hm0, Fp.exact, deliver]
    · simpa [hinf, hm0, Fp.exact, deliver] using round_subnormal rm sat hf hm0 hm
  · simpa [hinf, he, Fp.exact, deliver] using round_normal rm sat he (by omega) hm

end Ieee

/-- Settles O20: a value that a code means is rounded in units of its own last place; one whose exponent is beyond the bias has at
least the magnitude of infinity's code. -/
theorem roundingEnds : Obligations.RoundingEnds := by
  intro f rm x hf
  have hb : 2 ^ f.ebits = 2 * f.bias + 2 := by
    simp only [List.mem_cons, List.not_mem_nil, or_false] at hf
    rcases hf with rfl | rfl | rfl | rfl <;> rfl
  refine ⟨fun c sat hc hnan hsat => Ieee.deliver_value (by omega) rm sat hc hnan hsat, fun hx htop => ?_⟩
  simp only [Ieee.round_overflow hx hb htop, if_true, Bool.false_eq_true, if_false, implies_true, and_true]
  cases rm <;> cases x.neg <;> rfl

end Sys2Proof.Machine

/-! Quad blocks (R94, R95, R137, R138): what `qpk` writes in its threads, and what `qupk` reads. -/

namespace Sys2Proof.Machine

/-! ### Consecutive registers -/

/-- Words for consecutive registers of a thread. -/
def Strand.setWords (st : Strand) (n u : Nat) : List Word → Strand
  | [] => st
  | v :: vs => (st.setReg n u v).setWords (n + 1) u vs

theorem Only.setList {e : Env} {s t : State} {st : Strand} (h : Only e.who s t st) (n u : Nat) (vs : List Word) :
    Only e.who s (e.setList n u vs t) (st.setWords n u vs) := by
  induction vs generalizing n t st with
  | nil => exact h
  | cons v vs ih => exact ih (h.set n u v) (n + 1)

theorem Strand.setWords_aside (st : Strand) (n u : Nat) (vs : List Word) :
    (st.setWords n u vs).aside = st.aside ∧ (st.setWords n u vs).splits = st.splits ∧ (st.setWords n u vs).sstat = st.sstat := by
  induction vs generalizing n st with
  | nil => exact ⟨rfl, rfl, rfl⟩
  | cons v vs ih =>
    obtain ⟨ha, hp, hf⟩ := st.setReg_aside n u v
    obtain ⟨ha', hp', hf'⟩ := ih (st.setReg n u v) (n + 1)
    exact ⟨ha'.trans ha, hp'.trans hp, hf'.trans hf⟩

theorem Strand.reg_setWords (st : Strand) {n u : Nat} (vs : List Word) (hn : n ≠ 0) (hu : u < 32) (k x : Nat) (hx : x < 32) :
    (st.setWords n u vs).reg k x = if x = u ∧ n ≤ k ∧ k < n + vs.length then vs.getD (k - n) 0 else st.reg k x := by
  induction vs generalizing n st with
  | nil => rw [if_neg (by simp only [List.length_nil]; omega)]; rfl
  | cons v vs ih =>
    rw [Strand.setWords, ih _ n.succ_ne_zero, Strand.reg_setReg _ _ _ _ _ _ hu hx, List.length_cons]
    by_cases hk : k = n
    · subst hk
      rw [if_neg (by omega)]
      simp [hn]
    · by_cases hin : x = u ∧ n + 1 ≤ k ∧ k < n + 1 + vs.length
      · rw [if_pos hin, if_pos (by omega), show k - n = k - (n + 1) + 1 by omega, List.getD_cons_succ]
      · rw [if_neg hin, if_neg (by simp [hk]), if_neg (by omega)]

/-! ### What `qpk` writes -/

/-- R137: a block's words from register `d` on and its scale word in register `c`, in the threads of a list. -/
def Strand.setBlocks (st : Strand) (us : List Nat) (d c : Nat) (ws : List Word) (v : Word) : Strand :=
  us.foldl (fun st u => (st.setWords d u ws).setReg c u v) st

/-- R137: the same, as the running instruction writes them. -/
def Env.setBlocks (e : Env) (us : List Nat) (d c : Nat) (ws : List Word) (v : Word) (s : State) : State :=
  us.foldl (fun s u => e.set c u v (e.setList d u ws s)) s

theorem Only.setBlocks {e : Env} {s t : State} {st : Strand} (h : Only e.who s t st) (us : List Nat) (d c : Nat) (ws : List Word) (v : Word) :
    Only e.who s (e.setBlocks us d c ws v t) (st.setBlocks us d c ws v) := by
  unfold Env.setBlocks Strand.setBlocks
  induction us generalizing t st with
  | nil => exact h
  | cons u us ih => exact ih ((h.setList d u ws).set c u v)

theorem Strand.setBlocks_aside (st : Strand) (us : List Nat) (d c : Nat) (ws : List Word) (v : Word) :
    (st.setBlocks us d c ws v).aside = st.aside ∧ (st.setBlocks us d c ws v).splits = st.splits ∧ (st.setBlocks us d c ws v).sstat = st.sstat := by
  unfold Strand.setBlocks
  induction us generalizing st with
  | nil => exact ⟨rfl, rfl, rfl⟩
  | cons u us ih =>
    obtain ⟨ha, hp, hf⟩ := st.setWords_aside d u ws
    obtain ⟨ha', hp', hf'⟩ := (st.setWords d u ws).setReg_aside c u v
    obtain ⟨ha'', hp'', hf''⟩ := ih ((st.setWords d u ws).setReg c u v)
    exact ⟨(ha''.trans ha').trans ha, (hp''.trans hp').trans hp, (hf''.trans hf').trans hf⟩

theorem Strand.reg_setBlocks (st : Strand) (us : List Nat) {d c : Nat} (ws : List Word) (v : Word) (hd : d ≠ 0) (hc : c < d ∨ d + ws.length ≤ c)
    (hus : ∀ u ∈ us, u < 32) (k x : Nat) (hx : x < 32) :
    (st.setBlocks us d c ws v).reg k x =
      if x ∈ us ∧ d ≤ k ∧ k < d + ws.length then ws.getD (k - d) 0 else if x ∈ us ∧ c ≠ 0 ∧ k = c then v else st.reg k x := by
  unfold Strand.setBlocks
  induction us generalizing st with
  | nil => simp
  | cons u us ih =>
    have hu := hus u List.mem_cons_self
    rw [List.foldl_cons, ih _ fun y hy => hus y (List.mem_cons_of_mem _ hy), Strand.reg_setReg _ _ _ _ _ _ hu hx,
      Strand.reg_setWords _ _ hd hu _ _ hx]
    by_cases hk : d ≤ k ∧ k < d + ws.length
    · have hkc : k ≠ c := by omega
      by_cases hxu : x = u
      · simp [hk, hkc, hxu]
      · simp [hk, hkc, hxu]
    · have hin (p : Prop) : ¬ (p ∧ d ≤ k ∧ k < d + ws.length) := fun h => hk h.2
      simp only [if_neg (hin _)]
      by_cases hxu : x = u
      · by_cases hkc : c ≠ 0 ∧ k = c
        · simp [hxu, hkc]
        · simp [hxu, hkc]
      · simp [hxu]

/-! ### The block that `qpk` forms -/

theorem foldl_range_eight (f : Nat → Nat → Nat) (x : Nat) :
    (List.range 8).foldl f x = f (f (f (f (f (f (f (f x 0) 1) 2) 3) 4) 5) 6) 7 := rfl

/-- R94: eight codes in one word. -/
theorem nibbles_eq (code : Nat → Nat) (k : Nat) : nibbles code k =
    BitVec.ofNat 32 (code (8 * k) + code (8 * k + 1) * 16 + code (8 * k + 2) * 16 ^ 2 + code (8 * k + 3) * 16 ^ 3 +
      code (8 * k + 4) * 16 ^ 4 + code (8 * k + 5) * 16 ^ 5 + code (8 * k + 6) * 16 ^ 6 + code (8 * k + 7) * 16 ^ 7) := by
  unfold nibbles
  rw [foldl_range_eight]
  simp only [Nat.zero_add, Nat.add_zero, pow_zero, pow_one, Nat.mul_one]

/-- R137, log 20: the codes, the scale byte and the flags of a block by its scale byte `sb` and whether it holds a NaN. -/
theorem packQuad_eq (sb : Nat) (rm : Rm) (m : Mask) (x : Nat → Fp) :
    let made (u : Nat) := quadCode (sb % 256 / 64) (sb % 256 % 64) rm .flush (x u).exact
    let zero : Bool := sb % 256 % 64 = 63 || (Mask.threads m).any fun u => (x u).isNan
    packQuad sb rm m x =
      (fun u => if !zero && m.getLsbD u then (made u).1 else 0,
       if zero then sb % 256 / 64 * 64 + 63 else sb % 256,
       if sb % 256 % 64 = 63 then 0 else orFlags ((Mask.threads m).map fun u => (made u).2)) := by
  have hkind : sb / 64 % 4 = sb % 256 / 64 := by omega
  have hsexp : sb % 64 = sb % 256 % 64 := by omega
  intro made zero
  unfold packQuad
  rw [hkind, hsexp]
  cases hz : zero with
  | true => rw [if_pos (by simpa [zero] using hz)]; simp [made]
  | false => rw [if_neg (by simpa [zero] using hz)]; simp [made]

/-! ### `qpk` and `qupk` -/

section
variable {o : Alu} {s s' s'' : State} {e : Env} {b : Nat → DWord} {code : Nat → Nat} {sb : Nat} {fl : Flags}

theorem exec_qpk (h : Enters (.qpk o) s s' e) (hB : e.ReadsB o false s' s'' b)
    (hq : packQuad (lowWord (b (Mask.lowest (e.exm o.p)))).toNat o.rm (e.exm o.p) (fun u => f32.value (e.reg o.a.toNat u).toNat) = (code, sb, fl)) :
    ∃ n, exec (.qpk o) s = .next { e.withFlags fl s'' fun s => e.retire (.qpk o)
      (e.setBlocks (Mask.threads (e.exm o.p)) o.d.toNat o.c.toNat ((List.range 4).map (nibbles code)) (BitVec.ofNat 32 sb) s) with oracle := n } := by
  obtain ⟨n, hn⟩ := h.run fun e s => e.withB (e.exm o.p) o.b false (widenOp o.ty) s fun b s =>
    let q := packQuad (lowWord (b (Mask.lowest (e.exm o.p)))).toNat o.rm (e.exm o.p) fun u => f32.value (e.reg o.a.toNat u).toNat
    e.withFlags q.2.2 s fun s => e.retire (.qpk o)
      (e.setBlocks (Mask.threads (e.exm o.p)) o.d.toNat o.c.toNat ((List.range 4).map (nibbles q.1)) (BitVec.ofNat 32 q.2.1) s)
  rw [hB.value, hq] at hn
  exact ⟨n, hn⟩

/-- R107: a block whose flags are not enabled is written in its threads, and its flags are kept. -/
theorem exec_qpk_ran (h : Enters (.qpk o) s s' e) (hB : e.ReadsB o false s' s'' b)
    (hq : packQuad (lowWord (b (Mask.lowest (e.exm o.p)))).toNat o.rm (e.exm o.p) (fun u => f32.value (e.reg o.a.toNat u).toNat) = (code, sb, fl))
    (hd : o.d ≠ 0) (hc : o.c.toNat < o.d.toNat ∨ o.d.toNat + 3 < o.c.toNat) (hfl : fl &&& enables e.st.sstat = 0) :
    ∃ t, exec (.qpk o) s = .next t ∧ Ran e s'' t (e.next (.qpk o)) (fun n u =>
      if (e.exm o.p).getLsbD u ∧ o.d.toNat ≤ n ∧ n ≤ o.d.toNat + 3 then nibbles code (n - o.d.toNat)
      else if (e.exm o.p).getLsbD u ∧ o.c ≠ 0 ∧ n = o.c.toNat then BitVec.ofNat 32 sb else e.st.reg n u) (e.st.sstat ||| fl.setWidth 32) := by
  obtain ⟨n, hn⟩ := exec_qpk h hB hq
  obtain ⟨hst, hk, hsp, -⟩ := State.env_fields h.env
  have hzero {r : RegNo} : r.toNat ≠ 0 ↔ r ≠ 0 := by rw [ne_eq, ne_eq, BitVec.toNat_eq]; rfl
  refine ⟨_, hn, ?_⟩
  simp only [Env.withFlags, hfl, ne_eq, not_true_eq_false, if_false]
  have hwrote := (Only.withFlags (hB.strand.trans hst) fl).setBlocks (Mask.threads (e.exm o.p)) o.d.toNat o.c.toNat
    ((List.range 4).map (nibbles code)) (BitVec.ofNat 32 sb)
  obtain ⟨ha, hp, hf⟩ := Strand.setBlocks_aside { e.st with sstat := addFlags e.st.sstat fl } (Mask.threads (e.exm o.p)) o.d.toNat o.c.toNat
    ((List.range 4).map (nibbles code)) (BitVec.ofNat 32 sb)
  refine ((hwrote.retire (.qpk o)).oracle n).ran hk hsp h.split hp ha (fun k u hu => ?_) hf
  rw [Strand.reg_setBlocks _ _ _ _ (hzero.mpr hd) (by simp only [List.length_map, List.length_range]; omega) (fun v hv => (Mask.mem_threads.mp hv).1) _ _ hu]
  simp only [Mask.mem_threads, hu, true_and, List.length_map, List.length_range, hzero, ← Nat.lt_succ_iff (n := o.d.toNat + 3)]
  split
  case isTrue hin =>
    have hlt : k - o.d.toNat < 4 := by omega
    simp [hlt]
  case isFalse => rfl

/-- R108: an enabled flag of a block traps. -/
theorem exec_qpk_traps (h : Enters (.qpk o) s s' e) (hB : e.ReadsB o false s' s'' b)
    (hq : packQuad (lowWord (b (Mask.lowest (e.exm o.p)))).toNat o.rm (e.exm o.p) (fun u => f32.value (e.reg o.a.toNat u).toNat) = (code, sb, fl))
    (hfl : fl &&& enables e.st.sstat ≠ 0) :
    ∃ t a, exec (.qpk o) s = .next t ∧ Traps e s'' t (e.trapOf .float a (fl &&& enables e.st.sstat).toNat) := by
  obtain ⟨n, hn⟩ := exec_qpk h hB hq
  refine ⟨_, Config.freeWord s''.oracle ++ Config.freeWord (s''.oracle + 1), hn, s''.oracle + 2, n, ?_⟩
  simp only [Env.withFlags, ne_eq, hfl, not_false_eq_true, if_true]
  rfl

theorem exec_qupk (h : Enters (.qupk o) s s' e) (hB : e.ReadsB o false s' s'' b) :
    ∃ t, exec (.qupk o) s = .next t ∧ Ran e s'' t (e.next (.qupk o)) (e.withResult (e.exm o.p) o.d false
      (e.quadElement o (e.exm o.p) ((lowWord (b (Mask.lowest (e.exm o.p)))).toNat % 256))) e.st.sstat :=
  gives_of (fun e m b => e.quadElement o m ((lowWord (b (Mask.lowest m))).toNat % 256)) (fun _ => rfl) s s' s'' e b h hB

end

theorem lowWord_ofNat (n : Nat) : lowWord (BitVec.ofNat 64 n) = BitVec.ofNat 32 n := by
  apply BitVec.eq_of_toNat_eq
  simp only [lowWord, BitVec.extractLsb'_toNat, BitVec.toNat_ofNat, Nat.shiftRight_zero]
  omega

theorem toNat_lowWord_mod (v : DWord) : (lowWord v).toNat % 256 = v.toNat % 256 := by
  simp only [lowWord, BitVec.extractLsb'_toNat, Nat.shiftRight_zero]
  omega

/-- Settles O22: the block is `packQuad_eq`, its registers are those of `Strand.reg_setBlocks`. -/
theorem quadBlocks : Obligations.QuadBlocks := by
  intro o s s' s'' e b hB m sb
  constructor
  · intro h hd _ hc x made nan zero code word fl
    have hq := packQuad_eq (lowWord (b (Mask.lowest m))).toNat o.rm m x
    rw [toNat_lowWord_mod] at hq
    have hword (k : Nat) : nibbles code k = word k := nibbles_eq code k
    refine ⟨fun hfl => ?_, fun hfl => exec_qpk_traps h hB hq hfl⟩
    simpa only [← hword] using exec_qpk_ran h hB hq hd hc hfl
  · intro h
    simpa only [Env.withResult, Bool.false_eq_true, if_false, Env.quadElement, lowWord_ofNat, toNat_lowWord_mod] using exec_qupk h hB

end Sys2Proof.Machine

/-! Placing a band (R305, R307), in a state whose next key is a team's already. -/

namespace Sys2Proof.Machine

/-- R307, R312: where nothing is swapped out, a distributor places the first new band that fits. -/
theorem exec_teamPlacement_fresh {s t : State} {d c : Nat} (hrun : s.mayRun c = true) (hdie : (s.die d).fenced = false) (hturn : s.turnTaken d c = false)
    (hold : (s.spend 1).swappedBands c = []) (hnew : (s.spend 1).placeNew d c = some t) : exec (.teamPlacement d c) s = .next t := by
  have hresume : (s.spend 1).resumeBand d c = none := by rw [State.resumeBand, hold]; rfl
  have hnext : s.placeNext d c = some t := by
    rw [State.placeNext, if_neg (by simp [hrun, hdie, hturn])]
    simp only [hnew, hresume]
    split <;> rfl
  show execTeamPlacement d c s = _
  rw [execTeamPlacement, hnext]

theorem mem_keys_of_look {α : Type} {t : Sparse α} {n : Nat} {x : α} (h : look t n = some x) : n ∈ t.map Prod.fst := by
  induction t with
  | nil => cases h
  | cons p t ih =>
    obtain ⟨k, v⟩ := p
    simp only [look] at h
    split at h
    · simp [*]
    · exact List.mem_cons_of_mem _ (ih h)

/-- A launch of one team of one warp. -/
def lone : Launch := { record := { stages := [{ entry := 0x10000, teams := 1, roles := [1] }] } }

/-- Context 0 has a launch to place; a team of context 1 that has exited has the key that the next new team is given. -/
def keyTaken : State :=
  { ctxs := [(0, { valid := true, poolsz := 2 ^ 30 })], launches := [(3, lone)], teams := [(9, { ctx := 1, exited := true })], nextKey := 9 }

theorem keyTaken_turn : keyTaken.mayRun 0 = true ∧ (keyTaken.die 0).fenced = false ∧ keyTaken.turnTaken 0 0 = false ∧ (keyTaken.spend 1).swappedBands 0 = [] := by
  decide +kernel

/-- The band of `lone` is the first that fits, and its image has room. -/
theorem keyTaken_fits :
    ((keyTaken.spend 1).freshBands 0 0).find? (fun n => ((keyTaken.spend 1).planBand n.1 n.2.1 0 n.2.2).isSome) = some (3, lone, 0) ∧
    ((keyTaken.spend 1).placeBand 3 lone 0 0).isSome = true ∧ (keyTaken.spend 1).poolRoom 0 ((keyTaken.spend 1).bandTeams 3 lone 0 0) = true := by
  decide +kernel

/-- The new team replaces the one that had its key. -/
theorem keyTaken_placeNew : ((keyTaken.spend 1).placeNew 0 0).map (fun t => t.teams.map Prod.fst) = some [9] := by decide +kernel

theorem keyTaken_keys {t : State} (ht : exec (.teamPlacement 0 0) keyTaken = .next t) : t.teams.map Prod.fst = [9] := by
  obtain ⟨hrun, hdie, hturn, hold⟩ := keyTaken_turn
  obtain ⟨u, hu, hkeys⟩ := Option.map_eq_some_iff.mp keyTaken_placeNew
  rw [exec_teamPlacement_fresh hrun hdie hturn hold hu] at ht
  cases ht
  exact hkeys

/-- Refutes O60: by its placement clause (R305) a new team has a key that no team had before, but no premise says that the state's next key is
one. In `keyTaken` it is another team's: the new team replaces that one, and no key is new. -/
theorem not_completions : ¬ Obligations.Completions := by
  unfold Obligations.Completions
  rintro ⟨-, -, -, -, -, -, -, -, -, hplace, -, -⟩
  obtain ⟨hrun, hdie, hturn, hold⟩ := keyTaken_turn
  obtain ⟨hfirst, hband, hroom⟩ := keyTaken_fits
  obtain ⟨u, hu⟩ := Option.isSome_iff_exists.mp hband
  obtain ⟨hfresh, -⟩ := hplace keyTaken 0 0 hrun hdie hturn
  obtain ⟨t, ht, -, hteams⟩ := hfresh 3 lone 0 u hold hfirst hu hroom
  obtain ⟨k, y, -, hnew, hnone, -⟩ := hteams 0 (by decide)
  have hk := mem_keys_of_look hnew
  rw [keyTaken_keys ht, List.mem_singleton] at hk
  subst hk
  cases hnone

end Sys2Proof.Machine

/-! Rules for the INT, FLT and WARP groups: source B has been read; results that are words, or carry no flag, or are on their way (R107, R321). -/

namespace Sys2Proof.Machine

/-! ### Entered with source B -/

/-- An instruction that reads source B has the effect of its body; only the counter of free values may go on beside it. -/
theorem Enters.alu {i : Instr} {o : Alu} {wb : Bool} {body : Env → Mask → (Nat → DWord) → State → State} {s s' s'' : State} {e : Env}
    {b : Nat → DWord} (h : Enters i s s' e) (hB : e.ReadsB o wb s' s'' b) (hx : ∀ s, exec i s = runAlu i o wb s body) :
    ∃ n, exec i s = .next { body e (e.exm o.p) b s'' with oracle := n } := by
  obtain ⟨n, hn⟩ := h.run fun e s => e.withB (e.exm o.p) o.b wb (widenOp o.ty) s fun b s => body e (e.exm o.p) b s
  rw [hB.value fun b s => body e (e.exm o.p) b s] at hn
  exact ⟨n, (hx s).trans hn⟩

/-- Of a result that is one register only the low word counts. -/
theorem Gives.congr_low {i : Instr} {o : Alu} {wb : Bool} {f g : Env → (Nat → DWord) → Nat → DWord} (h : Gives i o wb false f)
    (hfg : ∀ e b u, lowWord (f e b u) = lowWord (g e b u)) : Gives i o wb false g := by
  intro s s' s'' e b hE hB
  obtain ⟨t, ht, hran⟩ := h s s' s'' e b hE hB
  have hsame : (fun u => lowWord (g e b u)) = fun u => lowWord (f e b u) := funext fun u => (hfg e b u).symm
  refine ⟨t, ht, ?_⟩
  unfold Env.withResult at hran ⊢
  rwa [hsame]

theorem orFlags_of_zero {fs : List Flags} (h : ∀ fl ∈ fs, fl = 0) : orFlags fs = 0 := by
  unfold orFlags
  induction fs with
  | nil => rfl
  | cons fl fs ih =>
    rw [List.foldl_cons, h fl List.mem_cons_self]
    exact ih fun x hx => h x (List.mem_cons_of_mem _ hx)

/-- R107: results without a flag are written whatever is enabled, and FLG stays as it is. -/
theorem GivesFlags.gives {i : Instr} {o : Alu} {wb wd : Bool} {f : Env → (Nat → DWord) → Nat → DWord × Flags} (h : GivesFlags i o wb wd f)
    (hf : ∀ e b u, (f e b u).2 = 0) : Gives i o wb wd fun e b u => (f e b u).1 := by
  intro s s' s'' e b hE hB
  obtain ⟨hgo, -⟩ := h s s' s'' e b hE hB
  have hzero : orFlags ((Mask.threads (e.exm o.p)).map fun u => (f e b u).2) = 0 := by
    refine orFlags_of_zero fun fl hfl => ?_
    obtain ⟨u, -, rfl⟩ := List.mem_map.mp hfl
    exact hf e b u
  simpa [hzero] using hgo

theorem Mask.any_threads {m : Mask} {p : Nat → Bool} : (Mask.threads m).any p = true ↔ ∃ u < 32, m.getLsbD u = true ∧ p u = true := by
  simp only [List.any_eq_true, Mask.mem_threads, and_assoc]

/-! ### Results on their way -/

/-- R321: a register with its threads and their values, as `RanLater` names a result. -/
abbrev Result := RegNo × Mask × (Nat → Word)

/-- What SCORE holds of a result, and what is on its way. -/
def Result.scored (r : Result) : ScoreEntry := { reg := r.1.toNat, mask := r.2.1 }
def Result.sent (r : Result) : Inbound := { reg := r.1.toNat, vals := (Mask.threads r.2.1).map fun u => (u, r.2.2 u) }

/-- R321: results are sent, one after another. -/
def Env.laterAll (e : Env) (rs : List Result) (s : State) : State := rs.foldl (fun s r => e.later r.2.1 r.1 r.2.2 s) s

/-- R321: a split whose SCORE holds results besides. -/
def Split.owed (k : Split) (rs : List Result) : Split := { k with score := k.score ++ rs.map Result.scored }

/-- R321: a strand to whose split k results are on their way. -/
def Strand.owed (st : Strand) (k : Nat) (rs : List Result) : Strand :=
  { st with splits := setNth st.splits k ((st.split k).owed rs), inbound := st.inbound ++ rs.map Result.sent }

theorem Strand.split_owed_self (st : Strand) {k : Nat} (hk : k < st.splits.length) (rs : List Result) :
    (st.owed k rs).split k = (st.split k).owed rs := st.split_mapSplit_self k (fun x => x.owed rs) hk

theorem Strand.length_owed (st : Strand) (k : Nat) (rs : List Result) : (st.owed k rs).splits.length = st.splits.length := length_setNth ..

theorem setNth_getD {α : Type} (l : List α) (k : Nat) (d : α) : setNth l k (l.getD k d) = l := by
  induction l generalizing k with
  | nil => rfl
  | cons y t ih =>
    cases k with
    | zero => rfl
    | succ k => exact congrArg (y :: ·) (ih k)

theorem Strand.owed_nil (st : Strand) (k : Nat) : st.owed k [] = st := by
  have hsplit : (st.split k).owed [] = st.splits.getD k {} := by simp only [Split.owed, List.map_nil, List.append_nil, Strand.split]
  rw [Strand.owed, hsplit, setNth_getD, List.map_nil, List.append_nil]

theorem Strand.owed_cons (st : Strand) {k : Nat} (hk : k < st.splits.length) (r : Result) (rs : List Result) :
    (st.owed k [r]).owed k rs = st.owed k (r :: rs) := by
  rw [Strand.owed, st.split_owed_self hk]
  simp only [Strand.owed, Split.owed, setNth_setNth, List.append_assoc, List.map_cons, List.map_nil, List.singleton_append]

theorem Only.laterAll {e : Env} {s t : State} {st : Strand} (h : Only e.who s t st) (hk : e.k < st.splits.length)
    {rs : List Result} (hrs : ∀ r ∈ rs, ¬(r.1 = 0 ∨ r.2.1 = 0)) : Only e.who s (e.laterAll rs t) (st.owed e.k rs) := by
  induction rs generalizing t st with
  | nil => rwa [st.owed_nil]
  | cons r rs ih =>
    have hlater : Only e.who s (e.later r.2.1 r.1 r.2.2 t) (st.owed e.k [r]) := by
      have h := h.later r.2.1 r.1 r.2.2
      rwa [if_neg (hrs r List.mem_cons_self)] at h
    rw [← st.owed_cons hk]
    exact ih hlater (hk.trans_eq (st.length_owed ..).symm) fun r hr => hrs r (List.mem_cons_of_mem _ hr)

/-- R321: results are on their way, and the strand has gone on. -/
theorem RanLater.of_laterAll {e : Env} {s : State} (hst : s.strand? e.who = some e.st) (hk : e.k = splitNo e.who) (hsp : e.sp = e.st.split e.k)
    (hlen : e.k < e.st.splits.length) (i : Instr) {rs : List Result} (hrs : ∀ r ∈ rs, ¬(r.1 = 0 ∨ r.2.1 = 0)) (n : Nat) :
    RanLater e s { e.retire i (e.laterAll rs s) with oracle := n } (e.next i) rs := by
  have ho := (((Only.refl hst).laterAll hlen hrs).retire i).oracle n
  rw [← hk] at ho
  have hself := (e.st.owed e.k rs).split_leave_self (hlen.trans_eq (e.st.length_owed ..).symm) (e.next i) (instrPre i).sw (endsRegion i)
    (e.laterAll rs s).nextKey
  rw [e.st.split_owed_self hlen, ← hsp] at hself
  refine ⟨_, ho.strand, fun _ _ _ => rfl, rfl, rfl, ?_, rfl, ?_, ?_, fun j hj => ?_, ho.rest, fun a => by rw [State.mem_of_elsewhere ho.rest]⟩
  · exact (congrArg Split.score hself).trans (Split.leave_score ..)
  · exact (congrArg Split.pc hself).trans (Split.leave_pc ..)
  · exact (congrArg Split.exm hself).trans (Split.leave_exm ..)
  · exact (Strand.split_mapSplit_ne _ _ hj).trans (e.st.split_mapSplit_ne (fun x => x.owed rs) hj)

theorem lateWords_sent {m : Mask} {d : RegNo} {wide : Bool} (hd : d.toNat % 2 = 0 ∨ wide = false) (f : Nat → DWord) :
    ∀ r ∈ lateWords m d wide f, ¬(r.1 = 0 ∨ r.2.1 = 0) := by
  unfold lateWords
  split
  case isTrue => exact fun r hr => absurd hr List.not_mem_nil
  case isFalse hsent =>
    cases wide with
    | false => exact List.forall_mem_singleton.mpr hsent
    | true =>
      have heven := hd.resolve_right (by decide)
      have hnext : d + 1 ≠ 0 := by bv_omega
      have hm : m ≠ 0 := fun hm => hsent (.inr hm)
      exact List.forall_mem_cons.mpr ⟨hsent, List.forall_mem_singleton.mpr (not_or.mpr ⟨hnext, hm⟩)⟩

/-- R142: what is sent for a register or a pair. -/
theorem laterWide_eq (e : Env) (m : Mask) (d : RegNo) (wide : Bool) (f : Nat → DWord) (s : State) :
    e.laterWide m d wide f s = e.laterAll (lateWords m d wide f) s := by
  unfold Env.laterWide lateWords
  by_cases h : d = 0 ∨ m = 0
  · have hnone (d' : RegNo) (hd' : d' = 0 ∨ m = 0) (g : Nat → Word) : e.later m d' g s = s := if_pos (by simpa using hd')
    rw [if_pos h, hnone d h]
    split
    case isTrue hwide =>
      have hd : d ≠ 0 := of_decide_eq_true (Bool.and_eq_true .. ▸ hwide).2
      exact hnone (d + 1) (.inr (h.resolve_left hd)) _
    case isFalse => rfl
  · have hd : d ≠ 0 := fun hd => h (.inl hd)
    rw [if_neg h]
    cases wide with
    | false => rfl
    | true => exact if_pos (by simpa using hd)

end Sys2Proof.Machine

/-! Integers in registers (R109), and the integer instructions that compute, multiply, carry and divide (R113 to R116). -/

namespace Sys2Proof.Machine

/-! ### Integers in registers -/

theorem Ty.bits_pos (ty : Ty) : 0 < Ty.bits ty := by cases ty <;> decide
theorem Ty.bits_le (ty : Ty) : Ty.bits ty ≤ 64 := by cases ty <;> decide

/-- Both ranges of a type have as many values as its bits tell. -/
theorem maxInt_sub_minInt (ty : Ty) : maxInt ty - minInt ty = 2 ^ Ty.bits ty - 1 := by
  have hpow : (2 : Int) ^ Ty.bits ty = 2 * 2 ^ (Ty.bits ty - 1) := by rw [← pow_succ', Nat.sub_add_cancel (Ty.bits_pos ty)]
  unfold maxInt minInt
  split <;> omega

theorem readInt_modEq (ty : Ty) (v : DWord) : readInt ty v ≡ v.toNat [ZMOD 2 ^ Ty.bits ty] := by
  have hmod : ((v.toNat % 2 ^ Ty.bits ty : Nat) : Int) ≡ v.toNat [ZMOD 2 ^ Ty.bits ty] := by
    push_cast
    exact Int.mod_modEq _ _
  unfold readInt
  dsimp only
  split
  · exact (Int.sub_modulus_modEq_iff ..).mpr hmod
  · exact hmod

theorem readInt_range (ty : Ty) (v : DWord) : minInt ty ≤ readInt ty v ∧ readInt ty v ≤ maxInt ty := by
  have hpow : (2 : Nat) ^ Ty.bits ty = 2 * 2 ^ (Ty.bits ty - 1) := by rw [← pow_succ', Nat.sub_add_cancel (Ty.bits_pos ty)]
  have hlt := Nat.mod_lt v.toNat (Nat.two_pow_pos (Ty.bits ty))
  unfold readInt minInt maxInt
  zify at hpow hlt ⊢
  cases Ty.signed ty with
  | false =>
    simp only [Bool.false_and, Bool.false_eq_true, if_false]
    omega
  | true =>
    simp only [Bool.true_and, decide_eq_true_eq, if_true]
    split <;> omega

/-- Within the range of a type, an integer is determined by its residue. -/
theorem int_eq_of_modEq {ty : Ty} {x y : Int} (h : x ≡ y [ZMOD 2 ^ Ty.bits ty]) (hx : minInt ty ≤ x ∧ x ≤ maxInt ty)
    (hy : minInt ty ≤ y ∧ y ≤ maxInt ty) : x = y := by
  have hsize := maxInt_sub_minInt ty
  have hzero := Int.eq_zero_of_abs_lt_dvd h.dvd (by rw [abs_lt]; omega)
  omega

theorem readInt_ofInt_modEq (ty : Ty) (x : Int) : readInt ty (BitVec.ofInt 64 x) ≡ x [ZMOD 2 ^ Ty.bits ty] := by
  have hdvd : (2 ^ Ty.bits ty : Int) ∣ 2 ^ 64 := pow_dvd_pow 2 (Ty.bits_le ty)
  have hval : ((BitVec.ofInt 64 x).toNat : Int) = x % 2 ^ 64 := by
    rw [BitVec.toNat_ofInt]
    exact Int.toNat_of_nonneg (Int.emod_nonneg _ (by decide))
  calc readInt ty (BitVec.ofInt 64 x) ≡ (BitVec.ofInt 64 x).toNat [ZMOD 2 ^ Ty.bits ty] := readInt_modEq ..
    _ = x % 2 ^ 64 := hval
    _ ≡ x [ZMOD 2 ^ Ty.bits ty] := (Int.mod_modEq x _).of_dvd hdvd

theorem readInt_placeInt_modEq (ty : Ty) (x : Int) : readInt ty (placeInt ty x) ≡ x [ZMOD 2 ^ Ty.bits ty] := by
  have hnat : BitVec.ofNat 64 (x % 2 ^ Ty.bits ty).toNat = BitVec.ofInt 64 (x % 2 ^ Ty.bits ty) := by
    rw [← BitVec.ofInt_natCast, Int.toNat_of_nonneg (Int.emod_nonneg _ (by positivity))]
  unfold placeInt
  dsimp only
  rw [hnat]
  exact (readInt_ofInt_modEq ..).trans ((readInt_ofInt_modEq ..).trans (Int.mod_modEq ..))

/-- Settles O11: what has been placed reads back in the type's range, with the residue of the integer placed. -/
theorem placedIntegers : Obligations.PlacedIntegers := by
  intro ty x _
  have hmod := readInt_placeInt_modEq ty x
  obtain ⟨hlo, hhi⟩ := readInt_range ty (placeInt ty x)
  exact ⟨fun hmin hmax => int_eq_of_modEq hmod ⟨hlo, hhi⟩ ⟨hmin, hmax⟩, Int.emod_eq_zero_of_dvd hmod.symm.dvd, hlo, hhi⟩

/-! ### Arithmetic -/

/-- Settles O12: the ten instructions run through `arith`, each with its function. -/
theorem arithmetic : Obligations.Arithmetic := by
  intro o
  have habs (a : Int) : |a| = if a < 0 then -a else a := by
    split
    · exact abs_of_neg ‹_›
    · exact abs_of_nonneg (not_lt.mp ‹_›)
  have hmax (a b : Int) : max a b = if a ≥ b then a else b := max_def' a b
  simp only [habs, min_def, hmax]
  exact ⟨givesInt_of _ fun _ => rfl, givesInt_of _ fun _ => rfl, givesInt_of _ fun _ => rfl, givesInt_of _ fun _ => rfl,
    givesInt_of _ fun _ => rfl, givesInt_of _ fun _ => rfl, givesInt_of _ fun _ => rfl, givesInt_of _ fun _ => rfl,
    givesInt_of _ fun _ => rfl, givesInt_of _ fun _ => rfl⟩

/-! ### Products and carries -/

/-- R114: the high word of a product. -/
theorem lowWord_ofInt_div (x : Int) : lowWord (BitVec.ofInt 64 (x / 2 ^ 32)) = (BitVec.ofInt 64 x).extractLsb' 32 32 := by
  apply BitVec.eq_of_toNat_eq
  simp only [lowWord, BitVec.extractLsb'_toNat, BitVec.toNat_ofInt, Nat.shiftRight_eq_div_pow]
  omega

theorem toNat_append_words (h l : Word) : (h ++ l).toNat = h.toNat * 2 ^ 32 + l.toNat := by
  rw [BitVec.toNat_append, ← Nat.shiftLeft_add_eq_or_of_lt l.isLt, Nat.shiftLeft_eq]

/-- R115: the carry out of a sum stands above it. -/
theorem addCarry_eq (a b c : Word) :
    addCarry a b c = (let x := a.toNat + b.toNat + c.toNat % 2
      BitVec.ofNat 64 ((if 2 ^ 32 ≤ x then 1 else 0) * 2 ^ 32 + x % 2 ^ 32)) := by
  have ha := a.isLt
  have hb := b.isLt
  apply BitVec.eq_of_toNat_eq
  simp only [addCarry, toNat_append_words, BitVec.toNat_ofNat]
  split <;> omega

/-- R115: the borrow out of a difference stands above it. -/
theorem subBorrow_eq (a b c : Word) :
    subBorrow a b c = (let x : Int := (a.toNat : Int) - b.toNat - (c.toNat % 2 : Nat)
      BitVec.ofInt 64 ((if x < 0 then 1 else 0) * 2 ^ 32 + x % 2 ^ 32)) := by
  have ha := a.isLt
  have hb := b.isLt
  apply BitVec.eq_of_toNat_eq
  simp only [subBorrow, toNat_append_words, BitVec.toNat_ofInt, apply_ite BitVec.toNat, BitVec.toNat_ofNat]
  split <;> omega

/-- Settles O13: products by the halves of `product`, carries by `addCarry_eq` and `subBorrow_eq`. -/
theorem productsAndCarries : Obligations.ProductsAndCarries := by
  intro o
  refine ⟨?_, gives_of (fun e m b u => product o.ty (e.src m o.a o.ua u) (lowWord (b u))) fun _ => rfl, ?_, ?_⟩
  · refine Gives.congr_low (givesWord_of (fun a b _ => (product o.ty a b).extractLsb' 32 32) fun _ => rfl) fun e b u => ?_
    rw [lowWord_setWidth, lowWord_ofInt_div]
    rfl
  · exact (gives_of (fun e m b u => addCarry (e.src m o.a o.ua u) (lowWord (b u)) (e.reg o.c.toNat u)) fun _ => rfl).congr
      fun e b u _ => addCarry_eq ..
  · exact (gives_of (fun e m b u => subBorrow (e.src m o.a o.ua u) (lowWord (b u)) (e.reg o.c.toNat u)) fun _ => rfl).congr
      fun e b u _ => subBorrow_eq ..

/-! ### Division -/

/-- R116: what `div` or `rem` does in the threads of `m`, once source B has been read. -/
def Env.divided (e : Env) (i : Instr) (o : Alu) (f : Int → Int → Int) (m : Mask) (b : Nat → DWord) (s : State) : State :=
  if (Mask.threads m).any fun t => lowWord (b t) = 0 then e.raiseOpen .divZero s
  else e.finish i m o.d false (fun t => placeInt o.ty (f (readInt o.ty ((e.src m o.a o.ua t).setWidth 64)) (readInt o.ty (b t)))) s

section
variable {i : Instr} {o : Alu} {f : Int → Int → Int} {s s' s'' : State} {e : Env} {b : Nat → DWord}
  (hx : ∀ s, exec i s = divide i o f s) (h : Enters i s s' e) (hB : e.ReadsB o false s' s'' b)
include hx h hB

theorem exec_divide : ∃ n, exec i s = .next { e.divided i o f (e.exm o.p) b s'' with oracle := n } :=
  h.alu hB (body := fun e m b => e.divided i o f m b) hx

theorem divide_gives (hne : ∀ u, u < 32 → (e.exm o.p).getLsbD u → (b u).extractLsb' 0 32 ≠ 0#32) :
    ∃ t, exec i s = .next t ∧ Ran e s'' t (e.next i) (e.withWord (e.exm o.p) o.d fun u => lowWord (placeInt o.ty
      (f (readInt o.ty ((e.src (e.exm o.p) o.a o.ua u).setWidth 64)) (readInt o.ty (b u))))) e.st.sstat := by
  obtain ⟨n, hn⟩ := exec_divide hx h hB
  obtain ⟨hst, hk, hsp, -⟩ := State.env_fields h.env
  have hany : ¬((Mask.threads (e.exm o.p)).any fun t => lowWord (b t) = 0) = true := by
    rw [Mask.any_threads]
    rintro ⟨u, hu, hm, hz⟩
    exact hne u hu hm (of_decide_eq_true hz)
  rw [Env.divided, if_neg hany] at hn
  exact ⟨_, hn, Only.finish (Only.refl (hB.strand.trans hst)) hk hsp h.split rfl rfl (fun _ _ _ => rfl) ..⟩

theorem divide_traps {u : Nat} (hu : u < 32) (hm : (e.exm o.p).getLsbD u) (hz : (b u).extractLsb' 0 32 = 0#32) :
    ∃ t a, exec i s = .next t ∧ Traps e s'' t (e.trapOf .divZero a) := by
  obtain ⟨n, hn⟩ := exec_divide hx h hB
  rw [Env.divided, if_pos (Mask.any_threads.mpr ⟨u, hu, hm, decide_eq_true hz⟩)] at hn
  exact ⟨_, _, hn, s''.oracle + 2, n, rfl⟩

end

/-- Settles O14: both run through `divide`; a remainder is what the truncated quotient leaves. -/
theorem division : Obligations.Division := by
  intro o s s' s'' e b hB
  refine ⟨fun h => ⟨divide_gives (fun _ => rfl) h hB, fun u => divide_traps (fun _ => rfl) h hB⟩,
    fun h => ⟨fun hne => ?_, fun u => divide_traps (fun _ => rfl) h hB⟩⟩
  simpa only [Int.tmod_def] using divide_gives (f := Int.tmod) (fun _ => rfl) h hB hne

end Sys2Proof.Machine

/-! Words (R117, R118): shifts past the width, counts of bits, reversal and fields, each bit by bit. -/

namespace Sys2Proof.Machine

/-! ### Shifts -/

/-- R117: an arithmetic shift of any amount; past the width only the sign remains. -/
theorem sshiftRight_min {w : Nat} (x : BitVec w) (n : Nat) :
    x.sshiftRight (min n w) = if n < w then x.sshiftRight n else if x.getLsbD (w - 1) then BitVec.allOnes w else 0 := by
  split
  case isTrue h => rw [Nat.min_eq_left h.le]
  case isFalse h =>
    apply BitVec.eq_of_getLsbD_eq
    intro j hj
    rw [Nat.min_eq_right (Nat.not_lt.mp h), BitVec.getLsbD_sshiftRight, if_neg (by omega), BitVec.msb_eq_getLsbD_last]
    cases x.getLsbD (w - 1) <;> simp [hj]

theorem shiftArith_eq (a n : Word) :
    shiftArith a n = if n.toNat < 32 then a.sshiftRight n.toNat else if a.getLsbD 31 then 0xFFFFFFFF else 0 := sshiftRight_min a n.toNat

theorem shiftRight64_signed (a : DWord) (n : Nat) :
    shiftRight64 .i64 a n = if n < 64 then a.sshiftRight n else if a.getLsbD 63 then 0xFFFFFFFFFFFFFFFF else 0 := sshiftRight_min a n

/-- An instruction whose result is a pair, of a pair and an amount. -/
theorem givesShift_of {i : Instr} {o : Alu} (f : DWord → Nat → DWord)
    (h : ∀ s, exec i s = runAlu i o false s fun e m b s => e.finish i m o.d true (fun t => f (e.srcA m o true t) (lowWord (b t)).toNat) s) :
    GivesShift i o f := gives_of (fun e m b t => f (e.srcA m o true t) (lowWord (b t)).toNat) h

theorem shr64_gives (o : Alu) : GivesShift (.shr64 o) o (shiftRight64 o.ty) := givesShift_of _ fun _ => rfl

/-! ### Counts and reversal -/

theorem leadingZeros_of_ne {a : Word} (ha : a ≠ 0) : leadingZeros a = 31 - a.toNat.log2 := if_neg ha

theorem log2_word_lt {a : Word} (ha : a ≠ 0) : a.toNat.log2 < 32 := (Nat.log2_lt (BitVec.toNat_ne.mp ha)).mpr a.isLt

theorem leadingZeros_lt {a : Word} (ha : a ≠ 0) : leadingZeros a < 32 := by
  rw [leadingZeros_of_ne ha]
  omega

/-- R118: above the leading zeros stands a one. -/
theorem getLsbD_leadingZeros {a : Word} (ha : a ≠ 0) :
    a.getLsbD (31 - leadingZeros a) = true ∧ ∀ j, 31 - leadingZeros a < j → a.getLsbD j = false := by
  have hlog := log2_word_lt ha
  have htop : 31 - leadingZeros a = a.toNat.log2 := by
    rw [leadingZeros_of_ne ha]
    omega
  rw [htop]
  refine ⟨(BitVec.testBit_toNat a).symm.trans (Nat.testBit_log2 (BitVec.toNat_ne.mp ha)), fun j hj => ?_⟩
  rw [← BitVec.testBit_toNat]
  exact Nat.testBit_lt_two_pow (Nat.lt_log2_self.trans_le (Nat.pow_le_pow_right (by decide) hj))

theorem getLsbD_reverseBits (a : Word) {j : Nat} (hj : j < 32) : (reverseBits a).getLsbD j = a.getLsbD (31 - j) := by
  rw [reverseBits, BitVec.getLsbD_ofFnLE, dif_pos hj]

theorem getLsbD_reverseBits_mirror (a : Word) {j : Nat} (hj : j < 32) : (reverseBits a).getLsbD (31 - j) = a.getLsbD j := by
  rw [getLsbD_reverseBits a (by omega), show 31 - (31 - j) = j by omega]

theorem reverseBits_ne_zero {a : Word} (ha : a ≠ 0) : reverseBits a ≠ 0 := by
  intro h
  refine ha (BitVec.eq_of_getLsbD_eq fun j hj => ?_)
  rw [← getLsbD_reverseBits_mirror a hj, h]
  simp

theorem reverseBits_zero : reverseBits 0 = 0 := BitVec.eq_of_getLsbD_eq fun j hj => by
  rw [getLsbD_reverseBits 0 hj, BitVec.ofNat_eq_ofNat, BitVec.getLsbD_zero, BitVec.getLsbD_zero]

theorem trailingZeros_zero : trailingZeros 0 = 32 := by rw [trailingZeros, reverseBits_zero]; rfl

theorem popCount_le (a : Word) : popCount a ≤ 32 := (List.length_filter_le ..).trans_eq List.length_range

theorem toNat_ofNat_small {n : Nat} (h : n ≤ 32) : (BitVec.ofNat 32 n).toNat = n := Nat.mod_eq_of_lt (by omega)

/-! ### Fields -/

/-- R118: bits of a field that stands at `pos`. -/
theorem testBit_field (x pos len j : Nat) : (x / 2 ^ pos % 2 ^ len).testBit j = (decide (j < len) && x.testBit (pos + j)) := by
  rw [Nat.testBit_mod_two_pow, Nat.testBit_div_two_pow, Nat.add_comm]

/-- The sign of a field is its last bit. -/
theorem two_pow_le_iff_testBit {x len : Nat} (hlen : 0 < len) (hx : x < 2 ^ len) : 2 ^ (len - 1) ≤ x ↔ x.testBit (len - 1) = true := by
  refine ⟨fun h => Nat.testBit_of_two_pow_le_and_two_pow_add_one_gt h ?_, Nat.ge_two_pow_of_testBit⟩
  rwa [Nat.sub_add_cancel hlen]

/-- R118: a field that is negative under its own length fills the bits above it with ones. -/
theorem getLsbD_ofInt_sub {x len j : Nat} (hlen : len ≤ 32) (hx : x < 2 ^ len) (hj : j < 32) :
    (BitVec.ofInt 32 ((x : Int) - 2 ^ len)).getLsbD j = if j < len then x.testBit j else true := by
  have hpow : 2 ^ len * (2 ^ (32 - len) - 1) = 2 ^ 32 - 2 ^ len := by
    rw [Nat.mul_sub, ← pow_add, Nat.add_sub_cancel' hlen, Nat.mul_one]
  have hle : 2 ^ len ≤ 2 ^ 32 := Nat.pow_le_pow_right (by decide) hlen
  have hnat : BitVec.ofInt 32 ((x : Int) - 2 ^ len) = BitVec.ofNat 32 (2 ^ len * (2 ^ (32 - len) - 1) + x) := by
    apply BitVec.eq_of_toNat_eq
    rw [BitVec.toNat_ofInt, BitVec.toNat_ofNat, hpow]
    have hcast : (2 : Int) ^ len = (2 ^ len : Nat) := by push_cast; rfl
    rw [hcast]
    generalize 2 ^ len = p at *
    omega
  rw [hnat, BitVec.getLsbD_ofNat, Nat.testBit_two_pow_mul_add _ hx, Nat.testBit_two_pow_sub_one]
  split
  · simp only [hj, decide_true, Bool.true_and]
  · simp only [hj, decide_true, Bool.true_and, decide_eq_true_eq]
    omega

/-- R118: is the last bit of a field set. -/
theorem field_sign (a : Word) (pos len : Nat) :
    (decide (0 < len) && decide (2 ^ (len - 1) ≤ a.toNat / 2 ^ pos % 2 ^ len)) = (decide (0 < len) && a.getLsbD (pos + len - 1)) := by
  by_cases hpos : 0 < len
  · have hlt : a.toNat / 2 ^ pos % 2 ^ len < 2 ^ len := Nat.mod_lt _ (Nat.two_pow_pos len)
    have hlast : len - 1 < len := by omega
    have hbit := testBit_field a.toNat pos len (len - 1)
    rw [BitVec.testBit_toNat, ← Nat.add_sub_assoc hpos, decide_eq_true hlast, Bool.true_and] at hbit
    rw [← hbit, decide_eq_decide.mpr (two_pow_le_iff_testBit hpos hlt), Bool.decide_coe]
  · rw [decide_eq_false hpos, Bool.false_and, Bool.false_and]

theorem getLsbD_extractField (ty : Ty) (a b : Word) {j : Nat} (hj : j < 32) :
    (extractField ty a b).getLsbD j =
      if j < (fieldOf b).2 then a.getLsbD ((fieldOf b).1 + j)
      else (ty = .i32 && 0 < (fieldOf b).2 && a.getLsbD ((fieldOf b).1 + (fieldOf b).2 - 1)) := by
  have hlen : (fieldOf b).2 ≤ 32 := (Nat.min_le_right ..).trans (Nat.sub_le ..)
  unfold extractField
  revert hlen
  obtain ⟨pos, len⟩ := fieldOf b
  intro hlen
  have hlt : a.toNat / 2 ^ pos % 2 ^ len < 2 ^ len := Nat.mod_lt _ (Nat.two_pow_pos len)
  have hbit := testBit_field a.toNat pos len j
  rw [BitVec.testBit_toNat] at hbit
  dsimp only at hlen ⊢
  rw [Bool.and_assoc, field_sign, ← Bool.and_assoc]
  split
  case isTrue hneg =>
    rw [getLsbD_ofInt_sub hlen hlt hj, hbit, hneg]
    exact ite_congr rfl (fun hin => by rw [decide_eq_true hin, Bool.true_and]) fun _ => rfl
  case isFalse hpos =>
    rw [BitVec.getLsbD_ofNat, hbit, decide_eq_true hj, Bool.true_and, Bool.eq_false_iff.mpr hpos]
    split <;> simp [*]

theorem getLsbD_insertField (a b c : Word) {j : Nat} (hj : j < 32) :
    (insertField a b c).getLsbD j =
      if (fieldOf b).1 ≤ j ∧ j < (fieldOf b).1 + (fieldOf b).2 then c.getLsbD (j - (fieldOf b).1) else a.getLsbD j := by
  unfold insertField
  dsimp only
  simp only [BitVec.getLsbD_or, BitVec.getLsbD_and, BitVec.getLsbD_not, BitVec.getLsbD_ofNat, Nat.testBit_mul_two_pow, Nat.testBit_two_pow_sub_one,
    BitVec.testBit_toNat, hj, decide_true, Bool.true_and]
  by_cases hpos : (fieldOf b).1 ≤ j
  · by_cases hin : j - (fieldOf b).1 < (fieldOf b).2
    · rw [if_pos (by omega)]
      simp [hpos, hin]
    · rw [if_neg (by omega)]
      simp [hpos, hin]
  · rw [if_neg (by omega)]
    simp [hpos]

/-- Settles O15: every instruction runs through `wordOp` or as a shift of a pair; the values are those of the lemmas above, bit by bit. -/
theorem logicShiftsAndFields : Obligations.LogicShiftsAndFields := by
  refine ⟨fun o => ?_, fun a => BitVec.ofNat 32 (leadingZeros a), fun a => BitVec.ofNat 32 (trailingZeros a), fun a => BitVec.ofNat 32 (popCount a),
    reverseBits, extractField, insertField, fun o => ?_, rfl, congrArg _ trailingZeros_zero, fun a ha => ?_, fun a ha => ?_, fun a => ?_,
    fun a j hj => ?_, fun ty a b j hj => ?_, fun a b c j hj => ?_⟩
  · simp only [← shiftArith_eq, ← shiftRight64_signed]
    refine ⟨givesWord_of _ fun _ => rfl, givesWord_of _ fun _ => rfl, givesWord_of _ fun _ => rfl, givesWord_of _ fun _ => rfl,
      givesWord_of _ fun _ => rfl, givesWord_of _ fun _ => rfl, givesWord_of _ fun _ => rfl, givesWord_of _ fun _ => rfl,
      givesWord_of _ fun _ => rfl, givesWord_of _ fun _ => rfl, givesShift_of _ fun _ => rfl, fun hty => ?_, fun hty => ?_⟩
    · have h := shr64_gives o
      rwa [hty] at h
    · have h := shr64_gives o
      rwa [hty] at h
  · exact ⟨givesWord_of _ fun _ => rfl, givesWord_of _ fun _ => rfl, givesWord_of _ fun _ => rfl, givesWord_of _ fun _ => rfl,
      givesWord_of (fun a b _ => extractField o.ty a b) fun _ => rfl, givesWord_of _ fun _ => rfl⟩
  · have hlt := leadingZeros_lt ha
    rw [toNat_ofNat_small hlt.le]
    exact ⟨hlt, getLsbD_leadingZeros ha⟩
  · have hrev := reverseBits_ne_zero ha
    have hlt := leadingZeros_lt hrev
    obtain ⟨hone, hzero⟩ := getLsbD_leadingZeros hrev
    rw [getLsbD_reverseBits_mirror a hlt] at hone
    simp only [trailingZeros, toNat_ofNat_small hlt.le]
    refine ⟨hlt, hone, fun j hj => ?_⟩
    rw [← getLsbD_reverseBits_mirror a (by omega)]
    exact hzero _ (by omega)
  · exact toNat_ofNat_small (popCount_le a)
  · exact getLsbD_reverseBits_mirror a hj
  · exact getLsbD_extractField ty a b hj
  · exact getLsbD_insertField a b c hj

end Sys2Proof.Machine

/-! Selection, compares and moves (R119 to R122). -/

namespace Sys2Proof.Machine

/-! ### Compares -/

theorem getLsbD_ofTest (p : Nat → Bool) (u : Nat) : (Mask.ofTest p).getLsbD u = (decide (u < 32) && p u) := by
  rw [Mask.ofTest, BitVec.getLsbD_ofFnLE]
  split <;> simp [*]

/-- R120, R129: what a compare writes in thread u, where the threads of `m` that pass the test `p` pass. -/
def compareWord (o : Alu) (m : Mask) (p : Nat → Bool) (u : Nat) : DWord :=
  if o.pt then (if (m &&& Mask.ofTest p).getLsbD u then 1 else 0) else (m &&& Mask.ofTest p).setWidth 64

theorem compareWord_eq (o : Alu) (m : Mask) (p : Nat → Bool) (u : Nat) :
    compareWord o m p u =
      if o.pt then (if m.getLsbD u && p u then 1 else 0) else (Mask.ofTest fun v => m.getLsbD v && p v).setWidth 64 := by
  have hbit : (m &&& Mask.ofTest p).getLsbD u = (m.getLsbD u && p u) := by
    rw [BitVec.getLsbD_and, getLsbD_ofTest]
    by_cases hu : u < 32
    · rw [decide_eq_true hu, Bool.true_and]
    · rw [BitVec.getLsbD_of_ge _ _ (Nat.not_lt.mp hu), Bool.false_and, Bool.false_and]
  rw [compareWord, hbit, and_ofTest]

/-- R48, R120: the conditions by their codes. -/
theorem intCond_ofCode (c : BitVec 4) (x y : Int) : intCond (Cond.ofCode c) x y =
    match c.toNat with
    | 0 => decide (x = y) | 1 => decide (x ≠ y) | 2 => decide (x < y) | 3 => decide (x ≤ y) | 4 => decide (x > y) | 5 => decide (x ≥ y)
    | 6 => true | _ => false := by
  unfold Cond.ofCode
  generalize c.toNat = n
  match n with
  | 0 | 1 | 2 | 3 | 4 | 5 | 6 | _ + 7 => rfl

theorem givesCompare_of {i : Instr} {o : Alu} (h : ∀ s, exec i s = compareInts i o s) : Gives i o o.ty.wide false fun e b u =>
    let passes (v : Nat) : Bool := (e.exm o.p).getLsbD v &&
      intCond (Cond.ofCode o.sub) (readInt o.ty (e.srcA (e.exm o.p) o o.ty.wide v)) (readInt o.ty (b v))
    if o.pt then (if passes u then 1 else 0) else (Mask.ofTest passes).setWidth 64 :=
  (gives_of (fun e m b => compareWord o m fun u => intCond (Cond.ofCode o.sub) (readInt o.ty (e.srcA m o o.ty.wide u)) (readInt o.ty (b u))) h).congr
    fun _ _ _ _ => compareWord_eq ..

/-! ### Selection and moves -/

/-- R119: the condition of thread u is its bit of C, or that C is not zero. -/
theorem sel_gives (o : Alu) : Gives (.sel o) o o.ty.wide o.ty.wide fun e b u =>
    if (if o.sub = 0 then (e.reg o.c.toNat u).getLsbD u else e.reg o.c.toNat u ≠ 0) then e.srcA (e.exm o.p) o o.ty.wide u else b u :=
  gives_of (fun e m b u =>
    if (if o.sub = 0 then (e.reg o.c.toNat u).getLsbD u else e.reg o.c.toNat u ≠ 0) then e.srcA m o o.ty.wide u else b u) fun _ => rfl

theorem mov_gives (o : Alu) : Gives (.mov o) o o.ty.wide o.ty.wide fun e b u =>
    match o.b with
    | .reg _ _ => e.srcA (e.exm o.p) o o.ty.wide u
    | _ => b u :=
  gives_of (fun e m b u => match o.b with
    | .reg _ _ => e.srcA m o o.ty.wide u
    | _ => b u) fun _ => rfl

theorem exec_movw {p : Pre} {d : RegNo} {imm : DWord} {s s' : State} {e : Env} (h : Enters (.movw p d imm) s s' e) :
    ∃ t, exec (.movw p d imm) s = .next t ∧ Ran e s' t (e.next (.movw p d imm)) (e.withPair (e.exm p) d fun _ => imm) e.st.sstat := by
  have hx : exec (.movw p d imm) s = execMovw p d imm s := rfl
  unfold execMovw at hx
  obtain ⟨n, hn⟩ := h.next hx rfl
  obtain ⟨hst, hk, hsp, -⟩ := State.env_fields h.env
  exact ⟨_, hn, (Only.refl hst).finish hk hsp h.split rfl rfl (fun _ _ _ => rfl) (.movw p d imm) (e.exm p) d true (fun _ => imm) n⟩

/-- Settles O16: each clause is what the instruction computes in a thread; the conditions by their codes. -/
theorem selectCompareMove : Obligations.SelectCompareMove := by
  intro o
  refine ⟨fun hsub => ?_, fun hsub => ?_, ?_,
    gives_of (fun e m b u => e.srcPair m o.a o.ua u + leaOffset o.ty (lowWord (b u)) (o.c.toNat % 8)) fun _ => rfl,
    ?_, fun hb => ?_, fun p d imm s s' e h => exec_movw h⟩
  · simpa only [hsub, if_true] using sel_gives o
  · have hne : o.sub ≠ 0 := by
      rw [hsub]
      decide
    simpa only [hne, if_false, decide_eq_true_eq] using sel_gives o
  · have hcmp (i : Instr) (h : ∀ s, exec i s = compareInts i o s) := givesCompare_of h
    simp only [intCond_ofCode] at hcmp
    rintro i (rfl | rfl) <;> exact hcmp _ fun _ => rfl
  · rintro ⟨r, u, hb⟩
    simpa only [hb] using mov_gives o
  · have h := mov_gives o
    cases hb' : o.b with
    | reg r u => exact absurd hb' (hb r u)
    | _ => simpa only [hb'] using h

end Sys2Proof.Machine

/-! Floating point (R126 to R136). -/

namespace Sys2Proof.Machine

/-- Settles O18: every instruction runs through `floatOp`, with its exact function. -/
theorem floatResults : Obligations.FloatResults := by
  intro o
  exact ⟨givesFloat_of _ fun _ => rfl, givesFloat_of _ fun _ => rfl, givesFloat_of _ fun _ => rfl, givesFloat_of _ fun _ => rfl,
    givesFloat_of _ fun _ => rfl, givesFloat_of _ fun _ => rfl, givesFloat_of _ fun _ => rfl, givesFloat_of _ fun _ => rfl,
    givesFloat_of _ fun _ => rfl, givesFloat_of _ fun _ => rfl, givesFloat_of _ fun _ => rfl, givesFloat_of _ fun _ => rfl,
    givesFloat_of _ fun _ => rfl⟩

/-! ### Conversions -/

theorem Ty.wide_of_packed {ty : Ty} (h : ty.packed = true) : ty.wide = false := by
  unfold Ty.packed at h
  split at h
  · rfl
  · rfl
  · cases h

section
variable {src dst : Ty} (rm : Rm) (sat : Bool) (pick : Nat) (a b : DWord)

theorem convertAny_scalar (hs : src.packed = false) (hd : dst.packed = false) :
    convertAny src dst rm sat pick a b = convert src dst rm sat .flush a := by
  simp only [convertAny, hs, hd]

theorem convertAny_packed (hs : src.packed = true) (hd : dst.packed = true) :
    convertAny src dst rm sat pick a b = convertEach src dst rm sat (elements src a) := by
  simp only [convertAny, hs, hd]

theorem convertAny_pack (hs : src.packed = false) (hd : dst.packed = true) :
    convertAny src dst rm sat pick a b = convertEach src dst rm sat [(elements src a).getD 0 0, (elements src b).getD 0 0] := by
  simp only [convertAny, hs, hd]

theorem convertAny_unpack (hs : src.packed = true) (hd : dst.packed = false) :
    convertAny src dst rm sat pick a b = convertEach src dst rm sat [(elements src a).getD pick 0] := by
  simp only [convertAny, hs, hd]

end

theorem cvt_gives (o : Alu) : GivesFlags (.cvt o) o false o.ty.wide fun e b u =>
    convertAny (.ofCode o.sub) o.ty o.rm o.sat (o.c.toNat % 2) (e.srcA (e.exm o.p) o (Ty.wide (.ofCode o.sub)) u) (b u) :=
  givesFlags_of (fun e m b u => convertAny (.ofCode o.sub) o.ty o.rm o.sat (o.c.toNat % 2) (e.srcA m o (Ty.wide (.ofCode o.sub)) u) (b u))
    fun _ => rfl

/-- R93, R136: the key of a thread names its place in the launch; on a latency core it names none. -/
theorem roundingKey_eq {e : Env} {s : State} {x : Team} (hx : e.lat = false → look s.teams e.team = some x) (u : Nat) :
    e.roundingKey (((look s.teams e.team).map Team.idx).getD 0) u =
      e.ctx.seed ^^^ (e.sp.pc <<< 32) ^^^ BitVec.ofNat 64 (if e.lat then 0 else ((x.idx * 32 + e.warp) * 32 + u) % 2 ^ 32) := by
  unfold Env.roundingKey
  cases he : e.lat with
  | true => rfl
  | false =>
    rw [hx he]
    rfl

theorem cvtsr_gives {o : Alu} {s s' s'' : State} {e : Env} {b : Nat → DWord} (h : Enters (.cvtsr o) s s' e) (hB : e.ReadsB o false s' s'' b) :
    FlagsResult (.cvtsr o) o false s s'' e fun u => convert (.ofCode o.sub) o.ty o.rm o.sat
      (.chance (randomOf (e.roundingKey (((look s''.teams e.team).map Team.idx).getD 0) u))) (e.srcA (e.exm o.p) o (Ty.wide (.ofCode o.sub)) u) := by
  obtain ⟨n, hn⟩ := h.alu hB (body := fun e m _ s => e.finishFloat (.cvtsr o) m o.d false (fun u => convert (.ofCode o.sub) o.ty o.rm o.sat
    (.chance (randomOf (e.roundingKey (((look s.teams e.team).map Team.idx).getD 0) u))) (e.srcA m o (Ty.wide (.ofCode o.sub)) u)) s) fun _ => rfl
  exact flags_finish (hB.strand.trans (State.env_fields h.env).1) h hn

/-- Settles O21: `cvt` by the cases of `convertAny`, `cvtsr` with the key of its thread. -/
theorem conversions : Obligations.Conversions := by
  intro o src
  refine ⟨fun hs hd => ?_, fun hs hd => ?_, fun hs hd => ?_, fun hs hd => ?_, fun s s' s'' e b x h hB hx => ?_⟩
  · exact (cvt_gives o).congr fun e b u => convertAny_scalar _ _ _ _ _ hs hd
  · refine (cvt_gives o).congr fun e b u => (convertAny_packed _ _ _ _ _ hs hd).trans ?_
    rw [Ty.wide_of_packed hs]
    rfl
  · have hsrc : Ty.ofCode o.sub = .f32 := hs
    refine (cvt_gives o).congr fun e b u => (convertAny_pack _ _ _ _ _ (by rw [hsrc]; rfl) hd).trans ?_
    have hlow (x : Word) : (x.setWidth 64).toNat % 2 ^ 32 = x.toNat := by
      rw [BitVec.toNat_setWidth_of_le (by decide), Nat.mod_eq_of_lt x.isLt]
    rw [hsrc, ← hlow (e.src (e.exm o.p) o.a o.ua u)]
    rfl
  · have h := cvt_gives o
    rw [hd] at h
    refine h.congr fun e b u => (convertAny_unpack _ _ _ _ _ hs rfl).trans ?_
    rw [Ty.wide_of_packed hs]
    rfl
  · simp only [← roundingKey_eq hx]
    exact cvtsr_gives h hB

/-! ### Special operands -/

theorem nanFlag_nan (s : Bool) : nanFlag (.nan s) = if s then fInvalid else 0 := by cases s <;> rfl

theorem nanFlag_of_quiet {x : Fp} (h : ∀ fs, x = .nan fs → fs = false) : nanFlag x = 0 := by
  cases x with
  | nan fs =>
    rw [h fs rfl]
    rfl
  | _ => rfl

section
variable (rm : Rm) (s : Bool) (x : Fp)

theorem addExact_nan_left : addExact rm (.nan s) x = .nan (nanFlag (.nan s) ||| nanFlag x) := by cases x <;> rfl
theorem addExact_nan_right : addExact rm x (.nan s) = .nan (nanFlag x ||| nanFlag (.nan s)) := by cases x <;> rfl
theorem mulExact_nan_left : mulExact (.nan s) x = .nan (nanFlag (.nan s) ||| nanFlag x) := by cases x <;> rfl
theorem mulExact_nan_right : mulExact x (.nan s) = .nan (nanFlag x ||| nanFlag (.nan s)) := by cases x <;> rfl
theorem divExact_nan_left : divExact (.nan s) x = .nan (nanFlag (.nan s) ||| nanFlag x) := by cases x <;> rfl
theorem divExact_nan_right : divExact x (.nan s) = .nan (nanFlag x ||| nanFlag (.nan s)) := by cases x <;> rfl

theorem fmaExact_nan (y z : Fp) : fmaExact rm (.nan s) y z = .nan (nanFlag (.nan s) ||| nanFlag y ||| nanFlag z) := by
  rw [fmaExact, mulExact_nan_left]

/-- R83: a NaN beside an operand that is no signalling NaN makes a NaN, with its own flag. -/
theorem exact_nan_of_quiet (hx : ∀ fs, x = .nan fs → fs = false) :
    let r : Exact := .nan (if s then fInvalid else 0)
    addExact rm (.nan s) x = r ∧ addExact rm x (.nan s) = r ∧ mulExact (.nan s) x = r ∧ mulExact x (.nan s) = r ∧
      divExact (.nan s) x = r ∧ divExact x (.nan s) = r ∧ fmaExact rm (.nan s) x x = r := by
  have hzero := nanFlag_of_quiet hx
  simp [addExact_nan_left, addExact_nan_right, mulExact_nan_left, mulExact_nan_right, divExact_nan_left, divExact_nan_right, fmaExact_nan, hzero,
    nanFlag_nan]

end

/-- R83: equal magnitudes of opposite signs sum to a zero, which is negative under `.rd`. -/
theorem addExact_cancel (rm : Rm) (n : Bool) {m : Nat} (hm : m ≠ 0) (e : Int) : addExact rm (.fin n m e) (.fin (!n) m e) = .zero (rm = .rd) := by
  have hsum : scaled n m e (min e e) + scaled (!n) m e (min e e) = 0 := by cases n <;> simp [scaled]
  simp only [addExact, decide_eq_false hm, Bool.false_and, Bool.false_eq_true, if_false, hsum, exactOf, if_true]

theorem addExact_infs (rm : Rm) (n : Bool) : addExact rm (.inf n) (.inf !n) = .nan fInvalid := by cases n <;> rfl

theorem addExact_zeros (rm : Rm) (n : Bool) (e : Int) : addExact rm (.fin n 0 e) (.fin n 0 e) = .zero n := by
  simp [addExact]

/-- R84: one, of either sign, is a code of every format. -/
theorem Ieee.round_one {f : Ieee} (hf : 1 ≤ f.bias ∧ 2 ^ f.ebits = 2 * f.bias + 2) (rm : Rm) (sat neg : Bool) :
    f.round rm sat { neg, m := 1, e := 0 } = ((if neg then f.signBit else 0) + f.bias * 2 ^ f.fbits, 0) := by
  obtain ⟨hbias, hexp⟩ := hf
  have htop : max (({ neg, m := 1, e := 0 } : Real_).top) f.emin = 0 := by
    have hlog : Nat.log2 1 = 0 := rfl
    simp only [Real_.top, Ieee.emin, hlog]
    omega
  have hkept : ({ neg, m := 1, e := 0 } : Real_).roundAt rm (0 - f.fbits) = (2 ^ f.fbits, true) := by
    simp [Real_.roundAt, roundsAway]
  have hmag : (0 - f.emin).toNat * 2 ^ f.fbits + 2 ^ f.fbits = f.bias * 2 ^ f.fbits := by
    have hexp : (0 - f.emin).toNat + 1 = f.bias := by
      unfold Ieee.emin
      omega
    rw [← Nat.succ_mul, Nat.succ_eq_add_one, hexp]
  have hlt : f.bias * 2 ^ f.fbits < f.infCode := Nat.mul_lt_mul_of_pos_right (by omega) (Nat.two_pow_pos _)
  simp only [Ieee.round, htop, hkept, hmag, Nat.not_le.mpr hlt, if_false, if_true, Bool.not_true, Bool.and_false, Bool.false_eq_true]
  rfl

/-- The formats of R80, by what their exponents need. -/
theorem Ieee.bias_of_mem {f : Ieee} (hf : f ∈ [f32, f16, bf16, f64]) : 1 ≤ f.bias ∧ 2 ^ f.ebits = 2 * f.bias + 2 := by
  revert f
  decide

/-! ### Choices -/

theorem nanFlag_or (x y : Fp) : nanFlag x ||| nanFlag y = if x = .nan true ∨ y = .nan true then fInvalid else 0 := by
  have hflag (x : Fp) : nanFlag x = if x = .nan true then fInvalid else 0 := by
    match x with
    | .nan true | .nan false | .inf _ | .fin .. => rfl
  rw [hflag, hflag]
  by_cases hx : x = .nan true <;> by_cases hy : y = .nan true <;> simp [hx, hy]

/-- R127: values that compare equal are told apart by the sign of the first. -/
theorem pickCode_eq (f : Ieee) (least : Bool) (a b : Nat) : pickCode f least a b =
    let x := f.value a
    let y := f.value b
    (if x.isNan && y.isNan then f.nanCode else if x.isNan then b else if y.isNan then a
     else if compareFp x y = .lt then (if least then a else b) else if compareFp x y = .gt then (if least then b else a)
     else if x.neg || !y.neg then (if least then a else b) else if least then b else a,
     if x = .nan true ∨ y = .nan true then fInvalid else 0) := by
  unfold pickCode Fp.before
  dsimp only
  rw [nanFlag_or]
  cases (f.value a).isNan <;> cases (f.value b).isNan
  case false.false =>
    cases compareFp (f.value a) (f.value b) with
    | eq => cases (f.value a).neg || !(f.value b).neg <;> cases least <;> rfl
    | _ => cases least <;> rfl
  all_goals rfl

theorem pick_gives {o : Alu} (least : Bool) (i : Instr) (h : (least = true ∧ i = .fmin o) ∨ (least = false ∧ i = .fmax o)) :
    GivesCodes i o fun a b _ => pickCode (Ty.ieee o.ty) least a b := by
  obtain ⟨rfl, rfl⟩ | ⟨rfl, rfl⟩ := h
  · exact givesCodes_of (fun a b _ => pickCode (Ty.ieee o.ty) true a b) fun _ => rfl
  · exact givesCodes_of (fun a b _ => pickCode (Ty.ieee o.ty) false a b) fun _ => rfl

/-- R131: the class of a value by its sign, its fraction and its exponent. -/
theorem classOf_eq (f : Ieee) (x : Fp) : classOf f x =
    match x with
    | .nan true => 0 | .nan false => 1 | .inf true => 2 | .inf false => 9
    | .fin true m _ => if m = 0 then 5 else if m < 2 ^ f.fbits then 4 else 3
    | .fin false m _ => if m = 0 then 6 else if m < 2 ^ f.fbits then 7 else 8 := by
  match x with
  | .nan true | .nan false | .inf true | .inf false | .fin true .. | .fin false .. => rfl

theorem fclass_gives (o : Alu) : Gives (.fclass o) o false false fun e _ u =>
    BitVec.ofNat 64 (2 ^ classOf (Ty.ieee o.ty) ((Ty.ieee o.ty).value ((elements o.ty (e.srcA (e.exm o.p) o o.ty.wide u)).getD 0 0))) :=
  gives_of (fun e m _ u => BitVec.ofNat 64 (2 ^ classOf (Ty.ieee o.ty) ((Ty.ieee o.ty).value ((elements o.ty (e.srcA m o o.ty.wide u)).getD 0 0))))
    fun _ => rfl

/-- R129: what `fcmp` computes in thread u of `m`. -/
def Env.fcmpResult (e : Env) (o : Alu) (m : Mask) (b : Nat → DWord) (u : Nat) : DWord × Flags :=
  let val (v : DWord) : Fp := (Ty.ieee o.ty).value ((elements o.ty v).getD 0 0)
  let x (v : Nat) : Fp := val (e.srcA m o o.ty.wide v)
  (compareWord o m (fun v => floatCond (Cond.ofCode o.sub) (x v) (val (b v))) u, compareFlags (Cond.ofCode o.sub) (x u) (val (b u)))

theorem fcmp_gives (o : Alu) : GivesFlags (.fcmp o) o o.ty.wide false fun e => e.fcmpResult o (e.exm o.p) :=
  givesFlags_of (fun e m => e.fcmpResult o m) fun _ => rfl

/-! ### Scaling and products -/

theorem eachElement_unary (ty : Ty) (a b c : DWord) (f : Nat → Nat × Flags) :
    eachElement ty a b c (fun x _ _ => f x) = perElement ((elements ty a).map f) := congrArg perElement (map_range_getD _ f)

theorem fscale_gives (o : Alu) : GivesFlags (.fscale o) o false o.ty.wide fun e b u =>
    perElement ((elements o.ty (e.srcA (e.exm o.p) o o.ty.wide u)).map fun a => scaleCode (Ty.ieee o.ty) o.rm o.sat a (lowWord (b u)).toInt) :=
  (givesFlags_of (fun e m b u => eachElement o.ty (e.srcA m o o.ty.wide u) 0 0 fun a _ _ =>
      scaleCode (Ty.ieee o.ty) o.rm o.sat a (lowWord (b u)).toInt)
    fun _ => rfl).congr fun _ _ _ => eachElement_unary ..

/-- R134: what `fdp2` computes in thread u of `m`. -/
def Env.fdp2Result (e : Env) (o : Alu) (m : Mask) (b : Nat → DWord) (u : Nat) : DWord × Flags :=
  let val (v : DWord) (k : Nat) : Fp := (Ty.ieee o.ty).value ((elements o.ty v).getD k 0)
  let a := e.srcA m o false u
  perElement [f32.deliver o.rm o.sat (sumExact o.rm
    [productAddend (val a 0) (val (b u) 0), productAddend (val a 1) (val (b u) 1), f32.value (e.reg o.c.toNat u).toNat])]

theorem fdp2_gives (o : Alu) : GivesFlags (.fdp2 o) o false false fun e => e.fdp2Result o (e.exm o.p) :=
  givesFlags_of (fun e m => e.fdp2Result o m) fun _ => rfl

/-- Settles O19: the exact functions by their cases, the instructions by what each computes in a thread. -/
theorem specialOperandsAndChoices : Obligations.SpecialOperandsAndChoices := by
  unfold Obligations.SpecialOperandsAndChoices
  refine ⟨?_, fun o => ⟨?_, ?_, ?_, ?_, ?_, ?_, ?_, ?_⟩⟩
  · intro rm x s n k m e nan quiet
    have hnan {y : Exact} {fl : Flags} (h : y = .nan fl) : nan y fl := fun f sat => by
      rw [h]
      rfl
    refine ⟨fun hx => ?_, ?_⟩
    · obtain ⟨hadd, hadd', hmul, hmul', hdiv, hdiv', hfma⟩ := exact_nan_of_quiet rm s x hx
      exact ⟨hnan hadd, hnan hadd', hnan hmul, hnan hmul', hnan hdiv, hnan hdiv', hnan hfma⟩
    · have hone {f : Ieee} (hf : f ∈ [f32, f16, bf16, f64]) (sat neg : Bool) := Ieee.round_one (Ieee.bias_of_mem hf) rm sat neg
      exact ⟨hnan (congrArg Exact.nan (nanFlag_nan s)), hnan rfl, hnan rfl, hnan rfl, hnan rfl, hnan rfl, hnan rfl,
        -- R83: the invalid operations, division by zero and the signs of zeros
        hnan (addExact_infs rm n), hnan rfl, hnan rfl, hnan rfl, hnan rfl, fun hm => hnan (if_neg hm), hnan rfl, fun hm => if_neg hm, rfl,
        addExact_zeros rm n e, fun hm => addExact_cancel rm n hm e,
        -- R130: negative operands, infinities, zeros, and the results that are one
        fun hm => ⟨hnan (if_neg hm), hnan (if_neg hm)⟩, hnan rfl, hnan rfl, hnan rfl, hnan rfl, rfl, rfl, rfl, rfl, rfl, rfl, rfl, rfl,
        fun f sat hf => ⟨(hone hf sat false).trans (by simp), (hone hf sat false).trans (by simp), hone hf sat n⟩⟩
  · have hpick := @pick_gives o
    simp only [pickCode_eq] at hpick
    exact hpick
  · exact givesCodes_of _ fun _ => rfl
  · exact givesCodes_of _ fun _ => rfl
  · refine (fcmp_gives o).congr fun e b u => ?_
    rw [Env.fcmpResult, compareWord_eq]
  · have h := fclass_gives o
    simp only [classOf_eq] at h
    exact h
  · exact givesCodes_of _ fun _ => rfl
  · exact fscale_gives o
  · exact fdp2_gives o

end Sys2Proof.Machine

/-! Values exchanged between threads (R142, R143, R145), reductions and scans (R127, R134, R144). -/

namespace Sys2Proof.Machine

/-! ### Exchange -/

theorem exec_shfl {o : Alu} {s s' s'' : State} {e : Env} {b : Nat → DWord} (h : Enters (.shfl o) s s' e) (hB : e.ReadsB o false s' s'' b)
    (hd : o.d.toNat % 2 = 0 ∨ o.ty.wide = false) :
    ∃ t, exec (.shfl o) s = .next t ∧ RanLater e s'' t (e.next (.shfl o)) (lateWords (e.exm o.p) o.d o.ty.wide fun u =>
      e.srcA (e.exm o.p) o o.ty.wide (shuffleSource (e.exm o.p) o.sub.toNat u (lowWord (b u)).toNat)) := by
  obtain ⟨n, hn⟩ := h.alu hB (body := fun e m b s => e.retire (.shfl o) (e.laterWide m o.d o.ty.wide (fun u =>
    e.srcA m o o.ty.wide (shuffleSource m o.sub.toNat u (lowWord (b u)).toNat)) s)) fun _ => rfl
  obtain ⟨hst, hk, hsp, -⟩ := State.env_fields h.env
  rw [laterWide_eq] at hn
  exact ⟨_, hn, RanLater.of_laterAll (hB.strand.trans hst) hk hsp h.split _ (lateWords_sent hd _) n⟩

/-- R142: a thread receives from the thread that its mode names, where that one acts, and otherwise its own value. -/
theorem shuffleSource_eq (m : Mask) (mode u n : Nat) : shuffleSource m mode u n =
    match (match mode with
      | 0 => some (n % 32)
      | 1 => if n ≤ u then some (u - n) else none
      | 2 => if u + n ≤ 31 then some (u + n) else none
      | _ => some (u ^^^ (n % 32)) : Option Nat) with
    | some v => if v < 32 ∧ m.getLsbD v then v else u
    | none => u := by
  have hacts (v : Nat) : (v < 32 ∧ m.getLsbD v = true) = (m.getLsbD v = true) := propext (and_iff_right_of_imp BitVec.lt_of_getLsbD)
  simp only [hacts]
  match mode with
  | 0 | 1 | _ + 3 => rfl
  | 2 =>
    have hlast : u + n < 32 ↔ u + n ≤ 31 := Nat.lt_succ_iff
    by_cases hin : u + n ≤ 31
    · simp only [shuffleSource, shuffleFrom, hlast, hin, if_true]
    · simp only [shuffleSource, shuffleFrom, hlast, hin, if_false]

/-- Settles O23: `shfl` sends what `shuffleSource` names; the others write one word or pair at once. -/
theorem warpExchange : Obligations.WarpExchange := by
  intro o mask
  refine ⟨fun s s' s'' e b h hB hd => ?_, ?_, ?_, ?_, ?_⟩
  · obtain ⟨t, ht, hran⟩ := exec_shfl h hB hd
    refine ⟨t, ht, ?_⟩
    simp only [shuffleSource_eq] at hran
    exact hran
  · exact gives_of (fun e m b u => if voteOf o.sub.toNat ((Mask.threads m).map fun t => e.src m o.a o.ua t) then 1 else 0) fun _ => rfl
  · refine (gives_of (fun e m _ _ => (m &&& Mask.ofTest fun t => e.src m o.a o.ua t ≠ 0).setWidth 64) fun _ => rfl).congr fun e b u _ => ?_
    rw [and_ofTest]
  · exact gives_of (fun e m b _ => e.srcA m o o.ty.wide (broadcastFrom m (lowWord (b (Mask.lowest m))).toNat)) fun _ => rfl
  · refine (gives_of (fun e m _ u => (m &&& Mask.ofTest fun v => e.srcA m o o.ty.wide v = e.srcA m o o.ty.wide u).setWidth 64)
      fun _ => rfl).congr fun e b u _ => ?_
    rw [and_ofTest]

/-! ### Reductions and scans -/

/-- R144: a reduction over all acting threads. -/
theorem redw_gives (o : Alu) : GivesFlags (.redw o) o false o.ty.wide fun e _ _ =>
    combine o ((Mask.threads (e.exm o.p)).map fun u => e.srcA (e.exm o.p) o o.ty.wide u) :=
  givesFlags_of (fun e m _ _ => combine o ((Mask.threads m).map fun u => e.srcA m o o.ty.wide u)) fun _ => rfl

/-- R144: a scan over the threads up to each thread. -/
theorem scanw_gives (o : Alu) : GivesFlags (.scanw o) o false o.ty.wide fun e _ u =>
    combine o (((Mask.threads (e.exm o.p)).filter fun v => v < u || (v = u && o.sub.toNat < 8)).map fun v => e.srcA (e.exm o.p) o o.ty.wide v) :=
  (givesFlags_of (fun e m _ u => combine o (((Mask.threads m).filter fun v => v < u || (v = u && !decide (8 ≤ o.sub.toNat))).map fun v =>
    e.srcA m o o.ty.wide v)) fun _ => rfl).congr fun e b u => by
    simp only [← not_le, decide_not]

theorem combine_ints {o : Alu} (h : Ty.isFloat o.ty = false) (vs : List DWord) :
    combine o vs = (combineInts o.ty o.sat (o.sub.toNat % 8) vs, 0) := by
  rw [combine, h]
  rfl

theorem combine_floats {o : Alu} (h : o.ty = .f32 ∨ o.ty = .f64) (vs : List DWord) :
    combine o vs = combineFloats o.ty o.rm (o.sub.toNat % 8) (vs.map fun v => (elements o.ty v).getD 0 0) := by
  have hone (v : DWord) : elements o.ty v = [(elements o.ty v).getD 0 0] := by
    obtain h | h := h <;> rw [h] <;> rfl
  have hcodes : vs.flatMap (elements o.ty) = vs.map fun v => (elements o.ty v).getD 0 0 :=
    (List.flatMap_congr fun v _ => hone v).trans (List.map_eq_flatMap ..).symm
  have hfloat : Ty.isFloat o.ty = true := by
    obtain h | h := h <;> rw [h] <;> rfl
  rw [combine, hfloat, hcodes]
  rfl

/-- R144: integers are combined in any order. -/
theorem combineInts_eq (ty : Ty) (sat : Bool) (op : Nat) (vs : List DWord) : combineInts ty sat op vs =
    match op with
    | 0 => placeInt ty (if sat then max (minInt ty) (min (maxInt ty) (vs.map (readInt ty)).sum) else (vs.map (readInt ty)).sum)
    | 1 => placeInt ty ((vs.map (readInt ty)).foldr min (maxInt ty))
    | 2 => placeInt ty ((vs.map (readInt ty)).foldr max (minInt ty))
    | 3 => vs.foldr (· &&& ·) (BitVec.allOnes 64)
    | 4 => vs.foldr (· ||| ·) 0
    | _ => vs.foldr (· ^^^ ·) 0 := by
  unfold combineInts
  match op with
  | 0 => rw [List.sum_eq_foldl]; rfl
  | 1 => exact congrArg (placeInt ty) (List.foldl_eq_foldr ..)
  | 2 => exact congrArg (placeInt ty) (List.foldl_eq_foldr ..)
  | 3 => exact List.foldl_eq_foldr ..
  | 4 => exact List.foldl_eq_foldr ..
  | _ + 5 => exact List.foldl_eq_foldr ..

/-- Settles O24: both run through `combine`, which answers no flag for integers. -/
theorem warpReductions : Obligations.WarpReductions := by
  constructor
  · intro o hty fold
    have hfold (vs : List DWord) : (combine o vs).1 = fold vs := by
      rw [combine_ints hty]
      exact combineInts_eq ..
    have hflags (vs : List DWord) : (combine o vs).2 = 0 := by rw [combine_ints hty]
    simp only [← hfold]
    exact ⟨(redw_gives o).gives fun _ _ _ => hflags _, (scanw_gives o).gives fun _ _ _ => hflags _⟩
  · intro o hty f fold
    have hfold (vs : List DWord) : combine o vs = fold vs := by
      rw [combine_floats hty]
      unfold combineFloats
      simp only [List.isEmpty_iff]
      rfl
    simp only [← hfold]
    exact ⟨redw_gives o, scanw_gives o⟩

end Sys2Proof.Machine

/-! The canonical form of memory (R217, R221, R477): what it gives, and that every step keeps it. Memory changes at homes alone, where
bytes are merged, filled or scrubbed; every operation of the machine is put together from those and from changes beside memory. -/

namespace Sys2Proof.Machine

/-! ### What the form gives -/

section
variable {α : Type} [DecidableEq α] {d : α} {b n : Nat} {t u : Sparse α}

theorem readOr_below (ht : risingFrom d b t = true) (hn : n < b) : readOr d t n = d := by
  rw [readOr, look_none_of_rising hn ht]
  rfl

omit [DecidableEq α] in
theorem readOr_cons (k : Nat) (v : α) (t : Sparse α) (n : Nat) : readOr d ((k, v) :: t) n = if n = k then v else readOr d t n := by
  unfold readOr
  rw [look]
  split <;> rfl

theorem risingFrom_cons {k : Nat} {v : α} : risingFrom d b ((k, v) :: t) = true ↔ b ≤ k ∧ v ≠ d ∧ risingFrom d (k + 1) t = true := by
  simp [risingFrom, and_assoc]

/-- A canonical table that lists a number reads otherwise there than one that rises from beyond it. -/
theorem readOr_head_ne {k : Nat} {v : α} (ht : risingFrom d b ((k, v) :: t) = true) (hu : risingFrom d n u = true) (hk : k < n) :
    readOr d ((k, v) :: t) k ≠ readOr d u k := by
  obtain ⟨-, hv, -⟩ := risingFrom_cons.mp ht
  rw [readOr_cons, if_pos rfl, readOr_below hu hk]
  exact hv

/-- R217: canonical tables that read alike are the same table. -/
theorem risingFrom_ext (ht : risingFrom d b t = true) (hu : risingFrom d b u = true) (h : ∀ n, readOr d t n = readOr d u n) : t = u := by
  induction t generalizing b u with
  | nil =>
    cases u with
    | nil => rfl
    | cons q u => exact absurd (h q.1).symm (readOr_head_ne hu (n := q.1 + 1) (u := []) rfl (Nat.lt_succ_self _))
  | cons p t ih =>
    obtain ⟨k, v⟩ := p
    cases u with
    | nil => exact absurd (h k) (readOr_head_ne ht (n := k + 1) (u := []) rfl (Nat.lt_succ_self _))
    | cons q u =>
      obtain ⟨j, w⟩ := q
      obtain ⟨-, hv, ht'⟩ := risingFrom_cons.mp ht
      obtain ⟨-, hw, hu'⟩ := risingFrom_cons.mp hu
      rcases Nat.lt_trichotomy k j with hlt | rfl | hlt
      · exact absurd (h k) (readOr_head_ne ht (risingFrom_cons.mpr ⟨Nat.le_refl j, hw, hu'⟩) hlt)
      · obtain rfl : v = w := by simpa [readOr_cons] using h k
        refine congrArg _ (ih ht' hu' fun n => ?_)
        by_cases hn : n = k
        · subst hn
          rw [readOr_below ht' (Nat.lt_succ_self _), readOr_below hu' (Nat.lt_succ_self _)]
        · simpa [readOr_cons, hn] using h n
      · exact absurd (h j).symm (readOr_head_ne hu (risingFrom_cons.mpr ⟨Nat.le_refl k, hv, ht'⟩) hlt)

end

/-- Settles O57: reset lists no byte; a byte that is written reads back; canonical lists that read alike are equal. -/
theorem resetMemoryForm : Obligations.ResetMemoryForm :=
  ⟨State.memoryWf_reset, fun _ => rfl, fun m hm a b => ⟨wf_setByte a b hm, fun c => byteAt_setByte m a c b⟩,
    fun _ _ hm hn h => risingFrom_ext hm hn h⟩

theorem wf_foldl_setByte {m : List Host.Cell} {α : Type} (a : α → Nat) (b : α → Byte) (xs : List α) (h : Memory.wf m = true) :
    Memory.wf (xs.foldl (fun m x => setByte m (a x) (b x)) m) = true := by
  induction xs generalizing m with
  | nil => exact h
  | cons x xs ih => exact ih (wf_setByte _ _ h)

/-! ### Changes beside memory, choices and pairs -/

theorem ite_cases {α : Type} {P : α → Prop} {c : Prop} {_ : Decidable c} {x y : α} (hx : P x) (hy : P y) : P (if c then x else y) := by
  split
  · exact hx
  · exact hy

/-- Whatever changes beside memory, its form stays. -/
theorem State.memoryWf.rest {s : State} (h : s.memoryWf) {poison : Sparse Bool} {stored : List (Nat × Nat × Word)}
    {out held : Sparse WriteOp} {reads : Sparse ReadUnit} {loads : Sparse LoadOp} {remote : Sparse RemoteOp} {txn : Nat}
    {homeLog : List HomeEvent} {fetched : Sparse (Sparse Byte)} {ctxs : Sparse Ctx} {launches : Sparse Launch} {teams : Sparse Team}
    {cores : Sparse Core} {dies : Sparse Die} {lcs : Sparse Lc} {copies : Sparse CopyOp} {tasks : Sparse Task} {checks : Sparse Check}
    {hists : Sparse Hist} {colls : Sparse CollOpn} {collSeq : Sparse Nat} {results : List ShipRes} {hub : Hub} {inputs : List Instr}
    {hostReads : List (Nat × Nat)} {farStops : List Nat} {services : List (Nat × Nat × DWord)} {turn : Option Turn} {focus : Who}
    {oracle nextKey : Nat} :
    State.memoryWf ⟨s.mem, poison, stored, out, held, reads, loads, remote, txn, homeLog, fetched, ctxs, launches, teams, cores, dies, lcs,
      copies, tasks, checks, hists, colls, collSeq, results, hub, inputs, hostReads, farStops, services, turn, focus, oracle, nextKey⟩ := h

theorem State.memoryWf.ite {s t : State} {c : Prop} {_ : Decidable c} (h : s.memoryWf) (h' : t.memoryWf) : (if c then s else t).memoryWf :=
  ite_cases (P := State.memoryWf) h h'

theorem State.memoryWf.ite_fst {α : Type} {p q : State × α} {c : Prop} {_ : Decidable c} (h : p.1.memoryWf) (h' : q.1.memoryWf) :
    (if c then p else q).1.memoryWf := ite_cases (P := fun p : State × α => p.1.memoryWf) h h'

/-- The state of a pair that has been taken apart. -/
theorem State.memoryWf.of_fst {α : Type} {p : State × α} {s : State} {x : α} (h : p.1.memoryWf) (hp : p = (s, x)) : s.memoryWf := by
  rw [hp] at h
  exact h

theorem State.memoryWf.foldl_fst {α β : Type} {f : State × β → α → State × β} {p : State × β} {xs : List α} (h : p.1.memoryWf)
    (hf : ∀ p x, p.1.memoryWf → (f p x).1.memoryWf) : (xs.foldl f p).1.memoryWf := by
  induction xs generalizing p with
  | nil => exact h
  | cons x xs ih => exact ih (hf p x h)

/-! ### Outcomes, and states that are found or not -/

/-- R217: the state of an outcome, where it has one, has the canonical form of memory. -/
def Out.Wf (o : Out) : Prop := ∀ t, o = .next t → t.memoryWf

theorem Out.Wf.next {s : State} (h : s.memoryWf) : Out.Wf (.next s) := by
  rintro t ⟨⟩
  exact h

theorem Out.Wf.fault (f : Fault) : Out.Wf (.fault f) := fun _ h => by cases h

theorem Out.Wf.ite {o o' : Out} {c : Prop} {_ : Decidable c} (h : Out.Wf o) (h' : Out.Wf o') : Out.Wf (if c then o else o') :=
  ite_cases (P := Out.Wf) h h'

/-- R217: a state that is found has the canonical form of memory. -/
def FoundWf (o : Option State) : Prop := ∀ t, o = some t → t.memoryWf

theorem FoundWf.none : FoundWf none := fun _ h => by cases h

theorem FoundWf.some {s : State} (h : s.memoryWf) : FoundWf (some s) := by
  rintro t ⟨⟩
  exact h

theorem FoundWf.ite {o o' : Option State} {c : Prop} {_ : Decidable c} (h : FoundWf o) (h' : FoundWf o') : FoundWf (if c then o else o') :=
  ite_cases (P := FoundWf) h h'

theorem FoundWf.orElse {o o' : Option State} (h : FoundWf o) (h' : FoundWf o') : FoundWf (o <|> o') := by
  cases o with
  | none => exact h'
  | some s => exact h

theorem FoundWf.map {α : Type} {o : Option α} {f : α → State} (hf : ∀ x, o = Option.some x → (f x).memoryWf) : FoundWf (o.map f) := by
  cases o with
  | none => exact .none
  | some x => exact .some (hf x rfl)

theorem FoundWf.findSome? {α : Type} {f : α → Option State} {xs : List α} (hf : ∀ x, FoundWf (f x)) : FoundWf (xs.findSome? f) := by
  intro t ht
  obtain ⟨x, -, hx⟩ := List.exists_of_findSome?_eq_some ht
  exact hf x t hx

theorem FoundWf.getD {o : Option State} {s : State} (h : FoundWf o) (hs : s.memoryWf) : (o.getD s).memoryWf := by
  cases o with
  | none => exact hs
  | some t => exact h t rfl

section
variable {s : State} (h : s.memoryWf)
include h

/-! ### Homes -/

theorem State.memoryWf.recordLine {line : Nat} : (s.recordLine line).memoryWf := h.rest
theorem State.memoryWf.dropSharers {line : Nat} : (s.dropSharers line).memoryWf := h.rest
theorem State.memoryWf.nameHome {n : Nat} {f : HomeEvent → HomeEvent} : (s.nameHome n f).memoryWf := h.rest

theorem State.memoryWf.homeFill {pa n : Nat} {bs : List (Nat × Byte)} : (s.homeFill pa n bs).memoryWf := by
  refine State.memoryWf_foldl _ (fun _ _ h => h.recordLine) _ ?_
  exact wf_foldl_setByte _ _ bs (wf_keep _ h)

/-! ### Strands, splits and agents -/

theorem State.memoryWf.setCore {c : Nat} {x : Core} : (s.setCore c x).memoryWf := h.rest
theorem State.memoryWf.setDie {d : Nat} {x : Die} : (s.setDie d x).memoryWf := h.rest
theorem State.memoryWf.setLc {l : Nat} {x : Lc} : (s.setLc l x).memoryWf := h.rest
theorem State.memoryWf.setCtx {c : Nat} {x : Ctx} : (s.setCtx c x).memoryWf := h.rest
theorem State.memoryWf.mapTeam {t : Nat} {f : Team → Team} : (s.mapTeam t f).memoryWf := h.rest
theorem State.memoryWf.bump : s.bump.memoryWf := h.rest
theorem State.memoryWf.mapWarp {t w : Nat} {f : Warp → Warp} : (s.mapWarp t w f).memoryWf := h.mapTeam
theorem State.memoryWf.spend {n : Nat} : (s.spend n).memoryWf := h.rest

theorem State.memoryWf.softBytes {pa n : Nat} {bs : List Byte} : (s.softBytes pa n bs).1.memoryWf := by
  unfold State.softBytes
  split
  · exact h.spend
  · exact h

theorem State.memoryWf.mapStrand {w : Who} {f : Strand → Strand} : (s.mapStrand w f).memoryWf := by
  unfold State.mapStrand
  split
  · exact h.mapWarp
  · exact h.mapWarp
  · exact h.setLc

theorem State.memoryWf.mapSplit {w : Who} {f : Split → Split} : (s.mapSplit w f).memoryWf := h.mapStrand

theorem State.memoryWf.imageDue {w : Who} : (s.imageDue w).memoryWf := by
  unfold State.imageDue
  split
  · split
    · exact h.mapTeam
    · exact h.mapTeam
    · exact h
  · exact h

/-! ### Caches of wide cores -/

theorem State.memoryWf.send {op : WriteOp} : (s.send op).memoryWf := h.rest
theorem State.memoryWf.sendRemote {op : RemoteOp} {born : Nat} : (s.sendRemote op born).memoryWf := h.rest

theorem State.memoryWf.writeBack {c line : Nat} {by_ : Option Releaser} : (s.writeBack c line by_).memoryWf := by
  unfold State.writeBack
  split
  · exact h
  · exact .ite h h.send.setCore

theorem State.memoryWf.writeBackAll {c : Nat} {by_ : Option Releaser} : (s.writeBackAll c by_).memoryWf :=
  State.memoryWf_foldl _ (fun _ _ h => h.writeBack) _ h

theorem State.memoryWf.writeBackEvery {c : Nat} {by_ : Option Releaser} : (s.writeBackEvery c by_).memoryWf :=
  State.memoryWf_foldl _ (fun _ _ h => h.writeBack) _ h

theorem State.memoryWf.staleFills {c : Nat} {p : Nat → Bool → Nat → Bool} : (s.staleFills c p).memoryWf := h.rest

theorem State.memoryWf.dropLines {c : Nat} {p : Nat → Bool → Nat → Bool} : (s.dropLines c p).memoryWf :=
  .spend (.staleFills (.setCore (State.memoryWf_foldl _ (fun _ _ h => h.writeBack) _ h)))

theorem State.memoryWf.sendWcb {c line : Nat} : (s.sendWcb c line).memoryWf := by
  unfold State.sendWcb
  split
  · exact h
  · exact h.setCore.sendRemote

theorem State.memoryWf.sendWcbs {c : Nat} {p : Nat → Wcb → Bool} : (s.sendWcbs c p).memoryWf := State.memoryWf_foldl _ (fun _ _ h => h.sendWcb) _ h

theorem State.memoryWf.release {a : Agent} {sc : Scope} {by_ : Option Releaser} : (s.release a sc by_).memoryWf := by
  unfold State.release
  dsimp only
  split
  · exact h
  · exact h.writeBackAll.sendWcbs
  · exact h.writeBackAll
  · exact h

theorem State.memoryWf.staleFar {d : Nat} {p : Nat → Nat → Bool} : (s.staleFar d p).memoryWf := h.rest

theorem State.memoryWf.acquire {a : Agent} {asid : Nat} {sc : Scope} {by_ : Option Releaser} : (s.acquire a asid sc by_).memoryWf := by
  unfold State.acquire
  dsimp only
  split
  · refine .dropLines ?_
    split
    · exact h.mapSplit
    · exact h
  · refine .staleFar (.setDie (.dropLines (.writeBackAll ?_)))
    split
    · exact h.mapSplit
    · exact h
  · refine .dropLines (.writeBackAll ?_)
    split
    · exact h.mapSplit
    · exact h
  · refine .staleFar (.setDie ?_)
    split
    · exact h.mapSplit
    · exact h
  · split
    · exact h.mapSplit
    · exact h

theorem State.memoryWf.flushLine {a : Agent} {line : Nat} : (s.flushLine a line).memoryWf := by
  unfold State.flushLine
  split
  · exact h.writeBack.sendWcb
  · exact h

theorem State.memoryWf.setCached {a : Agent} {line : Nat} {l : Line} : (s.setCached a line l).memoryWf := by
  unfold State.setCached
  split
  · exact h.setCore
  · exact h.setLc
  · exact h

theorem State.memoryWf.dropCached {a : Agent} {line : Nat} : (s.dropCached a line).memoryWf := by
  unfold State.dropCached
  split
  · exact h.setCore
  · exact h.setLc
  · exact h

theorem State.memoryWf.dropClean {a : Agent} {line : Nat} : (s.dropClean a line).memoryWf := by
  unfold State.dropClean
  split
  · split
    · exact h
    · exact .ite h.dropCached h.setCached
  · exact h

theorem State.memoryWf.dropFarLine {d line : Nat} : (s.dropFarLine d line).memoryWf := .ite h h.setDie.staleFar

/-! ### Reports -/

theorem State.memoryWf.hostEvent {word0 cls : Nat} {mid body : List Byte} : (s.hostEvent word0 cls mid body).memoryWf := .ite h.rest h.rest
theorem State.memoryWf.toHost {addr : Nat} {bs : List Byte} : (s.toHost addr bs).memoryWf := h.rest

theorem State.memoryWf.eventRecord {c die kind flags : Nat} {ecause : Word} {epc eaddr : DWord} {n : Name} {detail : optParam Nat 0} :
    (s.eventRecord c die kind flags ecause epc eaddr n detail).memoryWf := by
  unfold State.eventRecord
  refine .hostEvent ?_
  split
  · exact .setCtx (State.memoryWf_foldl _ (fun _ _ h => State.memoryWf_recall _ h) _ h)
  · exact .setCtx (State.memoryWf_homeWrite _ _ (State.memoryWf_foldl _ (fun _ _ h => State.memoryWf_recall _ h) _ h))

theorem State.memoryWf.fqWord {d off : Nat} : (s.fqWord d off).1.memoryWf := State.memoryWf_homeRead _ _ h

theorem State.memoryWf.fqDword {d off : Nat} : (s.fqDword d off).1.memoryWf := by
  unfold State.fqDword
  dsimp only
  exact State.memoryWf_homeRead _ _ h

theorem State.memoryWf.writeService {d : Nat} {e : SvEvent} : (s.writeService d e).1.memoryWf := by
  unfold State.writeService
  extract_lets b
  split
  rename_i heq
  have h₁ := State.memoryWf.of_fst h.fqDword heq
  split
  rename_i heq
  have h₂ := State.memoryWf.of_fst h₁.fqWord heq
  split
  rename_i heq
  have h₃ := State.memoryWf.of_fst h₂.fqWord heq
  split
  rename_i heq
  have h₄ := State.memoryWf.of_fst h₃.fqWord heq
  exact .ite_fst h₄ (State.memoryWf_homeWrite _ _ (State.memoryWf_homeWrite _ _ h₄))

theorem State.memoryWf.countService {d : Nat} : (s.countService d).memoryWf := State.memoryWf_homeWrite _ _ h.fqWord

theorem State.memoryWf.serviceEvent {d : Nat} {e : SvEvent} : (s.serviceEvent d e).memoryWf := by
  unfold State.serviceEvent
  refine .ite h (.ite h.countService (.ite ?_ h.setDie.countService))
  split
  rename_i heq
  exact .ite (State.memoryWf.of_fst h.writeService heq) h.setDie.countService

theorem State.memoryWf.writeFault {d : Nat} {f : FaultEntry} : (s.writeFault d f).1.memoryWf := by
  unfold State.writeFault
  extract_lets b
  split
  rename_i heq
  have h₁ := State.memoryWf.of_fst h.fqWord heq
  split
  rename_i heq
  have h₂ := State.memoryWf.of_fst h₁.fqWord heq
  split
  rename_i heq
  have h₃ := State.memoryWf.of_fst h₂.fqWord heq
  exact .ite_fst h₃ (State.memoryWf_homeWrite _ _ (State.memoryWf_homeWrite _ _ h₃)).serviceEvent

theorem State.memoryWf.countFull {d : Nat} : (s.countFull d).memoryWf := State.memoryWf_homeWrite _ _ h.fqWord

theorem State.memoryWf.queueFault {d : Nat} {f : FaultEntry} {w : Waiter} : (s.queueFault d f w).1.memoryWf := by
  unfold State.queueFault
  refine .ite_fst h ?_
  split
  · exact .ite_fst h.setDie.countFull (State.memoryWf_homeWrite _ _ h.setDie)
  · refine .ite_fst h.setDie.setDie.countFull ?_
    split
    · rename_i heq
      exact (State.memoryWf.of_fst h.setDie.writeFault heq).setDie
    · rename_i heq
      exact (State.memoryWf.of_fst h.setDie.writeFault heq).setDie.countFull

theorem State.memoryWf.dropWaiter {d : Nat} {p : Waiter → Bool} : (s.dropWaiter d p).memoryWf := by
  unfold State.dropWaiter
  refine State.memoryWf_foldl _ (fun _ _ h₁ => ?_) _ h
  split
  · dsimp only
    split
    · exact State.memoryWf_homeWrite _ _ h₁.setDie
    · exact h₁.setDie

/-! ### Observation -/

theorem State.memoryWf.count {d c code n : Nat} : (s.count d c code n).memoryWf := by
  unfold State.count
  dsimp only
  split
  · exact h
  · split
    · exact h
    · exact h.setCtx

theorem State.memoryWf.command {a : Agent} {c : Nat} : (s.command a c).1.memoryWf := by
  unfold State.command
  split
  · exact h.setCore
  · exact h.setLc
  · exact h

theorem State.memoryWf.setJob {j : Nat} {x : Job} : (s.setJob j x).memoryWf := h.rest
theorem State.memoryWf.message {d : Nat} {m : Message} : (s.message d m).memoryWf := .ite h h.rest
theorem State.memoryWf.stopContext {c : Nat} : (s.stopContext c).memoryWf := h.rest

theorem State.memoryWf.stopWork {w : Who} {mode : Nat} : (s.stopWork w mode).memoryWf := by
  unfold State.stopWork
  split
  · exact h
  · dsimp only
    split
    · exact .setLc (State.memoryWf_foldl _ (fun _ _ h => h.message) _ h.stopContext)
    · exact State.memoryWf_foldl _ (fun _ _ h => h.message) _ h.stopContext
  · exact h.mapTeam
  · exact h.mapTeam
  · exact h.mapWarp
  · exact h.mapWarp
  · exact h.setLc

theorem State.memoryWf.debugReport {d : Nat} {r : DebugReport} : (s.debugReport d r).memoryWf := by
  unfold State.debugReport
  exact h.setDie.serviceEvent

theorem State.memoryWf.farStop {tag : Nat} : (s.farStop tag).memoryWf := State.memoryWf_foldl _ (fun _ _ h => h.stopContext.count) _ h
theorem State.memoryWf.debugStop {w : Who} {mode : Nat} : (s.debugStop w mode).memoryWf := .ite h h.stopWork.count

theorem State.memoryWf.watch {a : Seen} : (s.watch a).memoryWf := by
  unfold State.watch
  dsimp only
  split
  · exact h
  · refine State.memoryWf_foldl _ (fun _ _ h₁ => ?_) _ h
    split
    · exact h₁
    · split
      · exact .ite h₁.debugReport h₁.debugReport.debugStop
      · exact h₁.debugReport

theorem State.memoryWf.traceRecord {line : Nat} {mask : BitVec 128} {site : DWord} {seq : Word} {asid srcDie sc rt flags kind srcDev srcCore : Nat}
    :
    (s.traceRecord line mask site seq asid srcDie sc rt flags kind srcDev srcCore).memoryWf :=
  .ite h (.ite h.setDie h.setDie)

theorem State.memoryWf.homeSees {z : HomeEvent} : (s.homeSees z).memoryWf := .traceRecord (.ite h.watch h)
theorem State.memoryWf.observe : s.observe.memoryWf := .rest (State.memoryWf_foldl _ (fun _ _ h => h.homeSees) _ h)

/-! ### The register ranges -/

theorem State.memoryWf.queueLaunch {c : Nat} {addr : DWord} {bs : List Byte} {host : Bool} : (s.queueLaunch c addr bs host).1.memoryWf := by
  unfold State.queueLaunch
  split
  · exact h
  · split
    · exact h
    · split
      · exact h
      · exact h.setCtx

theorem State.memoryWf.ringDoorbell {c : Nat} : (s.ringDoorbell c).memoryWf := h.queueLaunch.rest
theorem State.memoryWf.admitJob {j : Nat} : (s.admitJob j).memoryWf := .ite h.setJob h
theorem State.memoryWf.inject {fs : List Flit} : (s.inject fs).memoryWf := h.rest
theorem State.memoryWf.jobMessage {d sort c id phase status : Nat} : (s.jobMessage d sort c id phase status).memoryWf := h.inject
theorem State.memoryWf.takeColl {c : CollIn} : (s.takeColl c).memoryWf := .ite h.rest h

theorem State.memoryWf.noteLoss {f : Flit} : (s.noteLoss f).memoryWf := by
  unfold State.noteLoss
  split
  · exact h.rest
  · exact .ite h h.inject
  · exact .ite h h.inject
  · exact h.takeColl
  · exact h

theorem State.memoryWf.losePacket {f : Flit} : (s.losePacket f).memoryWf := .ite h (.ite h.noteLoss h.inject)

theorem State.memoryWf.dropPartials {p : Partial → Bool} : (s.dropPartials p).memoryWf :=
  State.memoryWf_foldl _ (fun _ _ h => h.losePacket) _ h.rest

theorem State.memoryWf.discardJob {j : Nat} : (s.discardJob j).memoryWf :=
  .setJob (State.memoryWf_foldl _ (fun _ _ h => h.losePacket) _ h.dropPartials.rest)

theorem State.memoryWf.freeJob {j : Nat} : (s.freeJob j).memoryWf := .ite h.discardJob h

theorem State.memoryWf.writeJob {j off v : Nat} : (s.writeJob j off v).memoryWf := by
  unfold State.writeJob
  dsimp only
  split
  · exact .ite (.admitJob (.ite h.setJob h)) (.freeJob (.ite h.setJob h))
  · exact .ite h.setJob h
  · exact .ite h.setJob h
  · exact .ite h.setJob h
  · exact .ite h.setJob h
  · exact .ite h.setJob h
  · exact .ite h.setJob h
  · exact .ite h.setJob h
  · exact h

theorem State.memoryWf.setPort {p : Nat} {x : Port} : (s.setPort p x).memoryWf := h.rest
theorem State.memoryWf.setLaser {n : Nat} {x : Laser} : (s.setLaser n x).memoryWf := h.rest
theorem State.memoryWf.noteDegraded : s.noteDegraded.memoryWf := .ite h h.rest
theorem State.memoryWf.countErrors : s.countErrors.memoryWf := h.spend.rest

theorem State.memoryWf.serviceWord {off : Nat} : (s.serviceWord off).1.memoryWf := by
  unfold State.serviceWord
  dsimp only
  split
  · exact h
  · split
    · exact h
    · split
      · exact h
      · exact h
      · exact h
      · exact h.spend
      · exact h
      · exact h.countErrors
      · exact h.countErrors
      · exact h

theorem State.memoryWf.regWord {off : Nat} : (s.regWord off).1.memoryWf := by
  unfold State.regWord
  dsimp only
  split
  · exact h
  · split
    · exact h
    · split
      · exact h
      · split
        · exact h
        · split
          · exact h
          · split
            · exact h
            · split
              · exact h
              · split
                · exact h.serviceWord
                · split
                  · exact h.spend
                  · exact h

theorem State.memoryWf.startCommand {v : Nat} : (s.startCommand v).memoryWf := .ite h.rest (.ite h.rest h.rest)

theorem State.memoryWf.writeMain {off v : Nat} : (s.writeMain off v).memoryWf := by
  unfold State.writeMain
  dsimp only
  split
  · exact h.rest
  · split
    · exact h.rest
    · split
      · exact .ite h h.rest
      · exact h.rest
      · exact h.rest
      · exact h.rest
      · exact h.rest
      · exact h.rest
      · exact h.rest
      · exact h.startCommand
      · exact h.rest
      · exact h.rest
      · exact h.rest
      · exact .ite h.rest h
      · exact h.rest
      · exact h

theorem State.memoryWf.writeGroup {n off v : Nat} : (s.writeGroup n off v).memoryWf := h.rest
theorem State.memoryWf.writeGrant {n off v : Nat} : (s.writeGrant n off v).memoryWf := h.rest

theorem State.memoryWf.writeRegWord {off v : Nat} : (s.writeRegWord off v).memoryWf :=
  .ite h.writeMain <| .ite h.writeGroup <| .ite h.writeJob <| .ite (.ite h.rest (.ite h.ringDoorbell h)) <| .ite h.writeGrant <| .ite
    (.ite h.setPort h) <| .ite (.ite h.setLaser h) <| .ite (.ite h.rest h) <| .ite h.rest h

theorem State.memoryWf.writeZou {d off v : Nat} : (s.writeZou d off v).memoryWf := .ite h.setDie (.ite h.setDie (.ite h.setDie (.ite h.setDie h)))

theorem State.memoryWf.deviceRead {pa n : Nat} : (s.deviceRead pa n).1.memoryWf := by
  unfold State.deviceRead
  split
  · exact .foldl_fst h fun _ _ h => h.regWord
  · exact h
  · exact h.spend
  · exact h

theorem State.memoryWf.deviceWrite {pa : Nat} {bs : List Byte} : (s.deviceWrite pa bs).memoryWf := by
  unfold State.deviceWrite
  split
  · exact .ite h (State.memoryWf_foldl _ (fun _ _ h => h.writeRegWord) _ h)
  · exact State.memoryWf_foldl _ (fun _ _ h => h.writeZou) _ h
  · exact .ite h.rest h.toHost
  · exact h

/-! ### Threads that leave -/

theorem State.memoryWf.completeJob {c id status : Nat} {ms : List Nat} : (s.completeJob c id status ms).memoryWf :=
  State.memoryWf_foldl _ (fun _ _ h => h.jobMessage) _ h.setCtx

theorem State.memoryWf.stepJob {c id : Nat} : (s.stepJob c id).memoryWf := by
  unfold State.stepJob
  split
  · dsimp only
    split
    · split
      · exact h.setCtx.completeJob
      · exact .ite (.ite h.setCtx.completeJob h.setCtx) (.ite h.setCtx.setCtx.jobMessage h.setCtx)
    · split
      · exact h.setCtx.completeJob
      · exact .ite (.ite h.setCtx.completeJob h.setCtx) (.ite h.setCtx.setCtx.jobMessage h.setCtx)
  · exact h

theorem State.memoryWf.settleJob {c : Nat} : (s.settleJob c).memoryWf := State.memoryWf_foldl _ (fun _ _ h => h.stepJob.stepJob) _ h

theorem State.memoryWf.settleBarriers {t : Nat} : (s.settleBarriers t).memoryWf := by
  unfold State.settleBarriers
  split
  · exact h
  · exact h.mapTeam.rest.settleJob

theorem State.memoryWf.freeImage {c : Nat} : (s.freeImage c).memoryWf := h.setCtx
theorem State.memoryWf.freeSpace {t : Nat} {blocks : Bool} : (s.freeSpace t blocks).memoryWf := h.rest
theorem State.memoryWf.releaseLaunch {l : Nat} : (s.releaseLaunch l).memoryWf := .rest (State.memoryWf_foldl _ (fun _ _ h => h.writeBackAll) _ h)

theorem State.memoryWf.endLaunch {l : Nat} : (s.endLaunch l).memoryWf := by
  unfold State.endLaunch
  split
  · exact h
  · split
    · exact h
    · dsimp only
      split
      · exact .ite h (.rest (.ite h.hostEvent h))
      · exact .ite h.releaseLaunch (.rest (.ite h.releaseLaunch.hostEvent h.releaseLaunch))

theorem State.memoryWf.endLaunches : s.endLaunches.memoryWf := State.memoryWf_foldl _ (fun _ _ h => h.endLaunch) _ h

theorem State.memoryWf.endTeam {t : Nat} : (s.endTeam t).memoryWf := by
  unfold State.endTeam
  split
  · exact h
  · split
    · exact h
    · refine .endLaunch ?_
      dsimp only
      split
      · exact State.memoryWf_foldl _ (fun _ _ h => h.freeSpace) _ h.rest.mapTeam.freeSpace.freeImage.rest
      · exact h.rest.mapTeam.freeSpace.freeImage.rest

theorem State.memoryWf.removeThreads {t w : Nat} {m : Mask} : (s.removeThreads t w m).memoryWf := h.mapTeam.rest.settleBarriers.endTeam

theorem State.memoryWf.killTeam {t : Nat} : (s.killTeam t).memoryWf := by
  unfold State.killTeam
  split
  · exact h
  · exact State.memoryWf_foldl _ (fun _ _ h => h.removeThreads) _ h.mapTeam

/-! ### The shared operations of a strand -/

theorem State.memoryWf.dropLoadsOf {w : Who} : (s.dropLoadsOf w).memoryWf := h.rest

theorem State.memoryWf.endSection {lc status : Nat} {ecause : Word} {epc eaddr : DWord} : (s.endSection lc status ecause epc eaddr).memoryWf := by
  unfold State.endSection
  dsimp only
  split
  · exact h
  · exact .ite h.dropWaiter.dropLoadsOf.setLc.rest h.dropWaiter.dropLoadsOf.setLc.rest.eventRecord

theorem State.memoryWf.fatalTrap {w : Who} {t : Trap} : (s.fatalTrap w t).memoryWf := by
  unfold State.fatalTrap
  refine .eventRecord ?_
  split
  · exact h.killTeam
  · exact h.killTeam
  · exact h.setLc

theorem State.memoryWf.takeTrap {w : Who} {t : Trap} : (s.takeTrap w t).memoryWf := by
  unfold State.takeTrap
  dsimp only
  split
  · exact h.bump.fatalTrap
  · exact h.bump.endSection
  · exact .ite h.bump.mapStrand.fatalTrap h.bump.setLc
  · split
    · exact h.bump
    · exact .ite h.bump.mapStrand (.ite h.bump.mapStrand.fatalTrap h.bump.mapWarp)

theorem State.memoryWf.raise {e : Env} {c : Cause} {eaddr : DWord} {flags : optParam Nat 0} {made : optParam (Option (DWord × Word)) none} :
    (e.raise c eaddr s flags made).memoryWf :=
  h.takeTrap

theorem State.memoryWf.raiseOpen {e : Env} {c : Cause} {flags : optParam Nat 0} : (e.raiseOpen c s flags).memoryWf := h.rest.raise
theorem State.memoryWf.raiseAfter {e : Env} {c : Cause} {code len : Nat} : (e.raiseAfter c code len s).memoryWf := h.takeTrap

theorem State.memoryWf.freeTokens {w : Who} {vs : List Word} : (s.freeTokens w vs).memoryWf := by
  unfold State.freeTokens
  dsimp only
  split
  · exact h.mapTeam
  · exact h.mapTeam
  · exact h

theorem State.memoryWf.enterRegion {w : Who} {re : Bool} : (s.enterRegion w re).memoryWf := by
  unfold State.enterRegion
  split
  · exact h
  · exact .ite (.ite h.mapSplit h.mapSplit.freeTokens) h

theorem State.memoryWf.leaveTo {e : Env} {i : Instr} {pc : DWord} {ends : Bool} : (e.leaveTo i pc ends s).memoryWf := h.bump.mapSplit
theorem State.memoryWf.goTo {e : Env} {i : Instr} {pc : DWord} : (e.goTo i pc s).memoryWf := h.leaveTo
theorem State.memoryWf.retire {e : Env} {i : Instr} : (e.retire i s).memoryWf := h.goTo
theorem State.memoryWf.hold {e : Env} {reason : Nat} {c : Wake} {left : Option Nat} : (e.hold reason c s left).memoryWf := h.bump.mapSplit
theorem State.memoryWf.interlock {e : Env} {c : Wake} : (e.interlock c s).memoryWf := h.bump.mapSplit

theorem Out.Wf.act {i : Instr} {body : Env → State → State} (hbody : ∀ {x t1}, t1.memoryWf → (body x t1).memoryWf) : Out.Wf (act i s body) := by
  unfold Machine.act
  split
  · exact .fault _
  · split
    · exact .next h.interlock
    · split
      · exact .next h.raise
      · exact .next (.rest (hbody h.enterRegion))

theorem State.memoryWf.drain {e : Env} {sys : Bool} {start body : State → State} (hstart : ∀ {t}, t.memoryWf → (start t).memoryWf)
    (hbody : ∀ {t}, t.memoryWf → (body t).memoryWf) :
    (e.drain sys start body s).memoryWf := by
  unfold Env.drain
  split
  · exact .ite (hbody h) h.interlock
  · exact .ite (hbody (hstart h)) (.interlock (.mapSplit (hstart h)))

theorem State.memoryWf.spoilTask {team warp n t : Nat} : (s.spoilTask team warp n t).memoryWf := h.rest
theorem State.memoryWf.spoil {e : Env} {n t : Nat} : (s.spoil e n t).memoryWf := .ite h.spoilTask h
theorem State.memoryWf.set {e : Env} {n t : Nat} {v : Word} : (e.set n t v s).memoryWf := h.spoil.mapStrand
theorem State.memoryWf.setPair {e : Env} {n t : Nat} {v : DWord} : (e.setPair n t v s).memoryWf := .ite h h.set.set

theorem State.memoryWf.setList {e : Env} {n t : Nat} {vs : List Word} : (e.setList n t vs s).memoryWf := by
  induction vs generalizing n s with
  | nil => exact h
  | cons v vs ih => exact ih h.set

theorem State.memoryWf.setAll {e : Env} {m : Mask} {d : RegNo} {f : Nat → Word} : (e.setAll m d f s).memoryWf :=
  State.memoryWf_foldl _ (fun _ _ h => h.set) _ h

theorem State.memoryWf.setPairs {e : Env} {m : Mask} {d : RegNo} {f : Nat → DWord} : (e.setPairs m d f s).memoryWf :=
  State.memoryWf_foldl _ (fun _ _ h => h.setPair) _ h

theorem State.memoryWf.later {e : Env} {m : Mask} {d : RegNo} {f : Nat → Word} : (e.later m d f s).memoryWf := .ite h h.mapStrand

theorem State.memoryWf.resumeWarp {t w : Nat} : (s.resumeWarp t w).memoryWf := by
  unfold State.resumeWarp
  dsimp only
  split
  · exact h.mapWarp
  · exact h.mapWarp.mapWarp.takeTrap

theorem State.memoryWf.returnTo {w : Who} {tgt : DWord} {named : Bool} : (s.returnTo w tgt named).memoryWf := by
  unfold State.returnTo
  split
  · split
    · exact h
    · exact h.bump.mapWarp.resumeWarp
  · exact h.bump.setLc
  · exact h

/-! ### Translation and its checks -/

theorem State.memoryWf.setAccess {entryPa : Nat} {e : DWord} {write : Bool} : (s.setAccess entryPa e write).1.memoryWf := by
  unfold State.setAccess
  dsimp only
  split
  · split
    · exact h
    · exact State.memoryWf_homeWrite _ _ h
  · split
    · exact h
    · exact State.memoryWf_homeWrite _ _ h

theorem State.memoryWf.cacheLeaf {a : Agent} {x : TlbEntry} : (s.cacheLeaf a x).memoryWf := by
  unfold State.cacheLeaf
  dsimp only
  split
  · exact h.setDie.spend.setCore
  · exact h.setDie.spend

theorem State.memoryWf.cacheTables {d : Nat} {ts : List TableEntry} : (s.cacheTables d ts).memoryWf := .ite h h.setDie

theorem State.memoryWf.touch {a : Agent} {write : Bool} {p : Place} : (s.touch a write p).memoryWf := by
  unfold State.touch
  split
  · exact h
  · exact h.setAccess.cacheTables.cacheLeaf

theorem State.memoryWf.mapped {sp : Space} {k : Kind} {va : Nat} : (s.mapped sp k va).1.memoryWf := by
  unfold State.mapped
  dsimp only
  split
  · split
    · split <;> exact .ite h h.spend
    · exact .ite h h.spend
    · exact .ite h h.spend
    · exact .ite h h.spend
  · split
    · exact .ite h h.spend
    · split
      · exact .spend (.ite h h.spend)
      · split
        · split <;> exact .spend (.ite h h.spend)
        · exact .spend (.ite h h.spend)
        · exact .spend (.ite h h.spend)
        · exact .spend (.ite h h.spend)

theorem State.memoryWf.resolve {sp : Space} {k : Kind} {va : Nat} : (s.resolve sp k va).1.memoryWf := h.mapped

theorem State.memoryWf.translate {sp : Space} {k : Kind} {va : Nat} : (s.translate sp k va).1.memoryWf := by
  unfold State.translate
  split
  · rename_i heq
    have h₁ := State.memoryWf.of_fst (h.resolve) heq
    exact h₁.touch
  · exact h.resolve

theorem State.memoryWf.space {c : Nat} {a : Agent} {priv : Bool} : (s.space c a priv).1.memoryWf := by
  unfold State.space
  dsimp only
  split
  · exact h
  · split <;> exact h.spend

theorem State.memoryWf.envSpace {e : Env} : (e.space s).1.memoryWf := by
  unfold Env.space
  split
  · rename_i heq
    have h₁ := State.memoryWf.of_fst (h.space) heq
    split <;> exact h₁

theorem State.memoryWf.translateAll {sp : Space} {k : Kind} {ws : List Want} : (s.translateAll sp k ws).1.memoryWf := by
  induction ws generalizing s with
  | nil => exact h
  | cons w ws ih => exact ih (State.memoryWf.foldl_fst (p := (s, [])) h fun _ _ h => h.resolve)

theorem State.memoryWf.touchAll {a : Agent} {k : Kind} {x3 : Checked} : (s.touchAll a k x3).1.memoryWf := by
  unfold State.touchAll
  split
  · exact .ite h (State.memoryWf_foldl _ (fun _ _ h => h.touch) _ h)
  · exact h

theorem State.memoryWf.tryAll {sp : Space} {k : Kind} {ws : List Want} : (s.tryAll sp k ws).1.memoryWf := by
  unfold State.tryAll
  split
  · exact h
  · exact h.translateAll

theorem State.memoryWf.checkAll {sp : Space} {k : Kind} {ws : List Want} : (s.checkAll sp k ws).1.memoryWf := h.tryAll.touchAll

theorem State.memoryWf.checkThreads {sp : Space} {k : Kind} {go : Bool} {ws : List Want} : (s.checkThreads sp k go ws).1.memoryWf := by
  unfold State.checkThreads
  split
  · rename_i heq
    have h₁ := State.memoryWf.of_fst (h.translateAll) heq
    dsimp only
    split
    · exact h₁
    · split
      · exact h₁.touchAll
      · exact h₁

theorem State.memoryWf.pageFault {e : Env} {k : Kind} {va cause level asid : Nat} : (e.pageFault k va cause level asid s).memoryWf := by
  unfold Env.pageFault
  split
  · rename_i heq
    have h₁ := State.memoryWf.of_fst (h.count.queueFault) heq
    exact h₁.hold
  · rename_i heq
    have h₁ := State.memoryWf.of_fst (h.count.queueFault) heq
    exact h₁.hold

omit h in
theorem State.memoryWf.checked {e : Env} {k : Kind} {r : State × Checked} {body : List Piece → State → State} (h : r.1.memoryWf)
    (hbody : ∀ {x t1}, t1.memoryWf → (body x t1).memoryWf) :
    (e.checked k r body).memoryWf := by
  unfold Env.checked
  split
  · split
    · exact h.raise
    · exact hbody h
  · exact h.raise
  · exact h.pageFault

theorem State.memoryWf.constWord {born : Nat} {p : Place} : (s.constWord born p).1.memoryWf := by
  unfold State.constWord
  split
  · exact h.spend
  · split
    · exact h
    · exact h.spend

theorem State.memoryWf.constWords {born : Nat} {ps : List Piece} : (s.constWords born ps).1.memoryWf := by
  induction ps generalizing s with
  | nil => exact h
  | cons p ps ih => exact ih h.constWord

theorem State.memoryWf.withB {e : Env} {m : Mask} {b : SrcB} {wide : Bool} {ext : Word → DWord} {body : (Nat → DWord) → State → State}
    (hbody : ∀ {x t1}, t1.memoryWf → (body x t1).memoryWf) :
    (e.withB m b wide ext s body).memoryWf := by
  unfold Env.withB
  split
  · exact hbody h
  · exact hbody h
  · split
    · exact hbody h
    · dsimp only
      split
      · exact h.raise
      · split
        · exact h.raise
        · exact h.envSpace.checkAll.checked fun h => .ite h.raise (hbody h.constWords)

/-! ### The INT group -/

theorem Out.Wf.runAlu {i : Instr} {o : Alu} {wideB : Bool} {body : Env → Mask → (Nat → DWord) → State → State}
    (hbody : ∀ {x x1 x2 t3}, t3.memoryWf → (body x x1 x2 t3).memoryWf) :
    Out.Wf (runAlu i o wideB s body) :=
  .act h (fun h => h.withB (fun h => hbody h))

theorem State.memoryWf.finish {e : Env} {i : Instr} {m : Mask} {d : RegNo} {wide : Bool} {f : Nat → DWord} : (e.finish i m d wide f s).memoryWf :=
  .retire (.ite h.setPairs h.setAll)

theorem Out.Wf.arith {i : Instr} {o : Alu} {f : Int → Int → Int → Int} : Out.Wf (arith i o f s) := .runAlu h fun h => h.finish
theorem Out.Wf.wordOp {i : Instr} {o : Alu} {f : Word → Word → Word → Word} : Out.Wf (wordOp i o f s) := .runAlu h fun h => h.finish
theorem Out.Wf.execAdd {o : Alu} : Out.Wf (execAdd o s) := .arith h
theorem Out.Wf.execSub {o : Alu} : Out.Wf (execSub o s) := .arith h
theorem Out.Wf.execMul {o : Alu} : Out.Wf (execMul o s) := .arith h
theorem Out.Wf.execMad {o : Alu} : Out.Wf (execMad o s) := .arith h
theorem Out.Wf.execNeg {o : Alu} : Out.Wf (execNeg o s) := .arith h
theorem Out.Wf.execAbs {o : Alu} : Out.Wf (execAbs o s) := .arith h
theorem Out.Wf.execMin {o : Alu} : Out.Wf (execMin o s) := .arith h
theorem Out.Wf.execMax {o : Alu} : Out.Wf (execMax o s) := .arith h
theorem Out.Wf.execAdd64 {o : Alu} : Out.Wf (execAdd64 o s) := .arith h
theorem Out.Wf.execSub64 {o : Alu} : Out.Wf (execSub64 o s) := .arith h
theorem Out.Wf.execMulh {o : Alu} : Out.Wf (execMulh o s) := .wordOp h
theorem Out.Wf.execMulw {o : Alu} : Out.Wf (execMulw o s) := .runAlu h fun h => h.finish
theorem Out.Wf.execAddc {o : Alu} : Out.Wf (execAddc o s) := .runAlu h fun h => h.finish
theorem Out.Wf.execSubb {o : Alu} : Out.Wf (execSubb o s) := .runAlu h fun h => h.finish
theorem Out.Wf.divide {i : Instr} {o : Alu} {f : Int → Int → Int} : Out.Wf (divide i o f s) := .runAlu h fun h => .ite h.raiseOpen h.finish
theorem Out.Wf.execDiv {o : Alu} : Out.Wf (execDiv o s) := .divide h
theorem Out.Wf.execRem {o : Alu} : Out.Wf (execRem o s) := .divide h
theorem Out.Wf.execAnd {o : Alu} : Out.Wf (execAnd o s) := .wordOp h
theorem Out.Wf.execOr {o : Alu} : Out.Wf (execOr o s) := .wordOp h
theorem Out.Wf.execXor {o : Alu} : Out.Wf (execXor o s) := .wordOp h
theorem Out.Wf.execAndn {o : Alu} : Out.Wf (execAndn o s) := .wordOp h
theorem Out.Wf.execOrn {o : Alu} : Out.Wf (execOrn o s) := .wordOp h
theorem Out.Wf.execNot {o : Alu} : Out.Wf (execNot o s) := .wordOp h
theorem Out.Wf.execShl {o : Alu} : Out.Wf (execShl o s) := .wordOp h
theorem Out.Wf.execShr {o : Alu} : Out.Wf (execShr o s) := .wordOp h
theorem Out.Wf.execSra {o : Alu} : Out.Wf (execSra o s) := .wordOp h
theorem Out.Wf.execRot {o : Alu} : Out.Wf (execRot o s) := .wordOp h
theorem Out.Wf.execShl64 {o : Alu} : Out.Wf (execShl64 o s) := .runAlu h fun h => h.finish
theorem Out.Wf.execShr64 {o : Alu} : Out.Wf (execShr64 o s) := .runAlu h fun h => h.finish
theorem Out.Wf.execClz {o : Alu} : Out.Wf (execClz o s) := .wordOp h
theorem Out.Wf.execCtz {o : Alu} : Out.Wf (execCtz o s) := .wordOp h
theorem Out.Wf.execPopc {o : Alu} : Out.Wf (execPopc o s) := .wordOp h
theorem Out.Wf.execBrev {o : Alu} : Out.Wf (execBrev o s) := .wordOp h
theorem Out.Wf.execBfx {o : Alu} : Out.Wf (execBfx o s) := .wordOp h
theorem Out.Wf.execBfi {o : Alu} : Out.Wf (execBfi o s) := .wordOp h
theorem Out.Wf.execSel {o : Alu} : Out.Wf (execSel o s) := .runAlu h fun h => h.finish
theorem State.memoryWf.putCompare {e : Env} {i : Instr} {o : Alu} {m : Mask} {p : Nat → Bool} : (e.putCompare i o m p s).memoryWf := h.finish
theorem Out.Wf.compareInts {i : Instr} {o : Alu} : Out.Wf (compareInts i o s) := .runAlu h fun h => h.putCompare
theorem Out.Wf.execCmp {o : Alu} : Out.Wf (execCmp o s) := .compareInts h
theorem Out.Wf.execCmp64 {o : Alu} : Out.Wf (execCmp64 o s) := .compareInts h
theorem Out.Wf.execLea {o : Alu} : Out.Wf (execLea o s) := .runAlu h fun h => h.finish
theorem Out.Wf.execMov {o : Alu} : Out.Wf (execMov o s) := .runAlu h fun h => h.finish
theorem Out.Wf.execMovw {p : Pre} {d : RegNo} {imm : DWord} : Out.Wf (execMovw p d imm s) := .act h fun h => h.setPairs.retire

theorem State.memoryWf.ldcValues {e : Env} {m : Mask} {o : Alu} {ps : List Piece} : (e.ldcValues m o ps s).memoryWf :=
  .ite h.constWords.later.later h.constWords.later

theorem Out.Wf.execLdc {o : Alu} : Out.Wf (execLdc o s) := by
  unfold Machine.execLdc
  refine .act h fun h₁ => ?_
  dsimp only
  split
  · refine h₁.envSpace.checkThreads.checked fun h₂ => ?_
    split
    · exact h₁.envSpace.raise
    · split
      · exact h₂.raise
      · exact h₂.ldcValues.retire
  · exact h₁.retire

theorem State.memoryWf.latchClk {e : Env} {m : Mask} : (s.latchClk e m).memoryWf := h.mapStrand

theorem Out.Wf.execSrd {p : Pre} {d : RegNo} {n : BitVec 12} : Out.Wf (execSrd p d n s) :=
  .act h fun h => .retire (.ite (.later (.ite h.latchClk h)) (.setAll (.ite h.latchClk h)))

theorem State.memoryWf.setSpecial {e : Env} {n : Nat} {v : Word} : (s.setSpecial e n v).memoryWf := by
  unfold State.setSpecial
  dsimp only
  split
  · split
    · exact h.setLc
    · exact h.mapStrand
  · split
    · exact h.setLc
    · exact h.mapStrand
  · split
    · exact h.setLc
    · exact h.mapStrand
  · split
    · exact h.setLc
    · exact h.mapStrand
  · split
    · exact h.setLc
    · exact h.mapStrand
  · exact h.setCtx
  · exact h.setCtx
  · exact h.setCtx
  · exact h.setDie
  · exact h.setDie
  · exact h.setCtx
  · exact h.setCtx
  · exact h.mapStrand
  · exact h.setCtx

theorem Out.Wf.execSwr {p : Pre} {a : RegNo} {ua : Bool} {n : BitVec 12} : Out.Wf (execSwr p a ua n s) :=
  .act h fun h => .retire (.ite h h.setSpecial)

/-! ### Floating-point flags -/

theorem State.memoryWf.withFlags {e : Env} {f : Flags} {body : State → State} (hbody : ∀ {t}, t.memoryWf → (body t).memoryWf) :
    (e.withFlags f s body).memoryWf :=
  .ite h.raiseOpen (hbody h.mapStrand)

theorem State.memoryWf.finishFloat {e : Env} {i : Instr} {m : Mask} {d : RegNo} {wide : Bool} {f : Nat → DWord × Flags} :
    (e.finishFloat i m d wide f s).memoryWf :=
  h.withFlags fun h => h.finish

/-! ### The FLT group -/

theorem Out.Wf.floatCodes {i : Instr} {o : Alu} {f : Nat → Nat → Nat → Nat × Flags} : Out.Wf (floatCodes i o f s) :=
  .runAlu h fun h => h.finishFloat

theorem Out.Wf.floatOp {i : Instr} {o : Alu} {f : Fp → Fp → Fp → Exact} : Out.Wf (floatOp i o f s) := .floatCodes h
theorem Out.Wf.execFadd {o : Alu} : Out.Wf (execFadd o s) := .floatOp h
theorem Out.Wf.execFsub {o : Alu} : Out.Wf (execFsub o s) := .floatOp h
theorem Out.Wf.execFmul {o : Alu} : Out.Wf (execFmul o s) := .floatOp h
theorem Out.Wf.execFfma {o : Alu} : Out.Wf (execFfma o s) := .floatOp h
theorem Out.Wf.execFrcp {o : Alu} : Out.Wf (execFrcp o s) := .floatOp h
theorem Out.Wf.execFsqrt {o : Alu} : Out.Wf (execFsqrt o s) := .floatOp h
theorem Out.Wf.execFdiv {o : Alu} : Out.Wf (execFdiv o s) := .floatOp h
theorem Out.Wf.execFmin {o : Alu} : Out.Wf (execFmin o s) := .floatCodes h
theorem Out.Wf.execFmax {o : Alu} : Out.Wf (execFmax o s) := .floatCodes h
theorem Out.Wf.execFabs {o : Alu} : Out.Wf (execFabs o s) := .floatCodes h
theorem Out.Wf.execFneg {o : Alu} : Out.Wf (execFneg o s) := .floatCodes h
theorem Out.Wf.execFcmp {o : Alu} : Out.Wf (execFcmp o s) := .runAlu h (fun h => h.withFlags (fun h => h.putCompare))
theorem Out.Wf.execFrsq {o : Alu} : Out.Wf (execFrsq o s) := .floatOp h
theorem Out.Wf.execFex2 {o : Alu} : Out.Wf (execFex2 o s) := .floatOp h
theorem Out.Wf.execFlg2 {o : Alu} : Out.Wf (execFlg2 o s) := .floatOp h
theorem Out.Wf.execFsin {o : Alu} : Out.Wf (execFsin o s) := .floatOp h
theorem Out.Wf.execFcos {o : Alu} : Out.Wf (execFcos o s) := .floatOp h
theorem Out.Wf.execFtanh {o : Alu} : Out.Wf (execFtanh o s) := .floatOp h
theorem Out.Wf.execFclass {o : Alu} : Out.Wf (execFclass o s) := .runAlu h fun h => h.finish
theorem Out.Wf.execFrnd {o : Alu} : Out.Wf (execFrnd o s) := .floatCodes h
theorem Out.Wf.execFscale {o : Alu} : Out.Wf (execFscale o s) := .runAlu h fun h => h.finishFloat
theorem Out.Wf.execFdp2 {o : Alu} : Out.Wf (execFdp2 o s) := .runAlu h fun h => h.finishFloat
theorem Out.Wf.execCvt {o : Alu} : Out.Wf (execCvt o s) := .runAlu h fun h => h.finishFloat
theorem Out.Wf.execCvtsr {o : Alu} : Out.Wf (execCvtsr o s) := .runAlu h fun h => h.finishFloat

theorem Out.Wf.execQpk {o : Alu} : Out.Wf (execQpk o s) :=
  .runAlu h (fun h => h.withFlags (fun h => .retire (State.memoryWf_foldl _ (fun _ _ h => h.setList.set) _ h)))

theorem Out.Wf.execQupk {o : Alu} : Out.Wf (execQupk o s) := .runAlu h fun h => h.finish

/-! ### Accesses of engines -/

theorem State.memoryWf.newToken {t w : Nat} {sc : Scope} {op : Nat} : (s.newToken t w sc op).1.memoryWf := by
  unfold State.newToken
  split
  · exact h
  · split
    · exact h
    · split
      · exact h
      · exact h.mapTeam.spend

theorem State.memoryWf.completeToken {t : Nat} {i : Option Nat} {status : Word} {words : List Word} :
    (s.completeToken t i status words).memoryWf := by
  unfold State.completeToken
  split
  · exact h
  · exact h.mapTeam

theorem State.memoryWf.leaveAccs {t w base : Nat} {token : Option (Nat × BitVec 22)} : (s.leaveAccs t w base token).memoryWf := h.mapTeam
theorem State.memoryWf.seeToken {t i : Nat} {k : Token} : (s.seeToken t i k).memoryWf := h.bump.mapTeam
theorem State.memoryWf.engineSpace {c die : Nat} : (s.engineSpace c die).1.memoryWf := h.space

theorem State.memoryWf.reach {sp : Space} {k : Kind} {ws : List Want} : (s.reach sp k ws).1.memoryWf := by
  unfold State.reach
  split
  · rename_i heq
    have h₁ := State.memoryWf.of_fst (h.checkAll) heq
    split
    · exact h₁
    · split <;> exact h₁
  · exact h.checkAll

theorem State.memoryWf.engineSees {o : Origin} {line : Nat} {write : Bool} : (s.engineSees o line write).memoryWf := h.count.watch
theorem State.memoryWf.keepBytes {key dev pa : Nat} {bs : List Byte} : (s.keepBytes key dev pa bs).memoryWf := h.rest

theorem State.memoryWf.fetchCell {o : Origin} {q : Piece} : (s.fetchCell o q).memoryWf := by
  unfold State.fetchCell
  dsimp only
  split
  · exact .keepBytes (.ite (State.memoryWf_recall _ h).engineSees.spend h)
  · split
    · exact h.keepBytes
    · exact .ite h h.sendRemote

theorem State.memoryWf.fetchPart {o : Origin} {unit : Nat} {ps : List Piece} {n : Nat} : (s.fetchPart o unit ps n).memoryWf := by
  unfold State.fetchPart
  dsimp only
  split
  · exact h.fetchCell
  · exact h

theorem State.memoryWf.gather {o : Origin} {ps : List Piece} : (s.gather o ps).1.memoryWf := by
  unfold State.gather
  dsimp only
  split
  · exact .spend (State.memoryWf_foldl _ (fun _ _ h => .ite (State.memoryWf_recall _ h).engineSees h) _ (State.memoryWf_foldl _
      (fun _ _ h => .ite h h.fetchCell) _ h))
  · exact State.memoryWf_foldl _ (fun _ _ h => .ite h h.fetchCell) _ h

theorem State.memoryWf.gatherBy {o : Origin} {unit : Nat} {stop : Stop} {ps : List Piece} : (s.gatherBy o unit stop ps).1.memoryWf := by
  unfold State.gatherBy
  split
  · split
    · exact h
    · exact h.fetchPart
  · exact h.gather

theorem State.memoryWf.putPiece {o : Origin} {p : Piece} {bs : List Byte} : (s.putPiece o p bs).memoryWf := by
  unfold State.putPiece
  split
  · exact h.deviceWrite
  · split
    · exact State.memoryWf_foldl _ (fun _ _ h => h.engineSees) _ (State.memoryWf_homeWrite _ _ h).nameHome
    · exact State.memoryWf_foldl _ (fun _ _ h => h.sendRemote) _ h

theorem State.memoryWf.putPieces {o : Origin} {unit : Nat} {done : List Nat} {ps : List Piece} {bytes : Nat → List Byte} :
    (s.putPieces o unit done ps bytes).memoryWf := by
  unfold State.putPieces
  split <;> exact State.memoryWf_foldl _ (fun _ _ h => h.putPiece) _ h

theorem State.memoryWf.engineFault {d : Nat} {w : Waiter} {c : Nat} {k : Kind} {va cause level asid src : Nat} {site : DWord} {seq team : Word} :
    (s.engineFault d w c k va cause level asid src site seq team).1.memoryWf := by
  unfold State.engineFault
  dsimp only
  split
  · rename_i heq
    have h₁ := State.memoryWf.of_fst (h.count.queueFault) heq
    exact h₁
  · rename_i heq
    have h₁ := State.memoryWf.of_fst (h.count.queueFault) heq
    exact h₁

/-! ### Loads on their way -/

theorem State.memoryWf.finishLoad {key : Nat} : (s.finishLoad key).memoryWf := by
  unfold State.finishLoad
  split
  · exact h
  · split
    · exact h
    · dsimp only
      split
      · refine .rest ?_
        split
        · exact h.acquire
        · exact h
      · refine .mapStrand (.rest ?_)
        split
        · exact h.acquire
        · exact h

theorem State.memoryWf.landUnit {u : ReadUnit} {bs : List Byte} : (s.landUnit u bs).memoryWf := h.rest.finishLoad
theorem State.memoryWf.failUnit {u : ReadUnit} {cause : Nat} : (s.failUnit u cause).memoryWf := h.rest

theorem State.memoryWf.markSi {a : Agent} {line : Nat} {si : Bool} : (s.markSi a line si).memoryWf := by
  unfold State.markSi
  split
  · exact h.setCached
  · exact h

theorem State.memoryWf.lastUse {a : Agent} {line : Nat} {last : Bool} : (s.lastUse a line last).memoryWf := by
  unfold State.lastUse
  split
  · exact h
  · split
    · exact h.writeBack.dropCached
    · exact (State.memoryWf_recall _ h).dropCached

theorem State.memoryWf.clearWay {a : Agent} {line : Nat} : (s.clearWay a line).memoryWf := by
  unfold State.clearWay
  split
  · exact h.sendWcb
  · exact h

theorem State.memoryWf.loadUnit {e : Env} {o : Mem} {key : Nat} {own : Bool} {p : Piece} {x : Nat × Nat × Nat × Nat} :
    (s.loadUnit e o key own p x).memoryWf := by
  unfold State.loadUnit
  split
  · dsimp only
    split
    · exact h.spend.rest
    · split
      · exact h.deviceRead.rest
      · split
        · split
          · exact h.rest.markSi.lastUse
          · exact h.count.lastUse.flushLine.rest
        · exact h.lastUse.flushLine.rest

theorem State.memoryWf.score {e : Env} {d : RegNo} {n : Nat} {m : Mask} : (e.score d n m s).memoryWf := .ite h h.mapSplit

theorem State.memoryWf.startLoad {e : Env} {o : Mem} {m : Mask} {own : Piece → Bool} {ps : List Piece} : (e.startLoad o m own ps s).memoryWf :=
  .finishLoad (State.memoryWf_foldl _ (fun _ _ h => State.memoryWf_foldl _ (fun _ _ h => h.loadUnit) _ h) _ h.rest.score)

/-! ### Stores and atomics on their way -/

theorem State.memoryWf.makeRoom {a : Agent} {line : Nat} : (s.makeRoom a line).memoryWf := by
  unfold State.makeRoom
  split
  · split
    · exact h.writeBack.dropCached.spend
    · exact h.spend
  · split
    · exact (State.memoryWf_recall _ h).dropCached.spend
    · exact h.spend
  · exact h

theorem State.memoryWf.fillRdc {d line : Nat} {l : Line} : (s.fillRdc d line l).memoryWf := h.setDie.spend

theorem State.memoryWf.fillLine {a : Agent} {line : Nat} {data : BitVec 1024} {good : BitVec 128} {si uo : Bool} {asid : Nat} :
    (s.fillLine a line data good si uo asid).memoryWf := by
  unfold State.fillLine
  split
  · exact h.setCached
  · exact h.makeRoom.setCached

theorem State.memoryWf.storeL1 {c line ctx : Nat} {mask : BitVec 128} {data : BitVec 1024} {uo : Bool} :
    (s.storeL1 c line ctx mask data uo).memoryWf := by
  unfold State.storeL1
  refine .setCached ?_
  split
  · exact .ite h.writeBack h
  · exact h.makeRoom

theorem State.memoryWf.storeLc {n line ctx : Nat} {name : Name} {mask : BitVec 128} {data : BitVec 1024} :
    (s.storeLc n line ctx name mask data).memoryWf := by
  unfold State.storeLc
  refine .setCached ?_
  split
  · refine .nameHome (.dropSharers ?_)
    split
    · exact .ite (State.memoryWf_recall _ h) h
    · exact State.memoryWf_recall _ h
  · refine .makeRoom (.nameHome (.dropSharers ?_))
    split
    · exact .ite (State.memoryWf_recall _ h) h
    · exact State.memoryWf_recall _ h

theorem State.memoryWf.updateL1 {a : Agent} {line : Nat} {mask : BitVec 128} {data : BitVec 1024} {keepIt : Bool} :
    (s.updateL1 a line mask data keepIt).memoryWf := by
  unfold State.updateL1
  split
  · split
    · exact h
    · exact .ite h.setCached (.ite h.dropCached h.setCached)
  · exact h

theorem State.memoryWf.storeWcb {c line ctx : Nat} {mask : BitVec 128} {data : BitVec 1024} {site : DWord} {who : Who} {sc : Scope} {rt : Rt} :
    (s.storeWcb c line ctx mask data site who sc rt).memoryWf := by
  unfold State.storeWcb
  dsimp only
  split
  · split
    · split
      · split
        · exact .ite h.sendWcb.sendWcb.setCore.bump.sendWcb h.sendWcb.sendWcb.setCore.bump
        · exact .ite h.sendWcb.setCore.bump.sendWcb h.sendWcb.setCore.bump
      · exact .ite h.sendWcb.setCore.bump.sendWcb h.sendWcb.setCore.bump
    · split
      · split
        · exact .ite h.sendWcb.setCore.bump.sendWcb h.sendWcb.setCore.bump
        · exact .ite h.setCore.bump.sendWcb h.setCore.bump
      · exact .ite h.setCore.bump.sendWcb h.setCore.bump
  · split
    · split
      · exact .ite h.sendWcb.setCore.bump.sendWcb h.sendWcb.setCore.bump
      · exact .ite h.setCore.bump.sendWcb h.setCore.bump
    · exact .ite h.setCore.bump.sendWcb h.setCore.bump

theorem State.memoryWf.storeFar {e : Env} {o : Mem} {p : Place} {line : Nat} {mask : BitVec 128} {data : BitVec 1024} :
    (s.storeFar e o p line mask data).memoryWf :=
  h.sendRemote

theorem State.memoryWf.storeUnit {e : Env} {o : Mem} {p : Place} {line : Nat} {mask : BitVec 128} {data : BitVec 1024} :
    (s.storeUnit e o p line mask data).memoryWf := by
  unfold State.storeUnit
  split
  · refine .lastUse ?_
    split
    · exact .ite h.updateL1.sendWcb.storeFar h.updateL1.storeWcb
    · exact h.updateL1.storeFar
  · split
    · exact h.deviceWrite
    · dsimp only
      split
      · exact h.storeL1.lastUse
      · exact h.flushLine.updateL1.send.lastUse
      · exact h.flushLine.updateL1.send.lastUse
      · exact .lastUse (.ite h.flushLine.updateL1.send h.storeLc)
      · exact h.flushLine.updateL1.send.lastUse

theorem State.memoryWf.storePiece {e : Env} {o : Mem} {n : Nat} {p : Piece} {bs : List Byte} : (s.storePiece e o n p bs).memoryWf :=
  State.memoryWf_foldl _ (fun _ _ h => h.storeUnit) _ h

theorem State.memoryWf.atomicUnit {e : Env} {o : Mem} {op : Nat} {load : Option Nat} {b c : DWord} {p : Piece} :
    (s.atomicUnit e o op load b c p).memoryWf := by
  unfold State.atomicUnit
  refine .send ?_
  split
  · exact h.writeBack.dropCached.sendWcb
  · exact h

/-! ### Scratchpad -/

theorem State.memoryWf.spadWrite {e : Env} {t th off : Nat} {bs : List Byte} : (s.spadWrite e t th off bs).memoryWf := h.mapTeam

theorem State.memoryWf.spadFetch {e : Env} {o : Mem} {hi : Bool} {xs : List (Nat × Nat × Nat × Nat)} : (e.spadFetch o hi xs s).memoryWf :=
  State.memoryWf_foldl _ (fun _ _ h => .ite h h.later) _ h

theorem State.memoryWf.spadPut {e : Env} {o : Mem} {hi : Bool} {xs : List (Nat × Nat × Nat × Nat)} : (e.spadPut o hi xs s).memoryWf :=
  State.memoryWf_foldl _ (fun _ _ h => h.spadWrite) _ h

theorem State.memoryWf.spadParts {e : Env} {o : Mem} {part : Bool → List (Nat × Nat × Nat × Nat) → State → State} {xs : List
    (Nat × Nat × Nat × Nat)} {finish : State → State} (hpart : ∀ {x x1 t2}, t2.memoryWf → (part x x1 t2).memoryWf) (hfinish : ∀ {t}, t.memoryWf →
    (finish t).memoryWf) :
    (e.spadParts o part xs finish s).memoryWf :=
  .ite (.interlock (hpart h.spend)) (hfinish (hpart h))

theorem State.memoryWf.spadLoaded {e : Env} {i : Instr} {o : Mem} : (e.spadLoaded i o s).memoryWf := .retire (.ite h.acquire h)

theorem State.memoryWf.spadLoad {e : Env} {i : Instr} {o : Mem} {xs : List SpadAt} : (e.spadLoad i o xs s).memoryWf := by
  unfold Env.spadLoad
  split
  · exact h.spadFetch.spadLoaded
  · split
    · exact h.retire
    · split
      · exact h.raise
      · split
        · exact h.raise
        · exact .ite h.interlock (h.spadParts (fun h => h.spadFetch) (fun h => h.spadLoaded))

theorem State.memoryWf.spadStore {e : Env} {i : Instr} {o : Mem} {xs : List SpadAt} : (e.spadStore i o xs s).memoryWf := by
  unfold Env.spadStore
  split
  · exact h.spadPut.retire
  · split
    · exact h.retire
    · split
      · exact h.raise
      · dsimp only
        split
        · exact h.drain (fun h => h.release) (fun h => h.spadParts (fun h => h.spadPut) (fun h => h.retire))
        · exact h.spadParts (fun h => h.spadPut) (fun h => h.retire)

/-! ### What engines write into tiles -/

theorem State.memoryWf.pruneBytes {t : Nat} {sp : List Word} {n : Nat} : (s.pruneBytes t sp n).memoryWf := .ite h h.rest
theorem State.memoryWf.putAccs {k : Task} {vs : Sparse Word} : (s.putAccs k vs).memoryWf := h.rest.mapWarp
theorem State.memoryWf.abortTask {key : Nat} {k : Task} : (s.abortTask key k).memoryWf := .ite h (.rest (.ite h.putAccs h))

theorem State.memoryWf.restartOps {p : Nat → Option Nat → Bool} : (s.restartOps p).memoryWf :=
  State.memoryWf_foldl _ (fun _ _ h => h.abortTask) _ h.rest

theorem State.memoryWf.haltOps {t : Nat} : (s.haltOps t).memoryWf := h.restartOps
theorem State.memoryWf.settleDeferred {t : Nat} {d : Deferred} : (s.settleDeferred t d).memoryWf := h.mapTeam.spend.rest.completeToken

theorem State.memoryWf.deliver {e : Env} {p : Deferred → Bool} {body : State → State} (hbody : ∀ {t}, t.memoryWf → (body t).memoryWf) :
    (e.deliver s p body).memoryWf := by
  unfold Env.deliver
  split
  · exact h.settleDeferred.raise
  · exact hbody h

theorem State.memoryWf.defer {t : Nat} {d : Deferred} : (s.defer t d).memoryWf := by
  unfold State.defer
  split
  · exact h
  · exact .ite h.settleDeferred.endTeam h.mapTeam

theorem State.memoryWf.settleGone : s.settleGone.memoryWf := by
  unfold State.settleGone
  refine State.memoryWf_foldl _ (fun _ _ h₁ => .endTeam ?_) _ h
  split
  · exact State.memoryWf_foldl _ (fun _ _ h => h.settleDeferred) _ h₁
  · exact h₁

theorem State.memoryWf.drainHeld {t : Nat} : (s.drainHeld t).memoryWf := State.memoryWf_foldl _ (fun _ _ h => .ite h.rest.mapTeam h) _ h

/-! ### The MEM group -/

theorem State.memoryWf.global {e : Env} {i : Instr} {o : Mem} {indexed : Bool} {n : Nat} {k : Kind} {body : List Piece → State → State}
    (hbody : ∀ {x t1}, t1.memoryWf → (body x t1).memoryWf) :
    (e.global i o indexed n k s body).memoryWf :=
  .ite h.retire (h.envSpace.checkAll.checked (fun h => hbody h))

theorem State.memoryWf.ordered {e : Env} {so : Bool} {body : State → State} (hbody : ∀ {t}, t.memoryWf → (body t).memoryWf) :
    (e.ordered so body s).memoryWf :=
  .ite (h.drain (fun h => h) (fun h => hbody h)) (hbody h)

theorem State.memoryWf.spoilQueues {c : Nat} {ps : List Piece} : (s.spoilQueues c ps).memoryWf := State.memoryWf_foldl _ (fun _ _ h => h.rest) _ h
theorem Out.Wf.execLd {o : Mem} : Out.Wf (execLd o s) := .act h (fun h => h.global (fun h => h.ordered (fun h => h.startLoad.retire)))

theorem State.memoryWf.storeAll {e : Env} {o : Mem} {ps : List Piece} : (e.storeAll o ps s).memoryWf :=
  State.memoryWf_foldl _ (fun _ _ h => h.storePiece) _ h

theorem State.memoryWf.storeOrdered {e : Env} {i : Instr} {o : Mem} {ps : List Piece} : (e.storeOrdered i o ps s).memoryWf := by
  unfold Env.storeOrdered
  dsimp only
  split
  · exact h.drain (fun h => h.release) (fun h => h.spoilQueues.storeAll.leaveTo)
  · exact .ordered (.ite h.release h) fun h => h.spoilQueues.storeAll.leaveTo

theorem Out.Wf.execSt {o : Mem} : Out.Wf (execSt o s) := .act h (fun h => h.global (fun h => h.storeOrdered))
theorem Out.Wf.execLds {o : Mem} : Out.Wf (execLds o s) := .act h fun h => h.spadLoad
theorem Out.Wf.execSts {o : Mem} : Out.Wf (execSts o s) := .act h fun h => h.spadStore
theorem Out.Wf.execLdr {o : Mem} : Out.Wf (execLdr o s) := .act h fun h => h.spadLoad
theorem Out.Wf.execStr {o : Mem} : Out.Wf (execStr o s) := .act h fun h => h.spadStore

theorem State.memoryWf.atomicAccess {e : Env} {i : Instr} {o : Mem} {body : List Piece → State → State} (hbody : ∀ {x t1}, t1.memoryWf →
    (body x t1).memoryWf) :
    (e.atomicAccess i o s body).memoryWf := by
  unfold Env.atomicAccess
  dsimp only
  split
  · exact h.raise
  · exact h.global fun h => hbody h

theorem State.memoryWf.startAtomics {e : Env} {o : Mem} {op : Nat} {value : Bool} {ps : List Piece} : (e.startAtomics o op value ps s).memoryWf :=
  State.memoryWf_foldl _ (fun _ _ h => h.atomicUnit) _ (.ite h.rest.score h)

theorem State.memoryWf.atomicRun {e : Env} {i : Instr} {o : Mem} {op : Nat} {value : Bool} {ps : List Piece} :
    (e.atomicRun i o op value ps s).memoryWf := by
  unfold Env.atomicRun
  dsimp only
  split
  · exact h.drain (fun h => h.release) (fun h => h.spoilQueues.startAtomics.retire)
  · exact .ordered (.ite h.release h) fun h => h.spoilQueues.startAtomics.retire

theorem Out.Wf.execAtom {o : Mem} : Out.Wf (execAtom o s) := .act h (fun h => h.atomicAccess (fun h => h.atomicRun))
theorem Out.Wf.execRed {o : Mem} : Out.Wf (execRed o s) := .act h (fun h => h.atomicAccess (fun h => h.atomicRun))
theorem Out.Wf.execCas {o : Mem} : Out.Wf (execCas o s) := .act h (fun h => h.atomicAccess (fun h => h.atomicRun))
theorem State.memoryWf.fenced {e : Env} {o : Mem} : (e.fenced o s).memoryWf := .ite (.ite h.acquire.retire h.acquire.interlock) h.retire

theorem Out.Wf.execFence {o : Mem} : Out.Wf (execFence o s) := by
  unfold Machine.execFence
  refine .act h fun h₁ => ?_
  dsimp only
  split
  · exact h₁.retire
  · split
    · exact h₁.interlock
    · split
      · exact .ite h₁.interlock h₁.fenced
      · exact h₁.drain (fun h => h.release) (fun h => h.fenced)

theorem State.memoryWf.covered {sp : Space} {va len : Nat} {k : Kind} : (s.covered sp va len k).1.memoryWf := by
  unfold State.covered
  refine .foldl_fst h fun _ _ h₁ => ?_
  split
  · split
    · exact h₁
    · split
      · rename_i heq
        have h₂ := State.memoryWf.of_fst (h₁.translate) heq
        split <;> exact h₂

theorem State.memoryWf.overLines {e : Env} {o : Mem} {k : Kind} {pick : List (Place × Nat × Trans) → List (Nat × Place)} :
    (e.overLines o k pick s).1.memoryWf :=
  .foldl_fst h.envSpace fun _ _ h => h.covered

theorem State.memoryWf.inSpace {e : Env} {o : Mem} {body : State → State} (hbody : ∀ {t}, t.memoryWf → (body t).memoryWf) :
    (e.inSpace o s body).memoryWf := by
  unfold Env.inSpace
  split
  · exact h.raise
  · exact hbody h

theorem State.memoryWf.cleanLine {a : Agent} {line : Nat} : (s.cleanLine a line).memoryWf := by
  unfold State.cleanLine
  split
  · exact h.writeBack
  · exact State.memoryWf_recall _ h

theorem State.memoryWf.dropFar {d line asid : Nat} : (s.dropFar d line asid).memoryWf := .ite h h.setDie.staleFar
theorem State.memoryWf.dropHere {a : Agent} {line : Nat} : (s.dropHere a line).memoryWf := h.cleanLine.dropCached.rest

theorem Out.Wf.execFlush {o : Mem} : Out.Wf (execFlush o s) := by
  unfold Machine.execFlush
  refine .act h (fun h₁ => h₁.inSpace (fun h₂ => ?_))
  split
  · rename_i heq
    have h₃ := State.memoryWf.of_fst (h₂.overLines) heq
    split
    · exact h₃.retire
    · split
      · exact h₃.drain (fun h => h) (fun h => h.retire)
      · exact h₃.drain (fun h => State.memoryWf_foldl _ (fun _ _ h => .ite h.cleanLine.clearWay h.cleanLine) _ h) (fun h => .retire
          (State.memoryWf_foldl _ (fun _ _ h => .ite h.dropHere.dropFar h.dropHere) _ h))

theorem Out.Wf.execInval {o : Mem} : Out.Wf (execInval o s) :=
  .act h (fun h => h.inSpace (fun h => .retire (State.memoryWf_foldl _ (fun _ _ h => .ite h.dropHere.dropFar h.dropHere) _ h.overLines)))

theorem State.memoryWf.discardLine {e : Env} {line : Nat} : (s.discardLine e line).memoryWf := by
  unfold State.discardLine
  dsimp only
  split
  · exact h.dropCached.dropSharers.recordLine
  · split
    · exact h.dropCached.setDie.setCore
    · exact h.dropCached.setDie

theorem State.memoryWf.discardPage {sp : Space} {a : Nat} : (s.discardPage sp a).1.memoryWf := by
  unfold State.discardPage
  split
  · rename_i heq
    have h₁ := State.memoryWf.of_fst (h.translate) heq
    exact h₁
  · rename_i heq
    have h₁ := State.memoryWf.of_fst (h.translate) heq
    split <;> exact h₁
  · exact h.translate

theorem State.memoryWf.discardRange {sp : Space} {va len : Nat} : (s.discardRange sp va len).1.memoryWf := by
  unfold State.discardRange
  refine .foldl_fst h fun _ _ h₁ => ?_
  split
  · split
    · exact h₁
    · split
      · rename_i heq
        have h₂ := State.memoryWf.of_fst (h₁.discardPage) heq
        exact h₂
      · rename_i heq
        have h₂ := State.memoryWf.of_fst (h₁.discardPage) heq
        exact h₂

theorem Out.Wf.execDiscard {o : Mem} : Out.Wf (execDiscard o s) := by
  unfold Machine.execDiscard
  refine .act h fun h => h.inSpace fun h => ?_
  extract_lets m
  split
  rename_i hsp
  have h₁ := State.memoryWf.of_fst h.envSpace hsp
  extract_lets range
  split
  · exact h₁.raise
  · split
    rename_i heq
    refine .retire (State.memoryWf_foldl _ (fun _ _ h => h.discardLine) _ (.of_fst (.foldl_fst h₁ fun _ _ h => ?_) heq))
    exact h.discardRange

theorem State.memoryWf.prefetch {e : Env} {o : Mem} {line : Nat} {p : Place} : (s.prefetch e o line p).memoryWf := .ite h h.clearWay.rest

theorem Out.Wf.execPref {o : Mem} : Out.Wf (execPref o s) :=
  .act h (fun h => h.inSpace (fun h => .retire (State.memoryWf_foldl _ (fun _ _ h => h.prefetch) _ h.overLines)))

theorem State.memoryWf.dropFarCode {d : Nat} : (s.dropFarCode d).memoryWf := h.setDie.staleFar

theorem Out.Wf.execIcinv {o : Mem} : Out.Wf (execIcinv o s) := by
  unfold Machine.execIcinv
  refine .act h fun h₁ => ?_
  split
  · exact h₁.retire
  · refine h₁.drain (fun h₂ => ?_) (fun h₂ => .mapSplit (.retire ?_))
    · split
      · exact .ite h₂.writeBackEvery.sendWcbs h₂.writeBackEvery
      · exact h₂
    · split
      · refine .dropFarCode ?_
        split
        · exact h₂.setCore
        · exact h₂.setLc
        · exact h₂
      · split
        · exact h₂.setCore
        · exact h₂.setLc
        · exact h₂

theorem Out.Wf.execMon {o : Mem} : Out.Wf (execMon o s) := by
  unfold Machine.execMon
  refine .act h fun h₁ => ?_
  dsimp only
  split
  · exact h₁.retire
  · refine h₁.inSpace (fun h₂ => h₂.envSpace.checkAll.checked (fun h₃ => ?_))
    split
    · exact h₃.spend.mapSplit.retire
    · exact h₃.retire

theorem State.memoryWf.mwaitReturn {e : Env} {o : Mem} {r : Word} : (e.mwaitReturn o r s).memoryWf := h.setAll.mapSplit.retire

theorem Out.Wf.execMwait {o : Mem} : Out.Wf (execMwait o s) := by
  unfold Machine.execMwait
  refine .act h fun h₁ => ?_
  split
  · exact h₁.retire
  · split
    · exact h₁.mwaitReturn
    · exact .ite h₁.mwaitReturn (.ite h₁.mwaitReturn h₁.hold)

theorem Out.Wf.execWcdrain {o : Mem} : Out.Wf (execWcdrain o s) := by
  unfold Machine.execWcdrain
  refine .act h fun h₁ => ?_
  split
  · exact h₁.retire
  · dsimp only
    split
    · exact .ite h₁.hold h₁.retire
    · split
      · exact .ite h₁.sendWcbs.hold h₁.sendWcbs.retire
      · exact .ite h₁.hold h₁.retire

theorem Out.Wf.execLnext {o : Mem} : Out.Wf (execLnext o s) := by
  unfold Machine.execLnext
  refine .act h fun h₁ => .retire ?_
  split
  · exact .ite h₁ h₁.mapWarp
  · exact .ite h₁ h₁.mapWarp
  · exact h₁

theorem Out.Wf.execPdwait {o : Mem} : Out.Wf (execPdwait o s) := .act h fun h => .ite h.retire (.ite h.hold h.acquire.retire)

/-! ### The TILE group -/

theorem State.memoryWf.flushFar {a : Agent} {ps : List Piece} : (s.flushFar a ps).memoryWf :=
  State.memoryWf_foldl _ (fun _ _ h => .ite h (State.memoryWf_foldl _ (fun _ _ h => h.flushLine) _ h)) _ h

theorem State.memoryWf.gatherAfter {a : Agent} {o : Origin} {ps : List Piece} : (s.gatherAfter a o ps).1.memoryWf := by
  unfold State.gatherAfter
  dsimp only
  split
  · exact h.flushFar
  · exact h.flushFar.gather

theorem State.memoryWf.readRecord {e : Env} {i : Instr} {m : Mask} {a : RegNo} {align n : Nat} {body : DWord → List Byte → State → State}
    (hbody : ∀ {x x1 t2}, t2.memoryWf → (body x x1 t2).memoryWf) :
    (e.readRecord i m a align n s body).memoryWf := by
  unfold Env.readRecord
  dsimp only
  split
  · exact h.retire
  · split
    · exact h.raise
    · split
      · refine h.envSpace.checkAll.checked fun h₁ => ?_
        split
        · exact h₁.raise
        · split
          · rename_i heq
            have h₂ := State.memoryWf.of_fst (h₁.gatherAfter) heq
            exact hbody h₂.rest
          · rename_i heq
            have h₂ := State.memoryWf.of_fst (h₁.gatherAfter) heq
            exact h₂.hold
      · refine h.drain (fun h₁ => ?_) (fun h₁ => h₁.envSpace.checkAll.checked (fun h₂ => ?_))
        · split
          · exact h₁.writeBackAll
          · exact h₁
        · split
          · exact h₂.raise
          · split
            · rename_i heq
              have h₃ := State.memoryWf.of_fst (h₂.gatherAfter) heq
              exact hbody h₃.rest
            · rename_i heq
              have h₃ := State.memoryWf.of_fst (h₂.gatherAfter) heq
              exact h₃.hold

theorem Out.Wf.execTdset {p : Pre} {a b : RegNo} : Out.Wf (execTdset p a b s) :=
  .act h (fun h => h.readRecord (fun h => .ite h.raise (.ite h.raiseOpen h.setCtx.retire)))

theorem Out.Wf.execTdget {p : Pre} {d b : RegNo} : Out.Wf (execTdget p d b s) :=
  .act h (fun h => .retire (State.memoryWf_foldl _ (fun _ _ h => h.setList) _ h))

theorem State.memoryWf.claimSlots {t core : Nat} {pairs : List (Nat × Nat)} : (s.claimSlots t core pairs).memoryWf := by
  unfold State.claimSlots
  refine State.memoryWf_foldl _ (fun _ _ h₁ => .spend (.mapTeam (.setCore ?_))) _ h
  split
  · exact h₁.haltOps.mapTeam
  · exact h₁

theorem Out.Wf.execVclaim {p : Pre} {d b : RegNo} : Out.Wf (execVclaim p d b s) := by
  unfold Machine.execVclaim
  refine .act h fun h₁ => ?_
  dsimp only
  split
  · exact h₁.retire
  · split
    · exact h₁.retire
    · split
      · exact h₁.raiseOpen
      · split
        · exact h₁.setAll.retire
        · exact .ite h₁.raiseOpen (.ite h₁.setAll.retire h₁.claimSlots.setAll.retire)

theorem State.memoryWf.releaseSlots {t : Nat} {nums : List Nat} : (s.releaseSlots t nums).memoryWf := by
  unfold State.releaseSlots
  split
  · exact h
  · exact h.setCore.mapTeam

theorem Out.Wf.execVrel {p : Pre} {b : RegNo} : Out.Wf (execVrel p b s) := by
  unfold Machine.execVrel
  refine .act h fun h₁ => ?_
  dsimp only
  split
  · exact h₁.retire
  · exact .ite h₁.retire (.ite h₁.raiseOpen h₁.releaseSlots.retire)

theorem State.memoryWf.histKey {c base : Nat} : (s.histKey c base).1.memoryWf := by
  unfold State.histKey
  split
  · exact h
  · exact h.rest

theorem State.memoryWf.bind {e : Env} {id : Nat} {sp d : List Word} : (e.bind id sp d s).memoryWf := h.mapTeam

theorem State.memoryWf.applyVersion {e : Env} {id : Nat} {sp d : List Word} : (e.applyVersion id sp d s).memoryWf :=
  .ite h.histKey.mapTeam.rest.mapTeam h.histKey.mapTeam

theorem State.memoryWf.version {e : Env} {i : Instr} {id : Nat} {sp d : List Word} : (e.version i id sp d s).memoryWf := by
  unfold Env.version
  split
  · exact h.retire
  · split
    · exact h.hold
    · exact h.applyVersion.retire

theorem Out.Wf.execTlset {p : Pre} {a : RegNo} {id : Num} : Out.Wf (execTlset p a id s) := by
  unfold Machine.execTlset
  refine .act h fun h₁ => ?_
  dsimp only
  split
  · exact h₁.retire
  · split
    · exact h₁.retire
    · split
      · split
        · exact h₁.version
        · exact h₁.retire
      · split
        · exact h₁.raise
        · split
          · exact h₁.raise
          · split
            · split
              · split
                · exact h₁.version
                · exact h₁.retire
              · exact .ite h₁.raise h₁.bind.version
            · exact .ite h₁.hold h₁.bind.version

theorem State.memoryWf.seeTile {e : Env} {k : Option Tile} : (e.seeTile k s).memoryWf := by
  unfold Env.seeTile
  split
  · exact .ite h.acquire h
  · exact h

theorem Out.Wf.execTlst {p : Pre} {d b : RegNo} : Out.Wf (execTlst p d b s) := .act h fun h => .ite h.retire h.seeTile.setAll.retire

theorem Out.Wf.execTlwait {p : Pre} {d b : RegNo} : Out.Wf (execTlwait p d b s) := by
  unfold Machine.execTlwait
  refine .act h fun h₁ => ?_
  dsimp only
  split
  · exact h₁.retire
  · refine h₁.deliver fun h₂ => ?_
    split
    · exact h₂.hold
    · exact h₂.hold
    · exact h₂.hold
    · exact h₂.seeTile.setAll.retire

theorem Out.Wf.execTlfree {p : Pre} {b : RegNo} : Out.Wf (execTlfree p b s) := by
  unfold Machine.execTlfree
  refine .act h fun h₁ => ?_
  dsimp only
  split
  · exact h₁.retire
  · split
    · exact h₁.retire
    · exact .ite h₁.mapTeam.retire h₁.raiseOpen

theorem State.memoryWf.takeToken {e : Env} {d : RegNo} {m : Mask} {sc : Scope} {op : Nat} {body : Option Nat → State → State}
    (hbody : ∀ {x t1}, t1.memoryWf → (body x t1).memoryWf) :
    (e.takeToken d m sc op s body).memoryWf := by
  unfold Env.takeToken
  split
  · exact hbody h
  · split
    · rename_i heq
      have h₁ := State.memoryWf.of_fst (h.newToken) heq
      exact hbody h₁.setAll
    · rename_i heq
      have h₁ := State.memoryWf.of_fst (h.newToken) heq
      exact h.hold

theorem State.memoryWf.startCopy {e : Env} {i : Instr} {o : Copy} {kind : CopyKind} : (e.startCopy i o kind s).memoryWf := by
  unfold Env.startCopy
  dsimp only
  split
  · exact h.retire
  · split
    · exact h.raise
    · split
      · split
        · split
          · exact h.raiseOpen
          · split
            · exact h.raiseOpen
            · exact .ite h.raiseOpen (h.bump.takeToken (fun h => h.release.command.rest.mapTeam.retire))
        · split
          · exact h.raiseOpen
          · split
            · exact h.raiseOpen
            · exact .ite h.raiseOpen (h.bump.takeToken (fun h => h.release.command.rest.mapTeam.retire))
      · exact h.raiseOpen

theorem Out.Wf.execCpin {o : Copy} : Out.Wf (execCpin o s) := .act h fun h => h.startCopy
theorem Out.Wf.execCpout {o : Copy} : Out.Wf (execCpout o s) := .act h fun h => h.startCopy
theorem Out.Wf.execGth {o : Copy} : Out.Wf (execGth o s) := .act h fun h => h.startCopy
theorem Out.Wf.execSct {o : Copy} : Out.Wf (execSct o s) := .act h fun h => h.startCopy
theorem State.memoryWf.fenceWrites {t w : Nat} {m : Mask} : (s.fenceWrites t w m).memoryWf := h.mapTeam.mapWarp.rest
theorem Out.Wf.execOpfence {p : Pre} : Out.Wf (execOpfence p s) := .act h fun h => .ite h.retire (.ite h.hold h.fenceWrites.retire)

theorem State.memoryWf.putToken {e : Env} {m : Mask} {d : RegNo} {n : Nat} {k : Token} : (e.putToken m d n k s).memoryWf :=
  State.memoryWf_foldl _ (fun _ _ h => h.setList) _ h

theorem State.memoryWf.consume {e : Env} {v : Word} : (e.consume v s).memoryWf := h.mapSplit

theorem Out.Wf.execTkwait {p : Pre} {d a : RegNo} {n : BitVec 3} : Out.Wf (execTkwait p d a n s) := by
  unfold Machine.execTkwait
  refine .act h fun h₁ => ?_
  dsimp only
  split
  · exact h₁.retire
  · split
    · exact h₁.raise
    · exact h₁.deliver fun h => .ite h.hold h.seeToken.acquire.putToken.retire.consume

theorem Out.Wf.execTktest {p : Pre} {d a : RegNo} : Out.Wf (execTktest p d a s) := by
  unfold Machine.execTktest
  refine .act h fun h₁ => ?_
  dsimp only
  split
  · exact h₁.retire
  · split
    · exact h₁.raise
    · exact h₁.deliver fun h => .retire (.setAll (.ite h.seeToken.acquire h))

theorem Out.Wf.execTkfree {p : Pre} {a : RegNo} : Out.Wf (execTkfree p a s) := by
  unfold Machine.execTkfree
  refine .act h fun h₁ => ?_
  dsimp only
  split
  · exact h₁.retire
  · split
    · exact h₁.raise
    · exact h₁.retire.consume

/-! ### The CTL group -/

theorem Out.Wf.execFillWord : Out.Wf (execFillWord s) := by
  unfold Machine.execFillWord
  split
  · exact .fault _
  · exact .next h.bump.mapSplit

theorem Out.Wf.execNop {p : Pre} : Out.Wf (execNop p s) := .act h fun h => h.retire

theorem State.memoryWf.branchTo {e : Env} {i : Instr} {m : Mask} {tgt : DWord} {link : Bool} : (e.branchTo i m tgt link s).memoryWf := by
  unfold Env.branchTo
  split
  · exact h.raise
  · exact .goTo (.ite h.setPairs h)

theorem State.memoryWf.uniformTo {e : Env} {i : Instr} {p : Pre} {x : Word} {link : Bool} : (e.uniformTo i p x link s).memoryWf :=
  .ite h.retire (.ite h.raiseOpen h.branchTo)

theorem State.memoryWf.uniformBy {e : Env} {i : Instr} {p : Pre} {a : RegNo} {ua link ret : Bool} : (e.uniformBy i p a ua link ret s).memoryWf := by
  unfold Env.uniformBy
  dsimp only
  split
  · exact h.retire
  · split
    · exact h.raiseOpen
    · split
      · exact h.raiseOpen
      · split
        · split
          · exact h.bump.endSection
          · exact h
        · exact h.branchTo

theorem Out.Wf.execBraUniform {p : Pre} {x : Word} : Out.Wf (execBraUniform p x s) := .act h fun h => h.uniformTo
theorem Out.Wf.execBrx {p : Pre} {a : RegNo} {ua : Bool} : Out.Wf (execBrx p a ua s) := .act h fun h => h.uniformBy
theorem Out.Wf.execCall {p : Pre} {x : Word} : Out.Wf (execCall p x s) := .act h fun h => h.uniformTo
theorem Out.Wf.execCalx {p : Pre} {a : RegNo} {ua : Bool} : Out.Wf (execCalx p a ua s) := .act h fun h => h.uniformBy
theorem Out.Wf.execRet {p : Pre} {a : RegNo} {ua : Bool} : Out.Wf (execRet p a ua s) := .act h fun h => h.uniformBy

theorem State.memoryWf.divergent {e : Env} {i : Instr} {p : Pre} {x j : Word} : (e.divergent i p x j s).memoryWf := by
  unfold Env.divergent
  dsimp only
  split
  · exact h.retire
  · split
    · exact h.raise
    · exact h.raise
    · split
      · exact h.goTo
      · split
        · exact h.bump.mapStrand
        · exact .ite h.raiseOpen h.bump.mapSplit

theorem Out.Wf.execBraDivergent {p : Pre} {x j : Word} : Out.Wf (execBraDivergent p x j s) := .act h fun h => h.divergent
theorem State.memoryWf.arrive {e : Env} {key : Nat} {sw : Bool} : (e.arrive key sw s).memoryWf := h.bump.mapStrand

theorem State.memoryWf.joinRecord {e : Env} {i : Instr} {sw : Bool} : (e.joinRecord i sw s).memoryWf := by
  unfold Env.joinRecord
  split
  · exact .ite h.arrive h.retire
  · exact h.retire

theorem Out.Wf.execJoin {p : Pre} : Out.Wf (execJoin p s) := by
  unfold Machine.execJoin
  refine .act h fun h₁ => ?_
  split
  · exact .ite (.ite h₁.mapSplit.goTo h₁.mapSplit.retire) h₁.joinRecord
  · exact h₁.joinRecord

theorem State.memoryWf.endHandler {t w : Nat} : (s.endHandler t w).memoryWf := .ite h.resumeWarp h

theorem State.memoryWf.exitThreads {w : Who} {m : Mask} : (s.exitThreads w m).memoryWf := by
  unfold State.exitThreads
  split
  · exact h.removeThreads
  · exact h.mapStrand.removeThreads.endHandler
  · exact h.endSection
  · exact .ite h.mapStrand.setLc h.mapStrand

theorem Out.Wf.execExit {p : Pre} : Out.Wf (execExit p s) := by
  unfold Machine.execExit
  refine .act h fun h₁ => ?_
  dsimp only
  split
  · exact h₁.retire
  · split
    · exact h₁.retire.exitThreads.mapSplit
    · exact h₁.deliver (fun h => .ite h.hold (h.drain (fun h => h.release) (fun h => h.retire.exitThreads.mapSplit)))

theorem Out.Wf.execTrap {p : Pre} {code : Byte} : Out.Wf (execTrap p code s) := .act h fun h => .ite h.retire h.raiseAfter

theorem Out.Wf.execBrk {p : Pre} {tag : BitVec 7} : Out.Wf (execBrk p tag s) :=
  .act h fun h => .ite h.retire (.ite h.retire.debugReport.debugStop h.retire.eventRecord)

theorem Out.Wf.execYieldw {p : Pre} : Out.Wf (execYieldw p s) := .act h fun h => h.retire
theorem Out.Wf.execWait {p : Pre} {n : Num} : Out.Wf (execWait p n s) := .act h fun h => .ite h.retire h.hold
theorem Out.Wf.execProg {p : Pre} {n : Num} : Out.Wf (execProg p n s) := .act h fun h => .ite h.retire h.setCtx.retire

/-! ### The SYNC group -/

theorem State.memoryWf.setBarrier {e : Env} {lvl : Level} {id : Nat} {b : Barrier} : (s.setBarrier e lvl id b).memoryWf := by
  unfold State.setBarrier
  dsimp only
  split
  · exact h.mapTeam
  · exact h.rest
  · exact h.rest
  · exact h.setCtx

theorem State.memoryWf.atBarrier {e : Env} {lvl : Level} {id : Nat} {body : State → State} (hbody : ∀ {t}, t.memoryWf → (body t).memoryWf) :
    (e.atBarrier lvl id s body).memoryWf := by
  unfold Env.atBarrier
  split
  · exact h.raise
  · exact hbody h

theorem State.memoryWf.arriveAll {e : Env} {m : Mask} {lvl : Level} {id : Nat} {rmask : Byte} : (s.arriveAll e m lvl id rmask).memoryWf :=
  h.setBarrier.settleBarriers

theorem State.memoryWf.beforeArrival {e : Env} {m : Mask} {lvl : Level} {id : Nat} {body : State → State} (hbody : ∀ {t}, t.memoryWf →
    (body t).memoryWf) :
    (e.beforeArrival m lvl id s body).memoryWf :=
  .ite (h.drain (fun h => h.release) (fun h => hbody h)) h.hold

theorem Out.Wf.execBara {p : Pre} {d : RegNo} {id : Num} {lvl : Level} {rmask : Byte} : Out.Wf (execBara p d id lvl rmask s) :=
  .act h (fun h => .ite h.retire (h.atBarrier (fun h => h.beforeArrival (fun h => h.setAll.retire.arriveAll))))

theorem State.memoryWf.awaitPhases {e : Env} {i : Instr} {m : Mask} {d : RegNo} {lvl : Level} {id : Nat} {arrived : Bool} {p : Nat → Nat} :
    (e.awaitPhases i m d lvl id arrived p s).memoryWf :=
  .ite h.acquire.setAll.retire h.hold

theorem Out.Wf.execBarw {p : Pre} {d a : RegNo} : Out.Wf (execBarw p d a s) :=
  .act h (fun h => .ite h.retire (h.atBarrier (fun h => h.awaitPhases)))

theorem Out.Wf.execBars {p : Pre} {d : RegNo} {id : Num} {lvl : Level} {rmask : Byte} : Out.Wf (execBars p d id lvl rmask s) := by
  unfold Machine.execBars
  refine .act h fun h₁ => ?_
  dsimp only
  split
  · exact h₁.retire
  · split
    · exact h₁.awaitPhases
    · exact h₁.atBarrier (fun h => h.beforeArrival (fun h => h.arriveAll.awaitPhases))

theorem State.memoryWf.mapQueue {l q : Nat} {f : Queue → Queue} : (s.mapQueue l q f).memoryWf := h.rest

theorem State.memoryWf.elementRead {e : Env} {key : Nat} {ps : List Piece} : (s.elementRead e key ps).1.memoryWf := by
  unfold State.elementRead
  dsimp only
  split
  · rename_i heq
    have h₁ := State.memoryWf.of_fst (h.gatherAfter) heq
    exact h₁
  · rename_i heq
    have h₁ := State.memoryWf.of_fst (h.gatherAfter) heq
    exact h₁.rest

theorem State.memoryWf.elementRange {e : Env} {push spm : Bool} {addr : DWord} {n : Nat} {body : List Piece → State → State}
    (hbody : ∀ {x t1}, t1.memoryWf → (body x t1).memoryWf) :
    (e.elementRange push spm addr n s body).memoryWf :=
  .ite h.raise (.ite (.ite h.raise (.ite h.raise (hbody h))) (h.envSpace.tryAll.checked (fun h => hbody h)))

theorem State.memoryWf.touchElement {e : Env} {push : Bool} {ps : List Piece} : (e.touchElement push ps s).1.memoryWf := by
  unfold Env.touchElement
  split
  · rename_i heq
    have h₁ := State.memoryWf.of_fst (h.touchAll) heq
    exact h₁
  · rename_i heq
    have h₁ := State.memoryWf.of_fst (h.touchAll) heq
    exact h₁

theorem State.memoryWf.headWords {q : Queue} : (s.headWords q).1.memoryWf := by
  unfold State.headWords
  dsimp only
  split
  · exact h.spend
  · exact h

theorem State.memoryWf.queueDone {e : Env} {i : Instr} {d : RegNo} {v : Word} : (e.queueDone i d v s).memoryWf := h.setAll.retire

theorem State.memoryWf.queueFor {e : Env} {q : Nat} {push : Bool} {body : Nat → Queue → State → State} (hbody : ∀ {x x1 t2}, t2.memoryWf →
    (body x x1 t2).memoryWf) :
    (e.queueFor q push s body).memoryWf := by
  unfold Env.queueFor
  split
  · exact h.raise
  · split
    · exact .ite (hbody h) h.raise
    · exact h.raise

theorem State.memoryWf.queueTry {e : Env} {i : Instr} {d : RegNo} {l q : Nat} {x : Queue} {push nb : Bool} {move : State → State}
    (hmove : ∀ {t}, t.memoryWf → (move t).memoryWf) :
    (e.queueTry i d l q x push nb move s).memoryWf :=
  .ite h.queueDone (.ite (hmove h) (.ite h.queueDone h.mapQueue.hold))

theorem State.memoryWf.putElement {e : Env} {p : Pre} {spm : Bool} {addr : DWord} {ps : List Piece} {bs : List Byte} :
    (e.putElement p spm addr ps bs s).memoryWf :=
  .ite h.spadWrite (State.memoryWf_foldl _ (fun _ _ h => h.storePiece) _ h)

theorem State.memoryWf.farQueue {e : Env} {i : Instr} {p : Pre} {d : RegNo} {q : BitVec 4} {push spm nb : Bool} {addr : DWord} :
    (e.farQueue i p d q push spm nb addr s).memoryWf := by
  unfold Env.farQueue
  dsimp only
  split
  · exact h.spend.raise
  · refine h.spend.elementRange fun h₁ => ?_
    split
    · exact h₁.queueDone
    · split
      · exact .ite h₁.queueDone h₁.hold
      · split
        · split
          · exact h₁.raise
          · exact h₁.touchElement.queueDone
        · exact h₁.touchElement.spend.putElement.acquire.queueDone

theorem Out.Wf.execQpush {p : Pre} {d a : RegNo} {q : BitVec 4} {spm nb : Bool} : Out.Wf (execQpush p d a q spm nb s) := by
  unfold Machine.execQpush
  refine .act h fun h₁ => ?_
  dsimp only
  split
  · exact h₁.retire
  · split
    · exact .ite h₁.farQueue (h₁.drain (fun h => h.release) (fun h => h.farQueue))
    · refine h₁.queueFor (fun h₂ => h₂.elementRange (fun h₃ => ?_))
      split
      · refine h₃.queueTry fun h₄ => ?_
        split
        · exact h₄.raise
        · split
          · refine .hold ?_
            split
            · exact h₄.touchElement
            · exact h₄.touchElement.elementRead
          · refine .queueDone (.spend (.mapQueue ?_))
            split
            · exact h₄.touchElement
            · exact h₄.touchElement.elementRead
      · refine h₃.drain (fun h => h.release) (fun h₄ => h₄.queueTry (fun h₅ => ?_))
        split
        · exact h₅.raise
        · split
          · refine .hold ?_
            split
            · exact h₅.touchElement
            · exact h₅.touchElement.elementRead
          · refine .queueDone (.spend (.mapQueue ?_))
            split
            · exact h₅.touchElement
            · exact h₅.touchElement.elementRead

theorem Out.Wf.execQpop {p : Pre} {d a : RegNo} {q : BitVec 4} {spm nb : Bool} : Out.Wf (execQpop p d a q spm nb s) := by
  unfold Machine.execQpop
  refine .act h fun h₁ => ?_
  dsimp only
  split
  · exact h₁.retire
  · split
    · exact h₁.farQueue
    · refine h₁.queueFor (fun h₂ => h₂.elementRange (fun h₃ => ?_))
      split
      · exact h₃.queueTry fun h => .ite h.raiseOpen h.touchElement.headWords.mapQueue.putElement.acquire.queueDone
      · exact h₃.ordered (fun h => h.queueTry (fun h => .ite h.raiseOpen h.touchElement.headWords.mapQueue.putElement.acquire.queueDone))

theorem Out.Wf.execRgive {p : Pre} {n : Num} : Out.Wf (execRgive p n s) :=
  .act h fun h => .ite h.retire (.ite h.raise (.ite h.raiseOpen (.ite h.hold h.mapWarp.mapTeam.retire)))

theorem Out.Wf.execRclaim {p : Pre} {d : RegNo} {n : Num} {nb : Bool} : Out.Wf (execRclaim p d n nb s) := by
  unfold Machine.execRclaim
  refine .act h fun h₁ => ?_
  dsimp only
  split
  · exact h₁.retire
  · split
    · exact h₁.raise
    · split
      · exact .ite h₁.raise h₁.setAll.retire
      · split
        · exact .ite (.ite h₁.raise h₁.setAll.retire) (.ite h₁.raise h₁.mapTeam.hold)
        · exact .ite h₁.raise h₁.mapTeam.mapWarp.setAll.retire

theorem Out.Wf.execSint {p : Pre} {a : RegNo} {svc : Bool} : Out.Wf (execSint p a svc s) := by
  unfold Machine.execSint
  refine .act h fun h₁ => ?_
  dsimp only
  split
  · exact h₁.retire
  · exact h₁.drain (fun h => h.release) (fun h => .ite h.hold (.ite h.serviceEvent.retire (.retire (.hostEvent (.ite h.setCtx h)))))

/-! ### Tile tasks -/

theorem Out.Wf.execPost {p : Pre} {d a : RegNo} {sc : Scope} : Out.Wf (execPost p d a sc s) := by
  unfold Machine.execPost
  refine .act h (fun h₁ => h₁.readRecord (fun h₂ => ?_))
  dsimp only
  split
  · exact h₂.retire
  · split
    · exact h₂.raise
    · exact h₂.bump.takeToken fun h => h.release.command.rest.mapTeam.retire

theorem Out.Wf.execTaskIssue {core : Nat} : Out.Wf (execTaskIssue core s) := by
  unfold Machine.execTaskIssue
  split
  · exact .next h.bump
  · exact .next h.bump.spend.rest

theorem State.memoryWf.putSpoiled {k : Task} : (s.putSpoiled k).memoryWf := .ite h h.mapWarp.spend

theorem State.memoryWf.finishTask {key : Nat} : (s.finishTask key).memoryWf := by
  unfold State.finishTask
  split
  · exact h
  · exact .endTeam (.drainHeld (.ite h.putSpoiled.mapTeam.rest.completeToken.leaveAccs h.putSpoiled.mapTeam.rest.completeToken))

theorem State.memoryWf.failTask {key : Nat} {k : Task} {va : DWord} : (s.failTask key k va).memoryWf := h.abortTask.putSpoiled.rest.defer

theorem State.memoryWf.faultTask {key : Nat} {k : Task} {va cause level : Nat} : (s.faultTask key k va cause level).memoryWf :=
  h.abortTask.engineFault.rest

theorem State.memoryWf.landTaskByte {k : Task} {x : Team} {i : Nat} : (s.landTaskByte k x i).memoryWf := by
  unfold State.landTaskByte
  split
  · exact h
  · split
    · exact h.mapTeam
    · exact h

theorem Out.Wf.execTaskComplete {key : Nat} {stop : Stop} : Out.Wf (execTaskComplete key stop s) := by
  unfold Machine.execTaskComplete
  split
  · exact .next h.bump
  · split
    · exact .next h.bump.rest
    · split
      · exact .next h.bump
      · split
        · exact .next h.bump.failTask
        · exact .next h.bump.faultTask
        · exact .next h.bump.landTaskByte
        · split
          · dsimp only
            split
            · exact .next (.finishTask (.rest (.spend (.bump (.ite h.putAccs h.mapTeam.pruneBytes)))))
            · split
              · exact .next h.putAccs.bump.spend.rest
              · exact .next h.mapTeam.pruneBytes.bump.spend.rest.mapTeam

/-! ### The WARP group -/

theorem State.memoryWf.laterWide {e : Env} {m : Mask} {d : RegNo} {wide : Bool} {f : Nat → DWord} : (e.laterWide m d wide f s).memoryWf :=
  .ite h.later.later h.later

theorem Out.Wf.execShfl {o : Alu} : Out.Wf (execShfl o s) := .runAlu h fun h => h.laterWide.retire
theorem Out.Wf.execVote {o : Alu} : Out.Wf (execVote o s) := .runAlu h fun h => h.finish
theorem Out.Wf.execBal {o : Alu} : Out.Wf (execBal o s) := .runAlu h fun h => h.finish
theorem Out.Wf.execRedw {o : Alu} : Out.Wf (execRedw o s) := .runAlu h fun h => h.finishFloat
theorem Out.Wf.execScanw {o : Alu} : Out.Wf (execScanw o s) := .runAlu h fun h => h.finishFloat
theorem Out.Wf.execBcast {o : Alu} : Out.Wf (execBcast o s) := .runAlu h fun h => h.finish
theorem Out.Wf.execMatchw {o : Alu} : Out.Wf (execMatchw o s) := .runAlu h fun h => h.finish

/-! ### Copy engines -/

theorem State.memoryWf.setCopy {key : Nat} {c : CopyOp} : (s.setCopy key c).memoryWf := h.rest

theorem State.memoryWf.failCopy {key : Nat} {c : CopyOp} {va : DWord} : (s.failCopy key c va).memoryWf := by
  unfold State.failCopy
  dsimp only
  split
  · exact h.rest.setCopy.defer
  · exact h.rest.setCopy

theorem State.memoryWf.finishCopy {key : Nat} {c : CopyOp} : (s.finishCopy key c).memoryWf := by
  unfold State.finishCopy
  dsimp only
  split
  · exact h.rest.setCopy
  · exact h.rest.mapTeam.completeToken.endTeam

theorem State.memoryWf.faultCopy {key : Nat} {c : CopyOp} {k : Kind} {va cause level asid : Nat} :
    (s.faultCopy key c k va cause level asid).memoryWf :=
  h.rest.engineFault.setCopy

theorem State.memoryWf.copyReach {key : Nat} {c : CopyOp} {k : Kind} {ws : List Want} {body : List Piece → State → State}
    (hbody : ∀ {x t1}, t1.memoryWf → (body x t1).memoryWf) :
    (s.copyReach key c k ws body).memoryWf := by
  unfold State.copyReach
  split
  · rename_i heq
    have h₁ := State.memoryWf.of_fst (h.engineSpace) heq
    split
    · rename_i heq
      have h₂ := State.memoryWf.of_fst (h₁.reach) heq
      exact hbody h₂
    · rename_i heq
      have h₂ := State.memoryWf.of_fst (h₁.reach) heq
      exact h₂.failCopy
    · rename_i heq
      have h₂ := State.memoryWf.of_fst (h₁.reach) heq
      exact h₂.faultCopy

theorem State.memoryWf.copyRead {key : Nat} {c : CopyOp} {stop : Stop} {ws : List Want} {body : (Nat → List Byte) → State → State}
    (hbody : ∀ {x t1}, t1.memoryWf → (body x t1).memoryWf) :
    (s.copyRead key c stop ws body).memoryWf := by
  unfold State.copyRead
  refine h.copyReach fun h₁ => ?_
  split
  · rename_i heq
    have h₂ := State.memoryWf.of_fst (h₁.gatherBy) heq
    exact hbody h₂
  · rename_i heq
    have h₂ := State.memoryWf.of_fst (h₁.gatherBy) heq
    exact h₂

theorem State.memoryWf.copyWrite {key : Nat} {c : CopyOp} {stop : Stop} {ws : List Want} {bytes : Nat → List Byte} :
    (s.copyWrite key c stop ws bytes).memoryWf := by
  unfold State.copyWrite
  refine h.copyReach fun h₁ => ?_
  split
  · split
    · exact h₁.putPiece.setCopy
    · exact h₁
  · exact .ite h₁.putPieces.setCopy h₁.putPieces.finishCopy

theorem State.memoryWf.copyRows {key : Nat} {c : CopyOp} {stop : Stop} {body : List RowAt → Nat → State → State} (hbody : ∀ {x x1 t2}, t2.memoryWf →
    (body x x1 t2).memoryWf) :
    (s.copyRows key c stop body).memoryWf := by
  unfold State.copyRows
  split
  · exact h.copyRead fun h => hbody h
  · exact h.copyRead fun h => hbody h
  · exact hbody h

theorem State.memoryWf.landByte {key t : Nat} {c : CopyOp} {ps : List Piece} {i : Nat} : (s.landByte key t c ps i).memoryWf := by
  unfold State.landByte
  dsimp only
  split
  · split
    · exact h.mapTeam
    · exact h
  · exact h

theorem State.memoryWf.runCopy {key : Nat} {c : CopyOp} {stop : Stop} {t : Nat} : (s.runCopy key c stop t).memoryWf := by
  unfold State.runCopy
  split
  · exact h
  · refine h.copyRows fun h₁ => ?_
    dsimp only
    split
    · split
      · exact h₁.copyReach fun h => .ite h.fetchPart h.landByte
      · exact h₁.copyRead fun h => h.mapTeam.pruneBytes.spend.finishCopy
    · exact h₁.spend.copyWrite

theorem State.memoryWf.stepCopy {key : Nat} {c : CopyOp} {stop : Stop} {work : State → State} (hwork : ∀ {t}, t.memoryWf → (work t).memoryWf) :
    (s.stepCopy key c stop work).memoryWf := by
  unfold State.stepCopy
  dsimp only
  split
  · exact .ite h h.failCopy
  · exact .ite h (.ite h.finishCopy (hwork h))
  · exact .ite h (hwork h)
  · exact h

theorem Out.Wf.execCopyComplete {key : Nat} {stop : Stop} : Out.Wf (execCopyComplete key stop s) := by
  unfold Machine.execCopyComplete
  split
  · split
    · exact .next h.bump
    · refine .next (h.bump.stepCopy (fun h₁ => ?_))
      split
      · exact h₁.runCopy
      · exact h₁
  · exact .next h.bump

theorem State.memoryWf.awaitOp {e : Env} {i : Instr} {d : RegNo} {m : Mask} {key : Nat} {sc : Scope} {status : Option Word} :
    (e.awaitOp i d m key sc status s).memoryWf := by
  unfold Env.awaitOp
  split
  · exact h.acquire.rest.setAll.retire
  · exact h.hold

theorem Out.Wf.execCpmm {o : Cpmm} : Out.Wf (execCpmm o s) := by
  unfold Machine.execCpmm
  refine .act h fun h₁ => ?_
  dsimp only
  split
  · exact h₁.retire
  · split
    · exact .ite h₁.awaitOp h₁.retire
    · split
      · exact h₁.raise
      · refine h₁.bump.takeToken fun h₂ => ?_
        split
        · exact .retire (.ite h₂.release.command.setAll h₂.release.command.completeToken)
        · exact .ite h₂.release.command.setCopy.hold h₂.release.command.setCopy.retire

theorem State.memoryWf.movePart {key : Nat} {c : CopyOp} {ps qs : List Piece} {n : Nat} : (s.movePart key c ps qs n).memoryWf := by
  unfold State.movePart
  split
  · exact h
  · split
    · exact h.putPiece.setCopy
    · exact h

theorem State.memoryWf.runCpmm {key : Nat} {c : CopyOp} {stop : Stop} : (s.runCpmm key c stop).memoryWf := by
  unfold State.runCpmm
  dsimp only
  split
  · exact h.copyReach (fun h => .ite h.fetchPart (h.copyReach (fun h => h.movePart)))
  · exact h.copyRead fun h => h.copyWrite

theorem Out.Wf.execCpmmComplete {key : Nat} {stop : Stop} : Out.Wf (execCpmmComplete key stop s) := by
  unfold Machine.execCpmmComplete
  split
  · split
    · exact .next (h.bump.stepCopy (fun h => h.runCpmm))
    · exact .next h.bump
  · exact .next h.bump

theorem Out.Wf.execColl {o : Coll} : Out.Wf (execColl o s) := by
  unfold Machine.execColl
  refine .act h fun h₁ => ?_
  dsimp only
  split
  · exact h₁.retire
  · split
    · exact .ite h₁.awaitOp h₁.retire
    · split
      · exact h₁.raise
      · split
        · exact h₁.raise
        · split
          · exact h₁.raise
          · split
            · exact h₁.raise
            · exact h₁.bump.takeToken fun h => .ite h.release.command.rest.hold h.release.command.rest.retire

theorem State.memoryWf.setColl {key : Nat} {c : CollOpn} : (s.setColl key c).memoryWf := h.rest

theorem State.memoryWf.sendColl {c : CollOpn} {own : List Byte} {failed : Bool} : (s.sendColl c own failed).memoryWf := by
  unfold State.sendColl
  split
  · exact State.memoryWf_foldl _ (fun _ _ h => h.inject) _ h
  · exact h

theorem State.memoryWf.dropColl {key : Nat} {c : CollOpn} : (s.dropColl key c).memoryWf := h.rest

theorem State.memoryWf.finishColl {key : Nat} {c : CollOpn} {status : Word} : (s.finishColl key c status).memoryWf := by
  unfold State.finishColl
  dsimp only
  split
  · exact .setColl (.dropColl (.ite h.sendColl h))
  · exact .endTeam (.completeToken (.rest (.dropColl (.ite h.sendColl h))))

theorem State.memoryWf.failColl {key : Nat} {c : CollOpn} {va : DWord} : (s.failColl key c va).memoryWf := by
  unfold State.failColl
  dsimp only
  split
  · exact h.sendColl.dropColl.setColl.defer
  · exact h.sendColl.dropColl.setColl

theorem State.memoryWf.collReach {key : Nat} {c : CollOpn} {k : Kind} {va n : Nat} {body : List Piece → State → State}
    (hbody : ∀ {x t1}, t1.memoryWf → (body x t1).memoryWf) :
    (s.collReach key c k va n body).memoryWf := by
  unfold State.collReach
  split
  · rename_i heq
    have h₁ := State.memoryWf.of_fst (h.engineSpace) heq
    split
    · rename_i heq
      have h₂ := State.memoryWf.of_fst (h₁.reach) heq
      exact hbody h₂
    · rename_i heq
      have h₂ := State.memoryWf.of_fst (h₁.reach) heq
      exact h₂.failColl
    · rename_i heq
      have h₂ := State.memoryWf.of_fst (h₁.reach) heq
      exact h₂.rest.engineFault.setColl

theorem State.memoryWf.collWrite {key : Nat} {c : CollOpn} {stop : Stop} {status : Word} {lost : Bool} {bs : List Byte} :
    (s.collWrite key c stop status lost bs).memoryWf := by
  unfold State.collWrite
  refine h.collReach fun h₁ => ?_
  dsimp only
  split
  · split
    · exact h₁.putPiece.spend.setColl
    · exact h₁
  · exact .ite h₁.putPieces.spend.setColl h₁.putPieces.spend.finishColl

theorem State.memoryWf.readColl {key : Nat} {c : CollOpn} {stop : Stop} : (s.readColl key c stop).memoryWf := by
  unfold State.readColl
  refine h.collReach fun h₁ => ?_
  split
  · rename_i heq
    have h₂ := State.memoryWf.of_fst (h₁.gatherBy) heq
    exact h₂
  · rename_i heq
    have h₂ := State.memoryWf.of_fst (h₁.gatherBy) heq
    exact h₂.sendColl.setColl

theorem State.memoryWf.runColl {key : Nat} {c : CollOpn} {stop : Stop} {peers : List CollPart} : (s.runColl key c stop peers).memoryWf := by
  unfold State.runColl
  split
  · exact h.collWrite
  · split
    · exact h.readColl
    · exact .ite h.finishColl (.ite h.collWrite h)

theorem State.memoryWf.loseColl {key : Nat} {c : CollOpn} : (s.loseColl key c).memoryWf := h.rest.setColl

theorem Out.Wf.execCollectiveComplete {key : Nat} {stop : Stop} {peers : List CollPart} : Out.Wf (execCollectiveComplete key stop peers s) := by
  unfold Machine.execCollectiveComplete
  split
  · exact .next h.bump
  · dsimp only
    split
    · exact .next h.bump
    · split
      · exact .next h.bump.failColl
      · exact .next h.bump.loseColl
      · split
        · exact .next h.bump
        · split
          · exact .next h.bump.finishColl
          · exact .next h.bump.runColl
      · split
        · exact .next h.bump
        · exact .next h.bump.runColl

/-! ### Forecast tiles -/

theorem State.memoryWf.setHist {k : Nat} {z : Hist} : (s.setHist k z).memoryWf := h.rest
theorem State.memoryWf.setCheck {k : Nat} {c : Check} : (s.setCheck k c).memoryWf := h.rest
theorem State.memoryWf.failPrediction {key : Nat} {c : Check} {va : DWord} : (s.failPrediction key c va).memoryWf := h.rest.mapTeam.defer

theorem State.memoryWf.writePrediction {key : Nat} {c : Check} {k : Tile} : (s.writePrediction key c k).memoryWf :=
  h.mapTeam.pruneBytes.spend.setCheck

theorem State.memoryWf.predict {key : Nat} {c : Check} {k : Tile} : (s.predict key c k).memoryWf := by
  unfold State.predict
  dsimp only
  split
  · rename_i heq
    have h₁ := State.memoryWf.of_fst (h.engineSpace.reach) heq
    exact h₁.writePrediction
  · rename_i heq
    have h₁ := State.memoryWf.of_fst (h.engineSpace.reach) heq
    exact h₁.failPrediction
  · rename_i heq
    have h₁ := State.memoryWf.of_fst (h.engineSpace.reach) heq
    exact h₁.engineFault.setCheck

theorem State.memoryWf.faultPrediction {key : Nat} {c : Check} {va cause level : Nat} : (s.faultPrediction key c va cause level).memoryWf :=
  h.engineFault.setCheck

theorem Out.Wf.execForecastPrediction {check : Nat} {stop : Stop} : Out.Wf (execForecastPrediction check stop s) := by
  unfold Machine.execForecastPrediction
  split
  · exact .next h.bump
  · split
    · exact .next h.bump.rest
    · split
      · exact .next h.bump.rest
      · split
        · exact .next h.bump
        · split
          · exact .next h.bump.failPrediction
          · exact .next h.bump.predict
          · split
            · exact .next h.bump
            · exact .next h.bump.faultPrediction
          · exact .next h.bump

theorem State.memoryWf.publish {hk : Nat} {v : Word} : (s.publish hk v).memoryWf := h.rest

theorem State.memoryWf.mirror {hk die : Nat} {planes : List (Nat × Nat)} : (s.mirror hk die planes).memoryWf := by
  have put {t : State} {sp : Space} {o : Origin} {va : Nat} {bs : List Byte} (h : t.memoryWf) :
      (match t.reach sp .engineWrite [{ thread := 0, va := va, bytes := bs.length }] with
        | (s, .ok ps) => if ps.any fun p => p.at_.dev = s.dev && hbmEnd ≤ p.at_.pa then s else s.putPieces o 8 [] ps fun _ => bs
        | (s, _) => s).memoryWf := by
    split
    · rename_i heq
      have h₁ := State.memoryWf.of_fst h.reach heq
      exact .ite h₁ h₁.putPieces
    · rename_i heq
      exact State.memoryWf.of_fst h.reach heq
  exact State.memoryWf_foldl _ (fun _ _ h => put h) _ (put h.engineSpace)

theorem State.memoryWf.failCapture {hk die cause : Nat} {va : DWord} : (s.failCapture hk die cause va).memoryWf := h.rest.setHist.mirror

theorem State.memoryWf.runCapture {hk : Nat} {z : Hist} {v : Word} {w : Who} {stop : Stop} : (s.runCapture hk z v w stop).memoryWf := by
  unfold State.runCapture
  dsimp only
  split
  · rename_i heq
    have h₁ := State.memoryWf.of_fst (h.engineSpace.reach) heq
    exact h₁.failCapture
  · rename_i heq
    have h₁ := State.memoryWf.of_fst (h.engineSpace.reach) heq
    exact h₁.engineFault.setHist
  · rename_i heq
    have h₁ := State.memoryWf.of_fst (h.engineSpace.reach) heq
    split
    · rename_i heq
      have h₂ := State.memoryWf.of_fst (h₁.reach) heq
      exact h₂.failCapture
    · rename_i heq
      have h₂ := State.memoryWf.of_fst (h₁.reach) heq
      exact h₂.engineFault.setHist
    · rename_i heq
      have h₂ := State.memoryWf.of_fst (h₁.reach) heq
      split
      · rename_i heq
        have h₃ := State.memoryWf.of_fst (h₂.gatherBy) heq
        exact h₃
      · rename_i heq
        have h₃ := State.memoryWf.of_fst (h₂.gatherBy) heq
        exact h₃
      · rename_i heq
        have h₃ := State.memoryWf.of_fst (h₂.gatherBy) heq
        exact h₃.rest.setHist.publish.mirror

theorem State.memoryWf.loseCapture {hk : Nat} {w : Who} {va : DWord} : (s.loseCapture hk w va).memoryWf := by
  unfold State.loseCapture
  dsimp only
  split
  · exact h.failCapture.bump.defer
  · exact h.failCapture.bump.defer
  · exact h.failCapture

theorem Out.Wf.execForecastCapture {hist : Nat} {stop : Stop} : Out.Wf (execForecastCapture hist stop s) := by
  unfold Machine.execForecastCapture
  split
  · exact .next h.bump
  · split
    · split
      · exact .next h.bump.loseCapture
      · exact .next h.bump
      · split
        · exact .next h.bump
        · exact .next h.bump.runCapture
    · exact .next h.bump

theorem State.memoryWf.dropCheck {t x : Nat} : (s.dropCheck t x).memoryWf := h.mapTeam.rest
theorem State.memoryWf.commitTasks {t : Nat} : (s.commitTasks t).memoryWf := State.memoryWf_foldl _ (fun _ _ h => h.finishTask) _ h
theorem State.memoryWf.passCheck {x : Nat} {c : Check} : (s.passCheck x c).memoryWf := h.setHist.mirror.dropCheck.mapTeam.commitTasks.drainHeld

theorem State.memoryWf.repost {key : Nat} {k : Task} : (s.repost key k).memoryWf := by
  unfold State.repost
  dsimp only
  split
  · exact h.rest
  · exact h.rest.mapTeam

theorem State.memoryWf.squash {x : Nat} {c : Check} {k : Tile} {plane : Sparse Byte} : (s.squash x c k plane).memoryWf :=
  .drainHeld (.spend (.pruneBytes (.mapTeam (.dropCheck (State.memoryWf_foldl _ (fun _ _ h => h.repost) _ (State.memoryWf_foldl _
    (fun _ _ h => .ite h.putAccs h) _ h.setHist.count.mirror))))))

theorem Out.Wf.execTceCheck {check : Nat} : Out.Wf (execTceCheck check s) := by
  unfold Machine.execTceCheck
  split
  · exact .next h.bump
  · split
    · split
      · exact .next h.bump.rest
      · split
        · exact .next h.bump
        · dsimp only
          split
          · exact .next h.bump.spend.passCheck
          · exact .next h.bump.spend.squash
    · exact .next h.bump.rest

theorem State.memoryWf.holdCapture {e : Env} {hk : Nat} {d : List Word} : (e.holdCapture hk d s).memoryWf := h.hold.mapSplit

theorem Out.Wf.execFcset {p : Pre} {a : RegNo} {desc : Num} : Out.Wf (execFcset p a desc s) := by
  unfold Machine.execFcset
  refine .act h fun h₁ => ?_
  dsimp only
  split
  · exact h₁.retire
  · split
    · exact h₁.raise
    · exact .ite h₁.histKey.holdCapture (.ite h₁.histKey.raise h₁.histKey.setHist.mirror.retire)

theorem State.memoryWf.startCapture {e : Env} {n hk : Nat} {v : Word} {d : List Word} : (e.startCapture n hk v d s).memoryWf :=
  h.release.command.setHist.hold

theorem Out.Wf.execFcpub {p : Pre} {a b : RegNo} : Out.Wf (execFcpub p a b s) := by
  unfold Machine.execFcpub
  refine .act h fun h₁ => ?_
  dsimp only
  split
  · exact h₁.retire
  · split
    · split
      · exact h₁.hold
      · exact .ite h₁.setHist.retire h₁.setHist.raise
    · split
      · exact .ite h₁.setHist.retire h₁.setHist.raise
      · exact h₁.raiseOpen
      · split
        · exact h₁.histKey.holdCapture
        · exact .ite h₁.histKey.retire (.ite h₁.histKey.raiseOpen h₁.histKey.startCapture)

theorem Out.Wf.execFcstat {p : Pre} {d b : RegNo} : Out.Wf (execFcstat p d b s) :=
  .act h (fun h => .retire (State.memoryWf_foldl _ (fun _ _ h => h.setList) _ h))

/-! ### Shipped critical sections -/

theorem State.memoryWf.placeRequest {e : Env} {o : Ship} {m : Mask} {ret : Word} {p : Piece} : (e.placeRequest o m ret p s).1.memoryWf :=
  h.command.setCore.count

theorem State.memoryWf.placeAll {e : Env} {o : Ship} {m : Mask} {ret : Word} {ps : List Piece} : (e.placeAll o m ret ps s).1.memoryWf :=
  .foldl_fst h fun _ _ h => h.placeRequest

theorem State.memoryWf.shipToken {e : Env} {o : Ship} {sc : Scope} : (e.shipToken o sc s).1.memoryWf := by
  unfold Env.shipToken
  split
  · exact h
  · exact h.newToken

theorem State.memoryWf.sendShip {e : Env} {o : Ship} {m : Mask} {ps : List Piece} : (e.sendShip o m ps s).memoryWf := by
  unfold Env.sendShip
  dsimp only
  split
  · split
    · exact h.shipToken.bump.placeAll.retire
    · exact h.shipToken.bump.placeAll.mapTeam.setAll.retire
  · exact h.placeAll.mapSplit.hold

theorem State.memoryWf.putResults {e : Env} {o : Ship} : (e.putResults o s).memoryWf :=
  State.memoryWf_foldl _ (fun _ _ h => .ite (.set (.ite h.setList h)) (.ite h.setList h)) _ h

theorem Out.Wf.execShip {o : Ship} : Out.Wf (execShip o s) := by
  unfold Machine.execShip
  refine .act h fun h₁ => ?_
  dsimp only
  split
  · exact .ite h₁.acquire.putResults.mapSplit.retire h₁.hold
  · split
    · exact h₁.retire
    · split
      · exact h₁.raise
      · exact h₁.envSpace.checkAll.checked (fun h => .ite h.hold (h.drain (fun h => h.release) (fun h => h.sendShip)))

theorem State.memoryWf.replyAt {z : Nat} {r : ShipReq} {status : Byte} : (s.replyAt z r status).memoryWf := h.rest
theorem State.memoryWf.popSend {r : ShipReq} : (s.popSend r).memoryWf := h.setCore
theorem State.memoryWf.reachHome {r : ShipReq} : (s.reachHome r).memoryWf := .ite h.replyAt h.setLc

theorem State.memoryWf.farMove {r : ShipReq} : (s.farMove r).memoryWf := by
  unfold State.farMove
  dsimp only
  split
  · exact h.spend
  · exact .ite h.spend (.ite h.spend.mapQueue.spend h.spend.mapQueue)

theorem Out.Wf.execShipRequest {r : ShipReq} : Out.Wf (execShipRequest r s) := by
  unfold Machine.execShipRequest
  split
  · split
    · split
      · exact .next h.bump.farMove
      · exact .next h.bump
    · split
      · split
        · exact .next h.bump.popSend.reachHome
        · exact .next h.bump
      · split
        · split
          · exact .next h.bump.popSend
          · exact .next h.bump
        · exact .next h.bump.sendRemote
  · dsimp only
    split
    · exact .next h.bump.reachHome
    · exact .next h.bump.setLc

theorem State.memoryWf.letIn {z : Nat} : (s.letIn z).memoryWf := by
  unfold State.letIn
  split
  · exact h.setLc.reachHome
  · exact h

theorem State.memoryWf.startSection {z : Nat} {r : ShipReq} {c : Nat} : (s.startSection z r c).memoryWf := h.setLc.acquire.spend

theorem Out.Wf.execSectionStart {lc : Nat} : Out.Wf (execSectionStart lc s) := by
  unfold Machine.execSectionStart
  dsimp only
  split
  · exact .next h.bump
  · split
    · exact .next h.bump.letIn
    · split
      · exact .next h.bump.setLc.letIn.replyAt
      · split
        · exact .next h.bump.setLc.letIn.startSection
        · exact .next h.bump.setLc.letIn.replyAt

theorem Out.Wf.execSectionOverrun {lc : Nat} : Out.Wf (execSectionOverrun lc s) := by
  unfold Machine.execSectionOverrun
  split
  · exact .next h.bump.endSection
  · exact .next h.bump

theorem State.memoryWf.deliverResult {r : ShipRes} : (s.deliverResult r).memoryWf := .ite h.mapTeam h.mapTeam

theorem Out.Wf.execShipResult {r : ShipRes} : Out.Wf (execShipResult r s) := by
  unfold Machine.execShipResult
  split
  · split
    · exact .next h.bump
    · dsimp only
      split
      · exact .next h.bump.rest.deliverResult
      · exact .next h.bump.rest.inject
  · split
    · exact .next h.bump.rest.popSend.deliverResult
    · exact .next h.bump

/-! ### The SYS group -/

theorem Out.Wf.execSret {p : Pre} {a : RegNo} : Out.Wf (execSret p a s) := by
  unfold Machine.execSret
  refine .act h fun h₁ => ?_
  dsimp only
  split
  · exact h₁.retire
  · split
    · exact h₁.raise
    · exact h₁.returnTo

theorem State.memoryWf.mapTrapped {w : Who} {f : Strand → Strand} : (s.mapTrapped w f).memoryWf := by
  unfold State.mapTrapped
  split
  · exact h.setLc
  · exact h.mapStrand

theorem Out.Wf.execXrd {p : Pre} {d : RegNo} {c : BitVec 7} {st : Bool} : Out.Wf (execXrd p d c st s) := .act h fun h => h.setAll.spend.retire

theorem Out.Wf.execXwr {p : Pre} {a : RegNo} {ua : Bool} {c : BitVec 7} {st : Bool} : Out.Wf (execXwr p a ua c st s) :=
  .act h fun h => .retire (.ite h (.ite h.mapTrapped (.ite h (.mapTrapped (.ite h.rest h)))))

theorem State.memoryWf.dropTlbs {k : TlbKind} {asid va : Nat} : (s.dropTlbs k asid va).memoryWf := h.rest

theorem State.memoryWf.pushAll : s.pushAll.memoryWf :=
  State.memoryWf_foldl _ (fun _ _ h => .sendWcbs (State.memoryWf_foldl _ (fun _ _ h => h.writeBack) _ h)) _ h

theorem Out.Wf.execTlbinv {p : Pre} {k : TlbKind} {a : RegNo} {asid : Num} : Out.Wf (execTlbinv p k a asid s) := by
  unfold Machine.execTlbinv
  refine .act h fun h₁ => ?_
  dsimp only
  split
  · exact h₁.retire
  · split
    · exact .ite h₁.retire h₁.interlock
    · exact h₁.drain (fun h => h.release) (fun h => .ite h.acquire.dropTlbs.pushAll.retire h.acquire.dropTlbs.pushAll.interlock)

theorem State.memoryWf.handleWaiter {d ser : Nat} {good : Bool} {w : Waiter} : (s.handleWaiter d ser good w).memoryWf := by
  unfold State.handleWaiter
  split
  · split
    · exact h
    · dsimp only
      split
      · split
        · exact h
        · exact .ite h.endSection (.ite (.ite h.mapSplit.imageDue h.acquire.mapSplit) h.takeTrap)
      · exact h
  · split
    · exact .ite h.setCopy h.failCopy
    · exact h
  · split
    · exact .ite h.rest h.failTask
    · exact h
  · split
    · exact .ite h.setHist h.setHist.failCapture
    · exact h
  · split
    · exact .ite h.setCheck h.failPrediction
    · exact h
  · split
    · exact .ite h.setColl h.failColl
    · exact h

theorem State.memoryWf.replayEntry {d ser : Nat} {good : Bool} : (s.replayEntry d ser good).1.memoryWf := by
  unfold State.replayEntry
  dsimp only
  split
  · exact h
  · exact State.memoryWf_foldl _ (fun _ _ h => h.handleWaiter) _ h.setDie.bump

theorem Out.Wf.execReplay {p : Pre} {d a b : RegNo} : Out.Wf (execReplay p d a b s) :=
  .act h (fun h => .ite h.retire (.ite h.raise (h.drain (fun h => h.release) (fun h => h.replayEntry.later.retire))))

theorem State.memoryWf.dropWaiters {c : Nat} : (s.dropWaiters c).memoryWf := State.memoryWf_foldl _ (fun _ _ h => h.dropWaiter) _ h

theorem State.memoryWf.settleWcbs {c : Nat} : (s.settleWcbs c).memoryWf :=
  .spend (State.memoryWf_foldl _ (fun _ _ h => State.memoryWf_foldl _ (fun _ _ h => .ite h.sendWcb h.setCore) _ h) _ h)

theorem State.memoryWf.endSections {c : Nat} : (s.endSections c).memoryWf := by
  unfold State.endSections
  refine State.memoryWf_foldl _ (fun _ _ h₁ => ?_) _ h.rest
  split
  · split
    · exact .ite h₁.setLc.dropLoadsOf (.ite h₁.setLc.dropLoadsOf.replyAt h₁)
    · exact h₁

theorem State.memoryWf.abortOps {c : Nat} : (s.abortOps c).memoryWf := h.rest
theorem State.memoryWf.clearTeams {c : Nat} : (s.clearTeams c).memoryWf := .rest (State.memoryWf_foldl _ (fun _ _ h => h.freeSpace) _ h.rest)
theorem State.memoryWf.stopServices {c : Nat} : (s.stopServices c).memoryWf := h.rest

theorem State.memoryWf.killContext {c die : Nat} : (s.killContext c die).memoryWf :=
  .ite h h.setCtx.dropWaiters.endSections.settleWcbs.abortOps.stopServices.clearTeams.eventRecord.rest

theorem Out.Wf.execCtxkill {p : Pre} {a : RegNo} : Out.Wf (execCtxkill p a s) := by
  unfold Machine.execCtxkill
  refine .act h fun h₁ => ?_
  dsimp only
  split
  · exact h₁.retire
  · split
    · exact .ite h₁.hold h₁.retire
    · exact .ite h₁.retire (.ite h₁.bump.killContext h₁.killContext.hold)

theorem Out.Wf.execLnch {p : Pre} {d a : RegNo} : Out.Wf (execLnch p d a s) := by
  unfold Machine.execLnch
  refine .act h (fun h₁ => h₁.readRecord (fun h₂ => ?_))
  dsimp only
  split
  · exact .ite h₂.hold h₂.queueLaunch.setAll.retire
  · exact h₂.drain (fun h => h.release) (fun h => .ite h.hold h.queueLaunch.setAll.retire)

theorem Out.Wf.execCntrd {p : Pre} {d : RegNo} {n : Num} {ub : Bool} : Out.Wf (execCntrd p d n ub s) := .act h fun h => h.laterWide.retire

theorem State.memoryWf.endTrial {c : Nat} : (s.endTrial c).memoryWf := by
  unfold State.endTrial
  dsimp only
  split
  · exact h
  · exact h.setCtx.eventRecord

theorem State.memoryWf.startTrial {c die : Nat} {lo hi : DWord} {sp dur : Nat} : (s.startTrial c die lo hi sp dur).memoryWf :=
  .ite h.endTrial h.endTrial.setCtx.rest

theorem Out.Wf.execTrial {p : Pre} {a : RegNo} {ctx : Option Num} : Out.Wf (execTrial p a ctx s) :=
  .act h (fun h => h.readRecord (fun h => .ite h.raise h.startTrial.retire))

theorem Out.Wf.execTrialEnd {ctx : Nat} : Out.Wf (execTrialEnd ctx s) := by
  unfold Machine.execTrialEnd
  split
  · split
    · exact .next h.bump.endTrial
    · exact .next h.bump
  · exact .next h.bump

theorem Out.Wf.execDelayExchange : Out.Wf (execDelayExchange s) := .next h.bump.rest

theorem Out.Wf.execWfi {p : Pre} {d b : RegNo} : Out.Wf (execWfi p d b s) :=
  .act h fun h => .ite h.retire (.ite h.setAll.retire (.ite h.setAll.retire h.hold))

/-! ### What the Z4 keeps of a context -/

theorem State.memoryWf.saveSplits {x : Team} : (s.saveSplits x).memoryWf := State.memoryWf_foldl _ (fun _ _ h => State.memoryWf_homeWrite _ _ h) _ h
theorem State.memoryWf.saveRegs {at_ : Nat} {st : Strand} : (s.saveRegs at_ st).memoryWf := h.homeFill

theorem State.memoryWf.saveLines {x : Team} : (s.saveLines x).memoryWf := by
  unfold State.saveLines
  refine State.memoryWf_foldl _ (fun _ _ h₁ => ?_) _ h
  split
  · dsimp only
    split
    · exact h₁.saveRegs.saveRegs
    · exact h₁.saveRegs

theorem State.memoryWf.savePart {x : Team} {x2 : ImagePart} : (s.savePart x x2).memoryWf := by
  unfold State.savePart
  split
  · exact h.saveSplits
  · exact h.saveLines
  · exact h.homeFill
  · exact h.homeFill

theorem State.memoryWf.keepImage {t : Nat} : (s.keepImage t).memoryWf := by
  unfold State.keepImage
  split
  · exact h
  · exact .mapTeam (.ite h (State.memoryWf_foldl _ (fun _ _ h => h.savePart) _ h))

theorem State.memoryWf.keepImages : s.keepImages.memoryWf := State.memoryWf_foldl _ (fun _ _ h => h.keepImage) _ h

theorem State.memoryWf.keepField {c off : Nat} {bs : List Byte} : (s.keepField c off bs).memoryWf := by
  unfold State.keepField
  dsimp only
  split
  · exact .ite h (State.memoryWf_homeWrite _ _ h)
  · exact .ite (.ite h.spend.setCtx h) (State.memoryWf_homeWrite _ _ (.ite h.spend.setCtx h))

theorem State.memoryWf.settleCounts {c : Nat} : (s.settleCounts c).memoryWf := .ite h h.setCtx

theorem State.memoryWf.keepBlock {c : Nat} : (s.keepBlock c).memoryWf :=
  .ite h.settleCounts (.setCtx (State.memoryWf_foldl _ (fun _ _ h => h.keepField) _ h.settleCounts))

theorem State.memoryWf.keepBlocks : s.keepBlocks.memoryWf := State.memoryWf_foldl _ (fun _ _ h => h.keepBlock) _ h

/-! ### Launches and residence -/

theorem State.memoryWf.swapOut {t : Nat} : (s.swapOut t).memoryWf := by
  unfold State.swapOut
  split
  · exact h
  · split
    · exact h
    · exact h.sendWcbs.writeBackEvery.bump.mapTeam

theorem State.memoryWf.swapOutBand {x : Team} : (s.swapOutBand x).memoryWf := .ite (State.memoryWf_foldl _ (fun _ _ h => h.swapOut) _ h) h

theorem State.memoryWf.takeBlocks {c t n : Nat} : (s.takeBlocks c t n).memoryWf :=
  .setCore (.mapTeam (State.memoryWf_foldl _ (fun _ _ h => h.mapTeam) _ (State.memoryWf_foldl _ (fun _ _ h => h.haltOps) _ h)))

theorem State.memoryWf.takeSlots {c t : Nat} {ns : List Nat} : (s.takeSlots c t ns).memoryWf := by
  unfold State.takeSlots
  refine State.memoryWf_foldl _ (fun _ _ h₁ => .mapTeam (.setCore ?_)) _ h
  split
  · exact h₁.haltOps.mapTeam
  · exact h₁

theorem State.memoryWf.evictLines {c t : Nat} : (s.evictLines c t).memoryWf := h.rest
theorem State.memoryWf.leaveOthers {c t : Nat} : (s.leaveOthers c t).memoryWf := .rest (.ite h.haltOps.mapTeam h)

theorem State.memoryWf.resumeReplayed {t : Nat} : (s.resumeReplayed t).memoryWf := by
  unfold State.resumeReplayed
  split
  · exact h
  · exact State.memoryWf_foldl _ (fun _ _ h => .ite h.mapSplit h) _ h

theorem State.memoryWf.dropUo {c : Nat} : (s.dropUo c).memoryWf := .rest (State.memoryWf_foldl _ (fun _ _ h => h.writeBack.dropCached) _ h)
theorem State.memoryWf.dropCode {c : Nat} : (s.dropCode c).memoryWf := h.setCore.dropFarCode

theorem State.memoryWf.seat {t c : Nat} : (s.seat t c).memoryWf := by
  unfold State.seat
  split
  · exact h
  · exact h.leaveOthers.evictLines.mapTeam.takeBlocks.takeSlots.rest.bump.mapTeam.resumeReplayed.acquire.dropUo.dropCode

theorem State.memoryWf.addTeam {x : Team} : (s.addTeam x).memoryWf := h.setCtx.rest
theorem State.memoryWf.passBlocks {c n : Nat} : (s.passBlocks c n).memoryWf := h.setCore

theorem State.memoryWf.createBand {l : Nat} {x : Launch} {d b : Nat} : (s.createBand l x d b).1.memoryWf :=
  .rest (State.memoryWf_foldl _ (fun _ _ h => h.addTeam) _ h)

theorem State.memoryWf.seatAll {d : Nat} {ts : List Nat} : FoundWf (s.seatAll d ts) := by
  induction ts generalizing s with
  | nil => exact .some h
  | cons t ts ih =>
    unfold State.seatAll
    split
    · exact .none
    · split
      · exact .none
      · exact .ite .none (ih h.seat)

theorem State.memoryWf.placeBand {l : Nat} {x : Launch} {d b : Nat} : FoundWf (s.placeBand l x d b) := h.createBand.seatAll

theorem State.memoryWf.placeNew {d c : Nat} : FoundWf (s.placeNew d c) := by
  unfold State.placeNew
  split
  · exact .none
  · exact .map fun _ ht => .ite (h.placeBand _ ht).setCtx h.setCtx

theorem State.memoryWf.resumeBand {d c : Nat} : FoundWf (s.resumeBand d c) := .findSome? fun _ => h.seatAll

theorem State.memoryWf.placeNext {d c : Nat} : FoundWf (s.placeNext d c) :=
  .ite .none (.ite (.orElse h.spend.placeNew h.spend.resumeBand) (.orElse h.spend.resumeBand h.spend.placeNew))

theorem State.memoryWf.placeOf {d c l : Nat} {x : Launch} : FoundWf (s.placeOf d c l x) := .findSome? fun _ => .ite h.placeBand .none

theorem State.memoryWf.placeOver {d c l : Nat} {x : Launch} {ts : List Team} : FoundWf (State.placeOver d c l x ts s) := by
  induction ts generalizing s with
  | nil => exact .none
  | cons t ts ih =>
    unfold State.placeOver
    dsimp only
    split
    · rename_i heq
      exact .some (h.swapOutBand.placeOf _ heq)
    · exact ih h.swapOutBand

theorem State.memoryWf.placeAtBarrier {d c : Nat} : FoundWf (s.placeAtBarrier d c) := .ite .none (.findSome? fun _ => h.bump.placeOver)

theorem Out.Wf.execTeamPlacement {die ctx : Nat} : Out.Wf (execTeamPlacement die ctx s) := by
  unfold Machine.execTeamPlacement
  split
  · rename_i heq
    exact .next (h.placeNext _ heq)
  · exact .next (h.placeAtBarrier.getD h.bump)

theorem State.memoryWf.shrinkL1 {c room : Nat} : (s.shrinkL1 c room).memoryWf :=
  .spend (State.memoryWf_foldl _ (fun _ _ h => .ite h.writeBack.dropCached h) _ h)

theorem Out.Wf.execScratchpadBlockConversion {core blocks : Nat} : Out.Wf (execScratchpadBlockConversion core blocks s) := by
  unfold Machine.execScratchpadBlockConversion
  dsimp only
  split
  · exact .next h.bump.setCore
  · exact .next h.bump.passBlocks.shrinkL1

theorem Out.Wf.execPowerOn : Out.Wf (execPowerOn s) := .next h.bump.rest

theorem Out.Wf.execStealMessage {thief : Nat} : Out.Wf (execStealMessage thief s) := by
  unfold Machine.execStealMessage
  split
  · exact .next h.bump
  · exact .next (State.memoryWf_foldl _ (fun _ _ h => h.rest) _ h.bump)

theorem Out.Wf.execStageReview {die : Nat} : Out.Wf (execStageReview die s) := by
  unfold Machine.execStageReview
  split
  · exact .next h.bump
  · exact .next (.rest (State.memoryWf_foldl _ (fun _ _ h => h.swapOutBand) _ h.bump))

theorem State.memoryWf.roomBy {d c : Nat} {ts : List Team} : FoundWf (State.roomBy d c ts s) := by
  induction ts generalizing s with
  | nil => exact .ite (.some h) .none
  | cons t ts ih => exact .ite (.some h) (ih h.swapOutBand)

theorem Out.Wf.execContextTurn {die : Nat} : Out.Wf (execContextTurn die s) := by
  unfold Machine.execContextTurn
  dsimp only
  split
  · exact .next h.bump
  · split
    · exact .next h.bump
    · rename_i heq
      exact .next (h.bump.roomBy _ heq).setDie

theorem Out.Wf.execFrequencyStep {core : Nat} {up : Bool} : Out.Wf (execFrequencyStep core up s) := by
  unfold Machine.execFrequencyStep
  dsimp only
  split
  · exact .next h.bump
  · exact .next h.bump.setCore

theorem State.memoryWf.tableBytes {c va n : Nat} : (s.tableBytes c va n).1.memoryWf := by
  unfold State.tableBytes
  refine .foldl_fst h.engineSpace fun _ _ h₁ => ?_
  split
  · split
    · rename_i heq
      have h₂ := State.memoryWf.of_fst (h₁.translate) heq
      split
      · exact (State.memoryWf_homeRead _ _ h₂).softBytes
      · exact h₂.spend
    · rename_i heq
      have h₂ := State.memoryWf.of_fst (h₁.translate) heq
      exact h₂

theorem State.memoryWf.rejectLaunch {c : Nat} {lid : Word} {b : BadField} : (s.rejectLaunch c lid b).memoryWf := h.eventRecord
theorem State.memoryWf.acceptLaunch {c : Nat} {r : LaunchRec} : (s.acceptLaunch c r).memoryWf := h.rest

theorem State.memoryWf.takeRecord {c : Nat} {q : Queued} : (s.takeRecord c q).memoryWf := by
  unfold State.takeRecord
  extract_lets bs lid stab qtab n
  split
  · exact h.rejectLaunch
  · split
    rename_i heq
    have h₁ := State.memoryWf.of_fst (.ite_fst h h.tableBytes) heq
    split
    · exact h₁.spend.rejectLaunch
    · split
      rename_i heq
      have h₂ := State.memoryWf.of_fst (.ite_fst h₁ h₁.tableBytes) heq
      split
      · exact h₂.rejectLaunch
      · exact h₂.acceptLaunch

theorem Out.Wf.execLaunchAccept {ctx : Nat} : Out.Wf (execLaunchAccept ctx s) := by
  unfold Machine.execLaunchAccept
  split
  · exact .next h.bump
  · split
    · exact .next h.bump
    · exact .next h.bump.setCtx.takeRecord

/-! ### Homes at work -/

theorem State.memoryWf.linkHost {sub port maps peer count unit_ : Nat} : (s.linkHost sub port maps peer count unit_).memoryWf := h.hostEvent.spend

theorem State.memoryWf.linkContext {c sub port maps peer : Nat} {eaddr : DWord} : (s.linkContext c sub port maps peer eaddr).memoryWf :=
  .ite h.eventRecord h

theorem State.memoryWf.fence {d : Nat} : (s.fence d).memoryWf := by
  unfold State.fence
  split
  · exact h
  · exact .noteDegraded (State.memoryWf_foldl _ (fun _ _ h => h.linkContext.killContext) _ h.setDie.rest.linkHost)

theorem State.memoryWf.landAtomic {a : AtomicOp} {bs : List Byte} : (s.landAtomic a bs).memoryWf := by
  unfold State.landAtomic
  split
  · exact h
  · exact h.rest.finishLoad

theorem State.memoryWf.fatalError {c die : Nat} {n : Name} : (s.fatalError c die n).memoryWf := .ite h.eventRecord.killContext h

theorem State.memoryWf.failAtomic {a : AtomicOp} {cause : Nat} : (s.failAtomic a cause).memoryWf := by
  unfold State.failAtomic
  split
  · exact h
  · exact h.rest

theorem State.memoryWf.atomicAt {a : AtomicOp} : (s.atomicAt a).1.memoryWf := by
  unfold State.atomicAt
  split
  · rename_i heq
    have h₁ := State.memoryWf.of_fst (h.softBytes) heq
    dsimp only
    split
    · exact State.memoryWf_merge _ _ _ h₁
    · exact h₁

theorem State.memoryWf.traceWrite {op : WriteOp} : (s.traceWrite op).memoryWf := .ite h.traceRecord h

theorem State.memoryWf.performWrite {op : WriteOp} : (s.performWrite op).memoryWf := by
  unfold State.performWrite
  dsimp only
  split
  · exact (State.memoryWf_merge _ _ _ h.watch).traceWrite
  · exact .ite (.ite h.watch.failAtomic h.watch.fatalError) h.watch.atomicAt.landAtomic

theorem State.memoryWf.takeWrite {k : Nat} {op : WriteOp} : (s.takeWrite k op).memoryWf := by
  unfold State.takeWrite
  split
  · exact h.rest.performWrite
  · exact (State.memoryWf_recall _ h).rest

theorem State.memoryWf.sendAtomic {k : Nat} {op : WriteOp} : (s.sendAtomic k op).memoryWf := h.sendRemote

theorem Out.Wf.execHomeWriteRequest {k : Nat} : Out.Wf (execHomeWriteRequest k s) := by
  unfold Machine.execHomeWriteRequest
  split
  · exact .next h.bump
  · split
    · exact .next h.bump
    · dsimp only
      split
      · exact .next h.bump.rest.count.sendAtomic
      · exact .next h.bump.rest.count.takeWrite

theorem State.memoryWf.dropTracked {cache line : Nat} : (s.dropTracked cache line).memoryWf := .ite h.setDie.rest h.setLc.rest

theorem Out.Wf.execInvalidation {k cache : Nat} : Out.Wf (execInvalidation k cache s) := by
  unfold Machine.execInvalidation
  split
  · exact .next h.bump
  · split
    · exact .next h.bump
    · exact .next (State.memoryWf_recall _ h.bump).dropTracked.traceRecord.rest

theorem Out.Wf.execInvalidationAck {k : Nat} : Out.Wf (execInvalidationAck k s) := by
  unfold Machine.execInvalidationAck
  split
  · exact .next h.bump
  · split
    · exact .next h.bump.takeWrite
    · exact .next h.bump

theorem Out.Wf.execSharerTimeout {k : Nat} : Out.Wf (execSharerTimeout k s) := by
  unfold Machine.execSharerTimeout
  split
  · exact .next h.bump
  · dsimp only
    split
    · exact .next h.bump
    · split
      · split
        · exact .next (.takeWrite (State.memoryWf_foldl _ (fun _ _ h => h.fence) _ h.bump))
        · exact .next (State.memoryWf_foldl _ (fun _ _ h => h.fence) _ h.bump)
      · exact .next (State.memoryWf_foldl _ (fun _ _ h => h.fence) _ h.bump)

theorem Out.Wf.execWcbAgeing {core : Nat} : Out.Wf (execWcbAgeing core s) := .next h.bump.sendWcbs

theorem State.memoryWf.install {u : ReadUnit} {data : BitVec 1024} {good : BitVec 128} {isNew : Bool} : (s.install u data good isNew).memoryWf := by
  unfold State.install
  split
  · exact h.dropClean
  · exact .ite h.dropClean (.ite (.ite h.fillRdc h) (.fillLine (.ite h.fillRdc h)))

theorem State.memoryWf.serve {k : Nat} {u : ReadUnit} {data : BitVec 1024} {good : BitVec 128} {isNew : Bool} :
    (s.serve k u data good isNew).memoryWf :=
  .ite h.rest.install h.rest.install.landUnit

theorem State.memoryWf.failRead {k : Nat} {u : ReadUnit} {cause : Nat} : (s.failRead k u cause).memoryWf := .ite h.rest h.rest.failUnit

theorem State.memoryWf.readHere {k : Nat} {u : ReadUnit} : (s.readHere k u).memoryWf := by
  unfold State.readHere
  split
  · exact h.serve
  · exact .ite h.count.watch.failRead (State.memoryWf_homeRead _ _ h.count.watch).serve

theorem State.memoryWf.readFar {k : Nat} {u : ReadUnit} : (s.readFar k u).memoryWf := by
  unfold State.readFar
  split
  · exact h.serve
  · exact h.sendRemote.rest

theorem Out.Wf.execHomeRead {k : Nat} : Out.Wf (execHomeRead k s) := by
  unfold Machine.execHomeRead
  split
  · exact .next h.bump
  · split
    · exact .next h.bump
    · split
      · exact .next h.bump.readHere
      · exact .next h.bump.readFar

theorem State.memoryWf.respond {r : RemoteReq} {ty cause value : Nat} {body : List Nat} : (s.respond r ty cause value body).memoryWf := h.inject
theorem State.memoryWf.remoteDrop {r : RemoteReq} {line : Nat} : (s.remoteDrop r line).memoryWf := h.dropSharers.nameHome

theorem State.memoryWf.traceRemote {r : RemoteReq} {line : Nat} {mask : BitVec 128} {kind : Nat} : (s.traceRemote r line mask kind).memoryWf :=
  h.spend.traceRecord

theorem State.memoryWf.remoteWrite {r : RemoteReq} : (s.remoteWrite r).memoryWf := by
  unfold State.remoteWrite
  dsimp only
  split
  · exact h.respond
  · exact .respond (.traceRemote (.ite (State.memoryWf_merge _ _ _ (State.memoryWf_recall _ h).remoteDrop) h.deviceWrite))

theorem State.memoryWf.remoteAtomic {r : RemoteReq} {op : Nat} : (s.remoteAtomic r op).memoryWf :=
  .ite h.respond (State.memoryWf_recall _ h).remoteDrop.atomicAt.traceRemote.respond

theorem State.memoryWf.remoteLoad {r : RemoteReq} : (s.remoteLoad r).memoryWf := by
  unfold State.remoteLoad
  split
  · exact h.respond
  · split
    rename_i heq
    have h₁ := State.memoryWf.of_fst (.ite_fst (State.memoryWf_homeRead _ _ h) h.deviceRead) heq
    exact h₁.softBytes.respond

theorem Out.Wf.execRemoteRequest {r : RemoteReq} : Out.Wf (execRemoteRequest r s) := by
  unfold Machine.execRemoteRequest
  dsimp only
  split
  · split
    · exact .next h.bump.respond
    · split
      · exact .next h.bump.respond
      · exact .next h.bump.watch.remoteWrite
  · split
    · exact .next h.bump.respond
    · split
      · exact .next h.bump.respond
      · split
        · exact .next h.bump.watch.remoteAtomic
        · split
          · exact .next h.bump.watch.remoteAtomic
          · exact .next h.bump.watch.remoteLoad

theorem State.memoryWf.closeRemote {txn : Nat} : (s.closeRemote txn).memoryWf := h.rest

theorem Out.Wf.execWriteAcknowledgement {txn : Nat} : Out.Wf (execWriteAcknowledgement txn s) := by
  unfold Machine.execWriteAcknowledgement
  split
  · split
    · exact .next h.bump.closeRemote.dropFarLine
    · exact .next h.bump
  · exact .next h.bump

theorem State.memoryWf.storeLost {r : RemoteOp} : (s.storeLost r).memoryWf := State.memoryWf_foldl _ (fun _ _ h => h.linkContext) _ h.linkHost

theorem State.memoryWf.refuseRed {r : RemoteOp} {a : AtomicOp} : (s.refuseRed r a).memoryWf := by
  unfold State.refuseRed
  split
  · exact h
  · exact h.rest

theorem State.memoryWf.failRemote {txn cause : Nat} : (s.failRemote txn cause).memoryWf := by
  unfold State.failRemote
  split
  · exact h
  · dsimp only
    split
    · split
      · exact h.closeRemote.failRead
      · exact h.closeRemote
    · split
      · exact h.closeRemote.rest
      · exact h.closeRemote
    · exact h.closeRemote.popSend.deliverResult
    · exact .ite h.closeRemote.failAtomic (.ite h.closeRemote.refuseRed h.closeRemote.storeLost)
    · exact h.closeRemote.storeLost

theorem Out.Wf.execLossNotice {txn : Nat} : Out.Wf (execLossNotice txn s) := .next h.bump.failRemote

theorem Out.Wf.execRequestTimeout {txn : Nat} : Out.Wf (execRequestTimeout txn s) := by
  unfold Machine.execRequestTimeout
  split
  · split
    · exact .next h.bump.failRemote
    · exact .next h.bump
  · exact .next h.bump

/-! ### The router -/

theorem State.memoryWf.owe {from_ : Nat} {f : Flit} : (s.owe from_ f).memoryWf := .ite h h.setPort
theorem State.memoryWf.buffer {from_ : Nat} {f : Flit} : (s.buffer from_ f).memoryWf := .ite h.setPort.owe h.setPort.rest

theorem State.memoryWf.fetchedLine {key : Nat} {r : RemoteOp} {data : BitVec 1024} : (s.fetchedLine key r data).memoryWf :=
  .ite h.rest.fillRdc h.rest

theorem State.memoryWf.answerRead {txn cause : Nat} {body : List Flit} : (s.answerRead txn cause body).memoryWf := by
  unfold State.answerRead
  split
  · exact h
  · split
    · exact h.failRemote
    · dsimp only
      split
      · split
        · exact h.closeRemote.serve
        · exact h.closeRemote
      · exact h.closeRemote.fetchedLine
      · exact h.closeRemote

theorem State.memoryWf.answerAtomic {txn cause value : Nat} : (s.answerAtomic txn cause value).memoryWf := by
  unfold State.answerAtomic
  split
  · exact h
  · split
    · exact .ite h.closeRemote.fatalError (.ite h.failRemote h.closeRemote.dropFarLine.landAtomic)
    · exact .ite h.closeRemote.fatalError (.ite h.failRemote h.closeRemote)

theorem State.memoryWf.takePacket {fs : List Flit} : (s.takePacket fs).memoryWf := by
  unfold State.takePacket
  split
  · exact h
  · dsimp only
    split
    · exact h.rest
    · exact h.rest
    · exact h.rest
    · exact h.answerRead
    · exact .ite h.rest h.failRemote
    · exact h.answerAtomic
    · exact h.rest
    · exact h.rest
    · exact h.takeColl
    · split
      · exact h.rest
      · exact h
    · exact h.noteLoss
    · exact h

theorem State.memoryWf.eject {f : Flit} : (s.eject f).memoryWf := by
  unfold State.eject
  dsimp only
  split
  · exact h.takePacket
  · exact h.dropPartials.rest
  · exact h.rest.takePacket
  · exact h.rest
  · exact h

theorem State.memoryWf.transmit {z : Held} : (s.transmit z).memoryWf := h.setPort
theorem State.memoryWf.passOn {z : Held} : (s.passOn z).memoryWf := .ite h.eject h.transmit
theorem State.memoryWf.reroute : s.reroute.memoryWf := h.rest

/-! ### Gang switch -/

theorem State.memoryWf.tellMember {d : Nat} {m : Message} {own : Instr} : (s.tellMember d m own).memoryWf := .ite h.rest h.message
theorem State.memoryWf.endSwitch {j : Nat} {status : Word} : (s.endSwitch j status).memoryWf := .ite h.setJob.rest h.setJob
theorem State.memoryWf.gangEvent {tag serial : Nat} {issuer : Option Who} : (s.gangEvent tag serial issuer).memoryWf := h.serviceEvent

theorem State.memoryWf.startSwitch {tag : Nat} {off : Bool} {issuer : Option Who} {host : Bool} : (s.startSwitch tag off issuer host).memoryWf := by
  unfold State.startSwitch
  split
  · exact h
  · exact State.memoryWf_foldl _ (fun _ _ h => .ite h.tellMember h.tellMember) _ h.setJob.gangEvent

theorem State.memoryWf.gang {e : Env} {i : Instr} {p : Pre} {d a : RegNo} {off : Bool} : (e.gang i p d a off s).memoryWf := by
  unfold Env.gang
  dsimp only
  split
  · exact h.retire
  · split
    · split
      · split
        · exact .retire (.ite h.setJob (State.memoryWf_foldl _ (fun _ _ h => h.setList) _ h.setJob))
        · exact h.hold
      · exact .retire (.ite h (State.memoryWf_foldl _ (fun _ _ h => h.setList) _ h))
    · split
      · exact .retire (.ite (.ite h.spend h) (State.memoryWf_foldl _ (fun _ _ h => h.setList) _ (.ite h.spend h)))
      · exact h.startSwitch.hold

theorem Out.Wf.execGsave {p : Pre} {d a : RegNo} : Out.Wf (execGsave p d a s) := .act h fun h => h.gang
theorem Out.Wf.execGrest {p : Pre} {d a : RegNo} : Out.Wf (execGrest p d a s) := .act h fun h => h.gang

theorem Out.Wf.hostSwitch {off : Bool} : Out.Wf (hostSwitch off s) := by
  unfold Machine.hostSwitch
  dsimp only
  split
  · split
    · exact .next h.bump
    · split
      · exact .next h.bump.spend.rest
      · exact .next h.bump.startSwitch
  · split
    · exact .next h.bump
    · split
      · exact .next h.bump.spend.rest
      · exact .next h.bump.startSwitch

theorem Out.Wf.execGangSave : Out.Wf (execGangSave s) := .hostSwitch h
theorem Out.Wf.execGangRestore : Out.Wf (execGangRestore s) := .hostSwitch h
theorem State.memoryWf.abandon {c : Nat} : (s.abandon c).memoryWf := h.restartOps.rest

theorem State.memoryWf.quiesce {tag : Nat} : (s.quiesce tag).memoryWf :=
  State.memoryWf_foldl _ (fun _ _ h => h.abandon) _ (State.memoryWf_foldl _ (fun _ _ h => h.swapOut) _ h)

theorem State.memoryWf.stopJob {j serial conductor : Nat} : (s.stopJob j serial conductor).memoryWf := h.setJob.quiesce
theorem State.memoryWf.saveFlit {j : Nat} {z : Held} {cls : Nat} : (s.saveFlit j z cls).memoryWf := (State.memoryWf_homeWrite _ _ h).setJob.owe

theorem State.memoryWf.savePartials {j : Nat} : (s.savePartials j).memoryWf :=
  State.memoryWf_foldl _ (fun _ _ h => .ite h (State.memoryWf_foldl _ (fun _ _ h => h.saveFlit) _ h.rest)) _ h

theorem State.memoryWf.trySwept {j : Nat} : (s.trySwept j).memoryWf := .ite h h.savePartials.pushAll.setJob.tellMember
theorem State.memoryWf.markerAt {p d v tag serial : Nat} : (s.markerAt p d v tag serial).memoryWf := h.rest

theorem State.memoryWf.closeJob {j : Nat} : (s.closeJob j).memoryWf :=
  .trySwept (State.memoryWf_foldl _ (fun _ _ h => State.memoryWf_foldl _ (fun _ _ h => h.markerAt) _ h) _ (State.memoryWf_foldl _
    (fun _ _ h => h.saveFlit) _ h.rest.setJob))

theorem Out.Wf.execStopMessage {tag serial conductor : Nat} : Out.Wf (execStopMessage tag serial conductor s) := by
  unfold Machine.execStopMessage
  split
  · exact .next h.bump
  · split
    · exact .next h.bump.stopJob
    · split
      · exact .next h.bump.setJob.quiesce.trySwept
      · exact .next h.bump

theorem Out.Wf.execGangClose {tag : Nat} : Out.Wf (execGangClose tag s) := by
  unfold Machine.execGangClose
  split
  · exact .next h.bump
  · split
    · exact .next h.bump
    · split
      · exact .next h.bump.trySwept
      · dsimp only
        split
        · exact .next h.bump.quiesce.closeJob
        · exact .next h.bump.quiesce

theorem State.memoryWf.takeMarker {port vc tag serial : Nat} : (s.takeMarker port vc tag serial).memoryWf := by
  unfold State.takeMarker
  split
  · exact h
  · exact .ite h (.ite (.trySwept (.setJob (.ite h.stopJob h))) (.ite h.stopJob h))

theorem Out.Wf.execSweepMarker {port vc tag serial : Nat} : Out.Wf (execSweepMarker port vc tag serial s) := .next h.bump.takeMarker

theorem Out.Wf.execSwept {tag serial device : Nat} : Out.Wf (execSwept tag serial device s) := by
  unfold Machine.execSwept
  split
  · exact .next h.bump
  · split
    · exact .next h.bump
    · dsimp only
      split
      · split
        · exact .next h.bump.setJob.endSwitch
        · exact .next h.bump.setJob
      · split
        · exact .next h.bump.setJob.endSwitch
        · exact .next h.bump.setJob

theorem Out.Wf.execGangSwitchTimeout {tag : Nat} : Out.Wf (execGangSwitchTimeout tag s) := by
  unfold Machine.execGangSwitchTimeout
  split
  · exact .next h.bump
  · split
    · exact .next h.bump
    · dsimp only
      split
      · exact .next h.bump
      · exact .next h.bump.setJob.endSwitch

theorem State.memoryWf.keepLate {port vc : Nat} {f : Flit} : (s.keepLate port vc f).memoryWf := by
  unfold State.keepLate
  dsimp only
  split
  · exact h.owe
  · split
    · split
      · exact (State.memoryWf_homeWrite _ _ h.owe).setJob.rest
      · exact (State.memoryWf_homeWrite _ _ h.owe).setJob
    · split
      · exact h.owe.setJob.eventRecord
      · exact h.owe.setJob

theorem Out.Wf.execLateFlit {port vc : Nat} {flit : Flit} : Out.Wf (execLateFlit port vc flit s) := by
  unfold Machine.execLateFlit
  split
  · exact .next h.bump.keepLate
  · exact .next h.bump

theorem Out.Wf.execRestoreMessage {tag serial conductor : Nat} : Out.Wf (execRestoreMessage tag serial conductor s) := by
  unfold Machine.execRestoreMessage
  dsimp only
  split
  · exact .next (.ite h.bump.tellMember h.bump.tellMember)
  · split
    · exact .next (.ite h.bump.setJob.tellMember h.bump.setJob.tellMember)
    · exact .next (.ite h.bump.tellMember h.bump.tellMember)

theorem State.memoryWf.tellAll {x : Job} {m : Message} {own : Instr} : (s.tellAll x m own).memoryWf :=
  State.memoryWf_foldl _ (fun _ _ h => h.tellMember) _ h

theorem Out.Wf.execRestored {tag serial device : Nat} : Out.Wf (execRestored tag serial device s) := by
  unfold Machine.execRestored
  split
  · exact .next h.bump
  · split
    · exact .next h.bump
    · dsimp only
      split
      · split
        · exact .next h.bump.setJob.tellAll
        · exact .next h.bump.setJob
      · split
        · exact .next h.bump.setJob.tellAll
        · exact .next h.bump.setJob

theorem State.memoryWf.stayOff {j : Nat} : (s.stayOff j).memoryWf := .ite h.setJob.tellAll.endSwitch h.setJob

theorem Out.Wf.execRestoreTimeout {tag : Nat} : Out.Wf (execRestoreTimeout tag s) := by
  unfold Machine.execRestoreTimeout
  split
  · split
    · exact .next h.bump.stayOff
    · exact .next h.bump
  · exact .next h.bump

theorem Out.Wf.execStay {tag serial : Nat} : Out.Wf (execStay tag serial s) := by
  unfold Machine.execStay
  split
  · split
    · exact .next h.bump.stayOff
    · exact .next h.bump
  · exact .next h.bump

theorem State.memoryWf.loseDropped {fs : List Flit} : (s.loseDropped fs).memoryWf :=
  State.memoryWf_foldl _ (fun _ _ h => h.losePacket) _ h.dropPartials

theorem Out.Wf.execGo {tag serial : Nat} : Out.Wf (execGo tag serial s) := by
  unfold Machine.execGo
  split
  · exact .next h.bump
  · split
    · exact .next h.bump
    · exact .next (.rest (.setJob (State.memoryWf_foldl _ (fun _ _ h => h.losePacket) _ h.bump.loseDropped)))

theorem Out.Wf.execReinjectEnd {tag : Nat} : Out.Wf (execReinjectEnd tag s) := by
  unfold Machine.execReinjectEnd
  split
  · exact .next h.bump
  · split
    · exact .next h.bump
    · exact .next h.bump.loseDropped.setJob.rest.tellMember

theorem Out.Wf.execRunning {tag serial device : Nat} : Out.Wf (execRunning tag serial device s) := by
  unfold Machine.execRunning
  split
  · exact .next h.bump
  · split
    · exact .next h.bump
    · dsimp only
      split
      · split
        · exact .next h.bump.setJob.endSwitch
        · exact .next h.bump.setJob
      · split
        · exact .next h.bump.setJob.endSwitch
        · exact .next h.bump.setJob

theorem Out.Wf.execJobAdmit {entry : Nat} : Out.Wf (execJobAdmit entry s) := .next h.bump.admitJob
theorem Out.Wf.execJobFree {entry : Nat} : Out.Wf (execJobFree entry s) := .next h.bump.freeJob

theorem Out.Wf.execJobBarrierArrival {ctx id phase device : Nat} : Out.Wf (execJobBarrierArrival ctx id phase device s) := by
  unfold Machine.execJobBarrierArrival
  split
  · exact .next h.bump.rest
  · split
    · exact .next h.bump
    · dsimp only
      split
      · exact .next h.bump
      · exact .next h.bump.setCtx.settleJob

theorem Out.Wf.execJobBarrierRelease {ctx id phase status : Nat} : Out.Wf (execJobBarrierRelease ctx id phase status s) := by
  unfold Machine.execJobBarrierRelease
  split
  · exact .next h.bump.rest
  · split
    · exact .next h.bump
    · dsimp only
      split
      · exact .next h.bump
      · exact .next h.bump.completeJob.settleJob

theorem State.memoryWf.failBarriers {device : Nat} : (s.failBarriers device).memoryWf := by
  unfold State.failBarriers
  refine State.memoryWf_foldl _ (fun _ _ h₁ => State.memoryWf_foldl _ (fun _ _ h₂ => ?_) _ h₁) _ h
  split
  · split
    · exact .ite h₂.completeJob h₂
    · exact h₂

/-! ### Links of the fabric -/

theorem State.memoryWf.portEvent {p sub maps count : Nat} {fs : List Flit} : (s.portEvent p sub maps count fs).memoryWf :=
  State.memoryWf_foldl _ (fun _ _ h => h.linkContext) _ h.linkHost

theorem State.memoryWf.unfollow {p : Nat} {kept : List Held} : (s.unfollow p kept).memoryWf := h.rest
theorem State.memoryWf.markAll {p : Nat} : (s.markAll p).memoryWf := h.rest

theorem State.memoryWf.failPort {p : Nat} : (s.failPort p).memoryWf :=
  .portEvent (State.memoryWf_foldl _ (fun _ _ h => h.trySwept) _ (.rest (State.memoryWf_foldl _
    (fun _ _ h => h.losePacket) _ h.setPort.unfollow.markAll)))

theorem State.memoryWf.retrain {p : Nat} : (s.retrain p).memoryWf :=
  .ite h.portEvent.setPort (.ite h.portEvent.spend.failPort h.portEvent.spend.setPort)

theorem State.memoryWf.replayPort {p : Nat} : (s.replayPort p).memoryWf := .ite h.setPort.retrain h.setPort

theorem Out.Wf.execNak {port seq : Nat} : Out.Wf (execNak port seq s) := by
  unfold Machine.execNak
  split
  · exact .next h.bump.setPort.replayPort
  · exact .next h.bump

theorem Out.Wf.execLinkReplayTimeout {port : Nat} : Out.Wf (execLinkReplayTimeout port s) := by
  unfold Machine.execLinkReplayTimeout
  split
  · exact .next h.bump.replayPort
  · exact .next h.bump

theorem State.memoryWf.striped {p : Nat} {f : Flit} : (s.striped p f).memoryWf := by
  unfold State.striped
  dsimp only
  split
  · exact h
  · exact h.setPort.portEvent

theorem State.memoryWf.acceptFlit {p : Nat} {f : Flit} : (s.acceptFlit p f).memoryWf := by
  unfold State.acceptFlit
  dsimp only
  split
  · exact .ite h.takeMarker h
  · split
    · exact h.keepLate
    · split
      · exact .ite h.saveFlit h.buffer
      · exact h.buffer

theorem Out.Wf.execFlitReceive {port : Nat} {bits : BitVec 384} : Out.Wf (execFlitReceive port bits s) := by
  unfold Machine.execFlitReceive
  dsimp only
  split
  · exact .next h.bump
  · split
    · exact .next h.bump.setPort
    · split
      · exact .next (.setPort (.ite (.replayPort (.ite h.bump.setPort h.bump)) (.ite h.bump.setPort h.bump)))
      · split
        · split
          · split
            · exact .next h.bump.setPort.replayPort
            · split
              · exact .next h.bump.setPort.replayPort.setPort.striped.acceptFlit
              · split
                · exact .next h.bump.setPort.replayPort
                · exact .next h.bump.setPort.replayPort.setPort
          · split
            · exact .next h.bump.replayPort
            · split
              · exact .next h.bump.replayPort.setPort.striped.acceptFlit
              · split
                · exact .next h.bump.replayPort
                · exact .next h.bump.replayPort.setPort
        · split
          · split
            · exact .next h.bump.setPort
            · split
              · exact .next h.bump.setPort.setPort.striped.acceptFlit
              · split
                · exact .next h.bump.setPort
                · exact .next h.bump.setPort.setPort
          · split
            · exact .next h.bump
            · split
              · exact .next h.bump.setPort.striped.acceptFlit
              · split
                · exact .next h.bump
                · exact .next h.bump.setPort

theorem Out.Wf.execChannelDip {port channel : Nat} : Out.Wf (execChannelDip port channel s) := by
  unfold Machine.execChannelDip
  dsimp only
  split
  · exact .next h.bump.setPort
  · split
    · exact .next h.bump.setPort
    · exact .next h.bump

theorem State.memoryWf.restripe {p : Nat} {x : Port} : (s.restripe p x).memoryWf := .ite h.setPort.failPort h.setPort

theorem Out.Wf.execChannelLossDecision {port channel : Nat} {lost : Bool} : Out.Wf (execChannelLossDecision port channel lost s) := by
  unfold Machine.execChannelLossDecision
  dsimp only
  split
  · exact .next h.bump
  · split
    · exact .next h.bump.restripe
    · exact .next h.bump.setPort

theorem Out.Wf.execStripe {port rxmap epoch seq : Nat} : Out.Wf (execStripe port rxmap epoch seq s) := by
  unfold Machine.execStripe
  dsimp only
  split
  · exact .next h.bump
  · split
    · exact .next h.bump.setPort.failPort
    · exact .next h.bump.setPort.setPort.portEvent

theorem Out.Wf.execChannelSignalReturn {port channel : Nat} : Out.Wf (execChannelSignalReturn port channel s) := by
  unfold Machine.execChannelSignalReturn
  dsimp only
  split
  · exact .next h.bump.setPort
  · exact .next h.bump

theorem Out.Wf.execChannelRestore {port channel : Nat} : Out.Wf (execChannelRestore port channel s) := by
  unfold Machine.execChannelRestore
  dsimp only
  split
  · exact .next h.bump.setPort
  · exact .next h.bump

theorem Out.Wf.execStripeTimeout {port : Nat} : Out.Wf (execStripeTimeout port s) := by
  unfold Machine.execStripeTimeout
  split
  · exact .next h.bump.failPort
  · exact .next h.bump

theorem Out.Wf.execPortTrain {port : Nat} {ok : Bool} {peer peerPort : Nat} : Out.Wf (execPortTrain port ok peer peerPort s) := by
  unfold Machine.execPortTrain
  dsimp only
  split
  · exact .next h.bump
  · split
    · split
      · exact .next h.bump.setPort.failPort
      · exact .next (.ite h.bump.setPort.portEvent h.bump.setPort)
    · split
      · exact .next h.bump.failPort
      · exact .next h.bump.setPort.spend.portEvent

theorem Out.Wf.execKeyRefresh {port : Nat} {transmit : Bool} : Out.Wf (execKeyRefresh port transmit s) := by
  unfold Machine.execKeyRefresh
  dsimp only
  split
  · exact .next h.bump.setPort
  · exact .next h.bump

theorem Out.Wf.execPortDisable {port : Nat} : Out.Wf (execPortDisable port s) := by
  unfold Machine.execPortDisable
  dsimp only
  split
  · exact .next h.bump.setPort
  · exact .next h.bump

theorem Out.Wf.execPortEnable {port : Nat} : Out.Wf (execPortEnable port s) := by
  unfold Machine.execPortEnable
  dsimp only
  split
  · exact .next h.bump.setPort
  · exact .next h.bump

theorem Out.Wf.execRouteUpdate {device port : Nat} {live : Bool} : Out.Wf (execRouteUpdate device port live s) := .next h.bump.rest

theorem Out.Wf.execDeviceUnreachable {device : Nat} : Out.Wf (execDeviceUnreachable device s) := by
  unfold Machine.execDeviceUnreachable
  split
  · exact .next h.bump
  · exact .next (.linkHost (.failBarriers (State.memoryWf_foldl _ (fun _ _ h => h.linkContext) _ (State.memoryWf_foldl _
      (fun _ _ h => h.failRemote) _ h.bump.rest))))

theorem Out.Wf.execDeviceReachable {device : Nat} : Out.Wf (execDeviceReachable device s) := by
  unfold Machine.execDeviceReachable
  split
  · exact .next h.bump.rest.linkHost
  · exact .next h.bump

theorem State.memoryWf.darken {n : Nat} {off : Bool} : (s.darken n off).memoryWf := State.memoryWf_foldl _ (fun _ _ h => h.setPort) _ h
theorem Out.Wf.execLaserFault {source : Nat} : Out.Wf (execLaserFault source s) := .next h.bump.setLaser.darken.linkHost.noteDegraded
theorem Out.Wf.execLaserRemoved {source : Nat} : Out.Wf (execLaserRemoved source s) := .next h.bump.setLaser.darken.linkHost.noteDegraded
theorem Out.Wf.execLaserReturn {source : Nat} : Out.Wf (execLaserReturn source s) := .next h.bump.setLaser.darken.linkHost
theorem Out.Wf.execDieToDieLinkFailure {a b : Nat} : Out.Wf (execDieToDieLinkFailure a b s) := .next h.bump.rest

/-! ### What a strand waits for -/

theorem State.memoryWf.spoilReturn {w : Who} {r : Inbound} : (s.spoilReturn w r).memoryWf := by
  unfold State.spoilReturn
  split
  · exact State.memoryWf_foldl _ (fun _ _ h => h.spoilTask) _ h
  · exact h

theorem Out.Wf.execResultReturn : Out.Wf (execResultReturn s) := by
  unfold Machine.execResultReturn
  split
  · exact .fault _
  · dsimp only
    split
    · exact .next h.bump.spend.spoilReturn.mapStrand
    · exact .next h.bump

theorem State.memoryWf.wake {e : Env} : (e.wake s).memoryWf := h.bump.mapSplit.imageDue

theorem Out.Wf.execSplitWake : Out.Wf (execSplitWake s) := by
  unfold Machine.execSplitWake
  split
  · exact .fault _
  · split
    · split
      · exact .next h.wake.mapSplit
      · exact .next h.bump
    · exact .next h.bump

theorem Out.Wf.wakeOnTime {c : Wake} : Out.Wf (wakeOnTime c s) := by
  unfold Machine.wakeOnTime
  split
  · exact .fault _
  · split
    · split
      · exact .next h.wake
      · exact .next h.bump
    · exact .next h.bump

theorem Out.Wf.execMwaitTimeout : Out.Wf (execMwaitTimeout s) := .wakeOnTime h
theorem Out.Wf.execWaitExpiry : Out.Wf (execWaitExpiry s) := .wakeOnTime h
theorem Out.Wf.execWfiTimeout : Out.Wf (execWfiTimeout s) := .wakeOnTime h

theorem Out.Wf.execCoarseMonitorFire : Out.Wf (execCoarseMonitorFire s) := by
  unfold Machine.execCoarseMonitorFire
  split
  · exact .fault _
  · exact .next h.bump.mapSplit

theorem State.memoryWf.dropLoad {key : Nat} {l : LoadOp} : (s.dropLoad key l).memoryWf := h.rest.mapStrand

theorem Out.Wf.execLateAccessFailure {k : Nat} {why : Late} : Out.Wf (execLateAccessFailure k why s) := by
  unfold Machine.execLateAccessFailure
  split
  · exact .next h.bump
  · split
    · exact .next h.bump
    · split
      · exact .next h.bump
      · split
        · exact .next h.bump.rest
        · exact .next h.bump.dropLoad.takeTrap

theorem Out.Wf.execHeldFaultWrite {die : Nat} : Out.Wf (execHeldFaultWrite die s) := by
  fun_cases Machine.execHeldFaultWrite
  · exact .next h.bump
  · rename_i heq
    exact .next (State.memoryWf.of_fst h.bump.writeFault heq).setDie
  · exact .next h.bump

theorem Out.Wf.execHeldServiceEventWrite {die : Nat} : Out.Wf (execHeldServiceEventWrite die s) := by
  unfold Machine.execHeldServiceEventWrite
  split
  · exact .next h.bump
  · split
    · exact .next h.bump.setDie.countService
    · split
      · rename_i heq
        have h₁ := State.memoryWf.of_fst (h.bump.writeService) heq
        exact .next h₁.setDie
      · rename_i heq
        have h₁ := State.memoryWf.of_fst (h.bump.writeService) heq
        exact .next h.bump

theorem State.memoryWf.setIcache {a : Agent} {t : Sparse (List Byte)} : (s.setIcache a t).memoryWf := by
  unfold State.setIcache
  split
  · exact h.setCore
  · exact h.setLc
  · exact h

theorem State.memoryWf.fillIcache {a : Agent} {n : Nat} {bs : List Byte} : (s.fillIcache a n bs).memoryWf := h.setIcache

theorem State.memoryWf.codeBytes {die : Nat} {p : Place} : (s.codeBytes die p).1.memoryWf := by
  unfold State.codeBytes
  dsimp only
  split
  · split
    · exact h
    · split
      · exact State.memoryWf_homeRead _ _ h
      · exact h.spend
  · split
    · split
      · exact State.memoryWf_homeRead _ _ h
      · exact h.deviceRead
    · exact h.spend

theorem State.memoryWf.fetchBlock {a : Agent} {die : Nat} {p : Place} : (s.fetchBlock a die p).1.memoryWf := by
  unfold State.fetchBlock
  dsimp only
  split
  · split
    · exact h.spend
    · exact h.spend.codeBytes
  · exact h.codeBytes

theorem State.memoryWf.fetch {e : Env} : (e.fetch s).memoryWf := by
  unfold Env.fetch
  refine h.mapSplit.envSpace.checkAll.checked fun h₁ => ?_
  split
  · exact .ite h₁.raise h₁.fetchBlock.fillIcache.bump.mapSplit
  · exact h₁

theorem Out.Wf.execInstructionFetch : Out.Wf (execInstructionFetch s) := by
  unfold Machine.execInstructionFetch
  split
  · exact .fault _
  · split
    · exact .next h.fetch
    · exact .next h.bump

theorem Out.Wf.execNotAnInstruction : Out.Wf (execNotAnInstruction s) := by
  unfold Machine.execNotAnInstruction
  split
  · exact .fault _
  · split
    · exact .next h.raise
    · exact .next h.bump

/-! ### The debug unit -/

theorem Out.Wf.execPcComparatorHit {w : Who} {comparator : Nat} : Out.Wf (execPcComparatorHit w comparator s) := by
  unfold Machine.execPcComparatorHit
  split
  · exact .next h.bump
  · dsimp only
    split
    · exact .next h.bump.mapSplit.debugReport
    · exact .next h.bump.mapSplit.debugReport.mapStrand.debugStop

theorem Out.Wf.letGo {step : Bool} : Out.Wf (s.letGo step) := by
  unfold State.letGo
  split
  · exact .fault _
  · split
    · exact .next h.bump
    · exact .next h.bump.mapSplit

theorem Out.Wf.execZouStep : Out.Wf (execZouStep s) := by
  unfold Machine.execZouStep
  split
  · exact .fault _
  · split
    · exact .next h.bump.mapSplit
    · exact .letGo h

theorem Out.Wf.execZouResume : Out.Wf (execZouResume s) := .letGo h
theorem State.memoryWf.reportStep {w : Who} {pc : DWord} : (s.reportStep w pc).memoryWf := h.debugReport.count

theorem State.memoryWf.endStepOf {w : Who} : (s.endStepOf w).memoryWf := by
  unfold State.endStepOf
  split
  · split
    · exact h
    · dsimp only
      split
      · exact h
      · split
        · exact h.mapSplit.mapSplit.reportStep
        · exact h.mapSplit.reportStep
  · dsimp only
    split
    · exact .ite h.setLc.reportStep h
    · exact .ite h.mapSplit.reportStep h
  · split
    · exact .ite h.mapSplit.reportStep h
    · exact h

theorem State.memoryWf.endStep {w : Who} : (s.endStep w).memoryWf := by
  unfold State.endStep
  split
  · exact State.memoryWf_foldl _ (fun _ _ h => h.endStepOf) _ h
  · exact h.endStepOf

theorem Out.Wf.execDebugSplitDetach {w : Who} {thread : Nat} : Out.Wf (execDebugSplitDetach w thread s) := by
  unfold Machine.execDebugSplitDetach
  split
  · exact .next h.bump
  · split
    · exact .next h.bump.rest
    · exact .next h.bump.mapStrand

theorem Out.Wf.execDebugSplitReattach {w : Who} {into : Nat} : Out.Wf (execDebugSplitReattach w into s) := .next h.bump.mapStrand

theorem Out.Wf.execZouKill {w : Who} {threads : Mask} : Out.Wf (execZouKill w threads s) := by
  unfold Machine.execZouKill
  split
  · exact .next h.bump.removeThreads
  · exact .next h.bump.removeThreads
  · split
    · exact .next h.bump
    · exact .next h.bump.setLc

theorem State.memoryWf.writeSample {core place : Nat} {x : Team} {w : Who} {k : Split} : (s.writeSample core place x w k).memoryWf := by
  unfold State.writeSample
  dsimp only
  split
  · exact (State.memoryWf_homeRead _ _ h.spend).setCtx.count
  · exact (State.memoryWf_homeWrite _ _ (State.memoryWf_homeRead _ _ h.spend)).setCtx

theorem Out.Wf.execPcSample {core : Nat} : Out.Wf (execPcSample core s) := by
  unfold Machine.execPcSample
  dsimp only
  split
  · exact .next h.bump.setCore
  · split
    · exact .next h.bump.setCore.setCore.writeSample.mapSplit
    · exact .next h.bump.setCore.setCore.writeSample

/-! ### Contexts, the host and starts -/

theorem State.memoryWf.clearV {c : Nat} : (s.clearV c).memoryWf := State.memoryWf_homeWrite _ _ h
theorem State.memoryWf.rejectContext {c cblk : Nat} : (s.rejectContext c cblk).memoryWf := h.clearV.spend.hostEvent.serviceEvent
theorem State.memoryWf.forgetContext {c : Nat} : (s.forgetContext c).memoryWf := h.rest

theorem Out.Wf.execContextCreate {ctx : Nat} : Out.Wf (execContextCreate ctx s) := by
  unfold Machine.execContextCreate
  dsimp only
  split
  · exact .next h.bump
  · split
    · exact .next (State.memoryWf_homeRead _ _ h.bump).rejectContext
    · exact .next (State.memoryWf_homeRead _ _ h.bump).forgetContext.setCtx.rest

theorem State.memoryWf.dropJob {tag : Nat} : (s.dropJob tag).memoryWf := by
  unfold State.dropJob
  split
  · exact .ite h.discardJob h
  · exact h

theorem Out.Wf.execContextTableClear {ctx : Nat} : Out.Wf (execContextTableClear ctx s) := by
  unfold Machine.execContextTableClear
  dsimp only
  split
  · exact .next h.bump
  · split
    · exact .next h.bump.rest.clearV.dropJob
    · split
      · exact .next (.ite h.bump.killContext h.bump.rest.dropJob)
      · exact .next h.bump

theorem Out.Wf.execLaunchDoorbell {ctx : Nat} : Out.Wf (execLaunchDoorbell ctx s) := .next h.bump.ringDoorbell

theorem Out.Wf.execRegisterWrite {offset bytes : Nat} {value : DWord} : Out.Wf (execRegisterWrite offset bytes value s) := by
  unfold Machine.execRegisterWrite
  split
  · exact .next h.bump
  · exact .next h.bump.deviceWrite

theorem State.memoryWf.hostGets {bs : List Byte} : (s.hostGets bs).memoryWf := h.rest

theorem State.memoryWf.hostRead {off n : Nat} : (s.hostRead off n).memoryWf := by
  unfold State.hostRead
  split
  rename_i heq
  exact (State.memoryWf.of_fst (.ite_fst h.deviceRead h) heq).hostGets

theorem Out.Wf.execHostBar2Access {address : Nat} {access : HostAccess} : Out.Wf (execHostBar2Access address access s) := by
  unfold Machine.execHostBar2Access
  dsimp only
  split
  · exact .next h.bump
  · split
    · exact .next (State.memoryWf_homeRead _ _ h.bump).softBytes.hostGets
    · split
      · exact .next (State.memoryWf_homeWrite _ _ h.bump)
      · exact .next h.bump

theorem State.memoryWf.eventTaken {e : List Byte} : (s.eventTaken e).memoryWf := .ite h.setCtx h

theorem Out.Wf.execHostEventWrite : Out.Wf (execHostEventWrite s) := by
  unfold Machine.execHostEventWrite
  split
  · exact .next h.bump
  · dsimp only
    split
    · exact .next h.bump
    · exact .next h.bump.toHost.rest.eventTaken

theorem Out.Wf.execFilairRetrain : Out.Wf (execFilairRetrain s) := .next h.bump.linkHost
theorem Out.Wf.execFilairDown : Out.Wf (execFilairDown s) := .next h.bump.rest
theorem Out.Wf.execFilairReturn : Out.Wf (execFilairReturn s) := .next (.ite h.bump.rest.spend.linkHost h.bump.rest)
theorem State.memoryWf.endCommand {res : Word} : (s.endCommand res).memoryWf := h.rest

theorem Out.Wf.execAttest : Out.Wf (execAttest s) := by
  unfold Machine.execAttest
  split
  · exact .next h.bump.rest.toHost
  · exact .next h.bump

theorem Out.Wf.execReplaceFirmware {image : List Byte} : Out.Wf (execReplaceFirmware image s) := by
  unfold Machine.execReplaceFirmware
  dsimp only
  split
  · exact .next h.bump
  · split
    · exact .next h.bump.endCommand
    · split
      · exact .next h.bump.endCommand
      · exact .next h.bump.rest.endCommand

theorem Out.Wf.execFenceDie : Out.Wf (execFenceDie s) := by
  unfold Machine.execFenceDie
  split
  · exact .next h.bump
  · split
    · exact .next h.bump.endCommand
    · exact .next h.bump.fence.endCommand

theorem State.memoryWf.started {cold : Bool} : (s.started cold).memoryWf := by
  unfold State.started
  exact .noteDegraded (State.memoryWf_foldl _ (fun _ _ h => .ite h.darken h) _ (wf_keep (fun a _ => !cold && s.clean a) h))

theorem State.memoryWf.startFailed {cold : Bool} {step : Nat} : (s.startFailed cold step).memoryWf := by
  change Memory.wf (if (cold && decide (5 ≤ step)) = true then [] else s.mem) = true
  split
  · rfl
  · exact h

theorem State.memoryWf.startOnce {cold : Bool} {o : StartOutcome} : (s.startOnce cold o).memoryWf := by
  cases o with
  | good => exact h.started
  | failed n => exact h.bump.startFailed

theorem Out.Wf.execWarmStart {outcome : StartOutcome} : Out.Wf (execWarmStart outcome s) := .next h.startOnce
theorem Out.Wf.execColdStart {outcome : StartOutcome} : Out.Wf (execColdStart outcome s) := .next h.startOnce

theorem Out.Wf.execStartRetry {outcome : StartOutcome} : Out.Wf (execStartRetry outcome s) := by
  unfold Machine.execStartRetry
  split
  · exact .next h.startOnce
  · exact .next h.bump

theorem Out.Wf.execChannelSpare {stack channel : Nat} : Out.Wf (execChannelSpare stack channel s) := by
  unfold Machine.execChannelSpare
  dsimp only
  split
  · exact .next h.bump.rest
  · split
    · exact .next h.bump
    · exact .next h.bump.rest.noteDegraded

theorem Out.Wf.execSpareCopyEnd {stack : Nat} : Out.Wf (execSpareCopyEnd stack s) := by
  unfold Machine.execSpareCopyEnd
  split
  · exact .next h.bump.rest
  · exact .next h.bump

/-! ### Every instruction and every event -/

theorem Out.Wf.exec {i : Instr} : Out.Wf (exec i s) := by
  cases i with
  | fillWord => exact .execFillWord h
  | add => exact .execAdd h
  | addc => exact .execAddc h
  | sub => exact .execSub h
  | subb => exact .execSubb h
  | mul => exact .execMul h
  | mulh => exact .execMulh h
  | mulw => exact .execMulw h
  | mad => exact .execMad h
  | div => exact .execDiv h
  | rem => exact .execRem h
  | neg => exact .execNeg h
  | abs => exact .execAbs h
  | min => exact .execMin h
  | max => exact .execMax h
  | and => exact .execAnd h
  | or => exact .execOr h
  | xor => exact .execXor h
  | andn => exact .execAndn h
  | orn => exact .execOrn h
  | not => exact .execNot h
  | shl => exact .execShl h
  | shr => exact .execShr h
  | sra => exact .execSra h
  | rot => exact .execRot h
  | clz => exact .execClz h
  | ctz => exact .execCtz h
  | popc => exact .execPopc h
  | brev => exact .execBrev h
  | bfx => exact .execBfx h
  | bfi => exact .execBfi h
  | sel => exact .execSel h
  | cmp => exact .execCmp h
  | lea => exact .execLea h
  | add64 => exact .execAdd64 h
  | sub64 => exact .execSub64 h
  | shl64 => exact .execShl64 h
  | shr64 => exact .execShr64 h
  | cmp64 => exact .execCmp64 h
  | mov => exact .execMov h
  | movw => exact .execMovw h
  | ldc => exact .execLdc h
  | srd => exact .execSrd h
  | swr => exact .execSwr h
  | fadd => exact .execFadd h
  | fsub => exact .execFsub h
  | fmul => exact .execFmul h
  | ffma => exact .execFfma h
  | fmin => exact .execFmin h
  | fmax => exact .execFmax h
  | fabs => exact .execFabs h
  | fneg => exact .execFneg h
  | fcmp => exact .execFcmp h
  | frcp => exact .execFrcp h
  | frsq => exact .execFrsq h
  | fsqrt => exact .execFsqrt h
  | fdiv => exact .execFdiv h
  | fex2 => exact .execFex2 h
  | flg2 => exact .execFlg2 h
  | fsin => exact .execFsin h
  | fcos => exact .execFcos h
  | ftanh => exact .execFtanh h
  | fclass => exact .execFclass h
  | frnd => exact .execFrnd h
  | fscale => exact .execFscale h
  | fdp2 => exact .execFdp2 h
  | cvt => exact .execCvt h
  | cvtsr => exact .execCvtsr h
  | qpk => exact .execQpk h
  | qupk => exact .execQupk h
  | shfl => exact .execShfl h
  | vote => exact .execVote h
  | bal => exact .execBal h
  | redw => exact .execRedw h
  | scanw => exact .execScanw h
  | bcast => exact .execBcast h
  | matchw => exact .execMatchw h
  | nop => exact .execNop h
  | braUniform => exact .execBraUniform h
  | braDivergent => exact .execBraDivergent h
  | brx => exact .execBrx h
  | call => exact .execCall h
  | calx => exact .execCalx h
  | ret => exact .execRet h
  | join => exact .execJoin h
  | exit => exact .execExit h
  | trap => exact .execTrap h
  | brk => exact .execBrk h
  | yieldw => exact .execYieldw h
  | wait => exact .execWait h
  | prog => exact .execProg h
  | ld => exact .execLd h
  | st => exact .execSt h
  | lds => exact .execLds h
  | sts => exact .execSts h
  | ldr => exact .execLdr h
  | str => exact .execStr h
  | atom => exact .execAtom h
  | red => exact .execRed h
  | cas => exact .execCas h
  | fence => exact .execFence h
  | flush => exact .execFlush h
  | inval => exact .execInval h
  | discard => exact .execDiscard h
  | pref => exact .execPref h
  | icinv => exact .execIcinv h
  | mon => exact .execMon h
  | mwait => exact .execMwait h
  | wcdrain => exact .execWcdrain h
  | pdwait => exact .execPdwait h
  | lnext => exact .execLnext h
  | cpmm => exact .execCpmm h
  | coll => exact .execColl h
  | tdset => exact .execTdset h
  | tdget => exact .execTdget h
  | tlset => exact .execTlset h
  | tlst => exact .execTlst h
  | tlwait => exact .execTlwait h
  | tlfree => exact .execTlfree h
  | vclaim => exact .execVclaim h
  | vrel => exact .execVrel h
  | cpin => exact .execCpin h
  | cpout => exact .execCpout h
  | gth => exact .execGth h
  | sct => exact .execSct h
  | opfence => exact .execOpfence h
  | post => exact .execPost h
  | tkwait => exact .execTkwait h
  | tktest => exact .execTktest h
  | tkfree => exact .execTkfree h
  | fcset => exact .execFcset h
  | fcpub => exact .execFcpub h
  | fcstat => exact .execFcstat h
  | bara => exact .execBara h
  | barw => exact .execBarw h
  | bars => exact .execBars h
  | qpush => exact .execQpush h
  | qpop => exact .execQpop h
  | rgive => exact .execRgive h
  | rclaim => exact .execRclaim h
  | sint => exact .execSint h
  | ship => exact .execShip h
  | sret => exact .execSret h
  | tlbinv => exact .execTlbinv h
  | replay => exact .execReplay h
  | ctxkill => exact .execCtxkill h
  | xrd => exact .execXrd h
  | xwr => exact .execXwr h
  | lnch => exact .execLnch h
  | gsave => exact .execGsave h
  | grest => exact .execGrest h
  | cntrd => exact .execCntrd h
  | trial => exact .execTrial h
  | wfi => exact .execWfi h
  | resultReturn => exact .execResultReturn h
  | lateAccessFailure => exact .execLateAccessFailure h
  | splitWake => exact .execSplitWake h
  | heldFaultWrite => exact .execHeldFaultWrite h
  | launchAccept => exact .execLaunchAccept h
  | teamPlacement => exact .execTeamPlacement h
  | scratchpadBlockConversion => exact .execScratchpadBlockConversion h
  | stealMessage => exact .execStealMessage h
  | stageReview => exact .execStageReview h
  | contextTurn => exact .execContextTurn h
  | frequencyStep => exact .execFrequencyStep h
  | copyComplete => exact .execCopyComplete h
  | taskIssue => exact .execTaskIssue h
  | taskComplete => exact .execTaskComplete h
  | cpmmComplete => exact .execCpmmComplete h
  | collectiveComplete => exact .execCollectiveComplete h
  | forecastPrediction => exact .execForecastPrediction h
  | forecastCapture => exact .execForecastCapture h
  | tceCheck => exact .execTceCheck h
  | homeWriteRequest => exact .execHomeWriteRequest h
  | invalidationAck => exact .execInvalidationAck h
  | homeRead => exact .execHomeRead h
  | invalidation => exact .execInvalidation h
  | sharerTimeout => exact .execSharerTimeout h
  | wcbAgeing => exact .execWcbAgeing h
  | writeAcknowledgement => exact .execWriteAcknowledgement h
  | remoteRequest => exact .execRemoteRequest h
  | coarseMonitorFire => exact .execCoarseMonitorFire h
  | mwaitTimeout => exact .execMwaitTimeout h
  | waitExpiry => exact .execWaitExpiry h
  | wfiTimeout => exact .execWfiTimeout h
  | shipRequest => exact .execShipRequest h
  | sectionStart => exact .execSectionStart h
  | sectionOverrun => exact .execSectionOverrun h
  | shipResult => exact .execShipResult h
  | jobBarrierArrival => exact .execJobBarrierArrival h
  | jobBarrierRelease => exact .execJobBarrierRelease h
  | stopMessage => exact .execStopMessage h
  | gangClose => exact .execGangClose h
  | sweepMarker => exact .execSweepMarker h
  | swept => exact .execSwept h
  | gangSwitchTimeout => exact .execGangSwitchTimeout h
  | lateFlit => exact .execLateFlit h
  | restoreMessage => exact .execRestoreMessage h
  | restored => exact .execRestored h
  | restoreTimeout => exact .execRestoreTimeout h
  | go => exact .execGo h
  | stay => exact .execStay h
  | reinjectEnd => exact .execReinjectEnd h
  | running => exact .execRunning h
  | jobAdmit => exact .execJobAdmit h
  | jobFree => exact .execJobFree h
  | flitReceive => exact .execFlitReceive h
  | nak => exact .execNak h
  | linkReplayTimeout => exact .execLinkReplayTimeout h
  | channelDip => exact .execChannelDip h
  | channelLossDecision => exact .execChannelLossDecision h
  | stripe => exact .execStripe h
  | channelRestore => exact .execChannelRestore h
  | stripeTimeout => exact .execStripeTimeout h
  | portTrain => exact .execPortTrain h
  | keyRefresh => exact .execKeyRefresh h
  | routeUpdate => exact .execRouteUpdate h
  | lossNotice => exact .execLossNotice h
  | requestTimeout => exact .execRequestTimeout h
  | deviceUnreachable => exact .execDeviceUnreachable h
  | deviceReachable => exact .execDeviceReachable h
  | laserFault => exact .execLaserFault h
  | laserRemoved => exact .execLaserRemoved h
  | laserReturn => exact .execLaserReturn h
  | portDisable => exact .execPortDisable h
  | portEnable => exact .execPortEnable h
  | contextCreate => exact .execContextCreate h
  | contextTableClear => exact .execContextTableClear h
  | launchDoorbell => exact .execLaunchDoorbell h
  | hostEventWrite => exact .execHostEventWrite h
  | hostBar2Access => exact .execHostBar2Access h
  | filairRetrain => exact .execFilairRetrain h
  | gangSave => exact .execGangSave h
  | gangRestore => exact .execGangRestore h
  | attest => exact .execAttest h
  | replaceFirmware => exact .execReplaceFirmware h
  | fenceDie => exact .execFenceDie h
  | warmStart => exact .execWarmStart h
  | coldStart => exact .execColdStart h
  | startRetry => exact .execStartRetry h
  | channelSpare => exact .execChannelSpare h
  | spareCopyEnd => exact .execSpareCopyEnd h
  | registerWrite => exact .execRegisterWrite h
  | pcComparatorHit => exact .execPcComparatorHit h
  | zouStep => exact .execZouStep h
  | zouResume => exact .execZouResume h
  | debugSplitDetach => exact .execDebugSplitDetach h
  | debugSplitReattach => exact .execDebugSplitReattach h
  | zouKill => exact .execZouKill h
  | pcSample core => exact (.execPcSample h : Out.Wf (Machine.execPcSample core s))
  | delayExchange => exact .execDelayExchange h
  | trialEnd => exact .execTrialEnd h
  | instructionFetch => exact .execInstructionFetch h
  | notAnInstruction => exact .execNotAnInstruction h
  | powerOn => exact .execPowerOn h
  | dieToDieLinkFailure => exact .execDieToDieLinkFailure h
  | filairDown => exact .execFilairDown h
  | filairReturn => exact .execFilairReturn h
  | heldServiceEventWrite => exact .execHeldServiceEventWrite h
  | channelSignalReturn => exact .execChannelSignalReturn h

/-! ### Turns -/

theorem State.memoryWf.charge {w : Who} {k : Split} {clocks : Nat} : (s.charge w k clocks).memoryWf := by
  unfold State.charge
  dsimp only
  split
  · exact .ite h.setCtx.mapSplit h
  · exact h

theorem State.memoryWf.onLane {w : Who} {pc : DWord} : (s.onLane w pc).memoryWf := by
  unfold State.onLane
  split
  · split
    · exact h.setCore
    · exact h
  · split
    · exact h.setCore
    · exact h
  · exact h

theorem State.memoryWf.counted {w : Who} {k : Split} {i : Instr} : (s.counted w k i).memoryWf := h.count.count.count.onLane.charge.mapSplit
theorem State.memoryWf.issuing {w : Who} {k : Split} {i : Instr} : (s.issuing w k i).memoryWf := .ite h.rest (.ite h.rest.mapSplit h.rest.counted)

omit h in
theorem Out.Wf.ending {w : Who} {o : Out} (h : Out.Wf o) : Out.Wf (ending w o) := by
  cases o with
  | next s => exact .next (h s rfl).endStep
  | fault | refused => exact h

theorem Out.Wf.issue {w : Who} : Out.Wf (issue w s) := by
  unfold Machine.issue
  split
  · exact .fault _
  · dsimp only
    split
    · exact .ending (.exec h.rest)
    · split
      · exact .exec h
      · split
        · exact .ending (.exec h.issuing)
        · exact .ending (.exec h.rest.mapSplit)

theorem State.memoryWf.startService : s.startService.memoryWf := by
  unfold State.startService
  split
  · exact h
  · exact h.setLc.rest

theorem State.memoryWf.replayNext : FoundWf s.replayNext := by
  refine .findSome? fun x => ?_
  obtain ⟨j, _ | ⟨f, rest⟩⟩ := x
  · exact .none
  · exact .ite (.some h.rest.passOn) .none

theorem State.memoryWf.passNext : FoundWf s.passNext := .map fun _ _ => h.rest.passOn.owe
theorem State.memoryWf.injectNext : FoundWf s.injectNext := .map fun _ _ => .buffer h.rest
theorem State.memoryWf.handOver : FoundWf s.handOver := .map fun _ _ => h.rest.count.inject
theorem State.memoryWf.creditNext : FoundWf s.creditNext := .findSome? fun _ => .ite .none (.map fun _ _ => h.setPort)

theorem State.memoryWf.routerStep : FoundWf s.routerStep := by
  have found : FoundWf (s.replayNext <|> s.reroute.passNext <|> s.injectNext <|> s.handOver <|> s.creditNext) :=
    .orElse h.replayNext (.orElse h.reroute.passNext (.orElse h.injectNext (.orElse h.handOver h.creditNext)))
  exact .map fun t ht => (found t ht).bump

theorem Out.Wf.runTurn {t : Turn} : Out.Wf (runTurn t s) := by
  cases t with
  | issue w => exact .issue h
  | about w i => exact .ending (.exec h.rest)
  | event i => exact .exec h
  | input =>
    unfold Machine.runTurn
    dsimp only
    split
    · exact .next h.bump
    · exact .ite (.exec h.rest) (.next h.bump.rest)
  | router => exact .next (h.routerStep.getD h.bump)
  | service => exact .next h.bump.startService
  | farStop =>
    unfold Machine.runTurn
    dsimp only
    split
    · exact .next h.bump
    · exact .next h.bump.rest.farStop
  | hostRead =>
    unfold Machine.runTurn
    dsimp only
    split
    · exact .next h.bump
    · exact .next h.bump.rest.hostRead

theorem State.memoryWf.payTeam {t : Nat} {x : Team} {core dt : Nat} : (s.payTeam t x core dt).memoryWf := .ite h h.mapTeam.count

theorem State.memoryWf.tickCore {c dt : Nat} : (s.tickCore c dt).memoryWf :=
  State.memoryWf_foldl _ (fun _ _ h => h.payTeam.mapTeam) _ (State.memoryWf_foldl _ (fun _ _ h => h.count) _ h.setCore)

theorem State.memoryWf.tickEngines {c dt : Nat} : (s.tickEngines c dt).memoryWf := State.memoryWf_foldl _ (fun _ _ h => h.count) _ h
theorem State.memoryWf.tickLc {l dt : Nat} : (s.tickLc l dt).memoryWf := h.setLc
theorem State.memoryWf.tickDie {d dt : Nat} : (s.tickDie d dt).memoryWf := h.setDie.rest.rest

theorem State.memoryWf.tick : s.tick.memoryWf :=
  .spend (State.memoryWf_foldl _ (fun _ _ h => h.tickDie) _ (State.memoryWf_foldl _ (fun _ _ h => h.tickLc) _ (State.memoryWf_foldl _
    (fun _ _ h => h.tickCore.tickEngines) _ h)))

theorem Out.Wf.advance : Out.Wf (advance s) := by
  unfold Machine.advance
  dsimp only
  split
  · exact .next h.observe.tick.settleGone.endLaunches.keepBlocks.keepImages.bump
  · exact .runTurn h.observe.tick.settleGone.endLaunches.keepBlocks.keepImages.spend

/-! ### One step -/

theorem Out.Wf.step : Out.Wf (step s) := by
  unfold Machine.step
  split
  · exact .runTurn h.rest
  · exact .advance h

end

/-- Settles O58: what a step does is a turn, and every turn keeps the form. -/
theorem stepKeepsMemoryForm : Obligations.StepKeepsMemoryForm := by
  intro s t hs ht
  exact Out.Wf.step hs t ht

end Sys2Proof.Machine

/-! Fences and drains (R223, R234, R242, R278, R288 to R290): what they send, what they drop, and what they wait for. -/

namespace Sys2Proof.Machine

/-! ### Going on and waiting in a state that has changed beside the strand -/

/-- What an instruction leaves of its strand while it works: registers, status and trap registers, and every split where it stands. -/
structure Strand.Holds (st st' : Strand) : Prop where
  regs   : st'.regs = st.regs
  sstat  : st'.sstat = st.sstat
  live   : st'.live = st.live
  nreg   : st'.nreg = st.nreg
  epc    : st'.epc = st.epc
  ecause : st'.ecause = st.ecause
  eaddr  : st'.eaddr = st.eaddr
  length : st'.splits.length = st.splits.length
  places : ∀ j, (st'.split j).pc = (st.split j).pc ∧ (st'.split j).exm = (st.split j).exm

theorem Strand.Holds.refl (st : Strand) : st.Holds st := ⟨rfl, rfl, rfl, rfl, rfl, rfl, rfl, rfl, fun _ => ⟨rfl, rfl⟩⟩

theorem Strand.Holds.trans {st st' st'' : Strand} (h : st.Holds st') (h' : st'.Holds st'') : st.Holds st'' where
  regs     := h'.regs.trans h.regs
  sstat    := h'.sstat.trans h.sstat
  live     := h'.live.trans h.live
  nreg     := h'.nreg.trans h.nreg
  epc      := h'.epc.trans h.epc
  ecause   := h'.ecause.trans h.ecause
  eaddr    := h'.eaddr.trans h.eaddr
  length   := h'.length.trans h.length
  places j := ⟨(h'.places j).1.trans (h.places j).1, (h'.places j).2.trans (h.places j).2⟩

theorem Strand.holds_mapSplit (st : Strand) (k : Nat) {f : Split → Split} (hf : ∀ k, (f k).pc = k.pc ∧ (f k).exm = k.exm) :
    st.Holds (st.mapSplit k f) :=
  ⟨rfl, rfl, rfl, rfl, rfl, rfl, rfl, length_setNth .., (st.stands_mapSplit k hf).places⟩

theorem Strand.Holds.reg {st st' : Strand} (h : st.Holds st') (n u : Nat) : st'.reg n u = st.reg n u := by
  unfold Strand.reg
  rw [h.regs]

theorem Advances.of_holds {e : Env} {t : State} {st : Strand} {pc : DWord} {sw ends : Bool} {now : Nat}
    (h : t.strand? e.who = some (st.leave e.k pc sw ends now)) (hs : e.st.Holds st) (hsp : e.sp = e.st.split e.k)
    (hlen : e.k < e.st.splits.length) : Advances e t pc := by
  have hself : (st.leave e.k pc sw ends now).split e.k = (st.split e.k).leave pc sw ends now :=
    st.split_mapSplit_self _ _ (by rw [hs.length]; exact hlen)
  refine ⟨_, h, fun n u _ => hs.reg n u, hs.sstat, hs.live, hs.nreg, hs.epc, hs.ecause, hs.eaddr, ?_, ?_, fun j hj => ?_⟩
  · rw [hself, Split.leave_pc]
  · rw [hself, Split.leave_exm, (hs.places _).2, hsp]
  · rw [Strand.leave, st.split_mapSplit_ne _ hj]
    exact hs.places j

/-- R314: what makes a split wait. -/
def Split.waiting (k : Split) (c : Wake) : Split := { k with st := .interlock, again := true, park := some { reason := 0, cond := c } }

/-- R314: a strand waits at its instruction for a condition. -/
structure Interlocked (e : Env) (c : Wake) (mark : Option Nat) (st : Strand) : Prop where
  holds : e.st.Holds st
  state : (st.split e.k).st = .interlock
  again : (st.split e.k).again = true
  pc    : (st.split e.k).pc = e.sp.pc
  mark  : (st.split e.k).mark = mark
  cond  : (st.split e.k).park.map Park.cond = some c

theorem Strand.Holds.interlocked {e : Env} {st : Strand} (hs : e.st.Holds st) (hsp : e.sp = e.st.split e.k) (hlen : e.k < e.st.splits.length)
    (c : Wake) : Interlocked e c (st.split e.k).mark (st.mapSplit e.k fun k => k.waiting c) := by
  have hself := st.split_mapSplit_self e.k (fun k => k.waiting c) (by rw [hs.length]; exact hlen)
  have hwait := hs.trans (st.holds_mapSplit e.k (f := fun k => k.waiting c) fun _ => ⟨rfl, rfl⟩)
  exact ⟨hwait, by rw [hself]; rfl, by rw [hself]; rfl, by rw [(hwait.places _).1, hsp], by rw [hself]; rfl, by rw [hself]; rfl⟩

theorem Env.retire_mem (e : Env) (i : Instr) (u : State) : (e.retire i u).mem = u.mem := State.mapSplit_mem ..
theorem Env.interlock_mem (e : Env) (c : Wake) (u : State) : (e.interlock c u).mem = u.mem := State.mapSplit_mem ..

theorem Env.retire_core (e : Env) (i : Instr) (u : State) : (e.retire i u).core = u.core := by
  funext c
  exact congrArg (readOr {} · c) (State.mapSplit_cores ..)

theorem Env.interlock_core (e : Env) (c : Wake) (u : State) : (e.interlock c u).core = u.core := by
  funext c
  exact congrArg (readOr {} · c) (State.mapSplit_cores ..)

section
variable {i : Instr} {s s' u : State} {e : Env} {st : Strand} {body : Env → State → State}

/-- An instruction that goes on from a state in which its strand stands as at the entry. -/
theorem Enters.goesOn (h : Enters i s s' e) (hx : exec i s = act i s body) (hb : body e s' = e.retire i u)
    (hu : u.strand? e.who = some st) (hs : e.st.Holds st) :
    ∃ n, exec i s = .next { e.retire i u with oracle := n } ∧ Advances e { e.retire i u with oracle := n } (e.next i) := by
  obtain ⟨n, hn⟩ := h.run body
  obtain ⟨-, hk, hsp, -⟩ := State.env_fields h.env
  have hleft := (((Only.refl hu).retire i).oracle n).strand
  exact ⟨n, by rw [hx, hn, hb], Advances.of_holds (hk ▸ hleft) hs hsp h.split⟩

theorem Only.interlock {t : State} (h : Only e.who s t st) (hk : e.k = splitNo e.who) (c : Wake) :
    Only e.who s (e.interlock c t) (st.mapSplit e.k fun k => k.waiting c) :=
  hk ▸ h.bump.mapStrand fun st => st.mapSplit (splitNo e.who) fun k => k.waiting c

/-- R314: an instruction that waits at its own address. -/
theorem Enters.interlocks {c : Wake} (h : Enters i s s' e) (hx : exec i s = act i s body) (hb : body e s' = e.interlock c u)
    (hu : u.strand? e.who = some st) :
    ∃ n, exec i s = .next { e.interlock c u with oracle := n } ∧
      ({ e.interlock c u with oracle := n } : State).strand? e.who = some (st.mapSplit e.k fun k => k.waiting c) := by
  obtain ⟨n, hn⟩ := h.run body
  obtain ⟨-, hk, -⟩ := State.env_fields h.env
  exact ⟨n, by rw [hx, hn, hb], (((Only.refl hu).interlock hk c).oracle n).strand⟩

end

/-! ### What an acquire drops -/

theorem sends_staleFills (s : State) (c : Nat) (p : Nat → Bool → Nat → Bool) : Sends s (s.staleFills c p) :=
  ⟨rfl, rfl, rfl, rfl, Nat.le_refl _, fun _ _ => rfl⟩

/-- R218, R223: does a core drop a line, which a test on line, `si` and ASID picks. -/
def State.drops (s : State) (p : Nat → Bool → Nat → Bool) (k : Nat) (l : Line) : Bool := p k l.si l.asid && (!l.uo || s.takesUo)

/-- R223: the state in which a core has sent the dirty bytes of the lines that it drops. -/
def State.sentBack (s : State) (c : Nat) (p : Nat → Bool → Nat → Bool) : State :=
  ((keep (s.core c).l1 (s.drops p)).map Prod.fst).foldl (fun v line => v.writeBack c line) s

theorem State.dropLines_eq (s : State) (c : Nat) (p : Nat → Bool → Nat → Bool) :
    s.dropLines c p = (((s.sentBack c p).setCore c { (s.sentBack c p).core c with
      l1 := keep ((s.sentBack c p).core c).l1 fun k l => !s.drops p k l }).staleFills c p).spend 1 := rfl

theorem sends_spend (s : State) (n : Nat) : Sends s (s.spend n) := ⟨rfl, rfl, rfl, rfl, Nat.le_refl _, fun _ _ => rfl⟩

theorem sends_dropLines (s : State) (c : Nat) (p : Nat → Bool → Nat → Bool) : Sends s (s.dropLines c p) := by
  have hback : Sends s (s.sentBack c p) := Sends.foldl (fun s line => sends_writeBack s c line none) _ s
  rw [State.dropLines_eq]
  exact ((hback.trans (sends_setCore _ _ _)).trans (sends_staleFills _ _ _)).trans (sends_spend _ _)

/-- R181, R223, R235: an acquire marks its split; what else it does sends write-backs alone. -/
theorem sends_acquire (s : State) (a : Agent) (asid : Nat) (sc : Scope) (r : Releaser) :
    Sends (s.mapSplit r.who fun k => { k with acqAt := s.nextKey }) (s.acquire a asid sc (some r)) := by
  unfold State.acquire
  dsimp only
  generalize (s.mapSplit r.who fun k => { k with acqAt := s.nextKey }) = u
  have hrdc (u : State) (x : Die) (p : Nat → Nat → Bool) : Sends u ((u.setDie a.die x).staleFar a.die p) :=
    ⟨rfl, rfl, rfl, rfl, Nat.le_refl _, fun _ _ => rfl⟩
  split
  · exact sends_dropLines ..
  · exact ((sends_writeBackAll ..).trans (sends_dropLines ..)).trans (hrdc _ _ _)
  · exact (sends_writeBackAll ..).trans (sends_dropLines ..)
  · exact hrdc _ _ _
  · exact .refl u

/-- An acquire leaves the strand of its split where it stood. -/
theorem acquire_holds {e : Env} {u : State} {st : Strand} (hu : u.strand? e.who = some st) (sc : Scope) :
    ∃ st', (u.acquire e.agent e.ctx.asid sc e.releaser).strand? e.who = some st' ∧ st.Holds st' := by
  refine ⟨_, ((sends_acquire u e.agent e.ctx.asid sc _).strand? e.who).trans (State.strand?_mapSplit _ hu), ?_⟩
  exact st.holds_mapSplit _ fun _ => ⟨rfl, rfl⟩

theorem acquire_mem (e : Env) (u : State) (sc : Scope) : (u.acquire e.agent e.ctx.asid sc e.releaser).mem = u.mem :=
  (sends_acquire u e.agent e.ctx.asid sc _).mem.trans (State.mapSplit_mem ..)

theorem holds_of_look_keep {α : Type} {t : Sparse α} {p : Nat → α → Bool} {n : Nat} {x : α} (h : look (keep t p) n = some x) : p n x = true := by
  induction t with
  | nil => cases h
  | cons q t ih =>
    obtain ⟨k, v⟩ := q
    simp only [keep, List.filter_cons] at h
    split at h
    · rename_i hp
      rw [look] at h
      split at h
      · rename_i hk
        cases h
        exact hk ▸ hp
      · exact ih h
    · exact ih h

theorem mem_of_look {α : Type} {t : Sparse α} {n : Nat} {x : α} (h : look t n = some x) : (n, x) ∈ t := by
  induction t with
  | nil => cases h
  | cons q t ih =>
    obtain ⟨k, v⟩ := q
    rw [look] at h
    split at h
    · rename_i hk
      cases h
      exact hk ▸ List.mem_cons_self
    · exact List.mem_cons_of_mem _ (ih h)

/-- R218: no line that a core drops stays in its L1. -/
theorem dropLines_drops {s : State} {c line : Nat} {p : Nat → Bool → Nat → Bool} {l : Line}
    (h : look ((s.dropLines c p).core c).l1 line = some l) : s.drops p line l = false := by
  rw [State.dropLines_eq] at h
  have hl1 (v : State) (x : Core) : ((((v.setCore c x).staleFills c p).spend 1).core c) = x := State.core_setCore v c x
  rw [hl1] at h
  simpa using holds_of_look_keep (p := fun k l => !s.drops p k l) h

/-! ### What a release cleans -/

theorem foldl_keeps {α β : Type} {f : State → α → State} (g : State → β) (hf : ∀ s x, g (f s x) = g s) (xs : List α) (s : State) :
    g (xs.foldl f s) = g s := by
  induction xs generalizing s with
  | nil => rfl
  | cons x xs ih => exact (ih _).trans (hf s x)

theorem writeBack_dev (s : State) (c line : Nat) (by_ : Option Releaser) : (s.writeBack c line by_).dev = s.dev := by
  unfold State.writeBack
  split
  · rfl
  · split <;> rfl

/-- R223: the line of which the dirty bytes leave stays, clean; every other line stays as it is. -/
theorem look_writeBack (s : State) (c k line : Nat) (by_ : Option Releaser) :
    look ((s.writeBack c k by_).core c).l1 line =
      if line = k then (look (s.core c).l1 line).map fun l => { l with dirty := 0 } else look (s.core c).l1 line := by
  unfold State.writeBack
  cases hl : look (s.core c).l1 k with
  | none =>
    dsimp only
    split
    · rename_i hk
      rw [hk, hl]
      rfl
    · rfl
  | some l =>
    dsimp only
    by_cases hd : l.dirty = 0
    · rw [if_pos hd]
      split
      · rename_i hk
        rw [hk, hl, Option.map_some, ← hd]
      · rfl
    · rw [if_neg hd, State.core_setCore]
      dsimp only
      rw [look_place]
      split
      · rename_i hk
        rw [hk, hl]
        rfl
      · rfl

theorem look_writeBacks (s : State) (c line : Nat) (by_ : Option Releaser) (ks : List Nat) :
    look ((ks.foldl (fun s line => s.writeBack c line by_) s).core c).l1 line =
      if line ∈ ks then (look (s.core c).l1 line).map fun l => { l with dirty := 0 } else look (s.core c).l1 line := by
  induction ks generalizing s with
  | nil => rfl
  | cons k ks ih =>
    rw [List.foldl_cons, ih, look_writeBack]
    by_cases hk : line = k
    · by_cases hm : line ∈ ks <;> simp [hk, hk ▸ hm, Function.comp_def]
    · simp [hk]

/-- R223: of a line of an L1 no dirty byte stays after every dirty byte has left, but on UO pages. -/
theorem writeBackAll_cleans {s : State} {c line : Nat} {by_ : Option Releaser} {l : Line}
    (h : look ((s.writeBackAll c by_).core c).l1 line = some l) : l.uo = true ∨ l.dirty = 0 := by
  rw [State.writeBackAll, look_writeBacks] at h
  split at h
  · obtain ⟨l', -, rfl⟩ := Option.map_eq_some_iff.mp h
    exact .inr rfl
  · rename_i hk
    refine .inl (Bool.eq_true_of_not_eq_false fun huo => hk ?_)
    exact List.mem_map.mpr ⟨(line, l), List.mem_filter.mpr ⟨mem_of_look h, by simp [huo]⟩, rfl⟩

theorem sendWcb_l1 (s : State) (c line : Nat) : ((s.sendWcb c line).core c).l1 = (s.core c).l1 := by
  unfold State.sendWcb
  split
  · rfl
  · have hcore := State.core_setCore s c { s.core c with wcb := unlist (s.core c).wcb line }
    exact (congrArg Core.l1 hcore :)

theorem release_cleans {s : State} {c line : Nat} {sc : Scope} {by_ : Option Releaser} {l : Line} (hsc : sc ≠ .team)
    (h : look ((s.release (.wide c) sc by_).core c).l1 line = some l) : l.uo = true ∨ l.dirty = 0 := by
  cases sc with
  | team => exact absurd rfl hsc
  | die | dev => exact writeBackAll_cleans h
  | sys =>
    have hl1 (u : State) (ks : List Nat) : ((ks.foldl (fun s line => s.sendWcb c line) u).core c).l1 = (u.core c).l1 :=
      foldl_keeps (fun s => (s.core c).l1) (fun s line => sendWcb_l1 s c line) ks u
    exact writeBackAll_cleans (by rw [← h]; exact congrArg (look · line) (hl1 _ _).symm)

theorem writeBackAll_dev (s : State) (c : Nat) (by_ : Option Releaser) : (s.writeBackAll c by_).dev = s.dev :=
  foldl_keeps State.dev (fun s line => writeBack_dev s c line by_) _ s

/-- R223, R235: what an acquire of die or device scope leaves in the L1 of its core. -/
theorem acquire_drops {s : State} {c asid line : Nat} {sc : Scope} {r : Releaser} {l : Line} (hteam : sc ≠ .team) (hsys : sc ≠ .sys)
    (h : look ((s.acquire (.wide c) asid sc (some r)).core c).l1 line = some l) : l.uo = true ∨ (l.si = true ∧ lineDev line ≠ s.dev) := by
  have hd : ∃ u : State, u.drops (fun k si _ => !si || decide (lineDev k = s.dev)) line l = false := by
    cases sc with
    | team => exact absurd rfl hteam
    | sys => exact absurd rfl hsys
    | die | dev => exact ⟨_, dropLines_drops h⟩
  obtain ⟨u, hu⟩ := hd
  simp only [State.drops, Bool.and_eq_false_iff, Bool.or_eq_false_iff, Bool.not_eq_false', decide_eq_false_iff_not] at hu
  exact hu.elim .inr fun hu => .inl hu.1

/-! ### `fence` -/

section
variable {o : Mem} {s s' : State} {e : Env}

def fenceReleases (o : Mem) : Bool := decide (o.ord ≠ .acq)
def fenceAcquires (o : Mem) : Bool := decide (o.ord = .acq) || decide (o.ord = .ar)

/-- R278: what a fence does in the state in which it takes effect. -/
def Env.fence (e : Env) (o : Mem) (s : State) : State :=
  if e.exm o.p = 0 || e.dropped then e.retire (.fence o) s
  else if fenceAcquires o && s.strongOf e (e.exm o.p) then e.interlock (.strong (e.exm o.p)) s
  else if o.ord = .acq then
    if s.awaitsPath e.who (e.exm o.p) then e.interlock (.returned (e.exm o.p)) s else e.fenced o s
  else e.drain (o.sc = .sys) (fun s => s.release e.agent o.sc e.releaser) (e.fenced o) s

theorem exec_fence (o : Mem) (s : State) : exec (.fence o) s = act (.fence o) s fun e s => e.fence o s := rfl

/-- R223: the state in which a fence has sent what it releases. -/
def Env.fenceReleased (e : Env) (o : Mem) (s : State) : State := if fenceReleases o then s.release e.agent o.sc e.releaser else s

/-- R223, R235: the state in which a fence has dropped what it acquires anew. -/
def Env.fenceAcquired (e : Env) (o : Mem) (s : State) : State :=
  if fenceAcquires o then (e.fenceReleased o s).acquire e.agent e.ctx.asid o.sc e.releaser else e.fenceReleased o s

theorem sends_fenceReleased (e : Env) (o : Mem) (s : State) : Sends s (e.fenceReleased o s) := by
  unfold Env.fenceReleased
  split
  · exact sends_release ..
  · exact .refl s

theorem fenceAcquired_holds (hs : s'.strand? e.who = some e.st) : ∃ st, (e.fenceAcquired o s').strand? e.who = some st ∧ e.st.Holds st := by
  have hv := ((sends_fenceReleased e o s').strand? e.who).trans hs
  unfold Env.fenceAcquired
  split
  · exact acquire_holds hv o.sc
  · exact ⟨_, hv, .refl _⟩

theorem fenceAcquired_mem (e : Env) (o : Mem) (s : State) : (e.fenceAcquired o s).mem = s.mem := by
  unfold Env.fenceAcquired
  split
  · exact (acquire_mem ..).trans (sends_fenceReleased e o s).mem
  · exact (sends_fenceReleased e o s).mem

theorem fence_acts (hm : e.exm o.p ≠ 0) (hd : e.dropped = false) : ¬(decide (e.exm o.p = 0) || e.dropped) = true := by
  rw [hd, Bool.or_false, decide_eq_true_iff]
  exact hm

/-- R242: what a fence waits for before it acts. -/
structure Env.FenceReady (e : Env) (o : Mem) (s : State) : Prop where
  dropped  : e.dropped = false
  strong   : fenceAcquires o = true → s.strongOf e (e.exm o.p) = false
  returned : fenceReleases o = false → s.awaitsPath e.who (e.exm o.p) = false
  drained  : fenceReleases o = true → e.sp.mark = none ∧
    (e.fenceReleased o s).drained e.agent e.who (e.fenceReleased o s).nextKey (decide (o.sc = .sys)) = true

theorem fence_ready (hm : e.exm o.p ≠ 0) (h : e.FenceReady o s) : e.fence o s = e.fenced o (e.fenceReleased o s) := by
  obtain ⟨hd, hs, hr, hdr⟩ := h
  unfold Env.fence
  rw [if_neg (fence_acts hm hd), if_neg (by simpa using hs)]
  by_cases ha : o.ord = .acq
  · have hrel : fenceReleases o = false := by simp [fenceReleases, ha]
    rw [if_pos ha, hr hrel, if_neg Bool.false_ne_true, Env.fenceReleased, hrel, if_neg Bool.false_ne_true]
  · have hrel : fenceReleases o = true := by simp [fenceReleases, ha]
    have hv : e.fenceReleased o s = s.release e.agent o.sc e.releaser := by rw [Env.fenceReleased, if_pos hrel]
    rw [if_neg ha, hv]
    obtain ⟨hmark, hdrained⟩ := hdr hrel
    exact Env.drain_ready hmark (hv ▸ hdrained)

/-- R278: a fence whose drops need no write-back, or are acknowledged, goes on. -/
theorem fenced_goesOn (h : fenceAcquires o = true →
      (e.fenceAcquired o s).acknowledged e.agent (e.fenceReleased o s).nextKey (e.fenceAcquired o s).nextKey = true) :
    e.fenced o (e.fenceReleased o s) = e.retire (.fence o) (e.fenceAcquired o s) := by
  unfold Env.fenced
  unfold Env.fenceAcquired at h ⊢
  by_cases ha : fenceAcquires o = true
  · rw [if_pos ha] at h ⊢
    exact (if_pos ha).trans (if_pos (h ha))
  · rw [if_neg ha]
    exact if_neg ha

theorem fenced_waits (ha : fenceAcquires o = true)
    (h : (e.fenceAcquired o s).acknowledged e.agent (e.fenceReleased o s).nextKey (e.fenceAcquired o s).nextKey = false) :
    e.fenced o (e.fenceReleased o s) =
      e.interlock (.acked (e.fenceReleased o s).nextKey (e.fenceAcquired o s).nextKey) (e.fenceAcquired o s) := by
  unfold Env.fenced
  unfold Env.fenceAcquired at h ⊢
  rw [if_pos ha] at h ⊢
  exact (if_pos ha).trans (if_neg (by rw [h]; exact Bool.false_ne_true))

/-- R242: a releasing fence marks what has been sent before it, and waits for it. -/
theorem fence_marks (hm : e.exm o.p ≠ 0) (hd : e.dropped = false) (hs : fenceAcquires o = true → s.strongOf e (e.exm o.p) = false)
    (hrel : fenceReleases o = true) (hmark : e.sp.mark = none)
    (hdr : (e.fenceReleased o s).drained e.agent e.who (e.fenceReleased o s).nextKey (decide (o.sc = .sys)) = false) :
    e.fence o s = e.interlock (.drained (e.fenceReleased o s).nextKey (decide (o.sc = .sys)))
      ((e.fenceReleased o s).mapSplit e.who fun k => { k with mark := some (e.fenceReleased o s).nextKey }) := by
  have ha : o.ord ≠ .acq := by simpa [fenceReleases] using hrel
  have hv : e.fenceReleased o s = s.release e.agent o.sc e.releaser := by rw [Env.fenceReleased, if_pos hrel]
  rw [hv] at hdr ⊢
  unfold Env.fence Env.drain
  rw [if_neg (fence_acts hm hd), if_neg (by simpa using hs), if_neg ha, hmark]
  exact if_neg (by rw [hdr]; exact Bool.false_ne_true)

/-- R223, R235: what stays in the L1 of a core after a fence. -/
def FenceDrops (e : Env) (o : Mem) (s t : State) : Prop :=
  ∀ c, e.agent = .wide c → o.sc ≠ .team → ∀ line l, look (t.core c).l1 line = some l →
    l.uo = true ∨ ((fenceReleases o = true → fenceAcquires o = false → l.dirty = 0) ∧
      (fenceAcquires o = true → o.sc ≠ .sys → l.si = true ∧ lineDev line ≠ s.dev))

theorem fenceReleased_dev {c : Nat} (hc : e.agent = .wide c) (hsys : o.sc ≠ .sys) : (e.fenceReleased o s).dev = s.dev := by
  unfold Env.fenceReleased
  split
  · rw [hc]
    cases hsc : o.sc with
    | team => rfl
    | sys => exact absurd hsc hsys
    | die | dev => exact writeBackAll_dev ..
  · rfl

theorem fenceAcquired_drops (e : Env) (o : Mem) (s : State) : FenceDrops e o s (e.fenceAcquired o s) := by
  intro c hc hteam line l hl
  unfold Env.fenceAcquired at hl
  by_cases ha : fenceAcquires o = true
  · rw [if_pos ha] at hl
    by_cases hsys : o.sc = .sys
    · exact .inr ⟨fun _ h => absurd ha (by rw [h]; exact Bool.false_ne_true), fun _ h => absurd hsys h⟩
    · rw [hc] at hl
      refine (acquire_drops hteam hsys hl).imp_right fun hkept => ⟨fun _ h => absurd ha (by rw [h]; exact Bool.false_ne_true), fun _ _ => ?_⟩
      rwa [fenceReleased_dev hc hsys] at hkept
  · rw [if_neg ha, Env.fenceReleased] at hl
    have hrel : fenceReleases o = true := by
      have hord : o.ord ≠ .acq := fun h => ha (by simp [fenceAcquires, h])
      simpa [fenceReleases] using hord
    rw [if_pos hrel, hc] at hl
    exact (release_cleans hteam hl).imp_right fun hclean => ⟨fun _ _ => hclean, fun h => absurd h ha⟩

theorem FenceDrops.congr {u t : State} (h : FenceDrops e o s u) (ht : t.core = u.core) : FenceDrops e o s t := by
  unfold FenceDrops
  rw [ht]
  exact h

theorem fence_passes (h : Enters (.fence o) s s' e) (hd : e.exm o.p = 0 ∨ e.dropped = true) : PassesOn e (.fence o) s s' :=
  h.passes (exec_fence o s) (if_pos (by simpa using hd))

theorem fence_goesOn (h : Enters (.fence o) s s' e) (hm : e.exm o.p ≠ 0) (hr : e.FenceReady o s') (hack : fenceAcquires o = true →
      (e.fenceAcquired o s').acknowledged e.agent (e.fenceReleased o s').nextKey (e.fenceAcquired o s').nextKey = true) :
    ∃ t, exec (.fence o) s = .next t ∧ Advances e t (e.next (.fence o)) ∧ (∀ a, byteAt t.mem a = byteAt s'.mem a) ∧ FenceDrops e o s' t := by
  obtain ⟨hst, -⟩ := State.env_fields h.env
  obtain ⟨st, hu, hs⟩ := fenceAcquired_holds (o := o) hst
  obtain ⟨n, hn, hadv⟩ := h.goesOn (exec_fence o s) ((fence_ready hm hr).trans (fenced_goesOn hack)) hu hs
  refine ⟨_, hn, hadv, fun a => ?_, (fenceAcquired_drops e o s').congr ?_⟩
  · exact congrArg (byteAt · a) ((Env.retire_mem ..).trans (fenceAcquired_mem e o s'))
  · exact Env.retire_core ..

/-- R314: a fence waits at its instruction, no byte of memory changed. -/
theorem fence_interlocks {c : Wake} {u : State} {st : Strand} (h : Enters (.fence o) s s' e) (hb : e.fence o s' = e.interlock c u)
    (hu : u.strand? e.who = some st) (hs : e.st.Holds st) (hmem : u.mem = s'.mem) :
    ∃ t st', (exec (.fence o) s = .next t ∧ (∀ a, byteAt t.mem a = byteAt s'.mem a) ∧ ∃ st, t.strand? e.who = some st ∧
        (st.split e.k).st = .interlock ∧ (st.split e.k).again = true ∧ (st.split e.k).pc = e.sp.pc ∧ st.regs = e.st.regs) ∧
      t.strand? e.who = some st' ∧ (st'.split e.k).park.map Park.cond = some c ∧ (st'.split e.k).mark = (st.split e.k).mark ∧ t.core = u.core := by
  obtain ⟨n, hn, hst'⟩ := h.interlocks (exec_fence o s) hb hu
  obtain ⟨-, -, hsp, -⟩ := State.env_fields h.env
  have hw := hs.interlocked hsp h.split c
  have hm (a : Nat) := congrArg (byteAt · a) ((Env.interlock_mem e c u).trans hmem)
  exact ⟨_, _, ⟨hn, hm, _, hst', hw.state, hw.again, hw.pc, hw.holds.regs⟩, hst', hw.cond, hw.mark, Env.interlock_core ..⟩

/-- R241, R242: what an acquiring fence waits for before its drops. -/
theorem fence_awaits (hm : e.exm o.p ≠ 0) (hd : e.dropped = false)
    (h : (fenceAcquires o = true ∧ s.strongOf e (e.exm o.p) = true) ∨ (o.ord = .acq ∧ s.awaitsPath e.who (e.exm o.p) = true)) :
    ∃ c, e.fence o s = e.interlock c s := by
  unfold Env.fence
  rw [if_neg (fence_acts hm hd)]
  by_cases hs : (fenceAcquires o && s.strongOf e (e.exm o.p)) = true
  · exact ⟨_, if_pos hs⟩
  · obtain ⟨hord, hp⟩ := h.resolve_left fun hs' => hs (by simpa using hs')
    exact ⟨_, by rw [if_neg hs, if_pos hord, if_pos hp]⟩

end

/-! ### `wcdrain`, `pdwait` and `lnext` -/

section
variable {o : Mem} {s s' : State} {e : Env}

/-- R288: what `wcdrain` does in the state in which it takes effect. -/
def Env.wcdrain (e : Env) (o : Mem) (s : State) : State :=
  if e.exm o.p = 0 then e.retire (.wcdrain o) s
  else
    match (if e.sp.again then e.sp.park.map Park.cond else none) with
    | some (.remoteWrites mark) => if s.remoteWrites e mark then e.hold 10 (.remoteWrites mark) s else e.retire (.wcdrain o) s
    | _ =>
      let s := match e.agent with
        | .wide c => s.sendWcbs c fun _ w => w.ctxs.contains e.ctxNo
        | _ => s
      if s.remoteWrites e s.nextKey then e.hold 10 (.remoteWrites s.nextKey) s else e.retire (.wcdrain o) s

theorem exec_wcdrain (o : Mem) (s : State) : exec (.wcdrain o) s = act (.wcdrain o) s fun e s => e.wcdrain o s := rfl

theorem remoteWrites_iff {mark : Nat} : s.remoteWrites e mark = true ↔
    ∃ x ∈ s.remote, x.2.born < mark ∧ x.2.wcb = true ∧ x.2.agent = e.agent ∧ e.ctxNo ∈ x.2.storers ∧ (e.lat = true → x.2.who = some e.who) := by
  simp only [State.remoteWrites, List.any_eq_true, Bool.and_eq_true, decide_eq_true_eq, List.contains_iff_mem, Bool.or_eq_true, Bool.not_eq_true',
    and_assoc, ← Bool.not_eq_true, imp_iff_not_or]

theorem sendWcbs_none {c : Nat} {p : Nat → Wcb → Bool} (h : ∀ x ∈ (s.core c).wcb, p x.1 x.2 = false) : s.sendWcbs c p = s := by
  have hnone : (s.core c).wcb.filter (fun (k, w) => p k w) = [] := List.filter_eq_nil_iff.mpr fun x hx => by simp [h x hx]
  rw [State.sendWcbs, hnone]
  rfl

/-- R288: the writes that `wcdrain` waits for are those before its mark, which it keeps while it is parked. -/
theorem wcdrain_eq {mark : Nat} (hm : e.exm o.p ≠ 0) (h : (e.sp.again = true ∧ ∃ k, e.sp.park = some k ∧ k.cond = .remoteWrites mark) ∨
      (e.sp.again = false ∧ mark = s.nextKey ∧ ∀ c, e.agent = .wide c → ∀ x ∈ (s.core c).wcb, e.ctxNo ∉ x.2.ctxs)) :
    e.wcdrain o s = if s.remoteWrites e mark then e.hold 10 (.remoteWrites mark) s else e.retire (.wcdrain o) s := by
  unfold Env.wcdrain
  rw [if_neg hm]
  rcases h with ⟨hagain, k, hk, hcond⟩ | ⟨hagain, rfl, hwcb⟩
  · rw [if_pos hagain, hk, Option.map_some, hcond]
  · rw [if_neg (by rw [hagain]; exact Bool.false_ne_true)]
    cases ha : e.agent with
    | wide c =>
      dsimp only
      rw [sendWcbs_none fun x hx => by simpa using hwcb c ha x hx]
    | _ => rfl

/-- R289: what `lnext` does in the state in which it takes effect. -/
def Env.lnext (e : Env) (o : Mem) (s : State) : State :=
  e.retire (.lnext o) (match e.who with
    | .warp t w _ | .handler t w => if e.exm o.p = 0 then s else s.mapWarp t w fun x => { x with lnext := true }
    | _ => s)

theorem exec_lnext (o : Mem) (s : State) : exec (.lnext o) s = act (.lnext o) s fun e s => e.lnext o s := rfl

theorem lnext_without_threads (hm : e.exm o.p = 0) : e.lnext o s = e.retire (.lnext o) s := by
  unfold Env.lnext
  cases e.who with
  | warp | handler => exact congrArg _ (if_pos hm)
  | lat => rfl

/-- R290: what `pdwait` does in the state in which it takes effect. -/
def Env.pdwait (e : Env) (o : Mem) (s : State) : State :=
  if e.exm o.p = 0 then e.retire (.pdwait o) s
  else if s.waitsFor e then e.hold 6 .predecessor s
  else e.retire (.pdwait o) (s.acquire e.agent e.ctx.asid .dev e.releaser)

theorem exec_pdwait (o : Mem) (s : State) : exec (.pdwait o) s = act (.pdwait o) s fun e s => e.pdwait o s := rfl

theorem pdwait_goesOn (h : Enters (.pdwait o) s s' e) (hm : e.exm o.p ≠ 0) (hw : s'.waitsFor e = false) :
    ∃ t, exec (.pdwait o) s = .next t ∧ Advances e t (e.next (.pdwait o)) ∧ ∀ a, byteAt t.mem a = byteAt s'.mem a := by
  obtain ⟨hst, -⟩ := State.env_fields h.env
  obtain ⟨st, hu, hs⟩ := acquire_holds hst .dev
  obtain ⟨n, hn, hadv⟩ := h.goesOn (exec_pdwait o s) ((if_neg hm).trans (if_neg (by rw [hw]; exact Bool.false_ne_true))) hu hs
  exact ⟨_, hn, hadv, fun a => congrArg (byteAt · a) ((Env.retire_mem ..).trans (acquire_mem e s' .dev))⟩

theorem Team.getElem?_mapWarp_mapWarp (x : Team) {n : Nat} {wp : Warp} (h : x.warps[n]? = some wp) (f g : Warp → Warp) :
    ((x.mapWarp n f).mapWarp n g).warps[n]? = some (g (f wp)) := by
  rw [Team.getElem?_mapWarp, Team.getElem?_mapWarp, h]
  rfl

theorem look_teams_retire {k n j : Nat} (hw : e.who = .warp k n j) (i : Instr) (u : State) :
    look (e.retire i u).teams k = (look u.teams k).map fun y => y.mapWarp n fun wp =>
      { wp with main := wp.main.leave j (e.next i) (instrPre i).sw (endsRegion i) u.nextKey } := by
  rw [Env.retire_eq, hw]
  exact look_mapTeam ..

theorem lnext_sets {k n j : Nat} {x : Team} {wp : Warp} (h : Enters (.lnext o) s s' e) (hm : e.exm o.p ≠ 0) (hw : e.who = .warp k n j)
    (hx : look s'.teams k = some x) (hwp : x.warps[n]? = some wp) :
    ∃ t y wp', exec (.lnext o) s = .next t ∧ Advances e t (e.next (.lnext o)) ∧ (∀ a, byteAt t.mem a = byteAt s'.mem a) ∧
      look t.teams k = some y ∧ y.warps[n]? = some wp' ∧ wp'.lnext = true := by
  obtain ⟨hst, -⟩ := State.env_fields h.env
  have hu : (s'.mapWarp k n fun x => { x with lnext := true }).strand? e.who = some e.st := by
    rw [hw] at hst ⊢
    rw [← hst]
    simp only [State.strand?, State.mapWarp, look_mapTeam, hx, Option.map_some, Option.bind_some, Team.getElem?_mapWarp, hwp]
  have hb : e.lnext o s' = e.retire (.lnext o) (s'.mapWarp k n fun x => { x with lnext := true }) := by
    unfold Env.lnext
    rw [hw]
    exact congrArg _ (if_neg hm)
  obtain ⟨i, hn, hadv⟩ := h.goesOn (exec_lnext o s) hb hu (.refl _)
  have hteam : look (s'.mapWarp k n fun x => { x with lnext := true }).teams k = some (x.mapWarp n fun x => { x with lnext := true }) :=
    (look_mapTeam ..).trans (congrArg _ hx)
  exact ⟨_, _, _, hn, hadv, fun a => congrArg (byteAt · a) (Env.retire_mem ..), (look_teams_retire hw _ _).trans (congrArg _ hteam),
    x.getElem?_mapWarp_mapWarp hwp _ _, rfl⟩

end

/-- Settles O35: a fence by `fence_ready` and `fence_marks`, what it drops by `fenceAcquired_drops`; `wcdrain` by `wcdrain_eq`. -/
theorem fencesAndDrains : Obligations.FencesAndDrains := by
  unfold Obligations.FencesAndDrains
  refine ⟨?_, fun o s s' e h hm => ?_, fun o s s' e mark h hm hmark => ?_, fun o s s' e h hm => ?_, fun o s s' e k n j x wp => lnext_sets⟩
  · rintro i o (rfl | rfl | rfl | rfl) s s' e h hm
    · exact fence_passes h (.inl hm)
    · exact h.passes (exec_wcdrain o s) (if_pos hm)
    · exact h.passes (exec_pdwait o s) (if_pos hm)
    · exact h.passes (exec_lnext o s) (lnext_without_threads hm)
  · obtain ⟨hst, hk, -⟩ := State.env_fields h.env
    have hv := ((sends_fenceReleased e o s').strand? e.who).trans hst
    refine ⟨fun hd => fence_passes h (.inr hd), fun hd hwait => ?_, fun hd hs hr hdr => ⟨fun hack => ?_, fun ha hack => ?_⟩,
      fun hd hs hrel hmark hdr => ?_⟩
    · obtain ⟨c, hb⟩ := fence_awaits hm hd hwait
      obtain ⟨t, -, hw, -, -, -, hcore⟩ := fence_interlocks h hb hst (.refl _) rfl
      exact ⟨t, hw, hcore⟩
    · exact fence_goesOn h hm ⟨hd, hs, hr, hdr⟩ hack
    · obtain ⟨st, hu, hstands⟩ := fenceAcquired_holds (o := o) hst
      obtain ⟨t, st', hw, hst', hcond, -, hcore⟩ :=
        fence_interlocks h ((fence_ready hm ⟨hd, hs, hr, hdr⟩).trans (fenced_waits ha hack)) hu hstands (fenceAcquired_mem e o s')
      exact ⟨t, st', hw, (fenceAcquired_drops e o s').congr hcore, hst', hcond⟩
    · obtain ⟨t, st', hw, hst', -, hmark', -⟩ := fence_interlocks h (fence_marks hm hd hs hrel hmark hdr) (State.strand?_mapSplit _ hv)
        (e.st.holds_mapSplit _ fun _ => ⟨rfl, rfl⟩) ((State.mapSplit_mem ..).trans (sends_fenceReleased e o s').mem)
      refine ⟨t, st', hw, hst', hmark'.trans ?_⟩
      rw [← hk, e.st.split_mapSplit_self _ _ h.split]
      rfl
  · have hb := wcdrain_eq hm hmark
    refine ⟨fun hopen => ?_, fun hopen => ?_⟩
    · exact h.passes (exec_wcdrain o s) (hb.trans (if_neg (remoteWrites_iff.not.mpr hopen)))
    · obtain ⟨t, hn, st, hkeeps, -, hsplit, -⟩ := h.parks (exec_wcdrain o s) (hb.trans (if_pos (remoteWrites_iff.mpr hopen)))
      exact ⟨t, st, hn, hkeeps, by rw [hsplit], by rw [hsplit], by rw [hsplit]⟩
  · exact ⟨fun hw => h.parks (exec_pdwait o s) ((if_neg hm).trans (if_pos hw)), pdwait_goesOn h hm⟩

end Sys2Proof.Machine

/-! Scratchpad accesses (R215, R216, R222, R249, R269, R274): their checks, the words that a load sends, the bytes that a store puts. -/

namespace Sys2Proof.Machine

/-! ### Bytes of numbers -/

theorem leBytes_leNat (bs : List Byte) : leBytes bs.length (leNat bs) = bs := by
  induction bs with
  | nil => rfl
  | cons b bs ih =>
    have hlow : BitVec.ofNat 8 (b.toNat + 256 * leNat bs) = b := by
      apply BitVec.eq_of_toNat_eq
      rw [BitVec.toNat_ofNat]
      have := b.isLt
      omega
    have hhigh : (b.toNat + 256 * leNat bs) / 256 = leNat bs := by
      have := b.isLt
      omega
    rw [List.length_cons, leNat, leBytes, hlow, hhigh, ih]

theorem length_leBytes (n v : Nat) : (leBytes n v).length = n := by
  induction n generalizing v with
  | zero => rfl
  | succ n ih => exact congrArg Nat.succ (ih _)

theorem length_storeData (e : Env) (o : Mem) (d : RegNo) (u : Nat) : (e.storeData o d u).length = o.w.bytes := by
  have hflat : ((List.range o.w.regs).flatMap fun j => leBytes 4 (if d = 0 then 0 else (e.reg (d.toNat + j) u).toNat)).length = 4 * o.w.regs := by
    simp [List.length_flatMap, length_leBytes, Nat.mul_comm]
  rw [Env.storeData, List.length_take, hflat]
  cases o.w <;> rfl

/-! ### What a store puts into a scratchpad -/

/-- R157: a byte that a thread writes into the scratchpad of a team, with what it replaces. -/
def Team.storeByte (x : Team) (w th off : Nat) (own : Bool) (b : Byte) (i : Nat) : Team :=
  { x with spad := write 0 x.spad (off + i) b,
           spadOlder := if own then x.spadOlder ++ [(w, th, off + i, readOr 0 x.spad (off + i))] else x.spadOlder }

/-- R157: bytes that a thread writes, from the n-th place after `off` on. -/
def Team.storeBytes (x : Team) (w th off : Nat) (own : Bool) (bs : List Byte) (n : Nat) : Team :=
  (bs.zipIdx n).foldl (fun x (b, i) => x.storeByte w th off own b i) x

theorem Team.storeBytes_cons (x : Team) (w th off : Nat) (own : Bool) (b : Byte) (bs : List Byte) (n : Nat) :
    x.storeBytes w th off own (b :: bs) n = (x.storeByte w th off own b n).storeBytes w th off own bs (n + 1) := rfl

theorem Team.storeBytes_warps (x : Team) (w th off : Nat) (own : Bool) (bs : List Byte) (n : Nat) :
    (x.storeBytes w th off own bs n).warps = x.warps := by
  induction bs generalizing x n with
  | nil => rfl
  | cons b bs ih => exact ih _ _

theorem Team.storeBytes_spad (x : Team) (w th off : Nat) (own : Bool) (bs : List Byte) (n a : Nat) :
    readOr 0 (x.storeBytes w th off own bs n).spad a =
      if off + n ≤ a ∧ a < off + n + bs.length then bs.getD (a - (off + n)) 0 else readOr 0 x.spad a := by
  induction bs generalizing x n with
  | nil => rw [if_neg (by simp only [List.length_nil]; omega)]; rfl
  | cons b bs ih =>
    rw [Team.storeBytes_cons, ih, Team.storeByte, readOr_write]
    rcases Nat.lt_trichotomy a (off + n) with hlt | rfl | hgt
    · rw [if_neg (by omega), if_neg (by omega), if_neg (by omega)]
    · simp
    · have hget : a - (off + n) = (a - (off + (n + 1))) + 1 := by omega
      rw [if_neg (by omega : ¬a = off + n), hget, List.getD_cons_succ, List.length_cons]
      refine if_congr (by omega) rfl rfl

theorem Team.spadWrite_warps (x : Team) (fmts : Tile → Nat) (w th off : Nat) (own : Bool) (bs : List Byte) :
    (x.spadWrite fmts w th off own bs).warps = x.warps := x.storeBytes_warps w th off own bs 0

theorem Team.spadWrite_spad (x : Team) (fmts : Tile → Nat) (w th off : Nat) (own : Bool) (bs : List Byte) (a : Nat) :
    readOr 0 (x.spadWrite fmts w th off own bs).spad a =
      if off ≤ a ∧ a < off + bs.length then bs.getD (a - off) 0 else readOr 0 x.spad a := x.storeBytes_spad w th off own bs 0 a

theorem look_mapTeam_ne (s : State) {t k : Nat} (f : Team → Team) (h : k ≠ t) : look (s.mapTeam t f).teams k = look s.teams k :=
  look_adjust_ne _ _ h

/-- R274: the bytes that a thread's part of an access stores. -/
def Env.putOne (e : Env) (lo : Nat) (data : Nat × Nat × Nat × Nat → List Byte) (s : State) (x : Nat × Nat × Nat × Nat) : State :=
  s.spadWrite e x.2.1 x.1 (x.2.2.1 + lo) (data x)

/-- R274: the bytes that the threads' parts of an access store, in thread order. -/
def Env.putAll (e : Env) (lo : Nat) (data : Nat × Nat × Nat × Nat → List Byte) (xs : List (Nat × Nat × Nat × Nat)) (s : State) : State :=
  xs.foldl (e.putOne lo data) s

theorem putOne_strand (e : Env) (lo : Nat) (data : Nat × Nat × Nat × Nat → List Byte) (s : State) (x : Nat × Nat × Nat × Nat) (w : Who) :
    (e.putOne lo data s x).strand? w = s.strand? w := s.strand?_mapTeam x.2.1 _ w fun y => y.spadWrite_warps ..

theorem putAll_strand (e : Env) (lo : Nat) (data : Nat × Nat × Nat × Nat → List Byte) (xs : List (Nat × Nat × Nat × Nat)) (s : State) (w : Who) :
    (e.putAll lo data xs s).strand? w = s.strand? w := foldl_keeps (fun s => s.strand? w) (fun s x => putOne_strand e lo data s x w) xs s

theorem putAll_mem (e : Env) (lo : Nat) (data : Nat × Nat × Nat × Nat → List Byte) (xs : List (Nat × Nat × Nat × Nat)) (s : State) :
    (e.putAll lo data xs s).mem = s.mem := foldl_keeps (f := e.putOne lo data) State.mem (fun _ _ => rfl) xs s

/-- R274: of the threads that store to a byte the last one's byte stands there. -/
theorem putAll_puts (e : Env) (lo : Nat) (data : Nat × Nat × Nat × Nat → List Byte) (xs : List (Nat × Nat × Nat × Nat)) (s : State) :
    PutsSpad s (e.putAll lo data xs s) xs lo data := by
  refine ⟨fun a => congrArg (byteAt · a) (putAll_mem ..), ?_⟩
  induction xs generalizing s with
  | nil => exact fun k y hy => ⟨y, hy, fun _ => rfl⟩
  | cons x xs ih =>
    intro k y hy
    obtain ⟨y₁, hy₁, hspad⟩ := ih (e.putOne lo data s x) k y hy
    rw [List.reverse_cons]
    by_cases hk : k = x.2.1
    · subst hk
      obtain ⟨y₀, hy₀, rfl⟩ := Option.map_eq_some_iff.mp ((look_mapTeam s _ _).symm.trans hy₁)
      refine ⟨y₀, hy₀, fun off => ?_⟩
      rw [hspad, List.find?_append, Team.spadWrite_spad]
      cases List.find? _ xs.reverse with
      | some z => rfl
      | none =>
        simp only [List.find?_singleton, decide_true, Bool.true_and, Bool.and_eq_true, decide_eq_true_eq, Option.none_or]
        split <;> rfl
    · rw [Env.putOne, State.spadWrite, look_mapTeam_ne _ _ hk] at hy₁
      refine ⟨y₁, hy₁, fun off => ?_⟩
      rw [hspad, List.find?_append]
      have hnone : [x].find? (fun x => decide (x.2.1 = k) && decide (x.2.2.1 + lo ≤ off) && decide (off < x.2.2.1 + lo + (data x).length)) = none := by
        simp [Ne.symm hk]
      rw [hnone, Option.or_none]

/-! ### What a load sends -/

theorem Mask.ofTest_ne_zero {p : Nat → Bool} {u : Nat} (hu : u < 32) (hp : p u = true) : Mask.ofTest p ≠ 0 := by
  intro h
  have hbit : (Mask.ofTest p).getLsbD u = true := by rw [getLsbD_ofTest, decide_eq_true hu, hp]; rfl
  rw [h] at hbit
  simp at hbit

/-- R36, R216, R274: the results of a part of the accesses `xs` of a scratchpad load. -/
def fetchWords (o : Mem) (s : State) (hi : Bool) (xs : List (Nat × Nat × Nat × Nat)) : List Result :=
  let w : Width := if o.w = .b128 then .b64 else o.w
  if o.d = 0 then [] else (List.range w.regs).map fun j =>
    (BitVec.ofNat 7 (o.d.toNat + (Width.parts o.w hi).1 / 4 + j), Mask.ofTest (fun u => xs.any fun x => x.1 = u), fun u => accessWord w o.sx
      (match xs.find? fun x => x.1 = u with
       | some x => s.spadRead x.2.1 (x.2.2.1 + (Width.parts o.w hi).1) (Width.parts o.w hi).2
       | none => []) j)

theorem spadFetch_eq (e : Env) (o : Mem) (hi : Bool) (xs : List (Nat × Nat × Nat × Nat)) (s : State) :
    e.spadFetch o hi xs s = e.laterAll (fetchWords o s hi xs) s := by
  unfold Env.spadFetch fetchWords Env.laterAll
  dsimp only
  by_cases hd : o.d = 0
  · simp only [if_pos hd]
    exact foldl_keeps id (fun _ _ => rfl) _ s
  · simp only [if_neg hd, List.foldl_map] <;> rfl

theorem fetchWords_half {o : Mem} (hw : o.w = .b128) (s : State) (hi : Bool) (xs : List (Nat × Nat × Nat × Nat)) :
    fetchWords o s hi xs = halfWords o s hi xs := by
  unfold fetchWords halfWords
  rw [hw]
  cases hi <;> rfl

/-- R216, R274: an access of less than 16 bytes is one part. -/
theorem fetchWords_whole {o : Mem} {m : Mask} {xs : List SpadAt} (hw : o.w ≠ .b128) (hxs : xs.map SpadAt.thread = Mask.threads m) (s : State)
    (data : Nat → List Byte) : fetchWords o s false (spadWork xs data) = if o.d = 0 then [] else (List.range o.w.regs).map fun j =>
      (BitVec.ofNat 7 (o.d.toNat + j), m, fun u => accessWord o.w o.sx
        (match xs.find? fun x => x.thread = u with | some x => s.spadRead (x.team.getD 0) x.off o.w.bytes | none => []) j) := by
  have hmask : Mask.ofTest (fun u => (spadWork xs data).any fun x => x.1 = u) = m := by
    apply BitVec.eq_of_getLsbD_eq
    intro u hu
    have hany : ((spadWork xs data).any fun x => decide (x.1 = u)) = true ↔ u ∈ xs.map SpadAt.thread := by simp [spadWork]
    rw [getLsbD_ofTest, decide_eq_true hu, Bool.true_and]
    exact Bool.eq_iff_iff.mpr (hany.trans (by rw [hxs, Mask.mem_threads]; exact and_iff_right hu))
  have hfind (u : Nat) : ((spadWork xs data).find? fun x => x.1 = u) =
      (xs.find? fun x => x.thread = u).map fun x => (x.thread, x.team.getD 0, x.off, leNat (data x.thread)) := by
    rw [spadWork, List.find?_map]
    rfl
  have hparts : Width.parts o.w false = (0, o.w.bytes) := if_neg hw
  unfold fetchWords
  simp only [if_neg hw, hparts, hmask, hfind]
  refine if_congr Iff.rfl rfl (List.map_congr_left fun j _ => ?_)
  refine congrArg _ (congrArg _ (funext fun u => congrArg (accessWord o.w o.sx · j) ?_))
  cases xs.find? fun x => decide (x.thread = u) <;> rfl

theorem fetchWords_sent {o : Mem} {s : State} {hi : Bool} {xs : List (Nat × Nat × Nat × Nat)}
    (hd : o.d.toNat + o.w.regs ≤ 128) (hxs : ∃ x ∈ xs, x.1 < 32) : ∀ r ∈ fetchWords o s hi xs, ¬(r.1 = 0 ∨ r.2.1 = 0) := by
  obtain ⟨x, hx, hx32⟩ := hxs
  have hmask : Mask.ofTest (fun u => xs.any fun x => x.1 = u) ≠ 0 :=
    Mask.ofTest_ne_zero hx32 (List.any_eq_true.mpr ⟨x, hx, decide_eq_true rfl⟩)
  unfold fetchWords
  dsimp only
  split
  · exact fun r hr => absurd hr List.not_mem_nil
  · rename_i hd0
    intro r hr
    obtain ⟨j, hj, rfl⟩ := List.mem_map.mp hr
    refine not_or.mpr ⟨fun h => ?_, hmask⟩
    have hpos : 0 < o.d.toNat := Nat.pos_of_ne_zero fun h => hd0 (BitVec.eq_of_toNat_eq (by simpa using h))
    have hreg : o.d.toNat + (Width.parts o.w hi).1 / 4 + j < 128 := by
      have hj := List.mem_range.mp hj
      revert hj hd
      unfold Width.parts
      cases o.w <;> cases hi <;> simp [Width.regs] <;> omega
    have := congrArg BitVec.toNat h
    rw [BitVec.toNat_ofNat, Nat.mod_eq_of_lt hreg] at this
    simp at this
    omega

/-! ### A strand to which results are on their way -/

theorem Strand.holds_owed (st : Strand) (k : Nat) (rs : List Result) : st.Holds (st.owed k rs) :=
  ⟨rfl, rfl, rfl, rfl, rfl, rfl, rfl, st.length_owed k rs, (st.stands_mapSplit k (f := fun x => x.owed rs) fun _ => ⟨rfl, rfl⟩).places⟩

theorem Only.later_holds {e : Env} {s t : State} {st : Strand} (h : Only e.who s t st) (r : Result) :
    ∃ st', Only e.who s (e.later r.2.1 r.1 r.2.2 t) st' ∧ st.Holds st' := by
  refine ⟨_, h.later r.2.1 r.1 r.2.2, ?_⟩
  split
  · exact .refl st
  · exact st.holds_owed e.k [r]

theorem Only.laterAll_holds {e : Env} {s t : State} {st : Strand} (h : Only e.who s t st) (rs : List Result) :
    ∃ st', Only e.who s (e.laterAll rs t) st' ∧ st.Holds st' := by
  induction rs generalizing t st with
  | nil => exact ⟨st, h, .refl st⟩
  | cons r rs ih =>
    obtain ⟨st₁, h₁, hs₁⟩ := h.later_holds r
    obtain ⟨st₂, h₂, hs₂⟩ := ih h₁
    exact ⟨st₂, h₂, hs₁.trans hs₂⟩

/-! ### `lds` and `ldr` -/

def IsSpadLoad (o : Mem) (i : Instr) (acc : Env → State → List SpadAt) : Prop :=
  (i = .lds o ∧ acc = fun e s => e.ownAccesses o s) ∨ (i = .ldr o ∧ acc = fun e s => e.bandAccesses o s)

def IsSpadStore (o : Mem) (i : Instr) (acc : Env → State → List SpadAt) : Prop :=
  (i = .sts o ∧ acc = fun e s => e.ownAccesses o s) ∨ (i = .str o ∧ acc = fun e s => e.bandAccesses o s)

theorem ownAccesses_threads (e : Env) (o : Mem) (s : State) : (e.ownAccesses o s).map SpadAt.thread = Mask.threads (e.exm o.p) := by
  simp [Env.ownAccesses, Function.comp_def]

theorem bandAccesses_threads (e : Env) (o : Mem) (s : State) : (e.bandAccesses o s).map SpadAt.thread = Mask.threads (e.exm o.p) := by
  simp [Env.bandAccesses, Function.comp_def]

section
variable {o : Mem} {i : Instr} {acc : Env → State → List SpadAt} {s s' u : State} {e : Env} {xs : List SpadAt}

theorem IsSpadLoad.exec_eq (h : IsSpadLoad o i acc) (s : State) : exec i s = act i s fun e s => e.spadLoad i o (acc e s) s := by
  obtain ⟨rfl, rfl⟩ | ⟨rfl, rfl⟩ := h <;> rfl

theorem IsSpadStore.exec_eq (h : IsSpadStore o i acc) (s : State) : exec i s = act i s fun e s => e.spadStore i o (acc e s) s := by
  obtain ⟨rfl, rfl⟩ | ⟨rfl, rfl⟩ := h <;> rfl

theorem IsSpadLoad.threads (h : IsSpadLoad o i acc) (e : Env) (s : State) : (acc e s).map SpadAt.thread = Mask.threads (e.exm o.p) := by
  obtain ⟨-, rfl⟩ | ⟨-, rfl⟩ := h
  · exact ownAccesses_threads e o s
  · exact bandAccesses_threads e o s

theorem IsSpadStore.threads (h : IsSpadStore o i acc) (e : Env) (s : State) : (acc e s).map SpadAt.thread = Mask.threads (e.exm o.p) := by
  obtain ⟨-, rfl⟩ | ⟨-, rfl⟩ := h
  · exact ownAccesses_threads e o s
  · exact bandAccesses_threads e o s

theorem exm_ne_zero_of_mem {m : Mask} {x : SpadAt} (hxs : xs.map SpadAt.thread = Mask.threads m) (hx : x ∈ xs) : m ≠ 0 := by
  rintro rfl
  have hmem : x.thread ∈ Mask.threads 0 := hxs ▸ List.mem_map_of_mem hx
  have hbit := (Mask.mem_threads.mp hmem).2
  simp at hbit

theorem Mask.threads_ne_nil {m : Mask} (hm : m ≠ 0) : Mask.threads m ≠ [] := by
  intro h
  refine hm (BitVec.eq_of_getLsbD_eq fun u hu => ?_)
  have hnot : u ∉ Mask.threads m := by rw [h]; exact List.not_mem_nil
  simpa [Mask.mem_threads, hu] using hnot

theorem exists_work {m : Mask} (hm : m ≠ 0) (hxs : xs.map SpadAt.thread = Mask.threads m) (data : Nat → List Byte) :
    ∃ x ∈ spadWork xs data, x.1 < 32 := by
  cases xs with
  | nil => exact absurd hxs.symm (Mask.threads_ne_nil hm)
  | cons x xs =>
    have hmem : x.thread ∈ Mask.threads m := hxs ▸ List.mem_cons_self
    exact ⟨_, List.mem_cons_self, (Mask.mem_threads.mp hmem).1⟩

theorem spadCheck_failing {n : Nat} {r : Cause × DWord} (h : spadCheck n xs = some r) : ∃ x, x ∈ xs := by
  cases xs with
  | nil => cases h
  | cons x xs => exact ⟨x, List.mem_cons_self⟩

theorem spadLoad_second {hi : Bool} {ys : List (Nat × Nat × Nat × Nat)} (h : e.halfDone = some (hi, ys)) :
    e.spadLoad i o xs s = e.spadLoaded i o (e.spadFetch o hi ys s) := by
  rw [Env.spadLoad, h]

theorem spadLoad_idle (hh : e.halfDone = none) (hm : e.exm o.p = 0) : e.spadLoad i o xs s = e.retire i s := by
  rw [Env.spadLoad, hh]
  exact if_pos hm

theorem spadLoad_failing {c : Cause} {a : DWord} (hh : e.halfDone = none) (hm : e.exm o.p ≠ 0) (hc : spadCheck o.w.bytes xs = some (c, a)) :
    e.spadLoad i o xs s = e.raise c a s := by
  rw [Env.spadLoad, hh]
  dsimp only
  rw [if_neg hm, hc]

theorem spadLoad_speculating {x : SpadAt} (hh : e.halfDone = none) (hm : e.exm o.p ≠ 0) (hc : spadCheck o.w.bytes xs = none)
    (hx : xs.find? (fun x => s.tileOver (x.team.getD 0) .prov x.off o.w.bytes) = some x) :
    e.spadLoad i o xs s = e.raise .speculation (BitVec.ofNat 64 x.off) s := by
  rw [Env.spadLoad, hh]
  dsimp only
  rw [if_neg hm, hc, hx]

/-- R274: a load whose checks pass. -/
theorem spadLoad_passing (hh : e.halfDone = none) (hm : e.exm o.p ≠ 0) (hc : spadCheck o.w.bytes xs = none)
    (hx : xs.find? (fun x => s.tileOver (x.team.getD 0) .prov x.off o.w.bytes) = none) :
    e.spadLoad i o xs s = if s.strongOf e (e.exm o.p) then e.interlock (.strong (e.exm o.p)) s
      else e.spadParts o (e.spadFetch o) (spadWork xs fun _ => []) (e.spadLoaded i o) s := by
  rw [Env.spadLoad, hh]
  dsimp only
  rw [if_neg hm, hc, hx]

theorem spadParts_whole {part : Bool → List (Nat × Nat × Nat × Nat) → State → State} {finish : State → State}
    {ys : List (Nat × Nat × Nat × Nat)} (hw : o.w ≠ .b128) : e.spadParts o part ys finish s = finish (part false ys s) := if_neg hw

theorem spadParts_half {part : Bool → List (Nat × Nat × Nat × Nat) → State → State} {finish : State → State}
    {ys : List (Nat × Nat × Nat × Nat)} (hw : o.w = .b128) :
    ∃ hi, e.spadParts o part ys finish s = e.interlock (.half (!hi) ys) (part hi ys (s.spend 1)) := ⟨_, if_pos hw⟩

/-- R275: a load that has sent its words goes on, after its acquire. -/
theorem Enters.spadLoaded {rs : List Result} {body : Env → State → State} (h : Enters i s s' e) (hx : exec i s = act i s body)
    (hb : body e s' = e.spadLoaded i o (e.laterAll rs s')) :
    ∃ t, exec i s = .next t ∧ Advances e t (e.next i) ∧ ∀ a, byteAt t.mem a = byteAt s'.mem a := by
  obtain ⟨hst, -⟩ := State.env_fields h.env
  obtain ⟨st, ho, hs⟩ := (Only.refl hst).laterAll_holds rs
  have hmem := State.mem_of_elsewhere ho.rest
  unfold Env.spadLoaded at hb
  split at hb
  · obtain ⟨st', hu, hs'⟩ := acquire_holds ho.strand o.sc
    obtain ⟨n, hn, hadv⟩ := h.goesOn hx hb hu (hs.trans hs')
    exact ⟨_, hn, hadv, fun a => congrArg (byteAt · a) ((Env.retire_mem ..).trans ((acquire_mem ..).trans hmem))⟩
  · obtain ⟨n, hn, hadv⟩ := h.goesOn hx hb ho.strand hs
    exact ⟨_, hn, hadv, fun a => congrArg (byteAt · a) ((Env.retire_mem ..).trans hmem)⟩

/-- R321: a load without an acquire has its words on their way. -/
theorem Enters.spadSent {rs : List Result} {body : Env → State → State} (h : Enters i s s' e) (hx : exec i s = act i s body)
    (hb : body e s' = e.spadLoaded i o (e.laterAll rs s')) (ho : o.ord ≠ .acq) (hrs : ∀ r ∈ rs, ¬(r.1 = 0 ∨ r.2.1 = 0)) :
    ∃ t, exec i s = .next t ∧ RanLater e s' t (e.next i) rs := by
  obtain ⟨hst, hk, hsp, -⟩ := State.env_fields h.env
  obtain ⟨n, hn⟩ := h.run body
  refine ⟨_, by rw [hx, hn, hb, Env.spadLoaded, if_neg ho], RanLater.of_laterAll hst hk hsp h.split i hrs n⟩

/-- R222: a load that has made one half of its accesses waits with the other half. -/
theorem Enters.spadHalf {rs : List Result} {c : Wake} {body : Env → State → State} (h : Enters i s s' e) (hx : exec i s = act i s body)
    (hb : body e s' = e.interlock c (e.laterAll rs (s'.spend 1))) (hrs : ∀ r ∈ rs, ¬(r.1 = 0 ∨ r.2.1 = 0)) :
    ∃ t st, exec i s = .next t ∧ t.strand? e.who = some st ∧ (∀ n u, u < 32 → st.reg n u = e.st.reg n u) ∧ st.sstat = e.st.sstat ∧
      st.inbound = e.st.inbound ++ rs.map Result.sent ∧ (st.split e.k).pc = e.sp.pc ∧ (st.split e.k).st = .interlock ∧
      (st.split e.k).again = true ∧ (st.split e.k).park.map Park.cond = some c ∧ ∀ a, byteAt t.mem a = byteAt s'.mem a := by
  obtain ⟨hst, hk, hsp, -⟩ := State.env_fields h.env
  obtain ⟨n, hn⟩ := h.run body
  have ho := ((((Only.refl hst).spend 1).laterAll h.split hrs).interlock hk c).oracle n
  have hw := (e.st.holds_owed e.k rs).interlocked hsp h.split c
  exact ⟨_, _, by rw [hx, hn, hb], ho.strand, fun n u _ => hw.holds.reg n u, hw.holds.sstat, rfl, hw.pc, hw.state, hw.again, hw.cond,
    fun a => by rw [State.mem_of_elsewhere ho.rest]⟩

/-- R249: a load that waits for earlier strong accesses of its threads. -/
theorem Enters.spadWaits {c : Wake} {body : Env → State → State} (h : Enters i s s' e) (hx : exec i s = act i s body)
    (hb : body e s' = e.interlock c s') : ∃ t st, exec i s = .next t ∧ KeepsRest e s' t st ∧ (st.split e.k).pc = e.sp.pc ∧
      (st.split e.k).st = .interlock ∧ (st.split e.k).again = true := by
  obtain ⟨hst, hk, hsp, -⟩ := State.env_fields h.env
  obtain ⟨n, hn⟩ := h.run body
  have ho := ((Only.refl hst).interlock hk c).oracle n
  have hw := (Strand.Holds.refl e.st).interlocked hsp h.split c
  exact ⟨_, _, by rw [hx, hn, hb], ⟨ho.strand, fun n u _ => hw.holds.reg n u, hw.holds.sstat, rfl, ho.rest,
    fun a => by rw [State.mem_of_elsewhere ho.rest]⟩, hw.pc, hw.state, hw.again⟩

/-! ### `sts` and `str` -/

theorem Team.mapWarp_spad (x : Team) (n : Nat) (f : Warp → Warp) : (x.mapWarp n f).spad = x.spad := by
  unfold Team.mapWarp
  split <;> rfl

/-- A change of a strand keeps every scratchpad. -/
theorem look_mapStrand_spad {w : Who} {f : Strand → Strand} {k : Nat} {y : Team} (h : look (s.mapStrand w f).teams k = some y) :
    ∃ y₀, look s.teams k = some y₀ ∧ y.spad = y₀.spad := by
  have key (t n : Nat) (g : Warp → Warp) (h : look (s.mapWarp t n g).teams k = some y) : ∃ y₀, look s.teams k = some y₀ ∧ y.spad = y₀.spad := by
    by_cases hk : k = t
    · subst hk
      obtain ⟨y₀, hy₀, rfl⟩ := Option.map_eq_some_iff.mp ((look_mapTeam s _ _).symm.trans h)
      exact ⟨y₀, hy₀, y₀.mapWarp_spad n g⟩
    · exact ⟨y, (look_mapTeam_ne s _ hk).symm.trans h, rfl⟩
  cases w with
  | warp t n | handler t n => exact key t n _ h
  | lat => exact ⟨y, h, rfl⟩

theorem PutsSpad.mapStrand {t : State} {ys : List (Nat × Nat × Nat × Nat)} {lo : Nat} {data : Nat × Nat × Nat × Nat → List Byte}
    (h : PutsSpad s t ys lo data) (w : Who) (f : Strand → Strand) (n : Nat) :
    PutsSpad s { t.bump.mapStrand w f with oracle := n } ys lo data := by
  obtain ⟨hmem, hspad⟩ := h
  refine ⟨fun a => (congrArg (byteAt · a) (State.mapStrand_mem ..)).trans (hmem a), fun k y hy => ?_⟩
  obtain ⟨y₀, hy₀, heq⟩ := look_mapStrand_spad (s := t.bump) hy
  rw [heq]
  exact hspad k y₀ hy₀

theorem PutsSpad.of_sends {t : State} {ys : List (Nat × Nat × Nat × Nat)} {lo : Nat} {data : Nat × Nat × Nat × Nat → List Byte}
    (h : PutsSpad u t ys lo data) (hs : Sends s u) : PutsSpad s t ys lo data := by
  unfold PutsSpad at h ⊢
  rwa [hs.mem, hs.teams] at h

theorem spadPut_eq (e : Env) (o : Mem) (hi : Bool) (ys : List (Nat × Nat × Nat × Nat)) (s : State) :
    e.spadPut o hi ys s =
      e.putAll (Width.parts o.w hi).1 (fun y => ((leBytes o.w.bytes y.2.2.2).drop (Width.parts o.w hi).1).take (Width.parts o.w hi).2) ys s := rfl

/-- R274: what a store's work holds of a thread are the bytes of its register. -/
theorem spadPut_work (e : Env) (o : Mem) (hi : Bool) (xs : List SpadAt) (s : State) :
    e.spadPut o hi (spadWork xs fun u => e.storeData o o.d u) s =
      e.putAll (Width.parts o.w hi).1 (fun y => ((e.storeData o o.d y.1).drop (Width.parts o.w hi).1).take (Width.parts o.w hi).2)
        (spadWork xs fun u => e.storeData o o.d u) s := by
  rw [spadPut_eq]
  refine List.foldl_ext _ _ _ fun v y hy => ?_
  obtain ⟨x, -, rfl⟩ := List.mem_map.mp hy
  unfold Env.putOne
  dsimp only
  rw [← length_storeData e o o.d x.thread, leBytes_leNat]

/-- R274: a store that has put its bytes goes on. -/
theorem Enters.spadStored {ys : List (Nat × Nat × Nat × Nat)} {lo : Nat} {data : Nat × Nat × Nat × Nat → List Byte} {body : Env → State → State}
    (h : Enters i s s' e) (hx : exec i s = act i s body) (hu : Sends s' u) (hb : body e s' = e.retire i (e.putAll lo data ys u)) :
    ∃ t, exec i s = .next t ∧ Advances e t (e.next i) ∧ PutsSpad s' t ys lo data := by
  obtain ⟨hst, -⟩ := State.env_fields h.env
  obtain ⟨n, hn, hadv⟩ := h.goesOn hx hb ((putAll_strand ..).trans ((hu.strand? _).trans hst)) (.refl _)
  exact ⟨_, hn, hadv, ((putAll_puts e lo data ys u).of_sends hu).mapStrand _ _ _⟩

/-- R222: a store that has made one half of its accesses waits with the other half. -/
theorem Enters.spadStoredHalf {c : Wake} {ys : List (Nat × Nat × Nat × Nat)} {lo : Nat} {data : Nat × Nat × Nat × Nat → List Byte}
    {body : Env → State → State} (h : Enters i s s' e) (hx : exec i s = act i s body) (hu : Sends s' u)
    (hb : body e s' = e.interlock c (e.putAll lo data ys u)) :
    ∃ t st, exec i s = .next t ∧ t.strand? e.who = some st ∧ (∀ n u, u < 32 → st.reg n u = e.st.reg n u) ∧ st.sstat = e.st.sstat ∧
      (st.split e.k).pc = e.sp.pc ∧ (st.split e.k).st = .interlock ∧ (st.split e.k).again = true ∧
      (st.split e.k).park.map Park.cond = some c ∧ PutsSpad s' t ys lo data := by
  obtain ⟨hst, -, hsp, -⟩ := State.env_fields h.env
  obtain ⟨n, hn, hst'⟩ := h.interlocks hx hb ((putAll_strand ..).trans ((hu.strand? _).trans hst))
  have hw := (Strand.Holds.refl e.st).interlocked hsp h.split c
  exact ⟨_, _, hn, hst', fun n u _ => hw.holds.reg n u, hw.holds.sstat, hw.pc, hw.state, hw.again, hw.cond,
    ((putAll_puts e lo data ys u).of_sends hu).mapStrand _ _ _⟩

theorem spadStore_second {hi : Bool} {ys : List (Nat × Nat × Nat × Nat)} (h : e.halfDone = some (hi, ys)) :
    e.spadStore i o xs s = e.retire i (e.spadPut o hi ys s) := by
  rw [Env.spadStore, h]

theorem spadStore_idle (hh : e.halfDone = none) (hm : e.exm o.p = 0) : e.spadStore i o xs s = e.retire i s := by
  rw [Env.spadStore, hh]
  exact if_pos hm

theorem spadStore_failing {c : Cause} {a : DWord} (hh : e.halfDone = none) (hm : e.exm o.p ≠ 0) (hc : spadCheck o.w.bytes xs = some (c, a)) :
    e.spadStore i o xs s = e.raise c a s := by
  rw [Env.spadStore, hh]
  dsimp only
  rw [if_neg hm, hc]

/-- R240: the state in which a releasing store has sent what it releases. -/
def Env.spadReleased (e : Env) (o : Mem) (s : State) : State := if o.ord = .rel then s.release e.agent o.sc e.releaser else s

theorem sends_spadReleased (e : Env) (o : Mem) (s : State) : Sends s (e.spadReleased o s) := by
  unfold Env.spadReleased
  split
  · exact sends_release ..
  · exact .refl s

/-- R274: a store whose checks pass and that need not wait. -/
theorem spadStore_ready (hh : e.halfDone = none) (hm : e.exm o.p ≠ 0) (hc : spadCheck o.w.bytes xs = none)
    (hr : o.ord = .rel → e.sp.mark = none ∧
      (s.release e.agent o.sc e.releaser).drained e.agent e.who (s.release e.agent o.sc e.releaser).nextKey false = true) :
    e.spadStore i o xs s =
      e.spadParts o (e.spadPut o) (spadWork xs fun u => e.storeData o o.d u) (e.retire i) (e.spadReleased o s) := by
  rw [Env.spadStore, hh]
  dsimp only
  rw [if_neg hm, hc]
  dsimp only
  unfold Env.spadReleased
  by_cases ho : o.ord = .rel
  · obtain ⟨hmark, hdrained⟩ := hr ho
    rw [if_pos ho, if_pos ho]
    exact Env.drain_ready hmark hdrained
  · rw [if_neg ho, if_neg ho]

end

theorem parts_half {o : Mem} (hw : o.w = .b128) (hi : Bool) : Width.parts o.w hi = (if hi then 8 else 0, 8) := if_pos hw

theorem parts_whole {o : Mem} (hw : o.w ≠ .b128) (hi : Bool) : Width.parts o.w hi = (0, o.w.bytes) := if_neg hw

/-! ### The clauses of a load -/

section
variable {o : Mem} {i : Instr} {acc : Env → State → List SpadAt} {s s' : State} {e : Env}

/-- R274: a load whose checks pass, and which waits for no strong access. -/
theorem spadLoad_ready {xs : List SpadAt} (hh : e.halfDone = none) (hm : e.exm o.p ≠ 0) (hc : spadCheck o.w.bytes xs = none)
    (hx : xs.find? (fun x => s.tileOver (x.team.getD 0) .prov x.off o.w.bytes) = none) (hs : s.strongOf e (e.exm o.p) = false) :
    e.spadLoad i o xs s = e.spadParts o (e.spadFetch o) (spadWork xs fun _ => []) (e.spadLoaded i o) s :=
  (spadLoad_passing hh hm hc hx).trans (if_neg (by rw [hs]; exact Bool.false_ne_true))

theorem IsSpadLoad.secondHalf (hi : IsSpadLoad o i acc) (h : Enters i s s' e) {half : Bool} {ys : List (Nat × Nat × Nat × Nat)}
    (hh : e.halfDone = some (half, ys)) (hw : o.w = .b128) (ho : o.ord ≠ .acq) (hd : o.d.toNat + 4 ≤ 128) (h32 : ∀ y ∈ ys, y.1 < 32)
    (hne : ys ≠ []) : ∃ t, exec i s = .next t ∧ RanLater e s' t (e.next i) (halfWords o s' half ys) := by
  obtain ⟨y, hy⟩ := List.exists_mem_of_ne_nil ys hne
  have hb : e.spadLoad i o (acc e s') s' = e.spadLoaded i o (e.laterAll (fetchWords o s' half ys) s') := by
    rw [spadLoad_second hh, spadFetch_eq]
  rw [← fetchWords_half hw]
  exact h.spadSent (hi.exec_eq s) hb ho (fetchWords_sent (by rw [hw]; exact hd) ⟨y, hy, h32 y hy⟩)

theorem IsSpadLoad.waits (hi : IsSpadLoad o i acc) (h : Enters i s s' e) (hh : e.halfDone = none) (hc : spadCheck o.w.bytes (acc e s') = none)
    (hx : (acc e s').find? (fun x => s'.tileOver (x.team.getD 0) .prov x.off o.w.bytes) = none) (hs : s'.strongOf e (e.exm o.p) = true) :
    ∃ t st, exec i s = .next t ∧ KeepsRest e s' t st ∧ (st.split e.k).pc = e.sp.pc ∧ (st.split e.k).st = .interlock ∧
      (st.split e.k).again = true := by
  have hm : e.exm o.p ≠ 0 := fun hm => by
    rw [hm] at hs
    simp [State.strongOf, Mask.threads] at hs
  exact h.spadWaits (hi.exec_eq s) ((spadLoad_passing hh hm hc hx).trans (if_pos hs))

theorem IsSpadLoad.goesOn (hi : IsSpadLoad o i acc) (h : Enters i s s' e) (hh : e.halfDone = none) (hc : spadCheck o.w.bytes (acc e s') = none)
    (hx : (acc e s').find? (fun x => s'.tileOver (x.team.getD 0) .prov x.off o.w.bytes) = none) (hs : s'.strongOf e (e.exm o.p) = false)
    (hw : o.w ≠ .b128 ∨ e.exm o.p = 0) : ∃ t, exec i s = .next t ∧ Advances e t (e.next i) ∧ ∀ a, byteAt t.mem a = byteAt s'.mem a := by
  by_cases hm : e.exm o.p = 0
  · obtain ⟨hst, -⟩ := State.env_fields h.env
    obtain ⟨n, hn, hadv⟩ := h.goesOn (hi.exec_eq s) (spadLoad_idle hh hm) hst (.refl _)
    exact ⟨_, hn, hadv, fun a => congrArg (byteAt · a) (Env.retire_mem ..)⟩
  · refine h.spadLoaded (o := o) (hi.exec_eq s) (rs := fetchWords o s' false (spadWork (acc e s') fun _ => [])) ?_
    rw [spadLoad_ready hh hm hc hx hs, spadParts_whole (hw.resolve_right hm), spadFetch_eq]

theorem IsSpadLoad.firstHalf (hi : IsSpadLoad o i acc) (h : Enters i s s' e) (hh : e.halfDone = none) (hc : spadCheck o.w.bytes (acc e s') = none)
    (hx : (acc e s').find? (fun x => s'.tileOver (x.team.getD 0) .prov x.off o.w.bytes) = none) (hs : s'.strongOf e (e.exm o.p) = false)
    (hw : o.w = .b128) (hm : e.exm o.p ≠ 0) (hd : o.d.toNat + 4 ≤ 128) : ∃ (t : State) (st : Strand) (half : Bool),
      let ys := spadWork (acc e s') fun _ => []
      let rs := halfWords o s' half ys
      exec i s = .next t ∧ t.strand? e.who = some st ∧ (∀ n u, u < 32 → st.reg n u = e.st.reg n u) ∧ st.sstat = e.st.sstat ∧
      st.inbound = e.st.inbound ++ rs.map (fun r => { reg := r.1.toNat, vals := (Mask.threads r.2.1).map fun u => (u, r.2.2 u) }) ∧
      (st.split e.k).pc = e.sp.pc ∧ (st.split e.k).st = .interlock ∧ (st.split e.k).again = true ∧
      (st.split e.k).park.map Park.cond = some (.half (!half) ys) ∧ ∀ a, byteAt t.mem a = byteAt s'.mem a := by
  obtain ⟨half, hparts⟩ := spadParts_half (e := e) (s := s') (part := e.spadFetch o) (finish := e.spadLoaded i o)
    (ys := spadWork (acc e s') fun _ => []) hw
  have hsent := fetchWords_sent (s := s'.spend 1) (hi := half) (by rw [hw]; exact hd) (exists_work hm (hi.threads e s') fun _ => [])
  obtain ⟨t, st, hn, hst, hreg, hsstat, hin, hrest⟩ := h.spadHalf (hi.exec_eq s) (c := .half (!half) (spadWork (acc e s') fun _ => []))
    (by rw [spadLoad_ready hh hm hc hx hs, hparts, spadFetch_eq]) hsent
  rw [fetchWords_half hw] at hin
  exact ⟨t, st, half, hn, hst, hreg, hsstat, hin, hrest⟩

theorem IsSpadLoad.sends (hi : IsSpadLoad o i acc) (h : Enters i s s' e) (hh : e.halfDone = none) (hc : spadCheck o.w.bytes (acc e s') = none)
    (hx : (acc e s').find? (fun x => s'.tileOver (x.team.getD 0) .prov x.off o.w.bytes) = none) (hs : s'.strongOf e (e.exm o.p) = false)
    (hw : o.w ≠ .b128) (ho : o.ord ≠ .acq) (hm : e.exm o.p ≠ 0) (hd : o.d.toNat + o.w.regs ≤ 128) :
    ∃ t, exec i s = .next t ∧ RanLater e s' t (e.next i) (if o.d = 0 then [] else (List.range o.w.regs).map fun j =>
      (BitVec.ofNat 7 (o.d.toNat + j), e.exm o.p, fun u => accessWord o.w o.sx
        (match (acc e s').find? fun x => x.thread = u with | some x => s'.spadRead (x.team.getD 0) x.off o.w.bytes | none => []) j)) := by
  rw [← fetchWords_whole hw (hi.threads e s') s' fun _ => []]
  refine h.spadSent (hi.exec_eq s) ?_ ho (fetchWords_sent hd (exists_work hm (hi.threads e s') _))
  rw [spadLoad_ready hh hm hc hx hs, spadParts_whole hw, spadFetch_eq]

/-! ### The clauses of a store -/

theorem IsSpadStore.secondHalf (hi : IsSpadStore o i acc) (h : Enters i s s' e) {half : Bool} {ys : List (Nat × Nat × Nat × Nat)}
    (hh : e.halfDone = some (half, ys)) (hw : o.w = .b128) : ∃ t, exec i s = .next t ∧ Advances e t (e.next i) ∧
      PutsSpad s' t ys (if half then 8 else 0) fun y => ((leBytes 16 y.2.2.2).drop (if half then 8 else 0)).take 8 := by
  refine h.spadStored (hi.exec_eq s) (.refl s') ?_
  rw [spadStore_second hh, spadPut_eq, parts_half hw, hw]
  rfl

theorem IsSpadStore.puts (hi : IsSpadStore o i acc) (h : Enters i s s' e) (hh : e.halfDone = none) (hc : spadCheck o.w.bytes (acc e s') = none)
    (hr : o.ord = .rel → e.exm o.p ≠ 0 → e.sp.mark = none ∧
      (s'.release e.agent o.sc e.releaser).drained e.agent e.who (s'.release e.agent o.sc e.releaser).nextKey false = true)
    (hw : o.w ≠ .b128 ∨ e.exm o.p = 0) : ∃ t, exec i s = .next t ∧ Advances e t (e.next i) ∧
      PutsSpad s' t (spadWork (acc e s') fun u => e.storeData o o.d u) 0 fun y => e.storeData o o.d y.1 := by
  by_cases hm : e.exm o.p = 0
  · have hnil : acc e s' = [] := List.eq_nil_iff_forall_not_mem.mpr fun x hx => exm_ne_zero_of_mem (hi.threads e s') hx hm
    rw [hnil]
    exact h.spadStored (hi.exec_eq s) (.refl s') (spadStore_idle hh hm)
  · have hw := hw.resolve_right hm
    have hdata (u : Nat) : ((e.storeData o o.d u).drop 0).take o.w.bytes = e.storeData o o.d u :=
      List.take_of_length_le (length_storeData e o o.d u).le
    refine h.spadStored (hi.exec_eq s) (sends_spadReleased e o s') ?_
    rw [spadStore_ready hh hm hc fun ho => hr ho hm, spadParts_whole hw, spadPut_work, parts_whole hw]
    simp only [hdata]

theorem IsSpadStore.firstHalf (hi : IsSpadStore o i acc) (h : Enters i s s' e) (hh : e.halfDone = none)
    (hc : spadCheck o.w.bytes (acc e s') = none)
    (hr : o.ord = .rel → e.exm o.p ≠ 0 → e.sp.mark = none ∧
      (s'.release e.agent o.sc e.releaser).drained e.agent e.who (s'.release e.agent o.sc e.releaser).nextKey false = true)
    (hw : o.w = .b128) (hm : e.exm o.p ≠ 0) : ∃ (t : State) (st : Strand) (half : Bool), exec i s = .next t ∧ t.strand? e.who = some st ∧
      (∀ n u, u < 32 → st.reg n u = e.st.reg n u) ∧ st.sstat = e.st.sstat ∧ (st.split e.k).pc = e.sp.pc ∧ (st.split e.k).st = .interlock ∧
      (st.split e.k).again = true ∧
      (st.split e.k).park.map Park.cond = some (.half (!half) (spadWork (acc e s') fun u => e.storeData o o.d u)) ∧
      PutsSpad s' t (spadWork (acc e s') fun u => e.storeData o o.d u) (if half then 8 else 0) fun y =>
        ((e.storeData o o.d y.1).drop (if half then 8 else 0)).take 8 := by
  obtain ⟨half, hparts⟩ := spadParts_half (e := e) (s := e.spadReleased o s') (part := e.spadPut o) (finish := e.retire i)
    (ys := spadWork (acc e s') fun u => e.storeData o o.d u) hw
  obtain ⟨t, st, hrest⟩ := h.spadStoredHalf (hi.exec_eq s) ((sends_spadReleased e o s').trans (sends_spend _ 1)) (by
    rw [spadStore_ready hh hm hc fun ho => hr ho hm, hparts, spadPut_work, parts_half hw])
  exact ⟨t, st, half, hrest⟩

end

/-- Settles O32: a load sends `fetchWords`, a store puts `putAll`, each whole or in halves; the checks come first. -/
theorem scratchpad : Obligations.Scratchpad := by
  unfold Obligations.Scratchpad
  refine ⟨fun o i acc hi s s' e h => ⟨fun half ys => IsSpadLoad.secondHalf hi h, fun hh => ⟨fun c a hc => ?_, fun hc x hx => ?_,
    IsSpadLoad.waits hi h hh, IsSpadLoad.goesOn hi h hh, IsSpadLoad.firstHalf hi h hh, IsSpadLoad.sends hi h hh⟩⟩,
    fun o i acc hi s s' e h => ⟨fun half ys => IsSpadStore.secondHalf hi h, fun hh => ⟨fun c a hc => ?_, fun hc hr =>
      ⟨IsSpadStore.puts hi h hh hc hr, IsSpadStore.firstHalf hi h hh hc hr⟩⟩⟩⟩
  · obtain ⟨x, hx⟩ := spadCheck_failing hc
    exact h.raises (IsSpadLoad.exec_eq hi s) (spadLoad_failing hh (exm_ne_zero_of_mem (IsSpadLoad.threads hi e s') hx) hc)
  · have hm := exm_ne_zero_of_mem (IsSpadLoad.threads hi e s') (List.mem_of_find?_eq_some hx)
    exact h.raises (IsSpadLoad.exec_eq hi s) (spadLoad_speculating hh hm hc hx)
  · obtain ⟨x, hx⟩ := spadCheck_failing hc
    exact h.raises (IsSpadStore.exec_eq hi s) (spadStore_failing hh (exm_ne_zero_of_mem (IsSpadStore.threads hi e s') hx) hc)

end Sys2Proof.Machine

/-! Writes, atomics and reads at their home, and results that return (R218, R219, R221, R224, R225, R236, R240, R276, R321, R393). -/

namespace Sys2Proof.Machine

/-! ### Bytes of numbers and of lines -/

theorem testBit_leNat (bs : List Byte) (k : Nat) {j : Nat} (hj : j < 8) : (leNat bs).testBit (8 * k + j) = (bs.getD k 0).getLsbD j := by
  induction bs generalizing k with
  | nil => simp [leNat]
  | cons b bs ih =>
    rw [leNat, Nat.add_comm, show (256 : Nat) = 2 ^ 8 from rfl, Nat.testBit_two_pow_mul_add _ b.isLt]
    cases k with
    | zero => rw [if_pos (by omega)]; simp [BitVec.getLsbD]
    | succ k =>
      rw [if_neg (by omega), show 8 * (k + 1) + j - 8 = 8 * k + j by omega, ih]
      rfl

theorem dataByte_leNat (bs : List Byte) (pos : Nat) {i : Nat} (hi : i < 128) :
    dataByte (BitVec.ofNat 1024 (leNat bs * 2 ^ (8 * pos))) i = if pos ≤ i then bs.getD (i - pos) 0 else 0 := by
  apply BitVec.eq_of_getLsbD_eq
  intro j hj
  rw [dataByte, BitVec.getLsbD_extractLsb', decide_eq_true hj, Bool.true_and, BitVec.getLsbD_ofNat, decide_eq_true (by omega : 8 * i + j < 1024),
    Bool.true_and, Nat.testBit_mul_two_pow]
  split
  · rename_i hpos
    rw [decide_eq_true (by omega : 8 * pos ≤ 8 * i + j), Bool.true_and, show 8 * i + j - 8 * pos = 8 * (i - pos) + j by omega, testBit_leNat _ _ hj]
  · rw [decide_eq_false (by omega : ¬8 * pos ≤ 8 * i + j), Bool.false_and]
    simp

theorem getLsbD_lineBytes {pos : Nat} {bs : List Byte} (h : pos + bs.length ≤ 128) (i : Nat) :
    (lineBytes pos bs).1.getLsbD i = decide (pos ≤ i ∧ i < pos + bs.length) := by
  rw [lineBytes, BitVec.getLsbD_ofNat, Nat.testBit_mul_two_pow, Nat.testBit_two_pow_sub_one, Bool.eq_iff_iff]
  simp only [Bool.and_eq_true, decide_eq_true_eq]
  omega

theorem linePa_lineNo {dev pa : Nat} (h : pa / 128 < 2 ^ 33) : linePa (lineNo dev pa) = pa / 128 * 128 := by
  rw [linePa, lineNo, Nat.mul_comm dev, Nat.mul_add_mod, Nat.mod_eq_of_lt h]

/-- R221: bytes that merge into a line from a place on are found there, and every other byte is as it was. -/
theorem byteAt_mergeBytes (s : State) {pa : Nat} {bs : List Byte} (hpa : pa / 128 < 2 ^ 33) (h : pa % 128 + bs.length ≤ 128) (a : Nat) :
    byteAt (s.merge (lineNo s.dev pa) (lineBytes (pa % 128) bs).1 (lineBytes (pa % 128) bs).2).mem a =
      if pa ≤ a ∧ a < pa + bs.length then bs.getD (a - pa) 0 else byteAt s.mem a := by
  rw [byteAt_merge, linePa_lineNo hpa]
  simp only [getLsbD_lineBytes h, decide_eq_true_eq]
  by_cases ha : pa ≤ a ∧ a < pa + bs.length
  · rw [if_pos (by omega), if_pos ha, lineBytes]
    rw [dataByte_leNat _ _ (by omega), if_pos (by omega)]
    congr 1
    omega
  · rw [if_neg (by omega), if_neg ha]

theorem dataByte_dataOf (bs : List Byte) {i : Nat} (hi : i < 128) : dataByte (dataOf bs) i = bs.getD i 0 := by
  simpa [dataOf] using dataByte_leNat bs 0 hi

/-- R222: a part of a line of memory. -/
theorem lineData_dataOf (m : List Host.Cell) (pa : Nat) {pos n : Nat} (h : pos + n ≤ 128) :
    lineData (dataOf (bytesAt m pa 128)) pos n = bytesAt m (pa + pos) n := by
  apply List.ext_getElem?
  intro i
  rw [getElem?_bytesAt, lineData, List.getElem?_map]
  by_cases hi : i < n
  · rw [List.getElem?_range hi, Option.map_some, dataByte_dataOf _ (by omega), if_pos hi, List.getD_eq_getElem?_getD, getElem?_bytesAt,
      if_pos (by omega), Option.getD_some, Nat.add_assoc]
  · rw [if_neg hi, List.getElem?_eq_none (by simpa using hi)]
    rfl

/-! ### What happens beside a home's access -/

theorem any_place {α : Type} {t : Sparse α} {n : Nat} {x y : α} (f : α → Bool) (h : look t n = some x) (hf : f y = f x) :
    ((place t n y).any fun p => f p.2) = t.any fun p => f p.2 := by
  induction t with
  | nil => cases h
  | cons p t ih =>
    obtain ⟨k, v⟩ := p
    rw [look] at h
    rw [place]
    by_cases hk : n = k
    · rw [if_pos hk] at h
      cases h
      rw [if_neg (by omega), if_pos hk, List.any_cons, List.any_cons, hf]
    · rw [if_neg hk] at h
      by_cases hlt : n < k
      · rw [if_pos hlt]
        have hmem : f x = true → (t.any fun p => f p.2) = true := fun hx => List.any_eq_true.mpr ⟨_, mem_of_look h, hx⟩
        rw [List.any_cons, hf]
        cases hx : f x with
        | false => rfl
        | true => simp [hmem hx]
      · rw [if_neg hlt, if_neg hk, List.any_cons, List.any_cons, ih h]

/-- R389: counting an event changes counters of a context alone. -/
theorem count_eq (s : State) (d c code n : Nat) : ∃ cs, s.count d c code n = { s with ctxs := cs } ∧
    ∀ pa, ({ s with ctxs := cs } : State).ownsByte pa = s.ownsByte pa := by
  unfold State.count
  dsimp only
  split
  · exact ⟨s.ctxs, rfl, fun _ => rfl⟩
  · rename_i hv
    split
    · exact ⟨s.ctxs, rfl, fun _ => rfl⟩
    · refine ⟨_, rfl, fun pa => ?_⟩
      have hvalid : (s.ctx c).valid = true := by
        cases h : (s.ctx c).valid with
        | true => rfl
        | false => exact absurd (by simp [h]) hv
      have hlook : look s.ctxs c = some (s.ctx c) := by
        unfold State.ctx readOr at hvalid ⊢
        cases h : look s.ctxs c with
        | some x => rfl
        | none => rw [h] at hvalid; cases hvalid
      unfold State.ownsByte
      dsimp only
      rw [write, if_neg (fun h => by have := congrArg Ctx.valid h; rw [hvalid] at this; cases this)]
      refine any_place (fun x => x.valid &&
        ((x.cblk ≤ pa && pa < x.cblk + 4096 && !sharedByte (pa - x.cblk)) || (x.pool ≤ pa && pa < x.pool + x.poolsz))) hlook ?_
      rfl

/-- R381: an access that no watch range meets. -/
theorem watch_eq {s : State} (h : ∀ d, (s.die d).ranges = []) (a : Seen) : s.watch a = s := by
  unfold State.watch
  dsimp only
  split
  · rfl
  · rw [h]
    rfl

/-- R388: a trace record changes a die, its RDC apart. -/
theorem traceRecord_eq (s : State) (line : Nat) (mask : BitVec 128) (site : DWord) (seq : Word) (asid srcDie sc rt flags kind srcDev srcCore : Nat) :
    ∃ ds, s.traceRecord line mask site seq asid srcDie sc rt flags kind srcDev srcCore = { s with dies := ds } ∧
      ∀ d, (({ s with dies := ds } : State).die d).rdc = (s.die d).rdc := by
  have hset (d : Nat) (x : Die) (hx : x.rdc = (s.die d).rdc) (d' : Nat) : ((s.setDie d x).die d').rdc = (s.die d').rdc := by
    by_cases hd : d' = d
    · rw [hd, State.die_setDie, hx]
    · rw [State.die, State.setDie, readOr_write_ne _ hd]
      rfl
  unfold State.traceRecord
  dsimp only
  split
  · exact ⟨s.dies, rfl, fun _ => rfl⟩
  · split
    · exact ⟨_, rfl, hset _ _ rfl⟩
    · exact ⟨_, rfl, hset _ _ rfl⟩

/-! ### Dirty bytes of latency cores -/

/-- R225: what merges into a line, the log and the latency cores leave, a recall leaves. -/
theorem recall_keeps {β : Type} (g : State → β) {line : Nat} (hm : ∀ s mask data, g (s.merge line mask data) = g s)
    (hl : ∀ s (x : List HomeEvent) (y : Sparse Lc), g { s with homeLog := x, lcs := y } = g s) (s : State) : g (s.recall line) = g s := by
  unfold State.recall
  refine foldl_keeps g (fun s x => ?_) _ s
  dsimp only
  split
  · rfl
  · split
    · rfl
    · exact (hl _ _ _).trans (hm _ _ _)

theorem byteAt_merge_outside (s : State) {line : Nat} (mask : BitVec 128) (data : BitVec 1024) {a : Nat} (h : linePa line ≠ a / 128 * 128) :
    byteAt (s.merge line mask data).mem a = byteAt s.mem a := by
  rw [byteAt_merge, if_neg]
  rintro ⟨hle, hbit⟩
  have := BitVec.lt_of_getLsbD hbit
  rw [linePa] at h hle this
  omega

theorem byteAt_recall_outside (s : State) {line a : Nat} (h : linePa line ≠ a / 128 * 128) :
    byteAt (s.recall line).mem a = byteAt s.mem a :=
  recall_keeps (fun s => byteAt s.mem a) (fun s mask data => byteAt_merge_outside s mask data h) (fun _ _ _ => rfl) s

theorem foldl_mem_congr {α : Type} {f : State → α → State} (hf : ∀ {s t : State} x, s.mem = t.mem → (f s x).mem = (f t x).mem) (xs : List α)
    {s t : State} (h : s.mem = t.mem) : (xs.foldl f s).mem = (xs.foldl f t).mem := by
  induction xs generalizing s t with
  | nil => exact h
  | cons x xs ih => exact ih (hf x h)

/-- R225: what a recall writes depends on memory and on the latency cores. -/
theorem recall_mem_congr {s t : State} (hm : s.mem = t.mem) (hl : s.lcs = t.lcs) (line : Nat) : (s.recall line).mem = (t.recall line).mem := by
  unfold State.recall
  rw [hl]
  refine foldl_mem_congr (fun x h => ?_) _ hm
  dsimp only
  split
  · exact h
  · split
    · exact h
    · exact congrArg (mergeLine · line _ _) h

/-! ### A write that no tracked cache hinders -/

/-- R388: the trace of a write changes dies alone. -/
theorem traceWrite_eq (s : State) (op : WriteOp) : ∃ ds, s.traceWrite op = { s with dies := ds } := by
  unfold State.traceWrite
  split
  · obtain ⟨ds, h, -⟩ := traceRecord_eq s op.line op.mask op.site op.seq op.asid op.agent.die op.sc.code.toNat op.rt.code.toNat
      (bit op.wb 0 + bit op.evict 1 + bit (s.gone op.seen) 2) 2 s.dev op.agent.number
    exact ⟨ds, h⟩
  · exact ⟨s.dies, rfl⟩

theorem takeWrite_free {s : State} {k : Nat} {op : WriteOp} (hs : s.sharers op.line = []) :
    s.takeWrite k op = { s with held := unlist s.held k }.performWrite op := by
  unfold State.takeWrite
  rw [hs]

/-- R225: a write without a sharer takes its masked bytes into memory. -/
theorem takeWrite_writes {s : State} {k : Nat} {op : WriteOp} (hs : s.sharers op.line = []) (hr : ∀ d, (s.die d).ranges = [])
    (ha : op.atomic = none) :
    (s.takeWrite k op).out = s.out ∧ (s.takeWrite k op).held = unlist s.held k ∧ ∀ a, byteAt (s.takeWrite k op).mem a =
      if linePa op.line ≤ a ∧ op.mask.getLsbD (a - linePa op.line) = true then dataByte op.data (a - linePa op.line) else byteAt s.mem a := by
  have hp : s.takeWrite k op = (({ s with held := unlist s.held k } : State).merge op.line op.mask op.data).traceWrite op := by
    rw [takeWrite_free hs]
    unfold State.performWrite
    rw [watch_eq (s := { s with held := unlist s.held k }) hr, ha]
  obtain ⟨ds, hd⟩ := traceWrite_eq (({ s with held := unlist s.held k } : State).merge op.line op.mask op.data) op
  rw [hp, hd]
  exact ⟨rfl, rfl, byteAt_merge { s with held := unlist s.held k } _ _ _⟩

/-- R276: what an atomic without a sharer and without an error does at its home, where no old value returns. -/
theorem takeWrite_atomic {s : State} {k : Nat} {op : WriteOp} {x : AtomicOp} (hs : s.sharers op.line = []) (hr : ∀ d, (s.die d).ranges = [])
    (ha : op.atomic = some x) (hp : s.poisoned x.pa x.bytes = false) (hf : s.fencedAt x.pa = false)
    (hl : x.load = none) : s.takeWrite k op = (({ s with held := unlist s.held k } : State).atomicAt x).1 := by
  have hp' : ({ s with held := unlist s.held k } : State).poisoned x.pa x.bytes = false := hp
  have hf' : ({ s with held := unlist s.held k } : State).fencedAt x.pa = false := hf
  rw [takeWrite_free hs]
  unfold State.performWrite
  rw [watch_eq (s := { s with held := unlist s.held k }) hr, ha]
  dsimp only
  rw [hp', hf', Bool.or_false, if_neg Bool.false_ne_true, State.landAtomic, hl]

/-- R224, R276: the word of an atomic takes what it writes, and every other byte stays. -/
theorem atomicAt_writes {s : State} {x : AtomicOp} (ho : s.ownedByZ4 x.pa x.bytes = false) (hpa : x.pa / 128 < 2 ^ 33)
    (hx : x.pa % 128 + x.bytes ≤ 128) {v : Nat} (hv : x.written (leNat (bytesAt s.mem x.pa x.bytes)) = some v) (a : Nat) :
    byteAt (s.atomicAt x).1.mem a = if x.pa ≤ a ∧ a < x.pa + x.bytes then (leBytes x.bytes v).getD (a - x.pa) 0 else byteAt s.mem a := by
  have hm := byteAt_mergeBytes s (bs := leBytes x.bytes v) hpa (by rw [length_leBytes]; exact hx) a
  rw [length_leBytes] at hm
  unfold State.atomicAt State.softBytes
  rw [ho, if_neg Bool.false_ne_true]
  dsimp only
  rw [hv]
  exact hm

theorem atomicAt_leaves {s : State} {x : AtomicOp} (ho : s.ownedByZ4 x.pa x.bytes = false)
    (hv : x.written (leNat (bytesAt s.mem x.pa x.bytes)) = none) : (s.atomicAt x).1.mem = s.mem := by
  unfold State.atomicAt State.softBytes
  rw [ho, if_neg Bool.false_ne_true]
  dsimp only
  rw [hv]

/-! ### Requests at their home -/

theorem exec_homeWriteRequest (k : Nat) (s : State) : exec (.homeWriteRequest k) s = execHomeWriteRequest k s := rfl
theorem exec_invalidation (k cache : Nat) (s : State) : exec (.invalidation k cache) s = execInvalidation k cache s := rfl
theorem exec_invalidationAck (k : Nat) (s : State) : exec (.invalidationAck k) s = execInvalidationAck k s := rfl
theorem exec_homeRead (k : Nat) (s : State) : exec (.homeRead k) s = execHomeRead k s := rfl
theorem exec_resultReturn (s : State) : exec .resultReturn s = execResultReturn s := rfl

/-- A request that its home takes, before anything is done for it. -/
def State.requested (s : State) (k : Nat) (op : WriteOp) : State :=
  ({ s.bump with out := unlist s.out k }).count (homeDie (linePa op.line)) op.ctx 0x06 1

theorem requested_eq (s : State) (k : Nat) (op : WriteOp) :
    ∃ cs, s.requested k op = { s.bump with out := unlist s.out k, ctxs := cs } ∧
      ∀ pa n, (s.requested k op).ownedByZ4 pa n = s.ownedByZ4 pa n := by
  obtain ⟨cs, h, ho⟩ := count_eq { s.bump with out := unlist s.out k } (homeDie (linePa op.line)) op.ctx 0x06 1
  refine ⟨cs, h, fun pa n => ?_⟩
  unfold State.requested
  rw [h]
  unfold State.ownedByZ4
  simp only [ho]
  rfl

theorem homeWriteRequest_waits {s : State} {k : Nat} (h : look s.out k = none ∨ ∃ op, look s.out k = some op ∧ s.mayPerform k op = false) :
    exec (.homeWriteRequest k) s = .next s.bump := by
  rw [exec_homeWriteRequest]
  unfold execHomeWriteRequest
  obtain h | ⟨op, h, hp⟩ := h
  · rw [h]
  · rw [h]
    simp only [hp, Bool.not_false, if_true]

theorem homeWriteRequest_takes {s : State} {k : Nat} {op : WriteOp} (h : look s.out k = some op) (hp : s.mayPerform k op = true) :
    exec (.homeWriteRequest k) s =
      if lineDev op.line ≠ s.dev then .next ((s.requested k op).sendAtomic k op) else .next ((s.requested k op).takeWrite k op) := by
  obtain ⟨cs, hr, -⟩ := requested_eq s k op
  have hd : (s.requested k op).dev = s.dev := by rw [hr]; rfl
  rw [exec_homeWriteRequest, ← hd]
  unfold execHomeWriteRequest
  rw [h]
  simp only [hp, Bool.not_true, Bool.false_eq_true, if_false]
  rfl

/-- R225: a write is held until the tracked caches have dropped its line. -/
theorem takeWrite_holds {s : State} {k : Nat} {op : WriteOp} (hs : s.sharers op.line ≠ []) :
    look (s.takeWrite k op).held k = some { op with awaits := s.sharers op.line, silent := [] } ∧
      ∀ a, linePa op.line ≠ a / 128 * 128 → byteAt (s.takeWrite k op).mem a = byteAt s.mem a := by
  unfold State.takeWrite
  split
  · rename_i h
    exact absurd h hs
  · exact ⟨look_place_self _ _ _, fun a ha => byteAt_recall_outside s ha⟩

/-! ### Invalidations -/

/-- R226: a tracked cache that drops a line holds it no more. -/
theorem dropTracked_drops (s : State) (cache line : Nat) :
    (s.dropTracked cache line).mem = s.mem ∧ (s.dropTracked cache line).held = s.held ∧
      (cache < 4 → look ((s.dropTracked cache line).die cache).rdc line = none) ∧
      (4 ≤ cache → look ((s.dropTracked cache line).lc (cache - 4)).cache line = none) := by
  unfold State.dropTracked
  dsimp only
  split
  · rename_i h
    refine ⟨rfl, rfl, fun _ => ?_, fun h' => absurd h (by omega)⟩
    have := State.die_setDie s cache { s.die cache with rdc := unlist (s.die cache).rdc line }
    exact (congrArg (fun d : Die => look d.rdc line) this).trans (look_unlist_self _ _)
  · rename_i h
    refine ⟨rfl, rfl, fun h' => absurd h' h, fun _ => ?_⟩
    have := State.lc_setLc s (cache - 4) { s.lc (cache - 4) with cache := unlist (s.lc (cache - 4)).cache line }
    exact (congrArg (fun l : Lc => look l.cache line) this).trans (look_unlist_self _ _)

theorem invalidation_drops {s : State} {k cache : Nat} {op : WriteOp} (h : look s.held k = some op) (ha : cache ∈ op.awaits)
    (hn : cache ∉ op.silent) :
    ∃ t, exec (.invalidation k cache) s = .next t ∧ look t.held k = some { op with silent := op.silent ++ [cache] } ∧
      (cache < 4 → look (t.die cache).rdc op.line = none) ∧ (4 ≤ cache → look (t.lc (cache - 4)).cache op.line = none) ∧
      ∀ a, linePa op.line ≠ a / 128 * 128 → byteAt t.mem a = byteAt s.mem a := by
  obtain ⟨hm, hh, hd, hl⟩ := dropTracked_drops (s.bump.recall op.line) cache op.line
  have hheld : (s.bump.recall op.line).held = s.held := recall_keeps State.held (fun _ _ _ => rfl) (fun _ _ _ => rfl) s.bump
  rw [exec_invalidation]
  unfold execInvalidation
  rw [h]
  simp only [List.contains_iff_mem.mpr ha, Bool.not_true, Bool.false_or, List.contains_eq_mem, decide_eq_true_eq, if_neg hn]
  refine ⟨_, rfl, ?_⟩
  obtain ⟨ds, ht, hrdc⟩ := traceRecord_eq ((s.bump.recall op.line).dropTracked cache op.line) op.line (BitVec.allOnes 128) op.site op.seq op.asid
    op.agent.die op.sc.code.toNat op.rt.code.toNat
    (bit op.wb 0 + bit op.evict 1 + bit (s.gone op.seen) 2) 1 s.dev op.agent.number
  rw [ht]
  refine ⟨?_, fun hc => ?_, hl, fun a ha => ?_⟩
  · refine (look_adjust_self _ _ _).trans ?_
    dsimp only
    rw [hh, hheld, h]
    rfl
  · exact (congrArg (look · op.line) (hrdc cache)).trans (hd hc)
  · exact (congrArg (byteAt · a) hm).trans (byteAt_recall_outside s.bump ha)

theorem invalidationAck_takes {s : State} {k : Nat} {op : WriteOp} (h : look s.held k = some op) (ha : ∀ c ∈ op.awaits, c ∈ op.silent)
    (hp : s.mayPerform k op = true) : exec (.invalidationAck k) s = .next (s.bump.takeWrite k op) := by
  have hall : op.awaits.all op.silent.contains = true := by simpa using ha
  rw [exec_invalidationAck]
  unfold execInvalidationAck
  rw [h]
  simp only [hall, hp, Bool.and_self, if_true]

/-! ### Lines that come into caches -/

/-- R218, R219: from state `s` on lines have come into wide cores and RDCs, or left them, and written-back lines are on their way. -/
structure Refills (s t : State) : Prop where
  sends : Sends s t
  reads : t.reads = s.reads

theorem Refills.refl (s : State) : Refills s s := ⟨.refl s, rfl⟩

theorem Refills.trans {s t u : State} (h : Refills s t) (h' : Refills t u) : Refills s u := ⟨h.sends.trans h'.sends, h'.reads.trans h.reads⟩

theorem refills_spend (s : State) (n : Nat) : Refills s (s.spend n) := ⟨sends_spend s n, rfl⟩

theorem refills_setCore (s : State) (c : Nat) (x : Core) : Refills s (s.setCore c x) := ⟨sends_setCore s c x, rfl⟩

theorem refills_setDie (s : State) (d : Nat) (x : Die) : Refills s (s.setDie d x) := ⟨⟨rfl, rfl, rfl, rfl, Nat.le_refl _, fun _ _ => rfl⟩, rfl⟩

theorem refills_writeBack (s : State) (c line : Nat) : Refills s (s.writeBack c line) := by
  refine ⟨sends_writeBack s c line none, ?_⟩
  unfold State.writeBack
  split
  · rfl
  · split <;> rfl

theorem refills_dropClean (s : State) (a : Agent) (line : Nat) : Refills s (s.dropClean a line) := by
  unfold State.dropClean
  split
  · split
    · exact .refl s
    · split
      · exact refills_setCore s _ _
      · exact refills_setCore s _ _
  · exact .refl s

theorem refills_fillRdc (s : State) (d line : Nat) (l : Line) : Refills s (s.fillRdc d line l) := (refills_setDie s d _).trans (refills_spend _ 1)

theorem refills_makeRoom (s : State) (c line : Nat) : Refills s (s.makeRoom (.wide c) line) := by
  unfold State.makeRoom
  dsimp only
  split
  · exact ((refills_writeBack s c _).trans (refills_setCore _ _ _)).trans (refills_spend _ 1)
  · exact refills_spend s 1

theorem refills_fillLine (s : State) (c line : Nat) (data : BitVec 1024) (good : BitVec 128) (si uo : Bool) (asid : Nat) :
    Refills s (s.fillLine (.wide c) line data good si uo asid) := by
  unfold State.fillLine
  split
  · exact refills_setCore s _ _
  · exact (refills_makeRoom s c line).trans (refills_setCore _ _ _)

/-- R219, R246: a fetched line of a wide core, or one that fills no cache, changes caches alone. -/
theorem refills_install {u : ReadUnit} (hu : u.fill = none ∨ ∃ c, u.agent = .wide c) (s : State) (data : BitVec 1024) (good : BitVec 128) (isNew : Bool) :
    Refills s (s.install u data good isNew) := by
  unfold State.install
  split
  · exact refills_dropClean s _ _
  · rename_i si hfill
    obtain h | ⟨c, hc⟩ := hu
    · rw [hfill] at h
      cases h
    · rw [hc]
      dsimp only
      split
      · exact refills_dropClean s _ _
      · simp only [Bool.not_true, Bool.and_false, Bool.false_eq_true, if_false]
        split
        · exact (refills_fillRdc s _ _ _).trans (refills_fillLine _ c _ _ _ _ _ _)
        · exact refills_fillLine s c _ _ _ _ _ _

/-! ### Loads that have all their bytes -/

theorem readOr_land (bs : List Byte) (base k n : Nat) (t : Sparse Byte) :
    readOr 0 ((bs.zipIdx k).foldl (fun t p => place t (base + p.2) p.1) t) (base + n) =
      if k ≤ n ∧ n < k + bs.length then bs.getD (n - k) 0 else readOr 0 t (base + n) := by
  induction bs generalizing k t with
  | nil => rw [if_neg (by simp)]; rfl
  | cons b bs ih =>
    rw [List.zipIdx_cons, List.foldl_cons, ih (k + 1)]
    rw [List.length_cons]
    by_cases hn : n = k
    · subst hn
      rw [if_neg (by omega), if_pos (by omega), Nat.sub_self, readOr, look_place_self]
      rfl
    · by_cases hk : k ≤ n ∧ n < k + (bs.length + 1)
      · rw [if_pos (by omega), if_pos hk, show n - k = n - (k + 1) + 1 by omega, List.getD_cons_succ]
      · rw [if_neg (by omega), if_neg hk, readOr, look_place_ne _ _ (by omega)]
        rfl

theorem readOr_indexed (bs : List Byte) (k n : Nat) :
    readOr 0 ((bs.zipIdx k).map fun p => (p.2, p.1)) (k + n) = bs.getD n 0 := by
  induction bs generalizing k n with
  | nil => rfl
  | cons b bs ih =>
    rw [List.zipIdx_cons, List.map_cons, readOr, look]
    cases n with
    | zero => rw [if_pos (by omega)]; rfl
    | succ n =>
      rw [if_neg (by omega), List.getD_cons_succ, ← ih (k + 1), readOr, show k + (n + 1) = k + 1 + n by omega]

/-- R273, R321: a load whose bytes of a thread have come at once has the words of those bytes there. -/
theorem word_land {l : LoadOp} (hl : l.bytes = []) (thread : Nat) (bs : List Byte) (j : Nat) :
    (l.land thread 0 bs).word j thread = accessWord l.w l.sx bs j := by
  have hland (p : Nat) : readOr 0 (l.land thread 0 bs).bytes (16 * thread + p) = bs.getD p 0 := by
    have := readOr_land bs (16 * thread) 0 p l.bytes
    rw [LoadOp.land, Nat.add_zero, this, hl]
    split
    · rfl
    · rw [List.getD_eq_getElem?_getD, List.getElem?_eq_none (by omega)]
      rfl
  have hidx (p : Nat) : readOr 0 (bs.zipIdx.map fun (b, i) => (i, b)) p = bs.getD p 0 := by
    have := readOr_indexed bs 0 p
    rwa [Nat.zero_add] at this
  unfold accessWord LoadOp.word
  simp only [Nat.add_assoc, hland, Nat.mul_zero, Nat.zero_add, hidx] <;> rfl

/-- R321: the words of a load, on their way to their registers in the threads that live. -/
def LoadOp.sent (l : LoadOp) (live : Mask) : List Inbound :=
  (List.range l.w.regs).map fun j => { reg := l.reg + j, vals := ((Mask.threads l.mask).filter fun v => live.getLsbD v).map fun v => (v, l.word j v) }

theorem landUnit_finishes {s : State} {u : ReadUnit} {l : LoadOp} {st : Strand} (hl : look s.loads u.load = some l) (h1 : l.left = 1)
    (hf : l.failed = none) (ha : l.acq = none) (hr : l.reg ≠ 0) (hst : s.strand? l.who = some st) (bs : List Byte) :
    (s.landUnit u bs).mem = s.mem ∧ (s.landUnit u bs).reads = s.reads ∧ look (s.landUnit u bs).loads u.load = none ∧
      (s.landUnit u bs).strand? l.who = some { st with inbound := st.inbound ++ (l.land u.thread u.off bs).sent st.live } := by
  have hlook : look (adjust s.loads u.load fun l => { l.land u.thread u.off bs with left := l.left - 1 }) u.load =
      some { l.land u.thread u.off bs with left := l.left - 1 } := by rw [look_adjust_self, hl]; rfl
  have heq : s.landUnit u bs =
      ({ s with loads := unlist (adjust s.loads u.load fun l => { l.land u.thread u.off bs with left := l.left - 1 }) u.load } : State).mapStrand l.who
        fun st => { st with inbound := st.inbound ++ (l.land u.thread u.off bs).sent st.live } := by
    unfold State.landUnit State.finishLoad
    rw [hlook]
    simp [LoadOp.land, h1, hf, ha, hr] <;> rfl
  rw [heq]
  refine ⟨State.mapStrand_mem .., State.mapStrand_reads .., ?_, ?_⟩
  · rw [State.mapStrand_loads]
    exact look_unlist_self _ _
  · rw [State.strand?_mapStrand]
    exact congrArg (Option.map _) ((State.strand?_congr (s := s) rfl rfl _).trans hst)

/-! ### Reads at the home -/

theorem homeRead_waits {s : State} {k : Nat} (h : look s.reads k = none ∨ ∃ u, look s.reads k = some u ∧ (u.txn.isSome = true ∨ s.mayRead k u = false)) :
    exec (.homeRead k) s = .next s.bump := by
  rw [exec_homeRead]
  unfold execHomeRead
  obtain h | ⟨u, h, hu⟩ := h
  · rw [h]
  · have hw : (u.txn.isSome || !s.mayRead k u) = true := by
      obtain hu | hu := hu
      · rw [hu, Bool.true_or]
      · rw [hu, Bool.not_false, Bool.or_true]
    rw [h]
    simp only [hw, if_true]

theorem homeRead_goes {s : State} {k : Nat} {u : ReadUnit} (h : look s.reads k = some u) (ht : u.txn = none) (hm : s.mayRead k u = true) :
    exec (.homeRead k) s = if lineDev u.line = s.dev then .next (s.bump.readHere k u) else .next (s.bump.readFar k u) := by
  rw [exec_homeRead]
  unfold execHomeRead
  rw [h]
  simp only [ht, hm, Option.isSome_none, Bool.not_true, Bool.or_self, Bool.false_eq_true, if_false]

/-- R233: a read of another device's line that no RDC may answer leaves as a request. -/
theorem readFar_asks {u : ReadUnit} (hf : u.fill ≠ some true) (s : State) (k : Nat) :
    ∃ r : RemoteOp, look (s.readFar k u).remote s.txn = some r ∧ r.dev = lineDev u.line ∧ r.line = u.line ∧ r.type = 1 ∧ r.read = some k ∧
      (s.readFar k u).mem = s.mem := by
  unfold State.readFar
  rw [if_neg hf]
  exact ⟨_, look_place_self _ _ _, rfl, rfl, rfl, rfl, rfl⟩

/-- R225: the bytes of a line as the home serves them. -/
theorem homeRead_line (s : State) (line : Nat) : s.homeRead (linePa line) 128 =
    (s.recall (lineNo s.dev (linePa line)), bytesAt (s.recall (lineNo s.dev (linePa line))).mem (linePa line) 128) := by
  have hl : s.linesOf (linePa line) 128 = [lineNo s.dev (linePa line)] := by
    rw [State.linesOf, linePa, Nat.mul_mod_left, show (0 + 128 + 127) / 128 = 1 from rfl, List.range_one, List.map_singleton, Nat.add_zero]
  rw [State.homeRead, hl, List.foldl_cons, List.foldl_nil]

/-- R225: memory after a read at the home depends on memory and on the latency cores. -/
theorem homeRead_mem_congr {s t : State} (hm : s.mem = t.mem) (hl : s.lcs = t.lcs) (hd : s.dev = t.dev) (line : Nat) :
    (s.homeRead (linePa line) 128).1.mem = (t.homeRead (linePa line) 128).1.mem := by
  rw [homeRead_line, homeRead_line, hd]
  exact recall_mem_congr hm hl _

/-- R225: a read without an error whose line the RDC of its die does not hold is served with the bytes of memory. -/
theorem readHere_serves {s : State} {k : Nat} {u : ReadUnit} (hrdc : u.fill = none ∨ look (s.die u.agent.die).rdc u.line = none)
    (hp : s.poisoned (linePa u.line + u.pos) u.bytes = false) (hf : s.fencedAt (linePa u.line) = false) (hr : ∀ d, (s.die d).ranges = []) :
    ∃ cs, s.readHere k u = ((({ s with ctxs := cs } : State).homeRead (linePa u.line) 128).1.serve k u
      (dataOf (({ s with ctxs := cs } : State).homeRead (linePa u.line) 128).2)
      ((({ s with ctxs := cs } : State).homeRead (linePa u.line) 128).1.goodBytes (linePa u.line)) true) := by
  have hnone : (if u.fill.isSome && u.agent.die < 4 then look (s.die u.agent.die).rdc u.line else none) = none := by
    obtain h | h := hrdc
    · rw [h]
      rfl
    · rw [h, ite_self]
  obtain ⟨cs, hc, -⟩ := count_eq s (homeDie (linePa u.line)) u.ctx 0x06 1
  have hp' : ({ s with ctxs := cs } : State).poisoned (linePa u.line + u.pos) u.bytes = false := hp
  have hf' : ({ s with ctxs := cs } : State).fencedAt (linePa u.line) = false := hf
  refine ⟨cs, ?_⟩
  unfold State.readHere
  rw [hnone]
  dsimp only
  rw [hc, watch_eq (s := { s with ctxs := cs }) hr, hp', hf', Bool.or_self, if_neg Bool.false_ne_true]

/-- R321: the words of a load of one thread whose bytes have come at once. -/
theorem sent_land {l : LoadOp} {u : ReadUnit} {live : Mask} (hb : l.bytes = []) (ho : u.off = 0)
    (hth : ∀ v < 32, l.mask.getLsbD v = true → v = u.thread ∧ live.getLsbD v = true) (bs : List Byte) :
    (l.land u.thread u.off bs).sent live =
      (List.range l.w.regs).map fun j => { reg := l.reg + j, vals := (Mask.threads l.mask).map fun v => (v, accessWord l.w l.sx bs j) } := by
  have hlive : ((Mask.threads l.mask).filter fun v => live.getLsbD v) = Mask.threads l.mask :=
    List.filter_eq_self.mpr fun v hv => (hth v (Mask.mem_threads.mp hv).1 (Mask.mem_threads.mp hv).2).2
  refine List.map_congr_left fun j _ => ?_
  congr 1
  refine (congrArg (List.map _) hlive).trans (List.map_congr_left fun v hv => ?_)
  obtain ⟨hv, hm⟩ := Mask.mem_threads.mp hv
  rw [(hth v hv hm).1, ho, word_land hb]

/-- R219, R225, R321: the last access of a load, served at its home, sends the words of the bytes of memory. -/
theorem serve_finishes {s : State} {k : Nat} {u : ReadUnit} {l : LoadOp} {st : Strand} (hu : u.fill = none ∨ ∃ c, u.agent = .wide c)
    (hn : u.bytes ≠ 0) (hl : look s.loads u.load = some l) (h1 : l.left = 1) (hf : l.failed = none) (ha : l.acq = none) (hr : l.reg ≠ 0)
    (hst : s.strand? l.who = some st) (data : BitVec 1024) (good : BitVec 128) (isNew : Bool) :
    (s.serve k u data good isNew).mem = s.mem ∧ look (s.serve k u data good isNew).reads k = none ∧
      look (s.serve k u data good isNew).loads u.load = none ∧
      (s.serve k u data good isNew).strand? l.who =
        some { st with inbound := st.inbound ++ (l.land u.thread u.off (lineData data u.pos u.bytes)).sent st.live } := by
  have hi := refills_install hu { s with reads := unlist s.reads k } data good isNew
  have hst' := ((hi.sends.strand? l.who).trans (State.strand?_congr (s := s) rfl rfl _)).trans hst
  obtain ⟨hmem, hreads, hloads, hstrand⟩ :=
    landUnit_finishes ((congrArg (look · u.load) hi.sends.loads).trans hl) h1 hf ha hr hst' (lineData data u.pos u.bytes)
  unfold State.serve
  rw [if_neg hn]
  exact ⟨hmem.trans hi.sends.mem, (congrArg (look · k) (hreads.trans hi.reads)).trans (look_unlist_self _ _), hloads, hstrand⟩

/-! ### Results that return -/

/-- R35: a register after words have been written to a register in threads, one after the other. -/
theorem Strand.reg_foldl_setReg (st : Strand) (n : Nat) (xs : List (Nat × Word)) (hx : ∀ x ∈ xs, x.1 < 32) (q : Nat) {u : Nat} (hu : u < 32) :
    (xs.foldl (fun st v => st.setReg n v.1 v.2) st).reg q u =
      if q = n ∧ q ≠ 0 then ((xs.reverse.find? fun x => x.1 = u).map Prod.snd).getD (st.reg q u) else st.reg q u := by
  induction xs generalizing st with
  | nil => exact (ite_self _).symm
  | cons x xs ih =>
    rw [List.foldl_cons, ih _ fun y hy => hx y (List.mem_cons_of_mem _ hy), Strand.reg_setReg _ _ _ _ _ _ (hx x List.mem_cons_self) hu,
      List.reverse_cons, List.find?_append]
    by_cases hq : q = n ∧ q ≠ 0
    · rw [if_pos hq, if_pos hq]
      cases hfind : xs.reverse.find? fun x => x.1 = u with
      | some y => rfl
      | none =>
        by_cases hxu : x.1 = u
        · simp [hxu, hq.1, hq.1 ▸ hq.2]
        · simp [hxu, Ne.symm hxu]
    · rw [if_neg hq, if_neg hq, if_neg fun ⟨hn, hqn, _⟩ => hq ⟨hqn, hqn ▸ hn⟩]

theorem Strand.foldl_setReg_keeps {α : Type} (g : Strand → α) (hg : ∀ st n t v, g (Strand.setReg st n t v) = g st) (n : Nat) (xs : List (Nat × Word))
    (st : Strand) : g (xs.foldl (fun st v => st.setReg n v.1 v.2) st) = g st := by
  induction xs generalizing st with
  | nil => rfl
  | cons x xs ih => exact (ih _).trans (hg ..)

theorem Strand.setReg_inbound (st : Strand) (n u : Nat) (v : Word) : (st.setReg n u v).inbound = st.inbound := by
  have h := congrArg Strand.inbound (Strand.setReg_aside st n u v).1
  exact h

/-- R321: what a result that returns leaves of its strand. -/
theorem Strand.returned_keeps (st : Strand) (n : Nat) (r : Inbound) :
    (st.returned n r).inbound = st.inbound.eraseIdx n ∧ (st.returned n r).sstat = st.sstat ∧
      (st.returned n r).splits = st.splits.map fun k => k.scored r.reg (Mask.ofTest fun t => r.vals.any fun v => v.1 = t) :=
  ⟨Strand.foldl_setReg_keeps Strand.inbound Strand.setReg_inbound _ _ _,
   Strand.foldl_setReg_keeps Strand.sstat (fun st n t v => (Strand.setReg_aside st n t v).2.2) _ _ _,
   congrArg (List.map _) (Strand.foldl_setReg_keeps Strand.splits (fun st n t v => (Strand.setReg_aside st n t v).2.1) _ _ _)⟩

theorem Strand.reg_returned (st : Strand) (n : Nat) {r : Inbound} (hr : ∀ x ∈ r.vals, x.1 < 32) (q : Nat) {u : Nat} (hu : u < 32) :
    (st.returned n r).reg q u =
      if q = r.reg ∧ q ≠ 0 then ((r.vals.reverse.find? fun x => x.1 = u).map Prod.snd).getD (st.reg q u) else st.reg q u :=
  Strand.reg_foldl_setReg { st with inbound := st.inbound.eraseIdx n } r.reg r.vals hr q hu

/-- R314: a result that returns leaves SCORE in its threads, and its splits go on where they were. -/
theorem Strand.split_returned (st : Strand) (n : Nat) (r : Inbound) (j : Nat) :
    ((st.returned n r).split j).pc = (st.split j).pc ∧ ((st.returned n r).split j).exm = (st.split j).exm ∧
      ∀ x ∈ ((st.returned n r).split j).score, x.reg = r.reg → ∀ v ∈ r.vals, v.1 < 32 → x.mask.getLsbD v.1 = false := by
  obtain ⟨-, -, hs⟩ := Strand.returned_keeps st n r
  unfold Strand.split
  rw [hs, List.getD_eq_getElem?_getD, List.getD_eq_getElem?_getD, List.getElem?_map]
  cases st.splits[j]? with
  | none => exact ⟨rfl, rfl, fun x hx => absurd hx List.not_mem_nil⟩
  | some k =>
    refine ⟨rfl, rfl, fun x hx hreg v hv h32 => ?_⟩
    have hm := congrArg (·.getLsbD v.1) ((Split.mem_scored hx).1 hreg)
    have hbit : (Mask.ofTest fun t => r.vals.any fun v => v.1 = t).getLsbD v.1 = true := by
      rw [getLsbD_ofTest, decide_eq_true h32, Bool.true_and]
      exact List.any_eq_true.mpr ⟨v, hv, decide_eq_true rfl⟩
    simpa [BitVec.getLsbD_and, hbit] using hm

theorem Only.spoilReturn {w : Who} {s t : State} {st : Strand} (h : Only w s t st) (v : Who) (r : Inbound) : Only w s (t.spoilReturn v r) st := by
  unfold State.spoilReturn
  split
  · rename_i team n _
    generalize r.vals = xs
    induction xs generalizing t with
    | nil => exact h
    | cons x xs ih => exact ih ⟨by rw [State.strand?_spoilTask, h.strand], by rw [State.elsewhere_spoilTask, h.rest]⟩
  · exact h

theorem resultReturn_returns {s : State} {st : Strand} (h : s.strand? s.focus = some st) (hi : st.inbound ≠ []) :
    ∃ t n r, exec .resultReturn s = .next t ∧ st.inbound[n]? = some r ∧ Only s.focus s t (st.returned n r) := by
  have hlt : Config.pick s.oracle % st.inbound.length < st.inbound.length := Nat.mod_lt _ (List.length_pos_iff.mpr hi)
  obtain ⟨r, hr⟩ : ∃ r, st.inbound[Config.pick s.oracle % st.inbound.length]? = some r := ⟨_, List.getElem?_eq_getElem hlt⟩
  refine ⟨_, _, r, ?_, hr, (((Only.refl h).bump.spend 1).spoilReturn s.focus r).mapStrand fun st => st.returned _ r⟩
  rw [exec_resultReturn]
  unfold execResultReturn
  rw [h]
  dsimp only
  rw [hr]

/-! ### The statement -/

/-- R225: a request of this device that may be performed meets the home's directory, with nothing else changed that a write looks at. -/
theorem homeWriteRequest_here {s : State} {k : Nat} {op : WriteOp} (h : look s.out k = some op) (hp : s.mayPerform k op = true)
    (hd : lineDev op.line = s.dev) :
    ∃ u : State, exec (.homeWriteRequest k) s = .next (u.takeWrite k op) ∧ u.out = unlist s.out k ∧ u.mem = s.mem ∧ u.dies = s.dies ∧
      u.lcs = s.lcs ∧ u.poison = s.poison ∧ ∀ pa n, u.ownedByZ4 pa n = s.ownedByZ4 pa n := by
  obtain ⟨cs, hr, ho⟩ := requested_eq s k op
  refine ⟨s.requested k op, ?_, ?_⟩
  · rw [homeWriteRequest_takes h hp, if_neg (not_not_intro hd)]
  · rw [hr] at ho ⊢
    exact ⟨rfl, rfl, rfl, rfl, rfl, ho⟩

theorem sharers_congr {s t : State} (hd : t.dies = s.dies) (hl : t.lcs = s.lcs) (line : Nat) : t.sharers line = s.sharers line := by
  unfold State.sharers
  rw [hd, hl]

theorem die_congr {s t : State} (hd : t.dies = s.dies) (d : Nat) : t.die d = s.die d := by
  unfold State.die
  rw [hd]

theorem homeWriteRequest_merges {s : State} {k : Nat} {op : WriteOp} (h : look s.out k = some op) (hp : s.mayPerform k op = true)
    (hd : lineDev op.line = s.dev) (hs : s.sharers op.line = []) (hr : ∀ d, (s.die d).ranges = []) :
    ∃ t, exec (.homeWriteRequest k) s = .next t ∧
      (op.atomic = none → t.out = unlist s.out k ∧ ∀ a, byteAt t.mem a =
        if linePa op.line ≤ a ∧ op.mask.getLsbD (a - linePa op.line) = true then dataByte op.data (a - linePa op.line) else byteAt s.mem a) ∧
      ∀ x, op.atomic = some x → s.poisoned x.pa x.bytes = false → s.fencedAt x.pa = false → s.ownedByZ4 x.pa x.bytes = false →
        x.pa / 128 < 2 ^ 33 → x.pa % 128 + x.bytes ≤ 128 → x.load = none →
        (∀ v, x.written (leNat (bytesAt s.mem x.pa x.bytes)) = some v → ∀ a, byteAt t.mem a =
          if x.pa ≤ a ∧ a < x.pa + x.bytes then (leBytes x.bytes v).getD (a - x.pa) 0 else byteAt s.mem a) ∧
        (x.written (leNat (bytesAt s.mem x.pa x.bytes)) = none → ∀ a, byteAt t.mem a = byteAt s.mem a) := by
  obtain ⟨u, hx, hout, hmem, hdies, hlcs, hpoison, hown⟩ := homeWriteRequest_here h hp hd
  have hs' := (sharers_congr hdies hlcs op.line).trans hs
  have hr' (d : Nat) : (u.die d).ranges = [] := by rw [die_congr hdies, hr]
  refine ⟨_, hx, fun ha => ?_, fun x ha hpo hf ho hpa hb hl => ?_⟩
  · obtain ⟨hto, -, htm⟩ := takeWrite_writes (k := k) hs' hr' ha
    rw [hmem] at htm
    exact ⟨hto.trans hout, htm⟩
  · have hpo' : u.poisoned x.pa x.bytes = false := by rw [← hpo]; unfold State.poisoned; rw [hpoison]
    have hf' : u.fencedAt x.pa = false := by rw [← hf]; unfold State.fencedAt; rw [die_congr hdies]
    have ho' : ({ u with held := unlist u.held k } : State).ownedByZ4 x.pa x.bytes = false := (hown _ _).trans ho
    rw [takeWrite_atomic hs' hr' ha hpo' hf' hl, ← hmem]
    exact ⟨fun v hv => atomicAt_writes (s := { u with held := unlist u.held k }) ho' hpa hb hv,
      fun hv a => congrArg (byteAt · a) (atomicAt_leaves (s := { u with held := unlist u.held k }) ho' hv)⟩

theorem homeWriteRequest_holds {s : State} {k : Nat} {op : WriteOp} (h : look s.out k = some op) (hp : s.mayPerform k op = true)
    (hd : lineDev op.line = s.dev) (hs : s.sharers op.line ≠ []) :
    ∃ t, exec (.homeWriteRequest k) s = .next t ∧ look t.held k = some { op with awaits := s.sharers op.line, silent := [] } ∧
      ∀ a, linePa op.line ≠ a / 128 * 128 → byteAt t.mem a = byteAt s.mem a := by
  obtain ⟨u, hx, -, hmem, hdies, hlcs, -, -⟩ := homeWriteRequest_here h hp hd
  have hs' := sharers_congr hdies hlcs op.line
  obtain ⟨hh, hb⟩ := takeWrite_holds (s := u) (k := k) (op := op) (hs' ▸ hs)
  rw [hs'] at hh
  rw [hmem] at hb
  exact ⟨_, hx, hh, hb⟩

/-- R233: a request for another device leaves as a packet. -/
theorem homeWriteRequest_leaves {s : State} {k : Nat} {op : WriteOp} (h : look s.out k = some op) (hp : s.mayPerform k op = true)
    (hd : lineDev op.line ≠ s.dev) :
    ∃ (t : State) (r : RemoteOp), exec (.homeWriteRequest k) s = .next t ∧ look t.remote s.txn = some r ∧ r.dev = lineDev op.line ∧
      r.line = op.line ∧ r.type = 3 ∧ r.atomic = op.atomic ∧ r.mask = op.mask ∧ r.ord = op.ord ∧ r.sc = op.sc ∧ t.mem = s.mem := by
  obtain ⟨cs, hr, -⟩ := requested_eq s k op
  have hx := (homeWriteRequest_takes h hp).trans (if_pos hd)
  rw [hr] at hx
  exact ⟨_, _, hx, look_place_self _ _ _, rfl, rfl, rfl, rfl, rfl, rfl, rfl, rfl⟩

theorem homeRead_serves {s : State} {k : Nat} {u : ReadUnit} {l : LoadOp} {st : Strand} (h : look s.reads k = some u) (ht : u.txn = none)
    (hm : s.mayRead k u = true) (hd : lineDev u.line = s.dev)
    (hu : u.fill = none ∨ ((∃ c, u.agent = .wide c) ∧ look (s.die u.agent.die).rdc u.line = none)) (hn : u.bytes ≠ 0) (hpos : u.pos + u.bytes ≤ 128)
    (hp : s.poisoned (linePa u.line + u.pos) u.bytes = false) (hf : s.fencedAt (linePa u.line) = false) (hr : ∀ d, (s.die d).ranges = [])
    (hl : look s.loads u.load = some l) (h1 : l.left = 1) (hfail : l.failed = none) (ha : l.acq = none) (hreg : l.reg ≠ 0) (hb : l.bytes = [])
    (ho : u.off = 0) (hst : s.strand? l.who = some st) (hth : ∀ v < 32, l.mask.getLsbD v = true → v = u.thread ∧ st.live.getLsbD v = true) :
    ∃ (t : State) (st' : Strand), exec (.homeRead k) s = .next t ∧ t.mem = (s.homeRead (linePa u.line) 128).1.mem ∧ look t.reads k = none ∧
      look t.loads u.load = none ∧ t.strand? l.who = some st' ∧ st'.regs = st.regs ∧ st'.sstat = st.sstat ∧
      st'.inbound = st.inbound ++ (List.range l.w.regs).map fun j =>
        { reg := l.reg + j, vals := (Mask.threads l.mask).map fun v => (v, accessWord l.w l.sx (bytesAt t.mem (linePa u.line + u.pos) u.bytes) j) } := by
  obtain ⟨cs, hserve⟩ := readHere_serves (s := s.bump) (k := k) (hu.imp_right And.right) hp hf hr
  generalize hv : ({ s.bump with ctxs := cs } : State) = v at hserve
  obtain ⟨hvmem, hvlcs, hvdev⟩ : v.mem = s.mem ∧ v.lcs = s.lcs ∧ v.dev = s.dev := by
    subst hv
    exact ⟨rfl, rfl, rfl⟩
  have hmem := homeRead_mem_congr hvmem hvlcs hvdev u.line
  have hloads : (v.homeRead (linePa u.line) 128).1.loads = s.loads := by
    rw [homeRead_line, recall_keeps State.loads (fun _ _ _ => rfl) (fun _ _ _ => rfl), ← hv]
    rfl
  have hvst : v.strand? l.who = some st := by
    subst hv
    exact (State.strand?_congr (s := s) rfl rfl _).trans hst
  obtain ⟨st₁, hst₁, halike⟩ := (unmoved_homeRead v (linePa u.line) 128).strand hvst
  obtain ⟨htm, htr, htl, hts⟩ := serve_finishes (k := k) (hu.imp_right And.left) hn ((congrArg (look · u.load) hloads).trans hl) h1 hfail ha hreg hst₁
    (dataOf (v.homeRead (linePa u.line) 128).2) ((v.homeRead (linePa u.line) 128).1.goodBytes (linePa u.line)) true
  have hlive : st₁.live = st.live := Strand.keeps_of_unwatched Strand.live (fun _ _ => rfl) halike
  have hbytes : lineData (dataOf (v.homeRead (linePa u.line) 128).2) u.pos u.bytes =
      bytesAt (v.homeRead (linePa u.line) 128).1.mem (linePa u.line + u.pos) u.bytes := by
    rw [homeRead_line]
    exact lineData_dataOf _ _ hpos
  have hx := (homeRead_goes h ht hm).trans (if_pos hd)
  rw [hserve] at hx
  have hdue := Strand.due_of_unwatched halike
  have hin : st₁.inbound = st.inbound := hdue.inbound.trans (List.append_nil _)
  refine ⟨_, _, hx, htm.trans hmem, htr, htl, hts, hdue.regs, hdue.sstat, ?_⟩
  dsimp only
  rw [hin, sent_land hb ho (hlive ▸ hth), hbytes, htm]

theorem homeRead_asks {s : State} {k : Nat} {u : ReadUnit} (h : look s.reads k = some u) (ht : u.txn = none) (hm : s.mayRead k u = true)
    (hd : lineDev u.line ≠ s.dev) (hf : u.fill ≠ some true) :
    ∃ (t : State) (r : RemoteOp), exec (.homeRead k) s = .next t ∧ look t.remote s.txn = some r ∧ r.dev = lineDev u.line ∧ r.line = u.line ∧
      r.type = 1 ∧ r.read = some k ∧ t.mem = s.mem := by
  obtain ⟨r, hr⟩ := readFar_asks hf s.bump k
  exact ⟨_, r, (homeRead_goes h ht hm).trans (if_neg hd), hr⟩

/-- Settles O34: each event is its home's equation (`takeWrite_writes`, `takeWrite_holds`, `readHere_serves`, `Strand.returned`), applied to a
state that differs from the first one in what no write or read looks at. -/
theorem homeAccesses : Obligations.HomeAccesses := by
  unfold Obligations.HomeAccesses
  refine ⟨⟨fun s k => homeWriteRequest_waits, fun s k op h hp hd hs hr => ?_, fun s k op => homeWriteRequest_holds,
    fun s k op => homeWriteRequest_leaves, fun s k cache op => invalidation_drops, fun s k op h hack hp hs ha hr => ?_⟩,
    fun s k => homeRead_waits,
    fun s k u l st h ht hm hd hu hn hpos hp hf hr hl h1 hfail ha hreg hb ho _ hst hth =>
      homeRead_serves h ht hm hd hu hn hpos hp hf hr hl h1 hfail ha hreg hb ho hst hth,
    fun s k u => homeRead_asks, fun s st h hi => ?_⟩
  · obtain ⟨t, ht, hplain, hatomic⟩ := homeWriteRequest_merges h hp hd hs hr
    refine ⟨t, ht, hplain, fun x hx hpo hf ho hpa hb hl a => ?_⟩
    obtain ⟨hsome, hnone⟩ := hatomic x hx hpo hf ho hpa hb hl
    split
    · exact hsome _ ‹_› a
    · exact hnone ‹_› a
  · obtain ⟨-, hheld, hbytes⟩ := takeWrite_writes (s := s.bump) (k := k) hs hr ha
    exact ⟨_, invalidationAck_takes h hack hp, hheld, hbytes⟩
  · obtain ⟨t, n, r, ht, hr, ho⟩ := resultReturn_returns h hi
    obtain ⟨hin, hstat, -⟩ := Strand.returned_keeps st n r
    refine ⟨t, _, n, r, ht, hr, ho.strand, hin, hstat, ho.rest, fun a => by rw [State.mem_of_elsewhere ho.rest], fun hx q u hu => ?_,
      Strand.split_returned st n r⟩
    rw [Strand.reg_returned st n hx q hu]
    cases r.vals.reverse.find? fun x => x.1 = u <;> rfl

end Sys2Proof.Machine
